-- ==== Sys2Proof/Word.lean ====
section
/-! DEFINITION. The word types of the D9 (00_scope.md R3, R5) and their names. -/

namespace Sys2Proof

/-- A byte of memory (R3). -/
abbrev Byte := BitVec 8
/-- A 32-bit register value (R57). -/
abbrev Word := BitVec 32
/-- A 64-bit value: a register pair or a tagged pointer (R58, R95). -/
abbrev DWord := BitVec 64
/-- A register field of an instruction: an index 0 to 255 (R125). -/
abbrev RegField := BitVec 8

end Sys2Proof
end

