-- ==== Sys2Proof/Machine/Bits.lean ====
section
/-! DEFINITION. Plain helpers over bits, bytes and lists that every other part uses: little-endian values (R3), bit
slices, sign readings, wrapping and saturation (R71), and folding for the signatures (R134). -/

namespace Sys2Proof.Machine

/-- The number whose little-endian bytes are `bs` (R3). -/
def leNat : List Byte → Nat
  | [] => 0
  | b :: bs => b.toNat + 256 * leNat bs

/-- The `n` little-endian bytes of `v` (R3). -/
def leBytes : Nat → Nat → List Byte
  | 0, _ => []
  | n + 1, v => BitVec.ofNat 8 v :: leBytes n (v / 256)

/-- Bits lo + len − 1 to lo of a number. -/
def bits (v lo len : Nat) : Nat := v / 2 ^ lo % 2 ^ len

/-- Bit i of a number as a Boolean. -/
def bitAt (v i : Nat) : Bool := v / 2 ^ i % 2 == 1

/-- `sint(x, w)` (R71). -/
def sint (x w : Nat) : Int := if x % 2 ^ w < 2 ^ (w - 1) then (x % 2 ^ w : Nat) else (x % 2 ^ w : Nat) - (2 ^ w : Nat)

/-- `wrap(v, w)` (R71). -/
def wrap (v : Int) (w : Nat) : Nat := (v % (2 ^ w : Nat)).toNat

/-- `sat_s(v, w)` (R71): the clamped value. -/
def satS (v : Int) (w : Nat) : Int :=
  let hi : Int := (2 ^ (w - 1) : Nat)
  if v ≥ hi then hi - 1 else if v < -hi then -hi else v

/-- `sat_z(v, w)` (R71): the clamped value. -/
def satZ (v : Int) (w : Nat) : Int :=
  let hi : Int := (2 ^ w : Nat)
  if v ≥ hi then hi - 1 else if v < 0 then 0 else v

/-- `fold16` (R134). -/
def fold16 (w : Nat) : BitVec 16 := BitVec.ofNat 16 (w / 65536) ^^^ BitVec.ofNat 16 w

/-- A 32-bit word from two 16-bit halves or more generally a number cut to 32 bits. -/
def word (v : Nat) : Word := BitVec.ofNat 32 v

/-- The element at an index, or a default. -/
def nth {α : Type} (d : α) (l : List α) (i : Nat) : α := l.getD i d

/-- `l` with the element at index i replaced by `f` of it. -/
def upd {α : Type} (l : List α) (i : Nat) (f : α → α) : List α := l.modify i f

/-- The list without the first element that satisfies `p`. -/
def dropFirst {α : Type} (p : α → Bool) : List α → List α
  | [] => []
  | x :: xs => if p x then xs else x :: dropFirst p xs

/-- A finite map kept as a list of pairs: what stands under a key. -/
def aget {α : Type} (k : Nat) : List (Nat × α) → Option α
  | [] => none
  | (k', v) :: m => if k' = k then some v else aget k m

/-- The map with `v` under `k`, keys rising. -/
def aset {α : Type} (k : Nat) (v : α) : List (Nat × α) → List (Nat × α)
  | [] => [(k, v)]
  | (k', v') :: m => if k < k' then (k, v) :: (k', v') :: m else if k = k' then (k, v) :: m else (k', v') :: aset k v m

/-- The map without key `k`. -/
def adel {α : Type} (k : Nat) (m : List (Nat × α)) : List (Nat × α) := m.filter (fun p => p.1 ≠ k)

/-- A set of numbers kept as a rising list: with `k`. -/
def sadd (k : Nat) : List Nat → List Nat
  | [] => [k]
  | x :: xs => if k < x then k :: x :: xs else if k = x then x :: xs else x :: sadd k xs

/-- The set without `k`. -/
def sdel (k : Nat) (l : List Nat) : List Nat := l.filter (· ≠ k)

/-- The least element of a list of numbers. -/
def minNat? : List Nat → Option Nat
  | [] => none
  | x :: xs => match minNat? xs with
    | none => some x
    | some y => some (min x y)

/-- The first number from `lo` on, at most `n` of them, that satisfies `p`. -/
def firstFrom (p : Nat → Bool) : Nat → Nat → Option Nat
  | _, 0 => none
  | lo, n + 1 => if p lo then some lo else firstFrom p (lo + 1) n

end Sys2Proof.Machine
end

