-- ==== Sys2Proof/Machine/Crypto.lean ====
section
/-! DEFINITION. SHA-512 and Ed25519, which R384 and R385 name and do not describe: as FIPS 180-4 and RFC 8032 give them
(PRESUMED, log entry 22). -/

namespace Sys2Proof.Machine

/-! ## SHA-512 -/

/-- The greatest r below 2^n + lo with `f r` not above x, found bit by bit. -/
def rootFrom (f : Nat → Nat) (x : Nat) : Nat → Nat → Nat
  | 0, r => r
  | n + 1, r => rootFrom f x n (if f (r + 2 ^ n) ≤ x then r + 2 ^ n else r)
/-- A number has no divisor from 2 to itself less 1. -/
def isPrime (n : Nat) : Bool := decide (2 ≤ n) && (List.range (n - 2)).all (fun i => decide (n % (i + 2) ≠ 0))
/-- The first 80 primes. -/
def shaPrimes : List Nat := (List.range 410).filter isPrime
/-- The initial hash value: 64 bits of the fractions of the square roots of the first eight primes. -/
def shaInit : List (BitVec 64) := (shaPrimes.take 8).map (fun p => BitVec.ofNat 64 (rootFrom (fun r => r * r) (p * 2 ^ 128) 70 0))
/-- The round constants: 64 bits of the fractions of the cube roots of the first 80 primes. -/
def shaConst : List (BitVec 64) := (shaPrimes.take 80).map (fun p => BitVec.ofNat 64 (rootFrom (fun r => r * r * r) (p * 2 ^ 192) 70 0))

/-- The message schedule: the sixteen words of a block and 64 more, newest first. -/
def shaSchedule : Nat → List (BitVec 64) → List (BitVec 64)
  | 0, w => w
  | n + 1, w =>
    let g := fun i => nth 0 w i
    let s0 := (g 14).rotateRight 1 ^^^ (g 14).rotateRight 8 ^^^ (g 14) >>> 7
    let s1 := (g 1).rotateRight 19 ^^^ (g 1).rotateRight 61 ^^^ (g 1) >>> 6
    shaSchedule n ((s1 + g 6 + s0 + g 15) :: w)
/-- One round on the eight working variables. -/
def shaRound (v : List (BitVec 64)) (kw : BitVec 64) : List (BitVec 64) :=
  match v with
  | [a, b, c, d, e, f, g, h] =>
    let s1 := e.rotateRight 14 ^^^ e.rotateRight 18 ^^^ e.rotateRight 41
    let ch := (e &&& f) ^^^ (~~~e &&& g)
    let t1 := h + s1 + ch + kw
    let s0 := a.rotateRight 28 ^^^ a.rotateRight 34 ^^^ a.rotateRight 39
    let mj := (a &&& b) ^^^ (a &&& c) ^^^ (b &&& c)
    [t1 + (s0 + mj), a, b, c, d + t1, e, f, g]
  | _ => v
/-- The big-endian number of bytes. -/
def beNat (bs : List Byte) : Nat := bs.foldl (fun n b => 256 * n + b.toNat) 0
/-- One block of 128 bytes. -/
def shaBlock (h : List (BitVec 64)) (bs : List Byte) : List (BitVec 64) :=
  let w := (List.range 16).map (fun i => BitVec.ofNat 64 (beNat ((bs.drop (8 * i)).take 8)))
  let ws := (shaSchedule 64 w.reverse).reverse
  let v := (shaConst.zip ws).foldl (fun v x => shaRound v (x.1 + x.2)) h
  (h.zip v).map (fun x => x.1 + x.2)
/-- Blocks one after another. -/
def shaBlocks : Nat → List Byte → List (BitVec 64) → List (BitVec 64)
  | 0, _, h => h
  | n + 1, bs, h => shaBlocks n (bs.drop 128) (shaBlock h (bs.take 128))
/-- The SHA-512 digest of bytes, 64 bytes. -/
def sha512 (m : List Byte) : List Byte :=
  let pad := (239 - m.length % 128) % 128
  let bs := m ++ 0x80 :: List.replicate pad 0 ++ (leBytes 16 (8 * m.length)).reverse
  (shaBlocks (bs.length / 128) bs shaInit).flatMap (fun x => (leBytes 8 x.toNat).reverse)

/-! ## Ed25519 -/

/-- The field's prime. -/
def edP : Nat := 2 ^ 255 - 19
/-- The group's order. -/
def edL : Nat := 2 ^ 252 + 27742317777372353535851937790883648493
/-- x to the power e modulo the prime, e below 2^n. -/
def edPow (x e : Nat) : Nat → Nat
  | 0 => 1
  | n + 1 => let r := edPow x (e / 2) n; let q := r * r % edP; if e % 2 = 1 then q * x % edP else q
/-- The inverse modulo the prime. -/
def edInv (x : Nat) : Nat := edPow x (edP - 2) 256
/-- The curve's constant d. -/
def edD : Nat := (edP - 121665) * edInv 121666 % edP
/-- A point in extended coordinates X, Y, Z, T. -/
structure EdPt where
  x : Nat
  y : Nat
  z : Nat
  t : Nat
  deriving DecidableEq, Repr
/-- The neutral point. -/
def EdPt.zero : EdPt := ⟨0, 1, 1, 0⟩
/-- The sum of two points. -/
def EdPt.add (p q : EdPt) : EdPt :=
  let a := (p.y + edP - p.x) * (q.y + edP - q.x) % edP
  let b := (p.y + p.x) * (q.y + q.x) % edP
  let c := 2 * p.t * q.t * edD % edP
  let d := 2 * p.z * q.z % edP
  let e := (b + edP - a) % edP
  let f := (d + edP - c) % edP
  let g := (d + c) % edP
  let h := (b + a) % edP
  ⟨e * f % edP, g * h % edP, f * g % edP, e * h % edP⟩
/-- A multiple of a point, k below 2^n. -/
def EdPt.mul (p : EdPt) (k : Nat) : Nat → EdPt
  | 0 => EdPt.zero
  | n + 1 => let r := p.mul (k / 2) n; let q := r.add r; if k % 2 = 1 then q.add p else q
/-- Two points are the same. -/
def EdPt.same (p q : EdPt) : Bool := (p.x * q.z) % edP == (q.x * p.z) % edP && (p.y * q.z) % edP == (q.y * p.z) % edP
/-- The x of a point by its y and the parity of x; none where there is no such point. -/
def edX (y sign : Nat) : Option Nat :=
  if y ≥ edP then none
  else
    let x2 := (y * y % edP + edP - 1) * edInv (edD * (y * y) + 1) % edP
    if x2 = 0 then (if sign = 1 then none else some 0)
    else
      let x := edPow x2 ((edP + 3) / 8) 256
      let x := if x * x % edP = x2 then x else x * edPow 2 ((edP - 1) / 4) 256 % edP
      if x * x % edP ≠ x2 then none
      else if x % 2 = sign then some x else some (edP - x)
/-- The base point. -/
def edBase : EdPt :=
  let y := 4 * edInv 5 % edP
  let x := (edX y 0).getD 0
  ⟨x, y, 1, x * y % edP⟩
/-- A point from its 32 bytes. -/
def edDecode (bs : List Byte) : Option EdPt :=
  let v := leNat bs
  let y := v % 2 ^ 255
  (edX y (v / 2 ^ 255)).map (fun x => ⟨x, y, 1, x * y % edP⟩)
/-- The 32 bytes of a point. -/
def edEncode (p : EdPt) : List Byte :=
  let zi := edInv p.z
  leBytes 32 (p.y * zi % edP + 2 ^ 255 * (p.x * zi % edP % 2))
/-- A signature of 64 bytes by a key of 32 bytes on a message is valid. -/
def edVerify (key msg sig : List Byte) : Bool :=
  let sv := leNat (sig.drop 32)
  match edDecode key, edDecode (sig.take 32) with
  | some a, some r =>
    let h := leNat (sha512 (sig.take 32 ++ key ++ msg)) % edL
    decide (sv < edL) && (edBase.mul sv 256).same (r.add (a.mul h 256))
  | _, _ => false
/-- The secret scalar and prefix of a seed of 32 bytes. -/
def edExpand (seed : List Byte) : Nat × List Byte :=
  let h := sha512 seed
  let a := leNat (h.take 32)
  (a % 2 ^ 254 / 8 * 8 + 2 ^ 254, h.drop 32)
/-- The public key of a seed. -/
def edPublic (seed : List Byte) : List Byte := edEncode (edBase.mul (edExpand seed).1 256)
/-- The signature on a message by the key of a seed. -/
def edSign (seed msg : List Byte) : List Byte :=
  let x := edExpand seed
  let pub := edPublic seed
  let r := leNat (sha512 (x.2 ++ msg)) % edL
  let rb := edEncode (edBase.mul r 256)
  let k := leNat (sha512 (rb ++ pub ++ msg)) % edL
  rb ++ leBytes 32 ((r + k * x.1) % edL)

end Sys2Proof.Machine
end

