-- ==== Sys2Proof/Syntax.lean ====
section
/-! DEFINITION. The abstract syntax: the shapes in which an instruction carries its fields (07_encoding.md, Tables 7-1
and 7-5 to 7-10), the operands of the device steps, and `Instr`, one constructor for each row of the opcode table. -/

namespace Sys2Proof

/-- The fields of the base word that every instruction has: class, stall, yield bit, hold bits (or the live-count code
of a yield point) and the two guards (Table 7-1, R126 to R128). -/
structure Hdr where
  cls : BitVec 2
  stall : BitVec 4
  y : Bool
  hold : BitVec 3
  g1 : BitVec 7
  g2 : BitVec 7
  deriving DecidableEq, Repr

/-- Source b: a register, or the 32-bit immediate of form I (Table 7-5). -/
inductive Src where
  | reg (r : RegField)
  | imm (w : Word)
  deriving DecidableEq, Repr

/-- The shape of an instruction of 64 bits, or of 96 bits in form I. `m` is the `mod` field. -/
structure Alu where
  h : Hdr
  m : BitVec 4
  vd : RegField
  va : RegField
  b : Src
  deriving DecidableEq, Repr

/-- The shape of form S (Table 7-6). -/
structure Ter where
  h : Hdr
  m : BitVec 4
  vd : RegField
  va : RegField
  vb : RegField
  vc : RegField
  x8 : Byte
  x4 : BitVec 4
  tg : BitVec 4
  deriving DecidableEq, Repr

/-- The shape of form T, the control instructions (Table 7-9). -/
structure Ctl where
  h : Hdr
  vd : RegField
  va : RegField
  k : BitVec 7
  off : Word
  sigx : BitVec 16
  deriving DecidableEq, Repr

/-- The shape of form W (Table 7-10). -/
structure Wide where
  h : Hdr
  m : BitVec 4
  vd : RegField
  imm : DWord
  deriving DecidableEq, Repr

/-- `NOP`, whose length code is 1, 2 or 3 (R162). -/
structure NopF where
  h : Hdr
  len : BitVec 2
  deriving DecidableEq, Repr

/-- The extension of form M (Table 7-8). -/
structure MExt where
  off : Word
  hint : BitVec 2
  pol : BitVec 2
  tg : BitVec 4
  scope : BitVec 3
  ord : BitVec 3
  vc : RegField
  deriving DecidableEq, Repr

/-- The shape of a memory instruction: 64 bits (no extension) or form M. -/
structure Mem where
  h : Hdr
  m : BitVec 4
  vd : RegField
  va : RegField
  vb : RegField
  ext : Option MExt
  deriving DecidableEq, Repr

/-- The shape of `MMA`, form X (Table 11-3). -/
structure MmaF where
  h : Hdr
  vd : RegField
  va : RegField
  vb : RegField
  clr : Bool
  acc32 : Bool
  nsz : BitVec 2
  deriving DecidableEq, Repr

/-- The shape of `XC`, form C, its function apart (Table 7-7). -/
structure XcF where
  h : Hdr
  vd : RegField
  va : RegField
  vb : RegField
  rep : Bool
  deriving DecidableEq, Repr

/-- What every Igael command carries: its queue and ring index, tag, completion record address (0: none) and fence bit
(Table 27-1). -/
structure CmdHdr where
  q : Nat
  ix : Nat
  tag : Nat
  crec : Nat
  fence : Bool
  deriving DecidableEq, Repr

/-- A difference the array made in one row of one pass of a matrix instruction (R289, R290): an input of the step. -/
structure RowUpset where
  pass : Nat
  row : Nat
  persist : Bool
  deriving DecidableEq, Repr

/-- An error of the register file found by a scrub (R292): `corr` when it is correctable. -/
structure RegUpset where
  t : Nat
  strand : Nat
  reg : Nat
  corr : Bool
  deriving DecidableEq, Repr

/-- What the peers of a collective or transfer answered: a status of Table 11-6 and, rank by rank, their bytes. -/
structure PeerReply where
  st : Nat
  parts : List (List Byte)
  deriving DecidableEq, Repr

/-- A device event for a host (R382). -/
structure HostEvt where
  kind : Nat
  q : Nat
  ctx : Nat
  detail : List Byte
  deriving DecidableEq, Repr

/-- What every coherence message from an agent to a home carries: the agent and its epoch (R326). -/
structure MsgHdr where
  agent : Nat
  epoch : Byte
  deriving DecidableEq, Repr

/-- What every coherence message from a home to a die's port carries: the die, and the epoch its home holds for it (R326). -/
structure DieHdr where
  die : Nat
  epoch : Byte
  deriving DecidableEq, Repr

/-- What a home grants to a die port (Table 18-6). -/
inductive GrantKind where
  | exact
  | rounded
  | m
  | t
  deriving DecidableEq, Repr

/-- The RDMA operations the device carries (R389). -/
inductive RdmaKind where
  | write
  | writeImm
  | read
  deriving DecidableEq, Repr

/-- One constructor for each row of spec/opcode_table.json: the instructions of Table 12-5 (`XC` by function) and the
device steps. -/
inductive Instr where
  /-- IADD (R141). -/
  | iadd (a : Alu)
  /-- ISUB (R141). -/
  | isub (a : Alu)
  /-- IADDS (R141). -/
  | iadds (a : Alu)
  /-- ISUBS (R141). -/
  | isubs (a : Alu)
  /-- INEG (R141). -/
  | ineg (a : Alu)
  /-- IABS (R141). -/
  | iabs (a : Alu)
  /-- IMIN (R141). -/
  | imin (a : Alu)
  /-- IMAX (R141). -/
  | imax (a : Alu)
  /-- UMIN (R141). -/
  | umin (a : Alu)
  /-- UMAX (R141). -/
  | umax (a : Alu)
  /-- IMUL (R141). -/
  | imul (a : Alu)
  /-- IMULHI (R141). -/
  | imulhi (a : Alu)
  /-- UMULHI (R141). -/
  | umulhi (a : Alu)
  /-- IMAD (R141). -/
  | imad (a : Ter)
  /-- IDIV (R142). -/
  | idiv (a : Alu)
  /-- UDIV (R142). -/
  | udiv (a : Alu)
  /-- IREM (R142). -/
  | irem (a : Alu)
  /-- UREM (R142). -/
  | urem (a : Alu)
  /-- AND (R143). -/
  | andI (a : Alu)
  /-- OR (R143). -/
  | orI (a : Alu)
  /-- XOR (R143). -/
  | xorI (a : Alu)
  /-- ANDN (R143). -/
  | andn (a : Alu)
  /-- SHL (R143). -/
  | shl (a : Alu)
  /-- SHR (R143). -/
  | shr (a : Alu)
  /-- SAR (R143). -/
  | sar (a : Alu)
  /-- ROL (R143). -/
  | rol (a : Alu)
  /-- ROR (R143). -/
  | ror (a : Alu)
  /-- BFX (R144). -/
  | bfx (a : Ter)
  /-- BFI (R144). -/
  | bfi (a : Ter)
  /-- POPC (R143). -/
  | popc (a : Alu)
  /-- CLZ (R143). -/
  | clz (a : Alu)
  /-- CTZ (R143). -/
  | ctz (a : Alu)
  /-- BREV (R143). -/
  | brev (a : Alu)
  /-- PERMB (R145). -/
  | permb (a : Alu)
  /-- ICMP (R146). -/
  | icmp (a : Alu)
  /-- UCMP (R146). -/
  | ucmp (a : Alu)
  /-- SEL (R147). -/
  | sel (a : Ter)
  /-- MOV (R148). -/
  | mov (a : Alu)
  /-- MOVI (R148). -/
  | movi (a : Alu)
  /-- MOVR (R149). -/
  | movr (a : Alu)
  /-- MOVW (R149). -/
  | movw (a : Alu)
  /-- IADD64 (R150). -/
  | iadd64 (a : Alu)
  /-- ISUB64 (R150). -/
  | isub64 (a : Alu)
  /-- IMUL64 (R150). -/
  | imul64 (a : Alu)
  /-- UMULW (R150). -/
  | umulw (a : Alu)
  /-- IMULW (R150). -/
  | imulw (a : Alu)
  /-- SHL64 (R150). -/
  | shl64 (a : Alu)
  /-- SHR64 (R150). -/
  | shr64 (a : Alu)
  /-- SAR64 (R150). -/
  | sar64 (a : Alu)
  /-- ICMP64 (R150). -/
  | icmp64 (a : Alu)
  /-- UCMP64 (R150). -/
  | ucmp64 (a : Alu)
  /-- MOVI64 (R148). -/
  | movi64 (a : Wide)
  /-- LEA (R152). -/
  | lea (a : Alu)
  /-- PTR (R153). -/
  | ptr (a : Alu)
  /-- PFIELD (R154). -/
  | pfield (a : Alu)
  /-- IF (R156). -/
  | ifI (a : Ctl)
  /-- ELSE (R156). -/
  | elseI (a : Ctl)
  /-- ENDIF (R156). -/
  | endif (a : Ctl)
  /-- LOOP (R157). -/
  | loop (a : Ctl)
  /-- BREAK (R158). -/
  | breakI (a : Ctl)
  /-- CONT (R158). -/
  | contI (a : Ctl)
  /-- ENDLOOP (R157). -/
  | endloop (a : Ctl)
  /-- BRA (R159). -/
  | bra (a : Ctl)
  /-- BRX (R159). -/
  | brx (a : Ctl)
  /-- CALL (R159). -/
  | call (a : Ctl)
  /-- CALLX (R159). -/
  | callx (a : Ctl)
  /-- RET (R160). -/
  | ret (a : Ctl)
  /-- EXIT (R161). -/
  | exit (a : Ctl)
  /-- NOP (R162). -/
  | nop (a : NopF)
  /-- YIELD (R162). -/
  | yieldI (a : Alu)
  /-- FADD (R166). -/
  | fadd (a : Alu)
  /-- FSUB (R166). -/
  | fsub (a : Alu)
  /-- FMUL (R166). -/
  | fmul (a : Alu)
  /-- FFMA (R166). -/
  | ffma (a : Ter)
  /-- FMIN (R166). -/
  | fmin (a : Alu)
  /-- FMAX (R166). -/
  | fmax (a : Alu)
  /-- FCMP (R167). -/
  | fcmp (a : Alu)
  /-- FCLASS (R168). -/
  | fclass (a : Alu)
  /-- FRND (R166). -/
  | frnd (a : Alu)
  /-- FDIV (R169). -/
  | fdiv (a : Alu)
  /-- FSQRT (R169). -/
  | fsqrt (a : Alu)
  /-- FRCP (R169). -/
  | frcp (a : Alu)
  /-- FRSQ (R169). -/
  | frsq (a : Alu)
  /-- FEXP2 (R169). -/
  | fexp2 (a : Alu)
  /-- FLOG2 (R169). -/
  | flog2 (a : Alu)
  /-- FSINPI (R169). -/
  | fsinpi (a : Alu)
  /-- FCOSPI (R169). -/
  | fcospi (a : Alu)
  /-- FTANH (R169). -/
  | ftanh (a : Alu)
  /-- FSCALE (R166). -/
  | fscale (a : Alu)
  /-- FCOPYS (R166). -/
  | fcopys (a : Alu)
  /-- DADD (R170). -/
  | dadd (a : Alu)
  /-- DSUB (R170). -/
  | dsub (a : Alu)
  /-- DMUL (R170). -/
  | dmul (a : Alu)
  /-- DFMA (R170). -/
  | dfma (a : Ter)
  /-- DMIN (R170). -/
  | dmin (a : Alu)
  /-- DMAX (R170). -/
  | dmax (a : Alu)
  /-- DCMP (R170). -/
  | dcmp (a : Alu)
  /-- DDIV (R170). -/
  | ddiv (a : Alu)
  /-- DSQRT (R170). -/
  | dsqrt (a : Alu)
  /-- DRND (R170). -/
  | drnd (a : Alu)
  /-- FCVTI (R171). -/
  | fcvti (a : Alu)
  /-- ICVTF (R171). -/
  | icvtf (a : Alu)
  /-- DCVTF (R171). -/
  | dcvtf (a : Alu)
  /-- FCVTD (R171). -/
  | fcvtd (a : Alu)
  /-- DCVTL (R171). -/
  | dcvtl (a : Alu)
  /-- LCVTD (R171). -/
  | lcvtd (a : Alu)
  /-- PADD (R172). -/
  | padd (a : Alu)
  /-- PSUB (R172). -/
  | psub (a : Alu)
  /-- PMUL (R172). -/
  | pmul (a : Alu)
  /-- PFMA (R172). -/
  | pfma (a : Ter)
  /-- PMIN (R172). -/
  | pmin (a : Alu)
  /-- PMAX (R172). -/
  | pmax (a : Alu)
  /-- PABS (R172). -/
  | pabs (a : Alu)
  /-- PCMP (R173). -/
  | pcmp (a : Alu)
  /-- PSEL (R173). -/
  | psel (a : Ter)
  /-- PDOT2 (R174). -/
  | pdot2 (a : Ter)
  /-- PDOT4 (R174). -/
  | pdot4 (a : Ter)
  /-- PSHRR (R175). -/
  | pshrr (a : Alu)
  /-- PCLAMP (R172). -/
  | pclamp (a : Ter)
  /-- CVT (R178). -/
  | cvt (a : Ter)
  /-- PACKH (R176). -/
  | packh (a : Alu)
  /-- UNPK (R176). -/
  | unpk (a : Alu)
  /-- INSRT (R176). -/
  | insrt (a : Ter)
  /-- TAGSET (R176). -/
  | tagset (a : Alu)
  /-- TAGGET (R176). -/
  | tagget (a : Alu)
  /-- PBPACK (R181). -/
  | pbpack (a : Ter)
  /-- PBPACKS (R182). -/
  | pbpacks (a : Ter)
  /-- PBUNPK (R183). -/
  | pbunpk (a : Ter)
  /-- SHFL (R184). -/
  | shfl (a : Alu)
  /-- SLIDEUP (R185). -/
  | slideup (a : Alu)
  /-- SLIDEDN (R185). -/
  | slidedn (a : Alu)
  /-- SWZ (R184). -/
  | swz (a : Alu)
  /-- BALLOT (R184). -/
  | ballot (a : Alu)
  /-- VANY (R184). -/
  | vany (a : Alu)
  /-- VALL (R184). -/
  | vall (a : Alu)
  /-- FIRST (R184). -/
  | first (a : Alu)
  /-- READL (R184). -/
  | readl (a : Alu)
  /-- REDADD (R186). -/
  | redadd (a : Alu)
  /-- REDMIN (R186). -/
  | redmin (a : Alu)
  /-- REDMAX (R186). -/
  | redmax (a : Alu)
  /-- SCAN (R187). -/
  | scan (a : Alu)
  /-- MBCNT (R184). -/
  | mbcnt (a : Alu)
  /-- LD (R193). -/
  | ld (a : Mem)
  /-- LDX (R192). -/
  | ldx (a : Mem)
  /-- ST (R194). -/
  | st (a : Mem)
  /-- STX (R192). -/
  | stx (a : Mem)
  /-- LDA (R196). -/
  | lda (a : Mem)
  /-- STL (R196). -/
  | stl (a : Mem)
  /-- ATOM (R197). -/
  | atom (a : Mem)
  /-- ATOMCAS (R198). -/
  | atomcas (a : Mem)
  /-- RED (R197). -/
  | red (a : Mem)
  /-- FENCE (R199). -/
  | fence (a : Mem)
  /-- BAR (R201). -/
  | bar (a : Alu)
  /-- ARRIVE (R201). -/
  | arrive (a : Alu)
  /-- WAITB (R201). -/
  | waitb (a : Alu)
  /-- WAITNE (R202). -/
  | waitne (a : Mem)
  /-- CWB (R203). -/
  | cwb (a : Mem)
  /-- CINV (R203). -/
  | cinv (a : Mem)
  /-- CWBI (R203). -/
  | cwbi (a : Mem)
  /-- CPRF (R204). -/
  | cprf (a : Mem)
  /-- SUBS (R207). -/
  | subs (a : Alu)
  /-- UNSUB (R208). -/
  | unsub (a : Alu)
  /-- SUPG (R208). -/
  | supg (a : Alu)
  /-- SKPUSH (R210). -/
  | skpush (a : Alu)
  /-- SKPOP (R210). -/
  | skpop (a : Alu)
  /-- SKFREE (R210). -/
  | skfree (a : Alu)
  /-- CLAIM (R213). -/
  | claim (a : Alu)
  /-- RELEASE (R214). -/
  | release (a : Alu)
  /-- MMA (R219). -/
  | mma (a : MmaF)
  /-- MMAWAIT (R222). -/
  | mmawait (a : Alu)
  /-- OPFENCE (R223). -/
  | opfence (a : Alu)
  /-- OXMM (R225). -/
  | oxmm (a : Ter)
  /-- ACCCVT (R226). -/
  | acccvt (a : Alu)
  /-- ACCSET (R227). -/
  | accset (a : Alu)
  /-- XC_G2S (R230). -/
  | xcG2s (a : XcF)
  /-- XC_S2G (R230). -/
  | xcS2g (a : XcF)
  /-- XC_S2S (R230). -/
  | xcS2s (a : XcF)
  /-- XC_G2O (R230). -/
  | xcG2o (a : XcF)
  /-- XC_S2O (R230). -/
  | xcS2o (a : XcF)
  /-- XC_C2D (R231). -/
  | xcC2d (a : XcF)
  /-- XC_GATH (R232). -/
  | xcGath (a : XcF)
  /-- XC_RSCAT (R236). -/
  | xcRscat (a : XcF)
  /-- XC_AGATH (R236). -/
  | xcAgath (a : XcF)
  /-- XC_AREDU (R236). -/
  | xcAredu (a : XcF)
  /-- XC_PUT (R237). -/
  | xcPut (a : XcF)
  /-- XC_GET (R237). -/
  | xcGet (a : XcF)
  /-- XC_GSTART (R238). -/
  | xcGstart (a : XcF)
  /-- XC_GSTAT (R238). -/
  | xcGstat (a : XcF)
  /-- XC_GCOND (R238). -/
  | xcGcond (a : XcF)
  /-- FETCHWORK (R241). -/
  | fetchwork (a : Alu)
  /-- REFILL (R242). -/
  | refill (a : Alu)
  /-- ITEMSET (R243). -/
  | itemset (a : Alu)
  /-- MOVS (R245). -/
  | movs (a : Alu)
  /-- MOVSW (R246). -/
  | movsw (a : Alu)
  /-- TRAP (R247). -/
  | trap (a : Alu)
  /-- ERET (R248). -/
  | eret (a : Alu)
  /-- SIGCHK (R249). -/
  | sigchk (a : Alu)
  /-- CHKREQ (R250). -/
  | chkreq (a : Alu)
  /-- SLEEP (R251). -/
  | sleep (a : Alu)
  /-- EVSEND (R251). -/
  | evsend (a : Alu)
  /-- TLBINV (R253). -/
  | tlbinv (a : Alu)
  /-- CTXSAVE (R254). -/
  | ctxsave (a : Alu)
  /-- CTXLOAD (R255). -/
  | ctxload (a : Alu)
  /-- POISONCLR (R256). -/
  | poisonclr (a : Alu)
  /-- HOSTMSG (R257). -/
  | hostmsg (a : Alu)
  /-- RASRD (R258). -/
  | rasrd (a : Alu)
  /-- ILLEGAL (R259). -/
  | illegal (w : DWord)
  /-- CLAIM_CHECK (R282). -/
  | claimCheck (t : Nat) (ok : Bool)
  /-- CHECKED_ONLY_EXIT (R287). -/
  | checkedOnlyExit (t : Nat)
  /-- DELIVERY_RING_SPACE (R346). -/
  | deliveryRingSpace (n : Nat)
  /-- MMA_COMPLETE (R219). -/
  | mmaComplete (t : Nat) (diff : List RowUpset)
  /-- OXMM_COMPLETE (R221). -/
  | oxmmComplete (t : Nat)
  /-- ENGINE_COMMAND_COMPLETE (R228). -/
  | engineCommandComplete (id : Nat) (peer : PeerReply)
  /-- ENGINE_DELIVERY (R233). -/
  | engineDelivery (id : Nat)
  /-- NODE_END (R240). -/
  | nodeEnd (core walk : Nat)
  /-- NODE_LAUNCH_TEAM (R240). -/
  | nodeLaunchTeam (core walk : Nat)
  /-- NODE_COPY (R240). -/
  | nodeCopy (core walk : Nat)
  /-- NODE_CONDITION (R240). -/
  | nodeCondition (core walk : Nat)
  /-- NODE_WHILE (R240). -/
  | nodeWhile (core walk : Nat)
  /-- NODE_JOIN (R240). -/
  | nodeJoin (core walk : Nat)
  /-- GRAPH_COMPLETE (R240). -/
  | graphComplete (core : Nat)
  /-- WORK_WITHDRAWN (R48). -/
  | workWithdrawn (id : Nat)
  /-- PLACEMENT_UNIT (R37). -/
  | placementUnit (q : Nat)
  /-- GROUP_START (R42). -/
  | groupStart (g : Nat)
  /-- TEAM_RETIRE (R47). -/
  | teamRetire (t : Nat)
  /-- WAITNE_WAKE (R202). -/
  | waitneWake (t : Nat)
  /-- SLEEP_DEADLINE (R251). -/
  | sleepDeadline (t : Nat)
  /-- RANGE_OP_COMPLETE (R205). -/
  | rangeOpComplete (t : Nat)
  /-- SUBSCRIPTION_ANSWERED (R207). -/
  | subscriptionAnswered (t : Nat)
  /-- MISS_FILL (R106). -/
  | missFill (core frame : Nat) (words : Nat × Nat) (data : List Host.Cell)
  /-- L1_EVICTION (R108). -/
  | l1Eviction (core frame lo : Nat)
  /-- STORE_ACCEPTED (R66). -/
  | storeAccepted (t : Nat) (err : Bool)
  /-- HW_ERROR_CONTAINMENT (R293). -/
  | hwErrorContainment (core sec : Nat) (q : Option Nat)
  /-- REGISTER_SCRUB (R292). -/
  | registerScrub (core sec : Nat) (errs : List RegUpset)
  /-- REFRESH (R119). -/
  | refresh (pa : Nat) (bad : Bool)
  /-- PREEMPTION_REQUEST (R354). -/
  | preemptionRequest (g : Nat)
  /-- YIELD_POINT_SAVE (R52). -/
  | yieldPointSave (t : Nat)
  /-- PREEMPTION_TIMEOUT (R53). -/
  | preemptionTimeout (t : Nat)
  /-- GROUP_RESTORE (R54). -/
  | groupRestore (g : Nat)
  /-- WATCHDOG_EXPIRED (R358). -/
  | watchdogExpired (q : Nat)
  /-- RECOVERY_LIMIT_EXPIRED (R359). -/
  | recoveryLimitExpired (q dev : Nat)
  /-- PEER_IN_RECOVERY (R387). -/
  | peerInRecovery (dev : Nat)
  /-- PEER_RECOVERED (R387). -/
  | peerRecovered (dev : Nat)
  /-- DEAD_TIME_EXPIRED (R387). -/
  | deadTimeExpired (dev : Nat)
  /-- TOKEN_REQUEST (R224). -/
  | tokenRequest (core : Nat)
  /-- TOKEN_GRANT (R224). -/
  | tokenGrant
  /-- TOKEN_RETURN (R224). -/
  | tokenReturn (core : Nat)
  /-- POWER_ESTIMATE (R372). -/
  | powerEstimate (watts : Nat)
  /-- BUDGET_INTERVAL (R371). -/
  | budgetInterval
  /-- RACK_POWER_MESSAGE (R377). -/
  | rackPowerMessage (seq budget expiry : Nat)
  /-- RACK_BUDGET_EXPIRY (R377). -/
  | rackBudgetExpiry
  /-- RAIL_SWITCH_COMPLETE (R374). -/
  | railSwitchComplete (cl : Nat)
  /-- GATE_POWER_OFF (R375). -/
  | gatePowerOff (cl : Nat)
  /-- RETENTION_ENTRY (R376). -/
  | retentionEntry (cl : Nat)
  /-- TAKE_COMMANDS (R378). -/
  | takeCommands (q : Nat)
  /-- LAUNCH (R29). -/
  | launch (c : CmdHdr) (rec : Nat)
  /-- GRAPH_LAUNCH (R238). -/
  | graphLaunch (c : CmdHdr) (rec img bytes : Nat)
  /-- COPY (R378). -/
  | copy (c : CmdHdr) (dst src n : Nat)
  /-- SIGNAL (R379). -/
  | signal (c : CmdHdr) (addr : Nat) (v : DWord)
  /-- WAIT (R379). -/
  | wait (c : CmdHdr) (addr : Nat) (v : DWord)
  /-- POWER_RAIL (R370). -/
  | powerRail (c : CmdHdr) (cl v : Nat)
  /-- POWER_GATE (R375). -/
  | powerGate (c : CmdHdr) (cl v : Nat)
  /-- RETENTION (R376). -/
  | retention (c : CmdHdr) (cl v : Nat)
  /-- MATRIX_TOKEN_POOL (R224). -/
  | matrixTokenPool (c : CmdHdr) (v : Nat)
  /-- MEMORY_BYTE_BUDGET (R371). -/
  | memoryByteBudget (c : CmdHdr) (cl v : Nat)
  /-- POWER_FLOOR (R372). -/
  | powerFloor (c : CmdHdr) (v : Nat)
  /-- RAMP_RATE (R372). -/
  | rampRate (c : CmdHdr) (v : Nat)
  /-- RACK_BUDGET (R373). -/
  | rackBudget (c : CmdHdr) (v : Nat)
  /-- QUEUE (R361). -/
  | queue (c : CmdHdr) (q rec : Nat)
  /-- CONTEXT (R347). -/
  | context (c : CmdHdr) (ctx desc : Nat)
  /-- COMMUNICATOR (R390). -/
  | communicator (c : CmdHdr) (hd n rank ptr : Nat)
  /-- PRE_EMPT (R354). -/
  | preEmpt (c : CmdHdr) (q : Nat)
  /-- RESTORE (R378). -/
  | restore (c : CmdHdr) (q : Nat)
  /-- MAP_OUT_CORE_PAIR (R11). -/
  | mapOutCorePair (c : CmdHdr) (ix : Nat)
  /-- MAP_OUT_DRAM_ROW (R119). -/
  | mapOutDramRow (c : CmdHdr) (ix : Nat)
  /-- MAP_OUT_OSIER_LANE (R386). -/
  | mapOutOsierLane (c : CmdHdr) (ix : Nat)
  /-- IDENTITY (R381). -/
  | identity (c : CmdHdr) (ptr : Nat)
  /-- SET_TIME (R381). -/
  | setTime (c : CmdHdr) (v : DWord)
  /-- RAS_HEADER (R360). -/
  | rasHeader (c : CmdHdr) (ptr : Nat)
  /-- RAS_CLEAR (R360). -/
  | rasClear (c : CmdHdr)
  /-- QUEUE_RESET (R381). -/
  | queueReset (c : CmdHdr) (q : Nat)
  /-- RING_BIND (R378). -/
  | ringBind (c : CmdHdr) (q base n port evb evn : Nat)
  /-- ATTEST (R385). -/
  | attest (c : CmdHdr) (nonce ptr : Nat)
  /-- SET_DEVICE_ID (R386). -/
  | setDeviceId (c : CmdHdr) (id dead : Nat)
  /-- DECLARE_DEAD (R339). -/
  | declareDead (c : CmdHdr) (a : Nat)
  /-- ADMIT (R387). -/
  | admitAgent (c : CmdHdr) (a : Nat)
  /-- RAISE_SECURITY_VERSION (R384). -/
  | raiseSecurityVersion (c : CmdHdr) (v : Nat)
  /-- POISON_PAGE (R117). -/
  | poisonPage (c : CmdHdr) (pa : Nat)
  /-- HOST_EVENT (R382). -/
  | hostEvent (port : Nat) (e : HostEvt)
  /-- EVENT_RING_SPACE (R382). -/
  | eventRingSpace (port n : Nat)
  /-- RESET (R383). -/
  | reset
  /-- BOOT_DOORBELL (R384). -/
  | bootDoorbell (port : Nat)
  /-- TRANSIENT_REQUEST (R328). -/
  | transientRequest (die core sector : Nat) (wr fail : Bool)
  /-- PERSISTENT_REQUEST (R328). -/
  | persistentRequest (die core sector : Nat) (wr : Bool)
  /-- TOKENS_BACK_AT_PORT (R329). -/
  | tokensBackAtPort (die sector : Nat)
  /-- EXACT_READ (R332). -/
  | exactRead (m : MsgHdr) (sector : Nat)
  /-- SUBSCRIBED_READ (R332). -/
  | subscribedRead (m : MsgHdr) (sector : Nat)
  /-- WRITE_PERMISSION (R332). -/
  | writePermission (m : MsgHdr) (sector : Nat)
  /-- WRITE_THROUGH (R334). -/
  | writeThrough (m : MsgHdr) (sector : Nat) (bytes : List Host.Cell) (cond : Bool)
  /-- NOTICE (R333). -/
  | notice (m : MsgHdr) (sector : Nat) (dirty : List Host.Cell)
  /-- WRITE_BACK (R332). -/
  | writeBack (m : MsgHdr) (sector : Nat) (dirty : List Host.Cell)
  /-- SUBSCRIPTION_REQUEST (R336). -/
  | subscriptionRequest (m : MsgHdr) (line fmt : Nat) (inv sfm : Bool)
  /-- UPGRADE_REQUEST (R337). -/
  | upgradeRequest (m : MsgHdr) (line : Nat)
  /-- UNSUBSCRIBE_REQUEST (R337). -/
  | unsubscribeRequest (m : MsgHdr) (line : Nat)
  /-- ACKNOWLEDGEMENT (R333). -/
  | acknowledgement (m : MsgHdr) (sector : Nat) (absent : Bool) (dirty : List Host.Cell)
  /-- INVALIDATION (R329). -/
  | invalidation (h : DieHdr) (sector : Nat) (demote : Bool)
  /-- RECALL (R329). -/
  | recall (h : DieHdr) (sector : Nat)
  /-- UPDATE (R337). -/
  | update (h : DieHdr) (sector : Nat) (elems : List Host.Cell)
  /-- GRANT (R329). -/
  | grant (h : DieHdr) (sector : Nat) (k : GrantKind) (data : List Host.Cell)
  /-- DONE1 (R335). -/
  | done1 (h : DieHdr) (sector : Nat)
  /-- DONE2 (R335). -/
  | done2 (h : DieHdr) (sector : Nat)
  /-- RETRY (R334). -/
  | retry (h : DieHdr) (sector : Nat)
  /-- STALE_EPOCH (R339). -/
  | staleEpoch (die : Nat)
  /-- SM_WRITE_BACK (R338). -/
  | smWriteBack (m : MsgHdr) (sector : Nat) (dirty : List Host.Cell)
  /-- HOOP_CARVE (R98). -/
  | hoopCarve (tower slices ctx base limit : Nat)
  /-- RDMA_REQUEST (R389). -/
  | rdmaRequest (k : RdmaKind) (ctx addr : Nat) (bytes : List Byte) (imm : Word)
  deriving DecidableEq, Repr

/-- The device steps once more, as plain data of their own: what the schedule, the command queues and the message
channels of the state hold. (The compiler can build no value of a constructor as far down `Instr` as these stand.) -/
inductive Event where
  | claimCheck (t : Nat) (ok : Bool)
  | checkedOnlyExit (t : Nat)
  | deliveryRingSpace (n : Nat)
  | mmaComplete (t : Nat) (diff : List RowUpset)
  | oxmmComplete (t : Nat)
  | engineCommandComplete (id : Nat) (peer : PeerReply)
  | engineDelivery (id : Nat)
  | nodeEnd (core walk : Nat)
  | nodeLaunchTeam (core walk : Nat)
  | nodeCopy (core walk : Nat)
  | nodeCondition (core walk : Nat)
  | nodeWhile (core walk : Nat)
  | nodeJoin (core walk : Nat)
  | graphComplete (core : Nat)
  | workWithdrawn (id : Nat)
  | placementUnit (q : Nat)
  | groupStart (g : Nat)
  | teamRetire (t : Nat)
  | waitneWake (t : Nat)
  | sleepDeadline (t : Nat)
  | rangeOpComplete (t : Nat)
  | subscriptionAnswered (t : Nat)
  | missFill (core frame : Nat) (words : Nat × Nat) (data : List Host.Cell)
  | l1Eviction (core frame lo : Nat)
  | storeAccepted (t : Nat) (err : Bool)
  | hwErrorContainment (core sec : Nat) (q : Option Nat)
  | registerScrub (core sec : Nat) (errs : List RegUpset)
  | refresh (pa : Nat) (bad : Bool)
  | preemptionRequest (g : Nat)
  | yieldPointSave (t : Nat)
  | preemptionTimeout (t : Nat)
  | groupRestore (g : Nat)
  | watchdogExpired (q : Nat)
  | recoveryLimitExpired (q dev : Nat)
  | peerInRecovery (dev : Nat)
  | peerRecovered (dev : Nat)
  | deadTimeExpired (dev : Nat)
  | tokenRequest (core : Nat)
  | tokenGrant
  | tokenReturn (core : Nat)
  | powerEstimate (watts : Nat)
  | budgetInterval
  | rackPowerMessage (seq budget expiry : Nat)
  | rackBudgetExpiry
  | railSwitchComplete (cl : Nat)
  | gatePowerOff (cl : Nat)
  | retentionEntry (cl : Nat)
  | takeCommands (q : Nat)
  | launch (c : CmdHdr) (rec : Nat)
  | graphLaunch (c : CmdHdr) (rec img bytes : Nat)
  | copy (c : CmdHdr) (dst src n : Nat)
  | signal (c : CmdHdr) (addr : Nat) (v : DWord)
  | wait (c : CmdHdr) (addr : Nat) (v : DWord)
  | powerRail (c : CmdHdr) (cl v : Nat)
  | powerGate (c : CmdHdr) (cl v : Nat)
  | retention (c : CmdHdr) (cl v : Nat)
  | matrixTokenPool (c : CmdHdr) (v : Nat)
  | memoryByteBudget (c : CmdHdr) (cl v : Nat)
  | powerFloor (c : CmdHdr) (v : Nat)
  | rampRate (c : CmdHdr) (v : Nat)
  | rackBudget (c : CmdHdr) (v : Nat)
  | queue (c : CmdHdr) (q rec : Nat)
  | context (c : CmdHdr) (ctx desc : Nat)
  | communicator (c : CmdHdr) (hd n rank ptr : Nat)
  | preEmpt (c : CmdHdr) (q : Nat)
  | restore (c : CmdHdr) (q : Nat)
  | mapOutCorePair (c : CmdHdr) (ix : Nat)
  | mapOutDramRow (c : CmdHdr) (ix : Nat)
  | mapOutOsierLane (c : CmdHdr) (ix : Nat)
  | identity (c : CmdHdr) (ptr : Nat)
  | setTime (c : CmdHdr) (v : DWord)
  | rasHeader (c : CmdHdr) (ptr : Nat)
  | rasClear (c : CmdHdr)
  | queueReset (c : CmdHdr) (q : Nat)
  | ringBind (c : CmdHdr) (q base n port evb evn : Nat)
  | attest (c : CmdHdr) (nonce ptr : Nat)
  | setDeviceId (c : CmdHdr) (id dead : Nat)
  | declareDead (c : CmdHdr) (a : Nat)
  | admitAgent (c : CmdHdr) (a : Nat)
  | raiseSecurityVersion (c : CmdHdr) (v : Nat)
  | poisonPage (c : CmdHdr) (pa : Nat)
  | hostEvent (port : Nat) (e : HostEvt)
  | eventRingSpace (port n : Nat)
  | reset
  | bootDoorbell (port : Nat)
  | transientRequest (die core sector : Nat) (wr fail : Bool)
  | persistentRequest (die core sector : Nat) (wr : Bool)
  | tokensBackAtPort (die sector : Nat)
  | exactRead (m : MsgHdr) (sector : Nat)
  | subscribedRead (m : MsgHdr) (sector : Nat)
  | writePermission (m : MsgHdr) (sector : Nat)
  | writeThrough (m : MsgHdr) (sector : Nat) (bytes : List Host.Cell) (cond : Bool)
  | notice (m : MsgHdr) (sector : Nat) (dirty : List Host.Cell)
  | writeBack (m : MsgHdr) (sector : Nat) (dirty : List Host.Cell)
  | subscriptionRequest (m : MsgHdr) (line fmt : Nat) (inv sfm : Bool)
  | upgradeRequest (m : MsgHdr) (line : Nat)
  | unsubscribeRequest (m : MsgHdr) (line : Nat)
  | acknowledgement (m : MsgHdr) (sector : Nat) (absent : Bool) (dirty : List Host.Cell)
  | invalidation (h : DieHdr) (sector : Nat) (demote : Bool)
  | recall (h : DieHdr) (sector : Nat)
  | update (h : DieHdr) (sector : Nat) (elems : List Host.Cell)
  | grant (h : DieHdr) (sector : Nat) (k : GrantKind) (data : List Host.Cell)
  | done1 (h : DieHdr) (sector : Nat)
  | done2 (h : DieHdr) (sector : Nat)
  | retry (h : DieHdr) (sector : Nat)
  | staleEpoch (die : Nat)
  | smWriteBack (m : MsgHdr) (sector : Nat) (dirty : List Host.Cell)
  | hoopCarve (tower slices ctx base limit : Nat)
  | rdmaRequest (k : RdmaKind) (ctx addr : Nat) (bytes : List Byte) (imm : Word)
  deriving DecidableEq, Repr

end Sys2Proof
end

