-- ==== Sys2Proof/Machine/Encoding.lean ====
section
/-! DEFINITION. What Table 7-12 and the instruction chapters say of each opcode's encoding: its opcode, class, the
values its `mod` may take, how each register field is used, and the further rules of single instructions. -/

namespace Sys2Proof.Machine

/-- The use an instruction makes of a register field (R58, R125): none (the field holds 0), an immediate that is no
register, or a run of registers from the field, which has an even base where it is a pair or four. -/
inductive RU where
  | no
  | im
  | span (n : Nat) (even : Bool)
  deriving DecidableEq, Repr

/-- One register. -/
def RU.r : RU := .span 1 false
/-- An even pair (R58). -/
def RU.p : RU := .span 2 true
/-- A KA80 triple (R58). -/
def RU.t : RU := .span 3 false

/-- The field value is one this use allows (R125, R58). -/
def RU.ok (u : RU) (f : RegField) : Bool :=
  match u with
  | .no => f = 0
  | .im => true
  | .span _ e => !e || f.toNat % 2 = 0

/-- The registers the field covers (R58). -/
def RU.regs (u : RU) (f : RegField) : List Nat :=
  match u with
  | .span n _ => (List.range n).map (f.toNat + ·)
  | _ => []

/-- The field names registers. -/
def RU.named (u : RU) : Bool := match u with | .span _ _ => true | _ => false

/-- Which forms of source b an opcode with the shape `Alu` has: a register only (64 bits), register or immediate, an
immediate only (96 bits), or, where the opcode reads no b, either length with 0 there. -/
inductive BForm where
  | reg
  | either
  | imm
  | zero
  deriving DecidableEq, Repr

/-- One row of Table 7-12 with its field uses. `m63`: bit 63 of `mod` may be 1; `subs`: the values of bits 62:60. -/
structure Desc where
  opc : Nat
  cls : Nat
  m63 : Bool
  subs : List Nat
  d : RU
  a : RU
  b : RU
  c : RU
  bf : BForm
  deriving DecidableEq, Repr

/-- The register field of source b (0 under an immediate). -/
def srcField : Src → RegField
  | .reg r => r
  | .imm _ => 0

/-- Destination code of `CVT` (R177). -/
def cvtDf (a : Ter) : Nat := a.x8.toNat / 16
/-- Source code of `CVT` (R177). -/
def cvtSf (a : Ter) : Nat := a.x4.toNat
/-- Selector j of `CVT` (R177). -/
def cvtJ (a : Ter) : Nat := a.x8.toNat % 8
/-- Elements per register of a format code (Table 9-9) or, for 1 to 15, of a tag (Table 4-1). -/
def elemsOf (code : Nat) : Nat :=
  nth 1 [1, 2, 2, 2, 2, 4, 4, 4, 4, 5, 5, 8, 8, 1, 1, 0] code
/-- Tag of a conversion format code (Table 9-9). -/
def cvtTag (code : Nat) : Nat := if code ≤ 12 then code else 0
/-- Source registers a `CVT` reads (R178). -/
def cvtSources (a : Ter) : Nat :=
  if elemsOf (cvtSf a) < elemsOf (cvtDf a) then elemsOf (cvtDf a) / elemsOf (cvtSf a) else 1
/-- Registers of a plain access of the width code (Table 10-2). -/
def widthRu (w : Nat) : RU := if w = 3 then .p else if w = 4 then .span 4 true else .r
/-- Registers of a strong access, whose width stands in the hint field (R195). -/
def hintRu (e : Option MExt) : RU := match e with
  | some x => if x.hint = 3 then .p else .r
  | none => .r
/-- N of a matrix instruction (Table 11-3). -/
def mmaN (nsz : Nat) : Nat := nth 32 [8, 16, 32] nsz
/-- Registers of an accumulator (R218). -/
def accSpan (nsz : Nat) (acc32 : Bool) : Nat := if acc32 then mmaN nsz else 3 * mmaN nsz
/-- The selector names 64-bit special state (Table 4-3). -/
def selWide (n : Nat) : Bool := n = 0x18 ∨ n = 0x19
/-- The selectors of Table 4-3. -/
def selKnown (n : Nat) : Bool :=
  n ∈ [0, 1, 2, 3, 8, 9, 10, 11, 12, 13, 14, 15, 0x10, 0x11, 0x12, 0x18, 0x19, 0x20, 0x21, 0x28, 0x29, 0x2a, 0x30]
/-- The selectors `MOVSW` may write at some level (Table 4-3: RW and RP). -/
def selWritable (n : Nat) : Bool := n ∈ [0x20, 0x21, 0x28, 0x29, 0x2a]

/-- The row of an instruction; none for the device steps, which have no encoding, and for `ILLEGAL`. -/
def desc : Instr → Option Desc
  | .iadd _ => some ⟨0x0, 0, true, [0], .r, .r, .r, .no, .either⟩
  | .isub _ => some ⟨0x1, 0, true, [0], .r, .r, .r, .no, .either⟩
  | .iadds _ => some ⟨0x2, 0, true, [0, 1], .r, .r, .r, .no, .either⟩
  | .isubs _ => some ⟨0x3, 0, true, [0, 1], .r, .r, .r, .no, .either⟩
  | .ineg _ => some ⟨0x4, 0, true, [0], .r, .r, .no, .no, .reg⟩
  | .iabs _ => some ⟨0x5, 0, true, [0], .r, .r, .no, .no, .reg⟩
  | .imin _ => some ⟨0x6, 0, true, [0], .r, .r, .r, .no, .either⟩
  | .imax _ => some ⟨0x7, 0, true, [0], .r, .r, .r, .no, .either⟩
  | .umin _ => some ⟨0x8, 0, true, [0], .r, .r, .r, .no, .either⟩
  | .umax _ => some ⟨0x9, 0, true, [0], .r, .r, .r, .no, .either⟩
  | .imul _ => some ⟨0xa, 1, true, [0], .r, .r, .r, .no, .either⟩
  | .imulhi _ => some ⟨0xb, 1, true, [0], .r, .r, .r, .no, .either⟩
  | .umulhi _ => some ⟨0xc, 1, true, [0], .r, .r, .r, .no, .either⟩
  | .imad _ => some ⟨0xd, 1, true, [0], .r, .r, .r, .r, .reg⟩
  | .idiv _ => some ⟨0xe, 3, true, [0], .r, .r, .r, .no, .either⟩
  | .udiv _ => some ⟨0xf, 3, true, [0], .r, .r, .r, .no, .either⟩
  | .irem _ => some ⟨0x10, 3, true, [0], .r, .r, .r, .no, .either⟩
  | .urem _ => some ⟨0x11, 3, true, [0], .r, .r, .r, .no, .either⟩
  | .andI _ => some ⟨0x18, 0, true, [0], .r, .r, .r, .no, .either⟩
  | .orI _ => some ⟨0x19, 0, true, [0], .r, .r, .r, .no, .either⟩
  | .xorI _ => some ⟨0x1a, 0, true, [0], .r, .r, .r, .no, .either⟩
  | .andn _ => some ⟨0x1b, 0, true, [0], .r, .r, .r, .no, .either⟩
  | .shl _ => some ⟨0x1c, 0, true, [0], .r, .r, .r, .no, .either⟩
  | .shr _ => some ⟨0x1d, 0, true, [0], .r, .r, .r, .no, .either⟩
  | .sar _ => some ⟨0x1e, 0, true, [0], .r, .r, .r, .no, .either⟩
  | .rol _ => some ⟨0x1f, 0, true, [0], .r, .r, .r, .no, .either⟩
  | .ror _ => some ⟨0x20, 0, true, [0], .r, .r, .r, .no, .either⟩
  | .bfx _ => some ⟨0x21, 0, true, [0, 1], .r, .r, .r, .no, .reg⟩
  | .bfi _ => some ⟨0x22, 0, true, [0], .r, .r, .r, .r, .reg⟩
  | .popc _ => some ⟨0x23, 0, true, [0], .r, .r, .no, .no, .reg⟩
  | .clz _ => some ⟨0x24, 0, true, [0], .r, .r, .no, .no, .reg⟩
  | .ctz _ => some ⟨0x25, 0, true, [0], .r, .r, .no, .no, .reg⟩
  | .brev _ => some ⟨0x26, 0, true, [0], .r, .r, .no, .no, .reg⟩
  | .permb _ => some ⟨0x27, 0, true, [0], .r, .r, .r, .no, .either⟩
  | .icmp _ => some ⟨0x30, 0, true, [0, 1, 2, 3, 4, 5], .r, .r, .r, .no, .either⟩
  | .ucmp _ => some ⟨0x31, 0, true, [0, 1, 2, 3, 4, 5], .r, .r, .r, .no, .either⟩
  | .sel _ => some ⟨0x32, 0, true, [0], .r, .r, .r, .r, .reg⟩
  | .mov _ => some ⟨0x33, 0, true, [0], .r, .r, .no, .no, .reg⟩
  | .movi _ => some ⟨0x34, 0, true, [0], .r, .no, .no, .no, .imm⟩
  | .movr _ => some ⟨0x35, 0, true, [0], .r, .r, .no, .no, .reg⟩
  | .movw _ => some ⟨0x36, 0, true, [0], .no, .r, .r, .no, .reg⟩
  | .iadd64 _ => some ⟨0x40, 0, true, [0], .p, .p, .p, .no, .reg⟩
  | .isub64 _ => some ⟨0x41, 0, true, [0], .p, .p, .p, .no, .reg⟩
  | .imul64 _ => some ⟨0x42, 3, true, [0], .p, .p, .p, .no, .reg⟩
  | .umulw _ => some ⟨0x43, 3, true, [0], .p, .r, .r, .no, .reg⟩
  | .imulw _ => some ⟨0x44, 3, true, [0], .p, .r, .r, .no, .reg⟩
  | .shl64 _ => some ⟨0x45, 0, true, [0], .p, .p, .r, .no, .either⟩
  | .shr64 _ => some ⟨0x46, 0, true, [0], .p, .p, .r, .no, .either⟩
  | .sar64 _ => some ⟨0x47, 0, true, [0], .p, .p, .r, .no, .either⟩
  | .icmp64 _ => some ⟨0x48, 0, true, [0, 1, 2, 3, 4, 5], .r, .p, .p, .no, .reg⟩
  | .ucmp64 _ => some ⟨0x49, 0, true, [0, 1, 2, 3, 4, 5], .r, .p, .p, .no, .reg⟩
  | .movi64 _ => some ⟨0x4a, 0, true, [0], .p, .no, .no, .no, .reg⟩
  | .lea _ => some ⟨0x50, 1, true, [0, 1, 2, 3, 4, 5, 6, 7], .p, .p, .r, .no, .either⟩
  | .ptr a => some ⟨0x51, 1, true, [0, 1, 2], .p, .p, (if a.m.toNat % 4 = 0 then .no else .r), .no, .either⟩
  | .pfield _ => some ⟨0x52, 1, true, [0], .r, .p, .r, .no, .either⟩
  | .ifI _ => some ⟨0x80, 0, false, [0], .no, .r, .no, .no, .reg⟩
  | .elseI _ => some ⟨0x81, 0, false, [0], .no, .no, .no, .no, .reg⟩
  | .endif _ => some ⟨0x82, 0, false, [0], .no, .no, .no, .no, .reg⟩
  | .loop _ => some ⟨0x83, 0, false, [0], .no, .no, .no, .no, .reg⟩
  | .breakI _ => some ⟨0x84, 0, false, [0], .no, .no, .no, .no, .reg⟩
  | .contI _ => some ⟨0x85, 0, false, [0], .no, .no, .no, .no, .reg⟩
  | .endloop _ => some ⟨0x86, 0, false, [0], .no, .no, .no, .no, .reg⟩
  | .bra _ => some ⟨0x87, 0, false, [0], .no, .no, .no, .no, .reg⟩
  | .brx _ => some ⟨0x88, 0, false, [0], .no, .p, .no, .no, .reg⟩
  | .call _ => some ⟨0x89, 0, false, [0], .p, .no, .no, .no, .reg⟩
  | .callx _ => some ⟨0x8a, 0, false, [0], .p, .p, .no, .no, .reg⟩
  | .ret _ => some ⟨0x8b, 0, false, [0], .no, .p, .no, .no, .reg⟩
  | .exit _ => some ⟨0x8c, 0, false, [0], .no, .no, .no, .no, .reg⟩
  | .nop _ => some ⟨0x8d, 0, false, [0], .no, .no, .no, .no, .reg⟩
  | .yieldI _ => some ⟨0x8e, 0, false, [0], .no, .no, .no, .no, .reg⟩
  | .fadd _ => some ⟨0x100, 1, true, [0, 4, 5, 6, 7], .r, .r, .r, .no, .reg⟩
  | .fsub _ => some ⟨0x101, 1, true, [0, 4, 5, 6, 7], .r, .r, .r, .no, .reg⟩
  | .fmul _ => some ⟨0x102, 1, true, [0, 4, 5, 6, 7], .r, .r, .r, .no, .reg⟩
  | .ffma _ => some ⟨0x103, 1, true, [0, 4, 5, 6, 7], .r, .r, .r, .r, .reg⟩
  | .fmin _ => some ⟨0x104, 1, true, [0], .r, .r, .r, .no, .reg⟩
  | .fmax _ => some ⟨0x105, 1, true, [0], .r, .r, .r, .no, .reg⟩
  | .fcmp _ => some ⟨0x106, 1, true, [0, 1, 2, 3, 4, 5, 6, 7], .r, .r, .r, .no, .reg⟩
  | .fclass _ => some ⟨0x107, 1, true, [0], .r, .r, .no, .no, .reg⟩
  | .frnd _ => some ⟨0x108, 1, true, [0, 4, 5, 6, 7], .r, .r, .no, .no, .reg⟩
  | .fdiv _ => some ⟨0x109, 3, true, [0, 4, 5, 6, 7], .r, .r, .r, .no, .reg⟩
  | .fsqrt _ => some ⟨0x10a, 3, true, [0, 4, 5, 6, 7], .r, .r, .no, .no, .reg⟩
  | .frcp _ => some ⟨0x10b, 3, true, [0, 4, 5, 6, 7], .r, .r, .no, .no, .reg⟩
  | .frsq _ => some ⟨0x10c, 3, true, [0, 4, 5, 6, 7], .r, .r, .no, .no, .reg⟩
  | .fexp2 _ => some ⟨0x10d, 3, true, [0, 4, 5, 6, 7], .r, .r, .no, .no, .reg⟩
  | .flog2 _ => some ⟨0x10e, 3, true, [0, 4, 5, 6, 7], .r, .r, .no, .no, .reg⟩
  | .fsinpi _ => some ⟨0x10f, 3, true, [0, 4, 5, 6, 7], .r, .r, .no, .no, .reg⟩
  | .fcospi _ => some ⟨0x110, 3, true, [0, 4, 5, 6, 7], .r, .r, .no, .no, .reg⟩
  | .ftanh _ => some ⟨0x111, 3, true, [0, 4, 5, 6, 7], .r, .r, .no, .no, .reg⟩
  | .fscale _ => some ⟨0x112, 1, true, [0, 4, 5, 6, 7], .r, .r, .r, .no, .reg⟩
  | .fcopys _ => some ⟨0x113, 1, true, [0], .r, .r, .r, .no, .reg⟩
  | .dadd _ => some ⟨0x120, 1, true, [0, 4, 5, 6, 7], .p, .p, .p, .no, .reg⟩
  | .dsub _ => some ⟨0x121, 1, true, [0, 4, 5, 6, 7], .p, .p, .p, .no, .reg⟩
  | .dmul _ => some ⟨0x122, 1, true, [0, 4, 5, 6, 7], .p, .p, .p, .no, .reg⟩
  | .dfma _ => some ⟨0x123, 1, true, [0, 4, 5, 6, 7], .p, .p, .p, .p, .reg⟩
  | .dmin _ => some ⟨0x124, 1, true, [0], .p, .p, .p, .no, .reg⟩
  | .dmax _ => some ⟨0x125, 1, true, [0], .p, .p, .p, .no, .reg⟩
  | .dcmp _ => some ⟨0x126, 1, true, [0, 1, 2, 3, 4, 5, 6, 7], .r, .p, .p, .no, .reg⟩
  | .ddiv _ => some ⟨0x127, 3, true, [0, 4, 5, 6, 7], .p, .p, .p, .no, .reg⟩
  | .dsqrt _ => some ⟨0x128, 3, true, [0, 4, 5, 6, 7], .p, .p, .no, .no, .reg⟩
  | .drnd _ => some ⟨0x129, 1, true, [0, 4, 5, 6, 7], .p, .p, .no, .no, .reg⟩
  | .fcvti _ => some ⟨0x130, 1, true, [0, 4, 5, 6, 7], .r, .r, .no, .no, .reg⟩
  | .icvtf _ => some ⟨0x131, 1, true, [0, 4, 5, 6, 7], .r, .r, .no, .no, .reg⟩
  | .dcvtf _ => some ⟨0x132, 1, false, [0, 4, 5, 6, 7], .r, .p, .no, .no, .reg⟩
  | .fcvtd _ => some ⟨0x133, 1, false, [0, 4, 5, 6, 7], .p, .r, .no, .no, .reg⟩
  | .dcvtl _ => some ⟨0x134, 1, true, [0, 4, 5, 6, 7], .p, .p, .no, .no, .reg⟩
  | .lcvtd _ => some ⟨0x135, 1, true, [0, 4, 5, 6, 7], .p, .p, .no, .no, .reg⟩
  | .padd _ => some ⟨0x180, 2, true, [0, 4, 5, 6, 7], .r, .r, .r, .no, .reg⟩
  | .psub _ => some ⟨0x181, 2, true, [0, 4, 5, 6, 7], .r, .r, .r, .no, .reg⟩
  | .pmul _ => some ⟨0x182, 2, true, [0, 4, 5, 6, 7], .r, .r, .r, .no, .reg⟩
  | .pfma _ => some ⟨0x183, 2, true, [0, 4, 5, 6, 7], .r, .r, .r, .r, .reg⟩
  | .pmin _ => some ⟨0x184, 2, true, [0], .r, .r, .r, .no, .reg⟩
  | .pmax _ => some ⟨0x185, 2, true, [0], .r, .r, .r, .no, .reg⟩
  | .pabs _ => some ⟨0x186, 2, true, [0], .r, .r, .no, .no, .reg⟩
  | .pcmp _ => some ⟨0x187, 2, true, [0, 1, 2, 3, 4, 5, 6, 7], .r, .r, .r, .no, .reg⟩
  | .psel _ => some ⟨0x188, 2, true, [0], .r, .r, .r, .r, .reg⟩
  | .pdot2 _ => some ⟨0x189, 2, true, [0, 4, 5, 6, 7], .r, .r, .r, .r, .reg⟩
  | .pdot4 _ => some ⟨0x18a, 2, true, [0, 4, 5, 6, 7], .r, .r, .r, .r, .reg⟩
  | .pshrr _ => some ⟨0x18b, 2, true, [0, 1], .r, .r, .r, .no, .either⟩
  | .pclamp _ => some ⟨0x18c, 2, true, [0], .r, .r, .r, .r, .reg⟩
  | .cvt a => some ⟨0x190, 2, false, [0, 4, 5, 6, 7], .r, (.span (cvtSources a) false), (if cvtDf a = 5 ∨ cvtDf a = 6 then .p else .no), .no, .reg⟩
  | .packh _ => some ⟨0x191, 2, true, [0, 1, 2], .r, .r, .r, .no, .reg⟩
  | .unpk _ => some ⟨0x192, 2, true, [0, 1, 2, 3, 4, 5, 6, 7], .r, .r, .no, .no, .reg⟩
  | .insrt _ => some ⟨0x193, 2, true, [0, 4, 5, 6, 7], .r, .r, .no, .r, .reg⟩
  | .tagset _ => some ⟨0x194, 0, true, [0, 1, 2, 3, 4, 5, 6, 7], .r, .r, .no, .no, .reg⟩
  | .tagget _ => some ⟨0x195, 0, true, [0], .r, .r, .no, .no, .reg⟩
  | .pbpack _ => some ⟨0x1a0, 2, false, [0], .r, .r, .p, .no, .reg⟩
  | .pbpacks _ => some ⟨0x1a1, 2, false, [0], .r, .r, .p, .r, .reg⟩
  | .pbunpk _ => some ⟨0x1a2, 2, false, [0], .r, .r, .no, .r, .reg⟩
  | .shfl _ => some ⟨0x200, 0, false, [0], .r, .r, .r, .no, .either⟩
  | .slideup _ => some ⟨0x201, 0, false, [0, 1], .r, .r, .r, .no, .either⟩
  | .slidedn _ => some ⟨0x202, 0, false, [0, 1], .r, .r, .r, .no, .either⟩
  | .swz _ => some ⟨0x203, 0, false, [0], .r, .r, .r, .no, .either⟩
  | .ballot _ => some ⟨0x204, 0, false, [0], .r, .r, .r, .no, .either⟩
  | .vany _ => some ⟨0x205, 0, false, [0], .r, .r, .no, .no, .zero⟩
  | .vall _ => some ⟨0x206, 0, false, [0], .r, .r, .no, .no, .zero⟩
  | .first _ => some ⟨0x207, 0, false, [0], .r, .r, .no, .no, .zero⟩
  | .readl _ => some ⟨0x208, 0, false, [0], .r, .r, .r, .no, .either⟩
  | .redadd a => some ⟨0x209, 1, false, [0, 1, 2, 3, 4], (if a.m.toNat % 8 = 3 then .p else .r), (if a.m.toNat % 8 = 3 then .p else .r), .no, .no, .reg⟩
  | .redmin a => some ⟨0x20a, 1, false, [0, 1, 2, 3, 4], (if a.m.toNat % 8 = 3 then .p else .r), (if a.m.toNat % 8 = 3 then .p else .r), .no, .no, .reg⟩
  | .redmax a => some ⟨0x20b, 1, false, [0, 1, 2, 3, 4], (if a.m.toNat % 8 = 3 then .p else .r), (if a.m.toNat % 8 = 3 then .p else .r), .no, .no, .reg⟩
  | .scan a => some ⟨0x20c, 1, true, [0, 1, 2, 3, 4], (if a.m.toNat % 8 = 3 then .p else .r), (if a.m.toNat % 8 = 3 then .p else .r), .no, .no, .reg⟩
  | .mbcnt _ => some ⟨0x20d, 0, false, [0], .r, .r, .no, .no, .reg⟩
  | .ld a => some ⟨0x280, 1, true, [0, 1, 2, 3, 4], (widthRu (a.m.toNat % 8)), .p, .no, .no, .reg⟩
  | .ldx a => some ⟨0x281, 1, true, [0, 1, 2, 3, 4], (widthRu (a.m.toNat % 8)), .p, .r, .no, .reg⟩
  | .st a => some ⟨0x282, 1, false, [0, 1, 2, 3, 4], .no, .p, (widthRu (a.m.toNat % 8)), .no, .reg⟩
  | .stx a => some ⟨0x283, 1, false, [0, 1, 2, 3, 4], .no, .p, (widthRu (a.m.toNat % 8)), .r, .reg⟩
  | .lda a => some ⟨0x284, 1, false, [0], (hintRu a.ext), .p, .no, .no, .reg⟩
  | .stl a => some ⟨0x285, 1, false, [0], .no, .p, (hintRu a.ext), .no, .reg⟩
  | .atom a => some ⟨0x286, 1, true, [0, 1, 2, 3, 4, 5, 6, 7], (hintRu a.ext), .p, (hintRu a.ext), .no, .reg⟩
  | .atomcas a => some ⟨0x287, 1, false, [0], (hintRu a.ext), .p, (hintRu a.ext), (hintRu a.ext), .reg⟩
  | .red a => some ⟨0x288, 1, true, [0, 1, 2, 3, 4, 5, 6, 7], .no, .p, (hintRu a.ext), .no, .reg⟩
  | .fence _ => some ⟨0x289, 1, false, [0], .no, .no, .no, .no, .reg⟩
  | .bar _ => some ⟨0x28a, 1, false, [2, 3], .no, .r, .no, .no, .reg⟩
  | .arrive _ => some ⟨0x28b, 1, false, [2, 3], .r, .r, .no, .no, .reg⟩
  | .waitb _ => some ⟨0x28c, 1, false, [2, 3], .no, .r, .r, .no, .reg⟩
  | .waitne _ => some ⟨0x28d, 1, false, [0], .r, .p, .r, .no, .reg⟩
  | .cwb a => some ⟨0x290, 1, true, [0], (if a.m.toNat < 8 then .no else .r), .p, .r, .no, .reg⟩
  | .cinv a => some ⟨0x291, 1, true, [0], (if a.m.toNat < 8 then .no else .r), .p, .r, .no, .reg⟩
  | .cwbi a => some ⟨0x292, 1, true, [0], (if a.m.toNat < 8 then .no else .r), .p, .r, .no, .reg⟩
  | .cprf a => some ⟨0x293, 1, true, [0], (if a.m.toNat < 8 then .no else .r), .p, .r, .no, .reg⟩
  | .subs _ => some ⟨0x298, 1, true, [1, 2, 3, 4], .r, .p, .r, .no, .reg⟩
  | .unsub _ => some ⟨0x299, 1, false, [0], .no, .p, .r, .no, .reg⟩
  | .supg _ => some ⟨0x29a, 1, false, [0], .no, .p, .r, .no, .reg⟩
  | .skpush _ => some ⟨0x2a0, 1, false, [0, 1, 2, 3], .no, .r, .no, .no, .reg⟩
  | .skpop _ => some ⟨0x2a1, 1, false, [0, 1, 2, 3], .r, .no, .no, .no, .reg⟩
  | .skfree _ => some ⟨0x2a2, 1, false, [0, 1, 2, 3], .r, .no, .no, .no, .reg⟩
  | .claim _ => some ⟨0x300, 0, false, [0], .r, .r, .no, .no, .reg⟩
  | .release _ => some ⟨0x301, 0, false, [0], .no, .r, .r, .no, .reg⟩
  | .mma a => some ⟨0x302, 2, false, [0], (.span (accSpan a.nsz.toNat a.acc32) false), .p, .r, .no, .reg⟩
  | .mmawait _ => some ⟨0x303, 0, false, [0], .no, .no, .no, .no, .reg⟩
  | .opfence _ => some ⟨0x304, 0, false, [0], .no, .no, .no, .no, .reg⟩
  | .oxmm a => some ⟨0x305, 2, false, [0], (.span (accSpan (a.x8.toNat % 4) (a.x8.toNat / 4 % 2 = 1)) false), .p, .r, .p, .reg⟩
  | .acccvt _ => some ⟨0x306, 2, true, [0, 4, 5, 6, 7], .r, .t, .no, .no, .reg⟩
  | .accset _ => some ⟨0x307, 2, false, [0], .t, .r, .no, .no, .reg⟩
  | .xcG2s a => some ⟨0x310, 1, false, [0], (if a.rep then .r else .no), .p, .p, .no, .reg⟩
  | .xcS2g a => some ⟨0x310, 1, false, [0], (if a.rep then .r else .no), .p, .p, .no, .reg⟩
  | .xcS2s a => some ⟨0x310, 1, false, [0], (if a.rep then .r else .no), .p, .p, .no, .reg⟩
  | .xcG2o a => some ⟨0x310, 1, false, [0], (if a.rep then .r else .no), .p, .p, .no, .reg⟩
  | .xcS2o a => some ⟨0x310, 1, false, [0], (if a.rep then .r else .no), .p, .p, .no, .reg⟩
  | .xcC2d a => some ⟨0x310, 1, false, [0], (if a.rep then .r else .no), .p, .p, .no, .reg⟩
  | .xcGath a => some ⟨0x310, 1, false, [0], (if a.rep then .r else .no), .p, .p, .no, .reg⟩
  | .xcRscat a => some ⟨0x310, 1, false, [0], (if a.rep then .r else .no), .p, .p, .no, .reg⟩
  | .xcAgath a => some ⟨0x310, 1, false, [0], (if a.rep then .r else .no), .p, .p, .no, .reg⟩
  | .xcAredu a => some ⟨0x310, 1, false, [0], (if a.rep then .r else .no), .p, .p, .no, .reg⟩
  | .xcPut a => some ⟨0x310, 1, false, [0], (if a.rep then .r else .no), .p, .p, .no, .reg⟩
  | .xcGet a => some ⟨0x310, 1, false, [0], (if a.rep then .r else .no), .p, .p, .no, .reg⟩
  | .xcGstart a => some ⟨0x310, 1, false, [0], (if a.rep then .r else .no), .p, .no, .no, .reg⟩
  | .xcGstat a => some ⟨0x310, 1, false, [0], (if a.rep then .r else .no), .no, .no, .no, .reg⟩
  | .xcGcond a => some ⟨0x310, 1, false, [0], (if a.rep then .r else .no), .p, .p, .no, .reg⟩
  | .fetchwork _ => some ⟨0x318, 1, false, [0], .no, .p, .no, .no, .reg⟩
  | .refill _ => some ⟨0x319, 1, false, [0], .r, .r, .no, .no, .reg⟩
  | .itemset _ => some ⟨0x31a, 1, false, [0], .no, .r, .r, .no, .reg⟩
  | .movs a => some ⟨0x380, 0, false, [0], (if selWide (srcField a.b).toNat then .p else .r), .no, .im, .no, .reg⟩
  | .movsw _ => some ⟨0x381, 0, false, [0], .no, .r, .im, .no, .reg⟩
  | .trap _ => some ⟨0x382, 0, false, [0], .no, .no, .im, .no, .reg⟩
  | .eret _ => some ⟨0x383, 0, false, [0], .no, .no, .no, .no, .reg⟩
  | .sigchk _ => some ⟨0x384, 0, false, [0], .no, .im, .im, .no, .reg⟩
  | .chkreq _ => some ⟨0x385, 0, false, [0], .no, .no, .no, .no, .reg⟩
  | .sleep _ => some ⟨0x387, 0, false, [0], .r, .r, .no, .no, .reg⟩
  | .evsend _ => some ⟨0x388, 0, false, [0], .no, .no, .no, .no, .reg⟩
  | .tlbinv a => some ⟨0x389, 1, false, [0, 1, 2], .no, (if a.m.toNat % 8 = 0 then .p else .no), .r, .no, .reg⟩
  | .ctxsave _ => some ⟨0x38a, 1, false, [0], .r, .p, .r, .no, .reg⟩
  | .ctxload _ => some ⟨0x38b, 1, true, [0], .r, .p, .r, .no, .reg⟩
  | .poisonclr a => some ⟨0x38c, 1, false, [0, 1], .no, (if a.m.toNat % 8 = 0 then .r else .p), .no, .no, .reg⟩
  | .hostmsg _ => some ⟨0x38d, 1, false, [0], .r, .p, .r, .no, .reg⟩
  | .rasrd _ => some ⟨0x38e, 0, false, [0], .p, .r, .no, .no, .reg⟩
  | .illegal _ => none
  | .claimCheck _ _ => none
  | .checkedOnlyExit _ => none
  | .deliveryRingSpace _ => none
  | .mmaComplete _ _ => none
  | .oxmmComplete _ => none
  | .engineCommandComplete _ _ => none
  | .engineDelivery _ => none
  | .nodeEnd _ _ => none
  | .nodeLaunchTeam _ _ => none
  | .nodeCopy _ _ => none
  | .nodeCondition _ _ => none
  | .nodeWhile _ _ => none
  | .nodeJoin _ _ => none
  | .graphComplete _ => none
  | .workWithdrawn _ => none
  | .placementUnit _ => none
  | .groupStart _ => none
  | .teamRetire _ => none
  | .waitneWake _ => none
  | .sleepDeadline _ => none
  | .rangeOpComplete _ => none
  | .subscriptionAnswered _ => none
  | .missFill _ _ _ _ => none
  | .l1Eviction _ _ _ => none
  | .storeAccepted _ _ => none
  | .hwErrorContainment _ _ _ => none
  | .registerScrub _ _ _ => none
  | .refresh _ _ => none
  | .preemptionRequest _ => none
  | .yieldPointSave _ => none
  | .preemptionTimeout _ => none
  | .groupRestore _ => none
  | .watchdogExpired _ => none
  | .recoveryLimitExpired _ _ => none
  | .peerInRecovery _ => none
  | .peerRecovered _ => none
  | .deadTimeExpired _ => none
  | .tokenRequest _ => none
  | .tokenGrant => none
  | .tokenReturn _ => none
  | .powerEstimate _ => none
  | .budgetInterval => none
  | .rackPowerMessage _ _ _ => none
  | .rackBudgetExpiry => none
  | .railSwitchComplete _ => none
  | .gatePowerOff _ => none
  | .retentionEntry _ => none
  | .takeCommands _ => none
  | .launch _ _ => none
  | .graphLaunch _ _ _ _ => none
  | .copy _ _ _ _ => none
  | .signal _ _ _ => none
  | .wait _ _ _ => none
  | .powerRail _ _ _ => none
  | .powerGate _ _ _ => none
  | .retention _ _ _ => none
  | .matrixTokenPool _ _ => none
  | .memoryByteBudget _ _ _ => none
  | .powerFloor _ _ => none
  | .rampRate _ _ => none
  | .rackBudget _ _ => none
  | .queue _ _ _ => none
  | .context _ _ _ => none
  | .communicator _ _ _ _ _ => none
  | .preEmpt _ _ => none
  | .restore _ _ => none
  | .mapOutCorePair _ _ => none
  | .mapOutDramRow _ _ => none
  | .mapOutOsierLane _ _ => none
  | .identity _ _ => none
  | .setTime _ _ => none
  | .rasHeader _ _ => none
  | .rasClear _ => none
  | .queueReset _ _ => none
  | .ringBind _ _ _ _ _ _ _ => none
  | .attest _ _ _ => none
  | .setDeviceId _ _ _ => none
  | .declareDead _ _ => none
  | .admitAgent _ _ => none
  | .raiseSecurityVersion _ _ => none
  | .poisonPage _ _ => none
  | .hostEvent _ _ => none
  | .eventRingSpace _ _ => none
  | .reset => none
  | .bootDoorbell _ => none
  | .transientRequest _ _ _ _ _ => none
  | .persistentRequest _ _ _ _ => none
  | .tokensBackAtPort _ _ => none
  | .exactRead _ _ => none
  | .subscribedRead _ _ => none
  | .writePermission _ _ => none
  | .writeThrough _ _ _ _ => none
  | .notice _ _ _ => none
  | .writeBack _ _ _ => none
  | .subscriptionRequest _ _ _ _ _ => none
  | .upgradeRequest _ _ => none
  | .unsubscribeRequest _ _ => none
  | .acknowledgement _ _ _ _ => none
  | .invalidation _ _ _ => none
  | .recall _ _ => none
  | .update _ _ _ => none
  | .grant _ _ _ _ => none
  | .done1 _ _ => none
  | .done2 _ _ => none
  | .retry _ _ => none
  | .staleEpoch _ => none
  | .smWriteBack _ _ _ => none
  | .hoopCarve _ _ _ _ _ => none
  | .rdmaRequest _ _ _ _ _ => none

/-- The base word's common rules (R126, R127, R131): the class is not faster than the opcode's, no guard is 127, and,
without a yield point, only sources that are read are held. -/
def hdrOk (d : Desc) (h : Hdr) : Bool :=
  d.cls ≤ h.cls.toNat && h.g1 ≠ 127 && h.g2 ≠ 127 &&
  (h.y || ((!h.hold.getLsbD 0 || d.a.named) && (!h.hold.getLsbD 1 || d.b.named) && (!h.hold.getLsbD 2 || d.c.named)))

/-- The `mod` value is one the opcode defines (R124, R133). -/
def modOk (d : Desc) (m : BitVec 4) : Bool := (d.m63 || m.toNat < 8) && m.toNat % 8 ∈ d.subs

/-- Rules of the shape `Alu`. -/
def aluOk (d : Desc) (x : Alu) : Bool :=
  let held := match x.b with | .imm _ => { d with b := .no } | _ => d
  hdrOk held x.h && modOk d x.m && d.d.ok x.vd && d.a.ok x.va &&
  match d.bf, x.b with
  | .reg, .reg r => d.b.ok r
  | .either, .reg r => d.b.ok r
  | .either, .imm w => d.b ≠ .no || w = 0
  | .imm, .imm _ => true
  | .zero, .reg r => r = 0
  | .zero, .imm w => w = 0
  | _, _ => false

/-- Rules of the shape `Ter`, its extension fields apart. -/
def terOk (d : Desc) (x : Ter) : Bool :=
  hdrOk d x.h && modOk d x.m && d.d.ok x.vd && d.a.ok x.va && d.b.ok x.vb && d.c.ok x.vc

/-- The extension of form S holds 0 in every field but `vc` (R139, R166, R174). -/
def terPlain (x : Ter) : Bool := x.x8 = 0 && x.x4 = 0 && x.tg = 0

/-- Rules of form T: the guards of `ELSE`, `ENDIF`, `LOOP`, `ENDLOOP` are 63; `k` and `off` only where Table 8-6 has
them, `k` at most 125. -/
def ctlOk (d : Desc) (guards k off : Bool) (x : Ctl) : Bool :=
  hdrOk d x.h && d.d.ok x.vd && d.a.ok x.va && (guards || (x.h.g1 = 63 && x.h.g2 = 63)) &&
  (if k then x.k.toNat ≤ 125 else x.k = 0) && (off || x.off = 0)

/-- The rule of Table 10-1 for one opcode: the orders it lists, and which of the other fields it uses. -/
def mextOk (ords : List Nat) (scope tg pol hint vc : Bool) (e : MExt) : Bool :=
  e.ord.toNat ∈ ords && (if scope then e.scope.toNat ≤ 6 else e.scope = 0) && (tg || e.tg = 0) && (pol || e.pol = 0) &&
  (hint || e.hint = 0) && (vc || e.vc = 0)

/-- Rules of the shape `Mem`; `long`: form M only (R195, R199). -/
def memOk (d : Desc) (long : Bool) (ext : MExt → Bool) (x : Mem) : Bool :=
  hdrOk d x.h && modOk d x.m && d.d.ok x.vd && d.a.ok x.va && d.b.ok x.vb &&
  match x.ext with
  | none => !long && d.c.ok 0
  | some e => ext e && d.c.ok e.vc

/-- The access width of a strong access: `.W` or `.D` (R195). -/
def strongWidth (e : MExt) : Bool := e.hint = 2 || e.hint = 3

/-- Operation codes of `ATOM` (Table 10-3): `.INC` and `.DEC` at `.W` only, 14 and 15 reserved. -/
def atomOp (m : Nat) (e : Option MExt) : Bool :=
  m ≤ 13 && (match e with
    | some x => !(m = 9 || m = 10) || x.hint = 2
    | none => false)

/-- The encoding rules of R178 for `CVT`. -/
def cvtOk (x : Ter) : Bool :=
  let ns := elemsOf (cvtSf x); let nd := elemsOf (cvtDf x)
  cvtSf x ≠ 15 && cvtDf x ≠ 15 && x.x8.toNat / 8 % 2 = 0 && x.tg.toNat = cvtTag (cvtDf x) &&
  (ns % nd = 0 || nd % ns = 0) && (if nd ≥ ns then cvtJ x = 0 else cvtJ x < ns / nd)

/-- Every rule of the encoding that the words alone decide (R136, Table 7-13). The device steps have none. -/
def encodable (i : Instr) : Bool :=
  match desc i with
  | none => true
  | some d =>
    match i with
    | .iadd a => aluOk d a
    | .isub a => aluOk d a
    | .iadds a => aluOk d a
    | .isubs a => aluOk d a
    | .ineg a => aluOk d a
    | .iabs a => aluOk d a
    | .imin a => aluOk d a
    | .imax a => aluOk d a
    | .umin a => aluOk d a
    | .umax a => aluOk d a
    | .imul a => aluOk d a
    | .imulhi a => aluOk d a
    | .umulhi a => aluOk d a
    | .imad a => terOk d a && terPlain a
    | .idiv a => aluOk d a
    | .udiv a => aluOk d a
    | .irem a => aluOk d a
    | .urem a => aluOk d a
    | .andI a => aluOk d a
    | .orI a => aluOk d a
    | .xorI a => aluOk d a
    | .andn a => aluOk d a
    | .shl a => aluOk d a
    | .shr a => aluOk d a
    | .sar a => aluOk d a
    | .rol a => aluOk d a
    | .ror a => aluOk d a
    | .bfx a => terOk d a && terPlain a
    | .bfi a => terOk d a && terPlain a
    | .popc a => aluOk d a
    | .clz a => aluOk d a
    | .ctz a => aluOk d a
    | .brev a => aluOk d a
    | .permb a => aluOk d a && immBelow a.b 16
    | .icmp a => aluOk d a
    | .ucmp a => aluOk d a
    | .sel a => terOk d a && terPlain a
    | .mov a => aluOk d a
    | .movi a => aluOk d a
    | .movr a => aluOk d a
    | .movw a => aluOk d a
    | .iadd64 a => aluOk d a
    | .isub64 a => aluOk d a
    | .imul64 a => aluOk d a
    | .umulw a => aluOk d a
    | .imulw a => aluOk d a
    | .shl64 a => aluOk d a
    | .shr64 a => aluOk d a
    | .sar64 a => aluOk d a
    | .icmp64 a => aluOk d a
    | .ucmp64 a => aluOk d a
    | .movi64 a => hdrOk d a.h && modOk d a.m && d.d.ok a.vd
    | .lea a => aluOk d a
    | .ptr a => aluOk d a
    | .pfield a => aluOk d a && immBelow a.b 2
    | .ifI a => ctlOk d true false true a
    | .elseI a => ctlOk d false false true a
    | .endif a => ctlOk d false false false a
    | .loop a => ctlOk d false false true a
    | .breakI a => ctlOk d true true false a
    | .contI a => ctlOk d true true false a
    | .endloop a => ctlOk d false false true a
    | .bra a => ctlOk d true false true a
    | .brx a => ctlOk d true false false a
    | .call a => ctlOk d true false true a
    | .callx a => ctlOk d true false false a
    | .ret a => ctlOk d true false false a
    | .exit a => ctlOk d true false false a
    | .nop a => hdrOk d a.h && a.len ≠ 0
    | .yieldI a => aluOk d a && a.h.y
    | .fadd a => aluOk d a
    | .fsub a => aluOk d a
    | .fmul a => aluOk d a
    | .ffma a => terOk d a && terPlain a
    | .fmin a => aluOk d a
    | .fmax a => aluOk d a
    | .fcmp a => aluOk d a
    | .fclass a => aluOk d a
    | .frnd a => aluOk d a
    | .fdiv a => aluOk d a
    | .fsqrt a => aluOk d a
    | .frcp a => aluOk d a
    | .frsq a => aluOk d a
    | .fexp2 a => aluOk d a
    | .flog2 a => aluOk d a
    | .fsinpi a => aluOk d a
    | .fcospi a => aluOk d a
    | .ftanh a => aluOk d a
    | .fscale a => aluOk d a
    | .fcopys a => aluOk d a
    | .dadd a => aluOk d a
    | .dsub a => aluOk d a
    | .dmul a => aluOk d a
    | .dfma a => terOk d a && terPlain a
    | .dmin a => aluOk d a
    | .dmax a => aluOk d a
    | .dcmp a => aluOk d a
    | .ddiv a => aluOk d a
    | .dsqrt a => aluOk d a
    | .drnd a => aluOk d a
    | .fcvti a => aluOk d a
    | .icvtf a => aluOk d a
    | .dcvtf a => aluOk d a
    | .fcvtd a => aluOk d a
    | .dcvtl a => aluOk d a
    | .lcvtd a => aluOk d a
    | .padd a => aluOk d a
    | .psub a => aluOk d a
    | .pmul a => aluOk d a
    | .pfma a => terOk d a && terPlain a
    | .pmin a => aluOk d a
    | .pmax a => aluOk d a
    | .pabs a => aluOk d a
    | .pcmp a => aluOk d a
    | .psel a => terOk d a && terPlain a
    | .pdot2 a => terOk d a && terPlain a
    | .pdot4 a => terOk d a && terPlain a
    | .pshrr a => aluOk d a
    | .pclamp a => terOk d a && terPlain a
    | .cvt a => terOk d a && cvtOk a
    | .packh a => aluOk d a
    | .unpk a => aluOk d a
    | .insrt a => terOk d a && a.x8.toNat < 8 && a.x4 = 0 && a.tg = 0
    | .tagset a => aluOk d a
    | .tagget a => aluOk d a
    | .pbpack a => terOk d a && a.tg.toNat ≥ 13 && a.x4 = 0
    | .pbpacks a => terOk d a && a.tg.toNat ≥ 13 && a.x4 = 0 && a.x8 = 0
    | .pbunpk a => terOk d a && terPlain a
    | .shfl a => aluOk d a
    | .slideup a => aluOk d a
    | .slidedn a => aluOk d a
    | .swz a => aluOk d a
    | .ballot a => aluOk d a
    | .vany a => aluOk d a
    | .vall a => aluOk d a
    | .first a => aluOk d a
    | .readl a => aluOk d a
    | .redadd a => aluOk d a
    | .redmin a => aluOk d a
    | .redmax a => aluOk d a
    | .scan a => aluOk d a
    | .mbcnt a => aluOk d a
    | .ld a => memOk d false (mextOk [0] false true true true false) a && (a.m.toNat < 8 || a.m.toNat % 8 < 2)
    | .ldx a => memOk d false (mextOk [0] false true true true false) a && (a.m.toNat < 8 || a.m.toNat % 8 < 2)
    | .st a => memOk d false (mextOk [0] false false true true false) a
    | .stx a => memOk d false (mextOk [0] false false true true true) a
    | .lda a => memOk d true (fun e => mextOk [0, 1, 4] true true true true false e && strongWidth e) a
    | .stl a => memOk d true (fun e => mextOk [0, 2, 4] true false true true false e && strongWidth e) a
    | .atom a => memOk d true (fun e => mextOk [0, 1, 2, 3, 4] true false true true false e && strongWidth e) a && atomOp a.m.toNat a.ext
    | .atomcas a => memOk d true (fun e => mextOk [0, 1, 2, 3, 4] true false true true true e && strongWidth e) a
    | .red a => memOk d true (fun e => mextOk [0, 2] true false true true false e && strongWidth e) a && atomOp a.m.toNat a.ext && a.m ≠ 8
    | .fence a => memOk d true (fun e => e.off = 0 && mextOk [1, 2, 3, 4] true false false false false e) a
    | .bar a => aluOk d a
    | .arrive a => aluOk d a
    | .waitb a => aluOk d a
    | .waitne a => memOk d false (mextOk [0, 1] true false false false false) a
    | .cwb a => memOk d false (mextOk [0] false false false false false) a
    | .cinv a => memOk d false (mextOk [0] false false false false false) a
    | .cwbi a => memOk d false (mextOk [0] false false false false false) a
    | .cprf a => memOk d false (mextOk [0] false false true true false) a
    | .subs a => aluOk d a
    | .unsub a => aluOk d a
    | .supg a => aluOk d a
    | .skpush a => aluOk d a
    | .skpop a => aluOk d a
    | .skfree a => aluOk d a
    | .claim a => aluOk d a
    | .release a => aluOk d a
    | .mma a => hdrOk d a.h && d.d.ok a.vd && d.a.ok a.va && d.b.ok a.vb && a.nsz ≠ 3
    | .mmawait a => aluOk d a
    | .opfence a => aluOk d a
    | .oxmm a => terOk d a && a.x8.toNat < 8 && a.x8.toNat % 4 ≠ 3 && a.x4.toNat < 4 && a.tg = 0
    | .acccvt a => aluOk d a
    | .accset a => aluOk d a
    | .xcG2s a => hdrOk d a.h && d.d.ok a.vd && d.a.ok a.va && d.b.ok a.vb
    | .xcS2g a => hdrOk d a.h && d.d.ok a.vd && d.a.ok a.va && d.b.ok a.vb
    | .xcS2s a => hdrOk d a.h && d.d.ok a.vd && d.a.ok a.va && d.b.ok a.vb
    | .xcG2o a => hdrOk d a.h && d.d.ok a.vd && d.a.ok a.va && d.b.ok a.vb
    | .xcS2o a => hdrOk d a.h && d.d.ok a.vd && d.a.ok a.va && d.b.ok a.vb
    | .xcC2d a => hdrOk d a.h && d.d.ok a.vd && d.a.ok a.va && d.b.ok a.vb
    | .xcGath a => hdrOk d a.h && d.d.ok a.vd && d.a.ok a.va && d.b.ok a.vb
    | .xcRscat a => hdrOk d a.h && d.d.ok a.vd && d.a.ok a.va && d.b.ok a.vb
    | .xcAgath a => hdrOk d a.h && d.d.ok a.vd && d.a.ok a.va && d.b.ok a.vb
    | .xcAredu a => hdrOk d a.h && d.d.ok a.vd && d.a.ok a.va && d.b.ok a.vb
    | .xcPut a => hdrOk d a.h && d.d.ok a.vd && d.a.ok a.va && d.b.ok a.vb
    | .xcGet a => hdrOk d a.h && d.d.ok a.vd && d.a.ok a.va && d.b.ok a.vb
    | .xcGstart a => hdrOk d a.h && d.d.ok a.vd && d.a.ok a.va && d.b.ok a.vb
    | .xcGstat a => hdrOk d a.h && d.d.ok a.vd && d.a.ok a.va && d.b.ok a.vb
    | .xcGcond a => hdrOk d a.h && d.d.ok a.vd && d.a.ok a.va && d.b.ok a.vb
    | .fetchwork a => aluOk d a
    | .refill a => aluOk d a
    | .itemset a => aluOk d a
    | .movs a => aluOk d a && selKnown (srcField a.b).toNat
    | .movsw a => aluOk d a && selWritable (srcField a.b).toNat
    | .trap a => aluOk d a
    | .eret a => aluOk d a
    | .sigchk a => aluOk d a
    | .chkreq a => aluOk d a
    | .sleep a => aluOk d a
    | .evsend a => aluOk d a
    | .tlbinv a => aluOk d a
    | .ctxsave a => aluOk d a
    | .ctxload a => aluOk d a
    | .poisonclr a => aluOk d a
    | .hostmsg a => aluOk d a
    | .rasrd a => aluOk d a
    | _ => true
where
  /-- A register, or an immediate below 2^n (R145, R154). -/
  immBelow (b : Src) (n : Nat) : Bool := match b with | .imm w => w.toNat < 2 ^ n | _ => true

end Sys2Proof.Machine
end

