-- ==== Sys2Proof/WellFormed.lean ====
section
/-! DEFINITION. A well-formed instruction: one whose fields meet every rule that the words alone decide (07_encoding.md
R136, Table 7-13). Its rules are those of Machine/Encoding.lean. -/

namespace Sys2Proof

/-- The instruction's fields meet the rules of its opcode (R124 to R136). -/
abbrev Instr.WellFormed (i : Instr) : Bool := Machine.encodable i

end Sys2Proof
end

