-- ==== Sys2Proof/Decode.lean ====
section
/-! DEFINITION. The decoder: from bytes to an instruction (07_encoding.md R120 to R136), total, `none` for every
encoding that Table 7-13 gives an illegal-instruction fault on its words alone; then the encoder, from the same tables. -/

namespace Sys2Proof

open Sys2Proof.Machine

/-- An instruction's fields as the words hold them: the base word of Table 7-1 and the extension bits 127:64. -/
structure Raw where
  len : BitVec 2
  h : Hdr
  opc : BitVec 10
  vd : RegField
  va : RegField
  vb : RegField
  m : BitVec 4
  ext : DWord
  base : DWord
  deriving DecidableEq, Repr

/-- Bytes of an instruction whose length code is `c` (R120); 0 for code 0. -/
def lenBytes (c : Nat) : Nat := nth 0 [0, 8, 12, 16] c

/-- The fields of a base word and an extension (Table 7-1). -/
def rawOf (w e : Nat) : Raw where
  len := BitVec.ofNat 2 w
  h :=
    { cls := BitVec.ofNat 2 (w / 2 ^ 2), stall := BitVec.ofNat 4 (w / 2 ^ 4), y := bitAt w 8,
      hold := BitVec.ofNat 3 (w / 2 ^ 9), g1 := BitVec.ofNat 7 (w / 2 ^ 12), g2 := BitVec.ofNat 7 (w / 2 ^ 19) }
  opc := BitVec.ofNat 10 (w / 2 ^ 26)
  vd := BitVec.ofNat 8 (w / 2 ^ 36)
  va := BitVec.ofNat 8 (w / 2 ^ 44)
  vb := BitVec.ofNat 8 (w / 2 ^ 52)
  m := BitVec.ofNat 4 (w / 2 ^ 60)
  ext := BitVec.ofNat 64 e
  base := BitVec.ofNat 64 w

/-- Shape `Alu`: 64 bits, or 96 bits with `vb` 0 (Table 7-5). -/
def rawAlu? (r : Raw) : Option Alu :=
  if r.len = 1 then some ⟨r.h, r.m, r.vd, r.va, .reg r.vb⟩
  else if r.len = 2 ∧ r.vb = 0 then some ⟨r.h, r.m, r.vd, r.va, .imm (BitVec.ofNat 32 r.ext.toNat)⟩
  else none

/-- Form S (Table 7-6). -/
def rawTer? (r : Raw) : Option Ter :=
  if r.len = 2 ∧ r.ext.toNat / 2 ^ 24 = 0 then
    some ⟨r.h, r.m, r.vd, r.va, r.vb, BitVec.ofNat 8 r.ext.toNat, BitVec.ofNat 8 (r.ext.toNat / 2 ^ 16),
      BitVec.ofNat 4 (r.ext.toNat / 2 ^ 12), BitVec.ofNat 4 (r.ext.toNat / 2 ^ 8)⟩
  else none

/-- Form T (Table 7-9), with `mod` and `vb` 0 (R155). -/
def rawCtl? (r : Raw) : Option Ctl :=
  if r.len = 3 ∧ r.m = 0 ∧ r.vb = 0 ∧ bits r.ext.toNat 39 9 = 0 then
    some ⟨r.h, r.vd, r.va, BitVec.ofNat 7 (r.ext.toNat / 2 ^ 32), BitVec.ofNat 32 r.ext.toNat, BitVec.ofNat 16 (r.ext.toNat / 2 ^ 48)⟩
  else none

/-- Form W (Table 7-10). -/
def rawWide? (r : Raw) : Option Wide :=
  if r.len = 3 ∧ r.va = 0 ∧ r.vb = 0 then some ⟨r.h, r.m, r.vd, r.ext⟩ else none

/-- `NOP` at its three lengths (R162). -/
def rawNop? (r : Raw) : Option NopF :=
  if r.m = 0 ∧ r.vd = 0 ∧ r.va = 0 ∧ r.vb = 0 ∧ r.ext = 0 then some ⟨r.h, r.len⟩ else none

/-- 64 bits, or form M (Table 7-8). -/
def rawMem? (r : Raw) : Option Mem :=
  let e := r.ext.toNat
  if r.len = 1 then some ⟨r.h, r.m, r.vd, r.va, r.vb, none⟩
  else if r.len = 3 ∧ e / 2 ^ 56 = 0 ∧ bits e 46 2 = 0 then
    some ⟨r.h, r.m, r.vd, r.va, r.vb,
      some ⟨BitVec.ofNat 32 e, BitVec.ofNat 2 (e / 2 ^ 32), BitVec.ofNat 2 (e / 2 ^ 34), BitVec.ofNat 4 (e / 2 ^ 36),
        BitVec.ofNat 3 (e / 2 ^ 40), BitVec.ofNat 3 (e / 2 ^ 43), BitVec.ofNat 8 (e / 2 ^ 48)⟩⟩
  else none

/-- Form X (Table 11-3). -/
def rawMma? (r : Raw) : Option MmaF :=
  let e := r.ext.toNat
  if r.len = 3 ∧ r.m = 0 ∧ e / 2 ^ 8 = 0 ∧ bits e 5 1 = 0 ∧ bits e 1 3 = 0 then
    some ⟨r.h, r.vd, r.va, r.vb, bitAt e 0, bitAt e 4, BitVec.ofNat 2 (e / 2 ^ 6)⟩
  else none

/-- Form C: the engine function chooses the constructor (Table 7-7, Table 11-5). -/
def rawXc? (r : Raw) : Option Instr :=
  if r.len = 2 ∧ r.m = 0 ∧ r.ext.toNat / 2 ^ 8 = 0 then
    let a : XcF := ⟨r.h, r.vd, r.va, r.vb, bitAt r.ext.toNat 7⟩
    match r.ext.toNat % 2 ^ 7 with
    | 0x0 => some (.xcG2s a)
    | 0x1 => some (.xcS2g a)
    | 0x2 => some (.xcS2s a)
    | 0x3 => some (.xcG2o a)
    | 0x4 => some (.xcS2o a)
    | 0x5 => some (.xcC2d a)
    | 0x6 => some (.xcGath a)
    | 0x10 => some (.xcRscat a)
    | 0x11 => some (.xcAgath a)
    | 0x12 => some (.xcAredu a)
    | 0x13 => some (.xcPut a)
    | 0x14 => some (.xcGet a)
    | 0x20 => some (.xcGstart a)
    | 0x21 => some (.xcGstat a)
    | 0x22 => some (.xcGcond a)
    | _ => none
  else none

/-- The constructor that an opcode names (Table 7-12). -/
def ofRaw (r : Raw) : Option Instr :=
  match r.opc.toNat with
  | 0x0 => (rawAlu? r).map .iadd
  | 0x1 => (rawAlu? r).map .isub
  | 0x2 => (rawAlu? r).map .iadds
  | 0x3 => (rawAlu? r).map .isubs
  | 0x4 => (rawAlu? r).map .ineg
  | 0x5 => (rawAlu? r).map .iabs
  | 0x6 => (rawAlu? r).map .imin
  | 0x7 => (rawAlu? r).map .imax
  | 0x8 => (rawAlu? r).map .umin
  | 0x9 => (rawAlu? r).map .umax
  | 0xa => (rawAlu? r).map .imul
  | 0xb => (rawAlu? r).map .imulhi
  | 0xc => (rawAlu? r).map .umulhi
  | 0xd => (rawTer? r).map .imad
  | 0xe => (rawAlu? r).map .idiv
  | 0xf => (rawAlu? r).map .udiv
  | 0x10 => (rawAlu? r).map .irem
  | 0x11 => (rawAlu? r).map .urem
  | 0x18 => (rawAlu? r).map .andI
  | 0x19 => (rawAlu? r).map .orI
  | 0x1a => (rawAlu? r).map .xorI
  | 0x1b => (rawAlu? r).map .andn
  | 0x1c => (rawAlu? r).map .shl
  | 0x1d => (rawAlu? r).map .shr
  | 0x1e => (rawAlu? r).map .sar
  | 0x1f => (rawAlu? r).map .rol
  | 0x20 => (rawAlu? r).map .ror
  | 0x21 => (rawTer? r).map .bfx
  | 0x22 => (rawTer? r).map .bfi
  | 0x23 => (rawAlu? r).map .popc
  | 0x24 => (rawAlu? r).map .clz
  | 0x25 => (rawAlu? r).map .ctz
  | 0x26 => (rawAlu? r).map .brev
  | 0x27 => (rawAlu? r).map .permb
  | 0x30 => (rawAlu? r).map .icmp
  | 0x31 => (rawAlu? r).map .ucmp
  | 0x32 => (rawTer? r).map .sel
  | 0x33 => (rawAlu? r).map .mov
  | 0x34 => (rawAlu? r).map .movi
  | 0x35 => (rawAlu? r).map .movr
  | 0x36 => (rawAlu? r).map .movw
  | 0x40 => (rawAlu? r).map .iadd64
  | 0x41 => (rawAlu? r).map .isub64
  | 0x42 => (rawAlu? r).map .imul64
  | 0x43 => (rawAlu? r).map .umulw
  | 0x44 => (rawAlu? r).map .imulw
  | 0x45 => (rawAlu? r).map .shl64
  | 0x46 => (rawAlu? r).map .shr64
  | 0x47 => (rawAlu? r).map .sar64
  | 0x48 => (rawAlu? r).map .icmp64
  | 0x49 => (rawAlu? r).map .ucmp64
  | 0x4a => (rawWide? r).map .movi64
  | 0x50 => (rawAlu? r).map .lea
  | 0x51 => (rawAlu? r).map .ptr
  | 0x52 => (rawAlu? r).map .pfield
  | 0x80 => (rawCtl? r).map .ifI
  | 0x81 => (rawCtl? r).map .elseI
  | 0x82 => (rawCtl? r).map .endif
  | 0x83 => (rawCtl? r).map .loop
  | 0x84 => (rawCtl? r).map .breakI
  | 0x85 => (rawCtl? r).map .contI
  | 0x86 => (rawCtl? r).map .endloop
  | 0x87 => (rawCtl? r).map .bra
  | 0x88 => (rawCtl? r).map .brx
  | 0x89 => (rawCtl? r).map .call
  | 0x8a => (rawCtl? r).map .callx
  | 0x8b => (rawCtl? r).map .ret
  | 0x8c => (rawCtl? r).map .exit
  | 0x8d => (rawNop? r).map .nop
  | 0x8e => (rawAlu? r).map .yieldI
  | 0x100 => (rawAlu? r).map .fadd
  | 0x101 => (rawAlu? r).map .fsub
  | 0x102 => (rawAlu? r).map .fmul
  | 0x103 => (rawTer? r).map .ffma
  | 0x104 => (rawAlu? r).map .fmin
  | 0x105 => (rawAlu? r).map .fmax
  | 0x106 => (rawAlu? r).map .fcmp
  | 0x107 => (rawAlu? r).map .fclass
  | 0x108 => (rawAlu? r).map .frnd
  | 0x109 => (rawAlu? r).map .fdiv
  | 0x10a => (rawAlu? r).map .fsqrt
  | 0x10b => (rawAlu? r).map .frcp
  | 0x10c => (rawAlu? r).map .frsq
  | 0x10d => (rawAlu? r).map .fexp2
  | 0x10e => (rawAlu? r).map .flog2
  | 0x10f => (rawAlu? r).map .fsinpi
  | 0x110 => (rawAlu? r).map .fcospi
  | 0x111 => (rawAlu? r).map .ftanh
  | 0x112 => (rawAlu? r).map .fscale
  | 0x113 => (rawAlu? r).map .fcopys
  | 0x120 => (rawAlu? r).map .dadd
  | 0x121 => (rawAlu? r).map .dsub
  | 0x122 => (rawAlu? r).map .dmul
  | 0x123 => (rawTer? r).map .dfma
  | 0x124 => (rawAlu? r).map .dmin
  | 0x125 => (rawAlu? r).map .dmax
  | 0x126 => (rawAlu? r).map .dcmp
  | 0x127 => (rawAlu? r).map .ddiv
  | 0x128 => (rawAlu? r).map .dsqrt
  | 0x129 => (rawAlu? r).map .drnd
  | 0x130 => (rawAlu? r).map .fcvti
  | 0x131 => (rawAlu? r).map .icvtf
  | 0x132 => (rawAlu? r).map .dcvtf
  | 0x133 => (rawAlu? r).map .fcvtd
  | 0x134 => (rawAlu? r).map .dcvtl
  | 0x135 => (rawAlu? r).map .lcvtd
  | 0x180 => (rawAlu? r).map .padd
  | 0x181 => (rawAlu? r).map .psub
  | 0x182 => (rawAlu? r).map .pmul
  | 0x183 => (rawTer? r).map .pfma
  | 0x184 => (rawAlu? r).map .pmin
  | 0x185 => (rawAlu? r).map .pmax
  | 0x186 => (rawAlu? r).map .pabs
  | 0x187 => (rawAlu? r).map .pcmp
  | 0x188 => (rawTer? r).map .psel
  | 0x189 => (rawTer? r).map .pdot2
  | 0x18a => (rawTer? r).map .pdot4
  | 0x18b => (rawAlu? r).map .pshrr
  | 0x18c => (rawTer? r).map .pclamp
  | 0x190 => (rawTer? r).map .cvt
  | 0x191 => (rawAlu? r).map .packh
  | 0x192 => (rawAlu? r).map .unpk
  | 0x193 => (rawTer? r).map .insrt
  | 0x194 => (rawAlu? r).map .tagset
  | 0x195 => (rawAlu? r).map .tagget
  | 0x1a0 => (rawTer? r).map .pbpack
  | 0x1a1 => (rawTer? r).map .pbpacks
  | 0x1a2 => (rawTer? r).map .pbunpk
  | 0x200 => (rawAlu? r).map .shfl
  | 0x201 => (rawAlu? r).map .slideup
  | 0x202 => (rawAlu? r).map .slidedn
  | 0x203 => (rawAlu? r).map .swz
  | 0x204 => (rawAlu? r).map .ballot
  | 0x205 => (rawAlu? r).map .vany
  | 0x206 => (rawAlu? r).map .vall
  | 0x207 => (rawAlu? r).map .first
  | 0x208 => (rawAlu? r).map .readl
  | 0x209 => (rawAlu? r).map .redadd
  | 0x20a => (rawAlu? r).map .redmin
  | 0x20b => (rawAlu? r).map .redmax
  | 0x20c => (rawAlu? r).map .scan
  | 0x20d => (rawAlu? r).map .mbcnt
  | 0x280 => (rawMem? r).map .ld
  | 0x281 => (rawMem? r).map .ldx
  | 0x282 => (rawMem? r).map .st
  | 0x283 => (rawMem? r).map .stx
  | 0x284 => (rawMem? r).map .lda
  | 0x285 => (rawMem? r).map .stl
  | 0x286 => (rawMem? r).map .atom
  | 0x287 => (rawMem? r).map .atomcas
  | 0x288 => (rawMem? r).map .red
  | 0x289 => (rawMem? r).map .fence
  | 0x28a => (rawAlu? r).map .bar
  | 0x28b => (rawAlu? r).map .arrive
  | 0x28c => (rawAlu? r).map .waitb
  | 0x28d => (rawMem? r).map .waitne
  | 0x290 => (rawMem? r).map .cwb
  | 0x291 => (rawMem? r).map .cinv
  | 0x292 => (rawMem? r).map .cwbi
  | 0x293 => (rawMem? r).map .cprf
  | 0x298 => (rawAlu? r).map .subs
  | 0x299 => (rawAlu? r).map .unsub
  | 0x29a => (rawAlu? r).map .supg
  | 0x2a0 => (rawAlu? r).map .skpush
  | 0x2a1 => (rawAlu? r).map .skpop
  | 0x2a2 => (rawAlu? r).map .skfree
  | 0x300 => (rawAlu? r).map .claim
  | 0x301 => (rawAlu? r).map .release
  | 0x302 => (rawMma? r).map .mma
  | 0x303 => (rawAlu? r).map .mmawait
  | 0x304 => (rawAlu? r).map .opfence
  | 0x305 => (rawTer? r).map .oxmm
  | 0x306 => (rawAlu? r).map .acccvt
  | 0x307 => (rawAlu? r).map .accset
  | 0x318 => (rawAlu? r).map .fetchwork
  | 0x319 => (rawAlu? r).map .refill
  | 0x31a => (rawAlu? r).map .itemset
  | 0x380 => (rawAlu? r).map .movs
  | 0x381 => (rawAlu? r).map .movsw
  | 0x382 => (rawAlu? r).map .trap
  | 0x383 => (rawAlu? r).map .eret
  | 0x384 => (rawAlu? r).map .sigchk
  | 0x385 => (rawAlu? r).map .chkreq
  | 0x387 => (rawAlu? r).map .sleep
  | 0x388 => (rawAlu? r).map .evsend
  | 0x389 => (rawAlu? r).map .tlbinv
  | 0x38a => (rawAlu? r).map .ctxsave
  | 0x38b => (rawAlu? r).map .ctxload
  | 0x38c => (rawAlu? r).map .poisonclr
  | 0x38d => (rawAlu? r).map .hostmsg
  | 0x38e => (rawAlu? r).map .rasrd
  | 0x310 => rawXc? r
  | 0x3ff => if r.len = 1 then some (.illegal r.base) else none
  | _ => none

/-- The instruction at the head of a list of bytes, and how many bytes it has; `none` where the words alone are no
instruction (R120, R136). -/
def decode (bs : List Byte) : Option (Instr × Nat) :=
  let w := leNat (bs.take 8)
  let n := lenBytes (w % 4)
  if n = 0 ∨ bs.length < n then none
  else
    match ofRaw (rawOf w (leNat ((bs.drop 8).take (n - 8)))) with
    | some i => if i.WellFormed then some (i, n) else none
    | none => none

/-- The instruction this decoder reads from an instruction whose bits are `w`, bit 0 the least significant bit of the
first word; the bits above `nbits` are 0. -/
def decodeTableWord (nbits w : Nat) : Option Instr := (decode (leBytes 16 (w % 2 ^ nbits))).map (·.1)

/-! The encoder. -/

/-- A base word and extension from its fields (Table 7-1). -/
def mkRaw (len : BitVec 2) (h : Hdr) (opc : Nat) (vd va vb : RegField) (m : BitVec 4) (ext : DWord) : Raw :=
  ⟨len, h, BitVec.ofNat 10 opc, vd, va, vb, m, ext, 0⟩

/-- Shape `Alu`. -/
def rawAlu (opc : Nat) (a : Alu) : Raw :=
  match a.b with
  | .reg r => mkRaw 1 a.h opc a.vd a.va r a.m 0
  | .imm w => mkRaw 2 a.h opc a.vd a.va 0 a.m (BitVec.ofNat 64 w.toNat)

/-- Form S. -/
def rawTer (opc : Nat) (a : Ter) : Raw :=
  mkRaw 2 a.h opc a.vd a.va a.vb a.m
    (BitVec.ofNat 64 (a.vc.toNat + 2 ^ 8 * a.tg.toNat + 2 ^ 12 * a.x4.toNat + 2 ^ 16 * a.x8.toNat))

/-- Form T. -/
def rawCtl (opc : Nat) (a : Ctl) : Raw :=
  mkRaw 3 a.h opc a.vd a.va 0 0 (BitVec.ofNat 64 (a.off.toNat + 2 ^ 32 * a.k.toNat + 2 ^ 48 * a.sigx.toNat))

/-- Form W. -/
def rawWide (opc : Nat) (a : Wide) : Raw := mkRaw 3 a.h opc a.vd 0 0 a.m a.imm

/-- `NOP`. -/
def rawNop (opc : Nat) (a : NopF) : Raw := mkRaw a.len a.h opc 0 0 0 0 0

/-- 64 bits or form M. -/
def rawMem (opc : Nat) (a : Mem) : Raw :=
  match a.ext with
  | none => mkRaw 1 a.h opc a.vd a.va a.vb a.m 0
  | some e => mkRaw 3 a.h opc a.vd a.va a.vb a.m
      (BitVec.ofNat 64 (e.off.toNat + 2 ^ 32 * e.hint.toNat + 2 ^ 34 * e.pol.toNat + 2 ^ 36 * e.tg.toNat +
        2 ^ 40 * e.scope.toNat + 2 ^ 43 * e.ord.toNat + 2 ^ 48 * e.vc.toNat))

/-- Form X. -/
def rawMma (opc : Nat) (a : MmaF) : Raw :=
  mkRaw 3 a.h opc a.vd a.va a.vb 0 (BitVec.ofNat 64 (a.clr.toNat + 2 ^ 4 * a.acc32.toNat + 2 ^ 6 * a.nsz.toNat))

/-- Form C. -/
def rawXc (fn : Nat) (a : XcF) : Raw :=
  mkRaw 2 a.h 0x310 a.vd a.va a.vb 0 (BitVec.ofNat 64 (fn + 2 ^ 7 * a.rep.toNat))

/-- `ILLEGAL` with the base word it was read from. -/
def rawIllegal (w : DWord) : Raw := { rawOf w.toNat 0 with opc := 0x3ff, len := 1, base := w }

/-- The fields of an instruction's words; none for a device step, which has no encoding. -/
def toRaw : Instr → Option Raw
  | .iadd a => some (rawAlu 0x0 a)
  | .isub a => some (rawAlu 0x1 a)
  | .iadds a => some (rawAlu 0x2 a)
  | .isubs a => some (rawAlu 0x3 a)
  | .ineg a => some (rawAlu 0x4 a)
  | .iabs a => some (rawAlu 0x5 a)
  | .imin a => some (rawAlu 0x6 a)
  | .imax a => some (rawAlu 0x7 a)
  | .umin a => some (rawAlu 0x8 a)
  | .umax a => some (rawAlu 0x9 a)
  | .imul a => some (rawAlu 0xa a)
  | .imulhi a => some (rawAlu 0xb a)
  | .umulhi a => some (rawAlu 0xc a)
  | .imad a => some (rawTer 0xd a)
  | .idiv a => some (rawAlu 0xe a)
  | .udiv a => some (rawAlu 0xf a)
  | .irem a => some (rawAlu 0x10 a)
  | .urem a => some (rawAlu 0x11 a)
  | .andI a => some (rawAlu 0x18 a)
  | .orI a => some (rawAlu 0x19 a)
  | .xorI a => some (rawAlu 0x1a a)
  | .andn a => some (rawAlu 0x1b a)
  | .shl a => some (rawAlu 0x1c a)
  | .shr a => some (rawAlu 0x1d a)
  | .sar a => some (rawAlu 0x1e a)
  | .rol a => some (rawAlu 0x1f a)
  | .ror a => some (rawAlu 0x20 a)
  | .bfx a => some (rawTer 0x21 a)
  | .bfi a => some (rawTer 0x22 a)
  | .popc a => some (rawAlu 0x23 a)
  | .clz a => some (rawAlu 0x24 a)
  | .ctz a => some (rawAlu 0x25 a)
  | .brev a => some (rawAlu 0x26 a)
  | .permb a => some (rawAlu 0x27 a)
  | .icmp a => some (rawAlu 0x30 a)
  | .ucmp a => some (rawAlu 0x31 a)
  | .sel a => some (rawTer 0x32 a)
  | .mov a => some (rawAlu 0x33 a)
  | .movi a => some (rawAlu 0x34 a)
  | .movr a => some (rawAlu 0x35 a)
  | .movw a => some (rawAlu 0x36 a)
  | .iadd64 a => some (rawAlu 0x40 a)
  | .isub64 a => some (rawAlu 0x41 a)
  | .imul64 a => some (rawAlu 0x42 a)
  | .umulw a => some (rawAlu 0x43 a)
  | .imulw a => some (rawAlu 0x44 a)
  | .shl64 a => some (rawAlu 0x45 a)
  | .shr64 a => some (rawAlu 0x46 a)
  | .sar64 a => some (rawAlu 0x47 a)
  | .icmp64 a => some (rawAlu 0x48 a)
  | .ucmp64 a => some (rawAlu 0x49 a)
  | .movi64 a => some (rawWide 0x4a a)
  | .lea a => some (rawAlu 0x50 a)
  | .ptr a => some (rawAlu 0x51 a)
  | .pfield a => some (rawAlu 0x52 a)
  | .ifI a => some (rawCtl 0x80 a)
  | .elseI a => some (rawCtl 0x81 a)
  | .endif a => some (rawCtl 0x82 a)
  | .loop a => some (rawCtl 0x83 a)
  | .breakI a => some (rawCtl 0x84 a)
  | .contI a => some (rawCtl 0x85 a)
  | .endloop a => some (rawCtl 0x86 a)
  | .bra a => some (rawCtl 0x87 a)
  | .brx a => some (rawCtl 0x88 a)
  | .call a => some (rawCtl 0x89 a)
  | .callx a => some (rawCtl 0x8a a)
  | .ret a => some (rawCtl 0x8b a)
  | .exit a => some (rawCtl 0x8c a)
  | .nop a => some (rawNop 0x8d a)
  | .yieldI a => some (rawAlu 0x8e a)
  | .fadd a => some (rawAlu 0x100 a)
  | .fsub a => some (rawAlu 0x101 a)
  | .fmul a => some (rawAlu 0x102 a)
  | .ffma a => some (rawTer 0x103 a)
  | .fmin a => some (rawAlu 0x104 a)
  | .fmax a => some (rawAlu 0x105 a)
  | .fcmp a => some (rawAlu 0x106 a)
  | .fclass a => some (rawAlu 0x107 a)
  | .frnd a => some (rawAlu 0x108 a)
  | .fdiv a => some (rawAlu 0x109 a)
  | .fsqrt a => some (rawAlu 0x10a a)
  | .frcp a => some (rawAlu 0x10b a)
  | .frsq a => some (rawAlu 0x10c a)
  | .fexp2 a => some (rawAlu 0x10d a)
  | .flog2 a => some (rawAlu 0x10e a)
  | .fsinpi a => some (rawAlu 0x10f a)
  | .fcospi a => some (rawAlu 0x110 a)
  | .ftanh a => some (rawAlu 0x111 a)
  | .fscale a => some (rawAlu 0x112 a)
  | .fcopys a => some (rawAlu 0x113 a)
  | .dadd a => some (rawAlu 0x120 a)
  | .dsub a => some (rawAlu 0x121 a)
  | .dmul a => some (rawAlu 0x122 a)
  | .dfma a => some (rawTer 0x123 a)
  | .dmin a => some (rawAlu 0x124 a)
  | .dmax a => some (rawAlu 0x125 a)
  | .dcmp a => some (rawAlu 0x126 a)
  | .ddiv a => some (rawAlu 0x127 a)
  | .dsqrt a => some (rawAlu 0x128 a)
  | .drnd a => some (rawAlu 0x129 a)
  | .fcvti a => some (rawAlu 0x130 a)
  | .icvtf a => some (rawAlu 0x131 a)
  | .dcvtf a => some (rawAlu 0x132 a)
  | .fcvtd a => some (rawAlu 0x133 a)
  | .dcvtl a => some (rawAlu 0x134 a)
  | .lcvtd a => some (rawAlu 0x135 a)
  | .padd a => some (rawAlu 0x180 a)
  | .psub a => some (rawAlu 0x181 a)
  | .pmul a => some (rawAlu 0x182 a)
  | .pfma a => some (rawTer 0x183 a)
  | .pmin a => some (rawAlu 0x184 a)
  | .pmax a => some (rawAlu 0x185 a)
  | .pabs a => some (rawAlu 0x186 a)
  | .pcmp a => some (rawAlu 0x187 a)
  | .psel a => some (rawTer 0x188 a)
  | .pdot2 a => some (rawTer 0x189 a)
  | .pdot4 a => some (rawTer 0x18a a)
  | .pshrr a => some (rawAlu 0x18b a)
  | .pclamp a => some (rawTer 0x18c a)
  | .cvt a => some (rawTer 0x190 a)
  | .packh a => some (rawAlu 0x191 a)
  | .unpk a => some (rawAlu 0x192 a)
  | .insrt a => some (rawTer 0x193 a)
  | .tagset a => some (rawAlu 0x194 a)
  | .tagget a => some (rawAlu 0x195 a)
  | .pbpack a => some (rawTer 0x1a0 a)
  | .pbpacks a => some (rawTer 0x1a1 a)
  | .pbunpk a => some (rawTer 0x1a2 a)
  | .shfl a => some (rawAlu 0x200 a)
  | .slideup a => some (rawAlu 0x201 a)
  | .slidedn a => some (rawAlu 0x202 a)
  | .swz a => some (rawAlu 0x203 a)
  | .ballot a => some (rawAlu 0x204 a)
  | .vany a => some (rawAlu 0x205 a)
  | .vall a => some (rawAlu 0x206 a)
  | .first a => some (rawAlu 0x207 a)
  | .readl a => some (rawAlu 0x208 a)
  | .redadd a => some (rawAlu 0x209 a)
  | .redmin a => some (rawAlu 0x20a a)
  | .redmax a => some (rawAlu 0x20b a)
  | .scan a => some (rawAlu 0x20c a)
  | .mbcnt a => some (rawAlu 0x20d a)
  | .ld a => some (rawMem 0x280 a)
  | .ldx a => some (rawMem 0x281 a)
  | .st a => some (rawMem 0x282 a)
  | .stx a => some (rawMem 0x283 a)
  | .lda a => some (rawMem 0x284 a)
  | .stl a => some (rawMem 0x285 a)
  | .atom a => some (rawMem 0x286 a)
  | .atomcas a => some (rawMem 0x287 a)
  | .red a => some (rawMem 0x288 a)
  | .fence a => some (rawMem 0x289 a)
  | .bar a => some (rawAlu 0x28a a)
  | .arrive a => some (rawAlu 0x28b a)
  | .waitb a => some (rawAlu 0x28c a)
  | .waitne a => some (rawMem 0x28d a)
  | .cwb a => some (rawMem 0x290 a)
  | .cinv a => some (rawMem 0x291 a)
  | .cwbi a => some (rawMem 0x292 a)
  | .cprf a => some (rawMem 0x293 a)
  | .subs a => some (rawAlu 0x298 a)
  | .unsub a => some (rawAlu 0x299 a)
  | .supg a => some (rawAlu 0x29a a)
  | .skpush a => some (rawAlu 0x2a0 a)
  | .skpop a => some (rawAlu 0x2a1 a)
  | .skfree a => some (rawAlu 0x2a2 a)
  | .claim a => some (rawAlu 0x300 a)
  | .release a => some (rawAlu 0x301 a)
  | .mma a => some (rawMma 0x302 a)
  | .mmawait a => some (rawAlu 0x303 a)
  | .opfence a => some (rawAlu 0x304 a)
  | .oxmm a => some (rawTer 0x305 a)
  | .acccvt a => some (rawAlu 0x306 a)
  | .accset a => some (rawAlu 0x307 a)
  | .xcG2s a => some (rawXc 0x0 a)
  | .xcS2g a => some (rawXc 0x1 a)
  | .xcS2s a => some (rawXc 0x2 a)
  | .xcG2o a => some (rawXc 0x3 a)
  | .xcS2o a => some (rawXc 0x4 a)
  | .xcC2d a => some (rawXc 0x5 a)
  | .xcGath a => some (rawXc 0x6 a)
  | .xcRscat a => some (rawXc 0x10 a)
  | .xcAgath a => some (rawXc 0x11 a)
  | .xcAredu a => some (rawXc 0x12 a)
  | .xcPut a => some (rawXc 0x13 a)
  | .xcGet a => some (rawXc 0x14 a)
  | .xcGstart a => some (rawXc 0x20 a)
  | .xcGstat a => some (rawXc 0x21 a)
  | .xcGcond a => some (rawXc 0x22 a)
  | .fetchwork a => some (rawAlu 0x318 a)
  | .refill a => some (rawAlu 0x319 a)
  | .itemset a => some (rawAlu 0x31a a)
  | .movs a => some (rawAlu 0x380 a)
  | .movsw a => some (rawAlu 0x381 a)
  | .trap a => some (rawAlu 0x382 a)
  | .eret a => some (rawAlu 0x383 a)
  | .sigchk a => some (rawAlu 0x384 a)
  | .chkreq a => some (rawAlu 0x385 a)
  | .sleep a => some (rawAlu 0x387 a)
  | .evsend a => some (rawAlu 0x388 a)
  | .tlbinv a => some (rawAlu 0x389 a)
  | .ctxsave a => some (rawAlu 0x38a a)
  | .ctxload a => some (rawAlu 0x38b a)
  | .poisonclr a => some (rawAlu 0x38c a)
  | .hostmsg a => some (rawAlu 0x38d a)
  | .rasrd a => some (rawAlu 0x38e a)
  | .illegal w => some (rawIllegal w)
  | _ => none

/-- The base word of Table 7-1 as a number. -/
def Raw.word (r : Raw) : Nat :=
  r.len.toNat + 2 ^ 2 * r.h.cls.toNat + 2 ^ 4 * r.h.stall.toNat + 2 ^ 8 * r.h.y.toNat + 2 ^ 9 * r.h.hold.toNat +
  2 ^ 12 * r.h.g1.toNat + 2 ^ 19 * r.h.g2.toNat + 2 ^ 26 * r.opc.toNat + 2 ^ 36 * r.vd.toNat + 2 ^ 44 * r.va.toNat +
  2 ^ 52 * r.vb.toNat + 2 ^ 60 * r.m.toNat

/-- The bytes of an instruction in memory order (R120); empty for a device step. -/
def encode (i : Instr) : List Byte :=
  match toRaw i with
  | none => []
  | some r => leBytes 8 r.word ++ leBytes (lenBytes r.len.toNat - 8) r.ext.toNat

/-- Length in bytes of an encoded instruction. -/
def byteLength (i : Instr) : Nat := match toRaw i with | some r => lenBytes r.len.toNat | none => 0

/-- Bits 31:0 of an instruction, which the static signature folds (R134). -/
def lowWord (i : Instr) : Nat := match toRaw i with | some r => r.word % 2 ^ 32 | none => 0

end Sys2Proof
end

