-- ==== Sys2Proof/Machine/Fmt.lean ====
section
/-! DEFINITION. The number formats and rounding of 05_number_formats.md: classes of encodings (R74), exact values,
`round_to` with its flags (R77, R78), sums with the sign rule of R76, `widen` and `round_fmt` (R79), pairing blocks
(R81 to R85), KA80 (R88, R89), matrix sums (R90) and `pair_tree` (R91). Every value is exact: a sign, a whole
significand and a power of two. -/

namespace Sys2Proof.Machine

/-- Flags of one result, in the places of Table 4-4. -/
abbrev Flags := BitVec 8
/-- No flag. -/
def flNone : Flags := 0
/-- Invalid. -/
def flNv : Flags := 1
/-- Divide by zero. -/
def flDz : Flags := 2
/-- Overflow. -/
def flOf : Flags := 4
/-- Underflow. -/
def flUf : Flags := 8
/-- Inexact. -/
def flNx : Flags := 16
/-- Integer saturation. -/
def flSat : Flags := 32
/-- Outlier appended. -/
def flOap : Flags := 64
/-- Outlier list overflow. -/
def flOvf : Flags := 128
/-- A flag when a condition holds. -/
def flIf (c : Bool) (f : Flags) : Flags := if c then f else 0

/-- An exact value: a NaN (signalling or not), an infinity, or (−1)^neg × m × 2^e. -/
inductive FV where
  | nan (snan : Bool)
  | inf (neg : Bool)
  | fin (neg : Bool) (m : Nat) (e : Int)
  deriving DecidableEq, Repr

/-- A floating-point format (Table 5-2): exponent and fraction widths and whether it has infinities. -/
structure Fmt where
  eb : Nat
  fb : Nat
  infs : Bool
  deriving DecidableEq, Repr

/-- binary64. -/
def Fmt.f64 : Fmt := ⟨11, 52, true⟩
/-- binary32. -/
def Fmt.f32 : Fmt := ⟨8, 23, true⟩
/-- binary16. -/
def Fmt.f16 : Fmt := ⟨5, 10, true⟩
/-- The upper half of binary32. -/
def Fmt.bf16 : Fmt := ⟨8, 7, true⟩
/-- E5M2. -/
def Fmt.e5m2 : Fmt := ⟨5, 2, true⟩
/-- E4M3, which has no infinity (R74). -/
def Fmt.e4m3 : Fmt := ⟨4, 3, false⟩

/-- The exponent bias. -/
def Fmt.bias (f : Fmt) : Int := (2 ^ (f.eb - 1) - 1 : Nat)
/-- The width in bits. -/
def Fmt.width (f : Fmt) : Nat := 1 + f.eb + f.fb
/-- The canonical NaN (Table 5-2). -/
def Fmt.qnan (f : Fmt) : Nat :=
  if f.infs then (2 ^ f.eb - 1) * 2 ^ f.fb + 2 ^ (f.fb - 1) else 2 ^ (f.eb + f.fb) - 1
/-- Sign bit at its place. -/
def Fmt.sgn (f : Fmt) (neg : Bool) : Nat := if neg then 2 ^ (f.eb + f.fb) else 0
/-- The encoding of an infinity, or of the largest finite value where there is none. -/
def Fmt.infEnc (f : Fmt) (neg : Bool) : Nat :=
  f.sgn neg + (if f.infs then (2 ^ f.eb - 1) * 2 ^ f.fb else 2 ^ (f.eb + f.fb) - 2)
/-- The encoding of the largest finite value. -/
def Fmt.maxEnc (f : Fmt) (neg : Bool) : Nat :=
  f.sgn neg + (if f.infs then (2 ^ f.eb - 1) * 2 ^ f.fb - 1 else 2 ^ (f.eb + f.fb) - 2)

/-- The value of an encoding (R74). -/
def Fmt.dec (f : Fmt) (x : Nat) : FV :=
  let neg := bitAt x (f.eb + f.fb)
  let e := bits x f.fb f.eb
  let fr := bits x 0 f.fb
  if e = 0 then .fin neg fr (1 - f.bias - f.fb)
  else if f.infs ∧ e = 2 ^ f.eb - 1 then (if fr = 0 then .inf neg else .nan (!bitAt fr (f.fb - 1)))
  else if !f.infs ∧ e = 2 ^ f.eb - 1 ∧ fr = 2 ^ f.fb - 1 then .nan false
  else .fin neg (2 ^ f.fb + fr) ((e : Int) - f.bias - f.fb)

/-- `n` after rounding a significand to a multiple of 2^sh under a mode (R77); whether anything was cut. Modes: 0 RNE,
1 RTZ, 2 RUP, 3 RDN. -/
def roundBits (mode : Nat) (neg : Bool) (m sh : Nat) : Nat × Bool :=
  let n := m / 2 ^ sh
  let d := m % 2 ^ sh
  let up := match mode with
    | 0 => 2 * d > 2 ^ sh || (2 * d == 2 ^ sh && n % 2 == 1)
    | 2 => !neg && d > 0
    | 3 => neg && d > 0
    | _ => false
  (if up && sh > 0 then n + 1 else n, d > 0)

/-- floor(log2) of a non-zero exact value. -/
def topExp (m : Nat) (e : Int) : Int := (Nat.log2 m : Int) + e

/-- A rounded significand n and its weight 2^q for a fraction width and bias (R77), and whether the value changed. -/
def roundCore (fb : Nat) (bias : Int) (mode : Nat) (neg : Bool) (m : Nat) (e : Int) : Nat × Int × Bool :=
  let q := max (topExp m e) (1 - bias) - fb
  if q ≤ e then (m * 2 ^ (e - q).toNat, q, false)
  else
    let r := roundBits mode neg m (q - e).toNat
    (r.1, q, r.2)

/-- The result of an overflow and whether it is an infinity (Table 5-4). -/
def overflowInf (mode : Nat) (neg : Bool) : Bool :=
  match mode with
  | 0 => true
  | 1 => false
  | 2 => !neg
  | _ => neg

/-- `round_to(x, F, m)` with the flags of R78. -/
def Fmt.round (f : Fmt) (mode : Nat) (x : FV) : Nat × Flags :=
  match x with
  | .nan _ => (f.qnan, flNone)
  | .inf neg => (f.infEnc neg, flIf (!f.infs) flNv)
  | .fin neg m e =>
    if m = 0 then (f.sgn neg, flNone)
    else
      let (n, q, cut) := roundCore f.fb f.bias mode neg m e
      let uf := flIf (cut && decide (topExp m e < 1 - f.bias)) flUf
      let nx := flIf cut flNx
      if n < 2 ^ f.fb then (f.sgn neg + n, nx ||| uf)
      else
        let (n, q) := if n = 2 ^ (f.fb + 1) then (2 ^ f.fb, q + 1) else (n, q)
        let ef := (q + f.fb + f.bias).toNat
        let fr := n - 2 ^ f.fb
        let top := 2 ^ f.eb - 1
        if ef > top ∨ (ef = top ∧ (f.infs ∨ fr = 2 ^ f.fb - 1)) then
          (if overflowInf mode neg then f.infEnc neg else f.maxEnc neg, flOf ||| flNx)
        else (f.sgn neg + ef * 2 ^ f.fb + fr, nx ||| uf)

/-- The canonical NaN of KA80 (R89). -/
def kaNan : Nat := 2047 * 2 ^ 68 + 3 * 2 ^ 66
/-- The value of a KA80 encoding, bits 79:0 (R89). A NaN is signalling when bit 66 of its significand is 0 (R226). -/
def kaDec (x : Nat) : FV :=
  let neg := bitAt x 79
  let e := bits x 68 11
  let g := bits x 0 68
  if e = 2047 then (if g = 2 ^ 67 then .inf neg else .nan (!bitAt g 66))
  else if e = 0 then .fin neg g (-1022 - 67)
  else .fin neg g ((e : Int) - 1023 - 67)
/-- `round_to` into KA80 (R89). -/
def kaRound (mode : Nat) (x : FV) : Nat × Flags :=
  let sg := fun neg : Bool => if neg then 2 ^ 79 else 0
  match x with
  | .nan _ => (kaNan, flNone)
  | .inf neg => (sg neg + 2047 * 2 ^ 68 + 2 ^ 67, flNone)
  | .fin neg m e =>
    if m = 0 then (sg neg, flNone)
    else
      let (n, q, cut) := roundCore 67 1023 mode neg m e
      let uf := flIf (cut && decide (topExp m e < 1 - 1023)) flUf
      let nx := flIf cut flNx
      if n < 2 ^ 67 then (sg neg + n, nx ||| uf)
      else
        let (n, q) := if n = 2 ^ 68 then (2 ^ 67, q + 1) else (n, q)
        let ef := (q + 67 + 1023).toNat
        if ef ≥ 2047 then
          (if overflowInf mode neg then sg neg + 2047 * 2 ^ 68 + 2 ^ 67
           else sg neg + 2046 * 2 ^ 68 + (2 ^ 68 - 1), flOf ||| flNx)
        else (sg neg + ef * 2 ^ 68 + n, nx ||| uf)
/-- `ka80_guard` (R89). -/
def kaGuard (k : Nat) : Nat :=
  (List.range 5).foldl (fun g i => let h := g + bits k (16 * i) 16; if h ≥ 65536 then h - 65536 + 1 else h) 0
/-- The three words of a KA80 value, lowest register first (Table 5-11). -/
def kaWords (k : Nat) : List Word := [word k, word (k / 2 ^ 32), word (bits k 64 16 + 65536 * kaGuard k)]
/-- The KA80 bits of a triple, when its guard is right (R89). -/
def kaOf (w0 w1 w2 : Word) : Option Nat :=
  let k := w0.toNat + 2 ^ 32 * w1.toNat + 2 ^ 64 * (w2.toNat % 65536)
  if w2.toNat / 65536 = kaGuard k then some k else none

/-! ## Exact arithmetic -/

/-- A NaN of either kind. -/
def FV.isNan : FV → Bool | .nan _ => true | _ => false
/-- A signalling NaN. -/
def FV.isSnan : FV → Bool | .nan s => s | _ => false
/-- An infinity. -/
def FV.isInf : FV → Bool | .inf _ => true | _ => false
/-- A zero. -/
def FV.isZero : FV → Bool | .fin _ m _ => m == 0 | _ => false
/-- The sign (false for a NaN). -/
def FV.neg : FV → Bool | .inf n => n | .fin n _ _ => n | .nan _ => false
/-- The value with its sign changed. -/
def FV.flip : FV → FV | .inf n => .inf (!n) | .fin n m e => .fin (!n) m e | x => x
/-- The value with sign +. -/
def FV.abs : FV → FV | .inf _ => .inf false | .fin _ m e => .fin false m e | x => x

/-- The exact product; a NaN for 0 × ∞ (`nv` is the caller's). -/
def FV.mul (x y : FV) : FV :=
  match x, y with
  | .nan s, .nan t => .nan (s || t)
  | .nan s, _ => .nan s
  | _, .nan t => .nan t
  | .inf a, .inf b => .inf (a != b)
  | .inf a, .fin b m _ => if m = 0 then .nan false else .inf (a != b)
  | .fin b m _, .inf a => if m = 0 then .nan false else .inf (a != b)
  | .fin a m e, .fin b n f => .fin (a != b) (m * n) (e + f)

/-- 0 × ∞ in either order. -/
def zeroInf (x y : FV) : Bool := (x.isZero && y.isInf) || (x.isInf && y.isZero)

/-- The signed significand of a finite value over 2^e0, for e0 at most its exponent. -/
def FV.scaled (e0 : Int) : FV → Int
  | .fin neg m e => let v : Int := (m * 2 ^ (e - e0).toNat : Nat); if neg then -v else v
  | _ => 0

/-- The least exponent among finite non-zero terms. -/
def leastExp (ts : List FV) : Int :=
  ts.foldl (fun a t => match t with | .fin _ m e => if m = 0 then a else min a e | _ => a) 20000

/-- The exact sum of terms, with the sign of an exact zero under R76 for the mode; infinities of both signs give a NaN.
-/
def FV.sum (mode : Nat) (ts : List FV) : FV :=
  if ts.any FV.isNan then .nan (ts.any FV.isSnan)
  else
    let p := ts.any (fun t => t.isInf && !t.neg)
    let n := ts.any (fun t => t.isInf && t.neg)
    if p && n then .nan false
    else if p then .inf false
    else if n then .inf true
    else
      let e0 := leastExp ts
      let v := (ts.map (FV.scaled e0)).foldl (· + ·) (0 : Int)
      if v = 0 then
        (if ts.all FV.isZero && ts.all FV.neg then .fin true 0 0
         else if ts.all FV.isZero && !ts.any FV.neg then .fin false 0 0
         else .fin (mode == 3) 0 0)
      else .fin (decide (v < 0)) v.natAbs e0

/-- Infinities of both signs stand among the terms. -/
def sumInvalid (ts : List FV) : Bool := ts.any (fun t => t.isInf && !t.neg) && ts.any (fun t => t.isInf && t.neg)

/-- How two values compare; none when one is a NaN. Zeros of both signs are equal. -/
def FV.cmp (x y : FV) : Option Ordering :=
  match x, y with
  | .nan _, _ => none
  | _, .nan _ => none
  | .inf a, .inf b => some (if a = b then .eq else if a then .lt else .gt)
  | .inf a, .fin _ _ _ => some (if a then .lt else .gt)
  | .fin _ _ _, .inf b => some (if b then .gt else .lt)
  | .fin a m e, .fin b n f =>
    let e0 := min e f
    some (compare (FV.scaled e0 (.fin a m e)) (FV.scaled e0 (.fin b n f)))

/-- minimumNumber or maximumNumber over encodings, −0 below +0; a NaN pair gives the canonical NaN (R197, R236). -/
def Fmt.minmax (f : Fmt) (big : Bool) (x y : Nat) : Nat × Flags :=
  let a := f.dec x
  let b := f.dec y
  let nv := flIf (a.isSnan || b.isSnan) flNv
  let r := match a.cmp b with
    | none => if a.isNan && b.isNan then f.qnan else if a.isNan then y else x
    | some .lt => if big then y else x
    | some .gt => if big then x else y
    | some .eq => if a.neg = b.neg then x else if a.neg = big then y else x
  (r, nv)

/-- The encoding of an operation's exact value: rounded, with `nv` when an operand is a signalling NaN or the operation
is invalid (R75, R78). -/
def Fmt.fin (f : Fmt) (mode : Nat) (x : FV) (nv : Bool) : Nat × Flags :=
  let r := f.round mode x
  (r.1, r.2 ||| flIf nv flNv)

/-- a + b. -/
def Fmt.add (f : Fmt) (mode x y : Nat) : Nat × Flags :=
  let a := f.dec x
  let b := f.dec y
  f.fin mode (FV.sum mode [a, b]) (a.isSnan || b.isSnan || sumInvalid [a, b])
/-- a − b. -/
def Fmt.sub (f : Fmt) (mode x y : Nat) : Nat × Flags :=
  let a := f.dec x
  let b := (f.dec y).flip
  f.fin mode (FV.sum mode [a, b]) (a.isSnan || b.isSnan || sumInvalid [a, b])
/-- a × b. -/
def Fmt.mul (f : Fmt) (mode x y : Nat) : Nat × Flags :=
  let a := f.dec x
  let b := f.dec y
  f.fin mode (a.mul b) (a.isSnan || b.isSnan || zeroInf a b)
/-- a × b + c with one rounding. -/
def Fmt.fma (f : Fmt) (mode x y z : Nat) : Nat × Flags :=
  let a := f.dec x
  let b := f.dec y
  let c := f.dec z
  f.fin mode (FV.sum mode [a.mul b, c]) (a.isSnan || b.isSnan || c.isSnan || zeroInf a b || sumInvalid [a.mul b, c])

/-- A finite value rounded to an integer under a mode; whether it changed. -/
def roundInt (mode : Nat) (neg : Bool) (m : Nat) (e : Int) : Int × Bool :=
  if e ≥ 0 then (let v : Int := (m * 2 ^ e.toNat : Nat); (if neg then -v else v, false))
  else
    let r := roundBits mode neg m (-e).toNat
    (if neg then -(r.1 : Int) else r.1, r.2)

/-- Floating point to an integer of w bits, signed or not (Table 5-10): the w-bit encoding and flags. -/
def fvToInt (mode : Nat) (signed : Bool) (w : Nat) (x : FV) : Nat × Flags :=
  match x with
  | .nan _ => (0, flNv)
  | .inf neg => (wrap (if neg then (if signed then -(2 ^ (w - 1) : Nat) else 0)
      else (if signed then (2 ^ (w - 1) : Nat) - 1 else (2 ^ w : Nat) - 1)) w, flNv)
  | .fin neg m e =>
    let (v, cut) := roundInt mode neg m e
    let c := if signed then satS v w else satZ v w
    (wrap c w, if c ≠ v then flNv else flIf cut flNx)

/-- An exact integer as a value. -/
def intFV (v : Int) : FV := .fin (decide (v < 0)) v.natAbs 0

/-! ## Format codes of subscriptions -/

/-- The format of a directory code 1 to 4 (Table 18-4). -/
def dirFmt (code : Nat) : Fmt := nth Fmt.f32 [Fmt.f32, Fmt.f16, Fmt.bf16, Fmt.e4m3, Fmt.e5m2] code
/-- The storage format of a line: 0 FP32, 1 BF16 (R206). -/
def stoFmt (sfm : Nat) : Fmt := if sfm = 1 then Fmt.bf16 else Fmt.f32
/-- `widen` (R79). -/
def widen (f g : Fmt) (x : Nat) : Nat := (g.round 0 (f.dec x)).1
/-- `round_fmt(v, f)` as an encoding of the format (R79). -/
def roundFmt (sfm code v : Nat) : Nat :=
  if code = 0 then v else ((dirFmt code).round 0 ((stoFmt sfm).dec v)).1
/-- `round_fmt(v, f)` widened to the storage format (R79, R193). -/
def roundedView (sfm code v : Nat) : Nat :=
  if code = 0 then v else widen (dirFmt code) (stoFmt sfm) (roundFmt sfm code v)

/-! ## Pairing blocks -/

/-- Magnitude bits of a pairing format by tag 13, 14, 15 (Table 5-7). -/
def pbM (tag : Nat) : Nat := if tag = 13 then 6 else if tag = 14 then 4 else 2

/-- `pb_value` of an element's bits under a scale pair (R82). -/
def pbValue (m : Nat) (el ehi elo : Nat) : FV :=
  let neg := bitAt el (m + 1)
  if ehi = 0 ∧ elo = 0 then .fin neg 0 0
  else if ehi = 255 ∨ elo = 255 then .nan false
  else .fin neg (bits el 0 m) (((if bitAt el m then ehi else elo : Nat) : Int) - 127 - ((m : Int) - 1))

/-- round RNE of |x| / 2^k for a finite x. -/
def rneDiv (m : Nat) (e k : Int) : Nat :=
  if k ≤ e then m * 2 ^ (e - k).toNat else (roundBits 0 false m (k - e).toNat).1

/-- The larger of two finite magnitudes. -/
def maxMag (a b : Nat × Int) : Nat × Int :=
  if FV.cmp (.fin false a.1 a.2) (.fin false b.1 b.2) = some .lt then b else a

/-- `pb_scales` over the active strands' values (R83): (E_hi, E_lo). -/
def pbScales (vs : List FV) (m : Nat) : Nat × Nat :=
  let M := vs.foldl (fun a v => match v with | .fin _ n e => maxMag a (n, e) | _ => a) (0, 0)
  if M.1 = 0 then (0, 0)
  else
    let e := topExp M.1 M.2
    let e := if rneDiv M.1 M.2 (e - ((m : Int) - 1)) = 2 ^ m then e + 1 else e
    let hi := min (max (e + 127) ((m : Int) + 1)) 254
    (hi.toNat, (hi - m).toNat)

/-- `pb_encode` (R84): the element's bits, or none for an outlier. -/
def pbEncode (x : FV) (ehi elo m : Nat) : Option Nat :=
  match x with
  | .fin neg n e =>
    let s := if neg then 2 ^ (m + 1) else 0
    if ehi = 0 ∧ elo = 0 then (if n = 0 then some s else none)
    else
      let q := rneDiv n e ((elo : Int) - 127 - ((m : Int) - 1))
      if q ≤ 2 ^ m - 1 then some (s + q)
      else
        let q := rneDiv n e ((ehi : Int) - 127 - ((m : Int) - 1))
        if q ≤ 2 ^ m - 1 then some (s + 2 ^ m + q) else none
  | _ => none

/-! ## Sums and trees -/

/-- One round of `pair_tree`: neighbours combined, an odd last carried upward (R91). -/
def pairUp {α : Type} (op : α → α → α) : List (Option α) → List (Option α)
  | [] => []
  | [x] => [x]
  | a :: b :: r =>
    (match a, b with
      | none, y => y
      | x, none => x
      | some x, some y => some (op x y)) :: pairUp op r

/-- Rounds of `pair_tree` until one entry is left; `fuel` bounds them. -/
def pairLoop {α : Type} (op : α → α → α) : Nat → List (Option α) → Option α
  | 0, l => (l.head?).getD none
  | n + 1, l => match l with
    | [] => none
    | [x] => x
    | _ => pairLoop op n (pairUp op l)

/-- `pair_tree` (R91). -/
def pairTree {α : Type} (op : α → α → α) (l : List (Option α)) : Option α := pairLoop op (l.length + 1) l

/-- Groups of 8, at most `n` of them. -/
def groups8 {α : Type} : Nat → List α → List (List α)
  | 0, _ => []
  | n + 1, l => l.take 8 :: groups8 n (l.drop 8)

/-- The matrix sum of R90: the accumulator value with K products added by groups of 8, rounded by `rnd` each time. -/
def matSum (rnd : FV → FV) (c : FV) (prods : List FV) : FV :=
  (groups8 (prods.length / 8) prods).foldl (fun acc g => rnd (FV.sum 0 (acc :: g))) c

end Sys2Proof.Machine
end

