-- ==== Sys2Proof/Config.lean ====
section
/-! DEFINITION. What an implementation or its surroundings fix and the spec leaves open: constants without a body, so
that no proof can see their values. Each is named in the assumption log. -/

namespace Sys2Proof.Config

/-- Nanoseconds of `%time` that pass in step number n (R64 gives no durations). Free value, log entry 13. -/
opaque elapsedNs : Nat → BitVec 32
/-- Clock edges of a core between two samplings of its `%cycles` (R64). Free value, log entry 13. -/
opaque coreEdges : Nat → BitVec 32
/-- A byte that has no defined content: of a draw, at an address (R28, R98, R100). Free value, log entry 18. -/
opaque openByte : Nat → Nat → Byte
/-- What the matrix array writes to a register of a row whose upset no sample caught (R290: no bound holds on that
value). Free value, log entry 15. -/
opaque upsetWord : Nat → Word
/-- Which of the places open to it the distributor takes: section, slot in the section, scratchpad (R27, R28). Free
value, log entry 19. -/
opaque place : Nat → Nat
/-- Which directory entry, if any, a home whose storage is full frees for a request (R331). Free value, log entry 21. -/
opaque dirEvict : Nat → Option Nat
/-- Parity shows a lost retention element at an exit from retention (R376). Free value, log
entry 20. -/
opaque parityLost : Nat → Bool
/-- Kind of the RAS record of a lost retention element (R376 gives none). Constant, log entry 20. -/
opaque retentionKind : Byte
/-- Detail of that record. Constant, log entry 20. -/
opaque retentionDetail : DWord
/-- A plain read of a byte of a UO page in step n returns the value before its last store, where the order lets it (R298).
Free value, log entry 42. -/
opaque uoEarlier : Nat → Nat → Bool
/-- An uncorrectable error that arises in memory in step n, if one does: space 0 to 2, byte (R117, R118). Free value, log entry 43.
-/
opaque newFlaw : Nat → Option (Nat × Nat)
/-- The devices of the Osier domain (R349, R386). Constant, log entry 17. -/
opaque domain : List Nat
/-- The handle in an engine delivery for a copy command of the host, which no team issued (R233). Constant, log entry 17. -/
opaque noIssuer : Nat
/-- The address in that delivery. Constant, log entry 17. -/
opaque noIssuerPc : BitVec 48
/-- The operands of a ring bind as its 40 operand bytes hold them (Table 27-5 gives no places): queue, ring base, entry count,
owner port, event ring base, event entry count. Constant, log entry 23. -/
opaque ringBindArgs : List Byte → Nat × Nat × Nat × Nat × Nat × Nat
/-- The bytes of the RAS log header for a record count, a lost count and the next `seq` (Table 27-5 gives no layout).
Constant, log entry 23. -/
opaque rasHeaderBytes : Nat → Nat → Nat → List Byte
/-- The queue of the device supervisor, which the host designates at boot (R346). Constant, log entry 17. -/
opaque supervisorQueue : BitVec 6
/-- The physical address of the supervisor's fault ring, which the host places at boot (R346). Constant, log entry 17. -/
opaque faultRing : Nat
/-- The rack budget set at boot as the safe one (R377). Constant, log entry 17. -/
opaque safeBudget : Nat
/-- The kind of the device event by which a peer's dead time is reported (R387, R382 give none). Constant, log entry 24. -/
opaque deadReportKind : Byte
/-- Watts of package power the device estimates (R372 gives no way to compute it). Free value, log entry 16. -/
opaque watts : Nat → Nat
/-- SHA-512 digest of the signer's key held in fuses (R384). Constant, log entry 17. -/
opaque fusedKeyDigest : BitVec 512
/-- The device serial number (Table 27-6). Constant, log entry 17. -/
opaque serialNumber : DWord
/-- The part: 0 DCN9-P, 1 DCN9-M (Table 27-6). Constant, log entry 17. -/
opaque partNumber : Byte
/-- The secret from which the identity key of one boot is derived (R385). Constant, log entry 17. -/
opaque identitySecret : Nat → BitVec 256

end Sys2Proof.Config
end

