-- ==== Sys2Proof/Machine/State.lean ====
section
/-! DEFINITION. The whole state of a D9 as plain data, the reasons a step can stop, and the state after reset. Each
field names the rule of spec/ that gives it; fields of the model's own say so. -/

namespace Sys2Proof.Machine

/-- Memory by address: addresses strictly rising, no listed byte equal to 0, which an unlisted address reads as (log
entry 5). -/
abbrev Memory := List Host.Cell

/-- The canonical form of a memory: addresses strictly rising and no byte equal to what an unlisted address reads as. -/
def Memory.wf : Memory → Bool
  | [] => true
  | [c] => c.2 != 0
  | c :: d :: m => c.2 != 0 && decide (c.1 < d.1) && Memory.wf (d :: m)

/-! ## Where a byte lies -/

/-- A cached leaf translation (R350, R352): the context number it was walked under, virtual base, size, physical base,
attributes of Table 21-5. -/
structure Tlb where
  ctx : Nat
  va : Nat
  size : Nat
  pa : Nat
  w : Bool
  x : Bool
  sv : Bool
  coh : Nat
  ord : Nat
  deriving DecidableEq, Repr

/-- Where one byte lies: physical memory under a leaf, scratchpad of a core, carve of a tower. -/
inductive Loc where
  | mem (pa : Nat) (t : Tlb)
  | scr (k : Nat)
  | crv (k : Nat)
  deriving DecidableEq, Repr

/-! ## Teams -/

/-- One register of one strand: value, format tag and poison mark (R57, R60, R61). -/
structure Reg where
  val : Word
  tag : BitVec 4
  psn : Bool
  deriving DecidableEq, Repr

/-- A register as team start leaves it (R36). -/
def Reg.zero : Reg := ⟨0, 0, false⟩

/-- One strand: its registers v0 to v(N − 1), its nesting counter (R43) and its sticky flags (R65). -/
structure Strand where
  regs : List Reg
  ctr : BitVec 8
  nsr : BitVec 8
  deriving DecidableEq, Repr

/-- What handler entry saves for `ERET` (R344, R248): the hierarchical mask follows from the counters (R23). -/
structure Activation where
  pc : BitVec 48
  ctrs : List (BitVec 8)
  sigs : BitVec 16
  sigd : BitVec 16
  /-- The instruction at the saved pc is reached by stepping (R163). -/
  stepped : Bool
  deriving DecidableEq, Repr

/-- A fault or trap as it is reported (R341, R342). `num` is n of `TRAP n`. `acc`: the address of the reported part. -/
structure Trap where
  prio : Nat
  cause : Nat
  rstr : Option Nat
  addr : DWord
  num : Nat
  deriving DecidableEq, Repr

/-- A delivery to the supervisor (Table 21-3): what the record holds beside the queue, context and handle. -/
structure Delivery where
  trap : Trap
  pc : BitVec 48
  amsum : Word
  eng : Bool
  hnd : Nat
  q : Nat
  ctx : Nat
  deriving DecidableEq, Repr

/-- An issued `MMA` or `OXMM` whose results are not written yet (R219, R221): its accumulator registers from `base`, the
values computed at issue by strand, the instruction for a replay, and how the row checker samples it (R289). -/
structure MatPend where
  ox : Bool
  base : Nat
  span : Nat
  vals : List (Nat × List Word)
  instr : Instr
  pc : BitVec 48
  full : Bool
  replays : Nat
  /-- For each executed pass: the pass and the rotation counter it was sampled under. -/
  rot : List (Nat × Nat)
  /-- Physical rows in which an earlier execution of this instruction differed (R290). -/
  seen : List Nat
  /-- Where the instruction's entry stands in the check sequence: entries made before it (R289). -/
  entry : Nat
  deriving DecidableEq, Repr

/-- A register some earlier instruction wrote, for the stall-count test (R130): strands written, cycles so far and the
producer's latency. -/
structure Producer where
  reg : Nat
  strands : List Nat
  dist : Nat
  lat : Nat
  /-- Stood before the handler entry of the team's activation (R130). -/
  pre : Bool
  deriving DecidableEq, Repr

/-- A store released and not yet accepted at its home (R66): its number, the physical addresses it went to, and bytes of it
that have not performed yet (R300). -/
structure Released where
  id : Nat
  pas : List Nat
  cells : List (Loc × Byte)
  deriving DecidableEq, Repr

/-- A range operation not yet complete (R205): its number, the reply register, if any, and word. -/
structure RangeOwed where
  id : Nat
  vd : Option Nat
  w : Word
  deriving DecidableEq, Repr

/-- A `SUBS`, `UNSUB` or `SUPG` not yet answered (R207, R208): its number, the result register, if any, lines granted at the
format and as exact shares, and lines still to be answered. -/
structure SubOwed where
  id : Nat
  vd : Option Nat
  fmtd : Nat
  exact : Nat
  left : Nat
  deriving DecidableEq, Repr

/-- A read-modify-write instruction in progress because a die writes its sector through (R334): the strands still to act with
their places and operands, old values and flags of those done, and the write-through under way with its old value and flags.
-/
structure Rmw where
  todo : List (Nat × List Loc × Nat × Nat)
  got : List (Nat × Nat × BitVec 8)
  sent : Option (Nat × Nat × BitVec 8)
  deriving DecidableEq, Repr

/-- The working copy of a team, where it is not the checked copy (R280): registers with tags and counters, program counter,
signature halves. -/
structure Work where
  strands : List Strand
  pc : BitVec 48
  sigs : BitVec 16
  sigd : BitVec 16
  deriving DecidableEq, Repr

/-- Whether a team may issue. `parked`: on a miss (R116), with the sectors it waits for. `stopped`: delivered to the
supervisor (R254), with its record. `waiting`: in precise-store mode the store at pc waits for its home (R66). `slept`: asleep
at the `SLEEP` at pc until the deadline (R251). `fabric`: an access waits for sectors another agent must give. -/
inductive Status where
  | run
  | parked (secs : List Nat)
  | stopped (d : Delivery)
  | waiting
  | accepted
  | slept (deadline : Nat)
  | fabric (secs : List Nat)
  deriving DecidableEq, Repr

/-- A `BAR` whose arrival is recorded (R211): cluster scope or not, barrier number, phase returned. -/
structure BarWait where
  clu : Bool
  num : Nat
  phase : Word
  deriving DecidableEq, Repr

/-- A resident team (R21, R25), or the residue of a saved one (R54). -/
structure Team where
  /-- Handle of Table 12-3: slot × 2^11 + section × 2^9 + core. -/
  hnd : Nat
  /-- Its group, by the model's own number, and its index j (R27). -/
  grp : Nat
  idx : Nat
  /-- N of R26. -/
  nreg : Nat
  /-- The strands, 32 for each pass (R21). -/
  strands : List Strand
  pc : BitVec 48
  /-- `%tctl`, `%sigs`, `%sigd`, `%mism` (R66, R67). -/
  tctl : Word
  sigs : BitVec 16
  sigd : BitVec 16
  mism : Word
  /-- The instruction at pc is reached by stepping (R134). -/
  stepped : Bool
  act : Option Activation
  /-- Locked accumulator registers (R221). -/
  lock : List Nat
  mat : List MatPend
  /-- Engine commands an `OPFENCE` makes the next `MMA` or `OXMM` wait for (R223). -/
  opf : List Nat
  /-- Registers a reply is still to be written to (R129, R205, R207, R228). -/
  pend : List Nat
  ranges : List RangeOwed
  subs : List SubOwed
  rmw : Option Rmw
  work : Option Work
  /-- The last committed sample of each name (R282): `%cycles` 0, `%time` 1, `%tok` 2, `SKFREE` of channel k 3 + k. -/
  samps : List (Nat × Nat)
  prod : List Producer
  /-- The check sequence, newest first: true for a mismatch (R287); entries made so far (the model's own). -/
  seq : List Bool
  checks : Nat
  /-- Commits left in checked-only mode (R287); none outside it. -/
  chk : Option Nat
  /-- The event flag (R251). -/
  evf : Bool
  bwt : Option BarWait
  /-- Restored at a `SLEEP` that completes at once (R251). -/
  nosleep : Bool
  /-- Slot of the context's stack pool (R353). -/
  stks : Nat
  status : Status
  /-- Held at the instruction at pc (R211). -/
  held : Bool
  /-- A pre-emption request, with the `%time` it arrived (R354). -/
  preq : Option Nat
  /-- Once the team stands where it is to be saved: registers to save, and whether the save is full (R51, R53). -/
  yielded : Option (Nat × Bool)
  /-- Stores released and not yet accepted (R66). -/
  rel : List Released
  /-- Started by a launch-team node (R240). -/
  node : Bool
  /-- The context number of a team placed in its group after a change of the descriptor its group was placed under (R347). -/
  newer : Option Nat
  /-- Groups withdrawn by its last `FETCHWORK` (R49). -/
  withdrawn : List Nat
  /-- `%time` at which it became ready (R55, R367). -/
  since : Nat
  /-- Draw counter at its last ordering point: reads of UO pages reach no further back (R298). -/
  mark : Nat
  /-- Counter of names at its last release `FENCE`: writes to scratchpad and carve wait for older write-throughs (R392). -/
  fence : Nat
  /-- Counter of names when its `TLBINV` dropped its entries: that waits for accesses begun before (R253). -/
  inval : Option Nat
  deriving DecidableEq, Repr

/-! ## Groups, launches, queues and contexts -/

/-- A barrier: completed phases and the teams that have arrived (R200), by group and team index. -/
structure Barrier where
  phase : Word
  arr : List (Nat × Nat)
  deriving DecidableEq, Repr

/-- Where a group stands (R42, R54). -/
inductive Residency where
  | placed
  | resident
  | saved (addr : Nat)
  deriving DecidableEq, Repr

/-- Who asked for a pre-emption: the distributor (R363, R365), a host command, a power gate (R354, R375). -/
inductive PreReason where
  | sched
  | host
  | gate
  deriving DecidableEq, Repr

/-- A group of teams (R27). -/
structure Group where
  /-- The model's own number for the group. -/
  id : Nat
  launch : Nat
  /-- Dispatch index g (R33). -/
  gid : Nat
  q : Nat
  ctx : Nat
  core : Nat
  /-- Scratchpad allocation (R28). -/
  sbase : Nat
  sbytes : Nat
  /-- Team indices used so far, and those not retired (R47, R240). -/
  used : Nat
  live : List Nat
  bars : List Barrier
  /-- Item queue: next index and items left (R50, R243). -/
  iqn : Word
  iqc : Nat
  /-- Stake channels named (R209). -/
  chans : List Nat
  res : Residency
  /-- The teams that wait to start, their places taken at placement, or the residue of saved ones (R54). -/
  kept : List Team
  /-- Asked to leave or saved, and at whose request (R354, R375). -/
  pre : Option PreReason
  /-- Place in the context's save area kept for its record since it was asked to leave (R357). -/
  sav : Option Nat
  /-- Some team of it has issued (R42). -/
  started : Bool
  /-- Draw counter at its placement: its fetches read nothing older (R123). -/
  born : Nat
  deriving DecidableEq, Repr

/-- A level descriptor (Table 2-2). -/
structure Level where
  extent : Nat
  scope : Nat
  domain : Nat
  keysel : Nat
  deriving DecidableEq, Repr

/-- A launch record (Table 2-1). -/
structure LaunchRec where
  entry : Nat
  nregs : Nat
  tsize : Nat
  tpg : Nat
  hash : Bool
  spill : Bool
  scr : Nat
  stagger : Nat
  tctl0 : Word
  args : DWord
  stack : Nat
  levels : List Level
  deriving DecidableEq, Repr

/-- A queue record (Table 23-1). -/
structure QRec where
  cores : List Nat
  pto : Nat
  rlim : Nat
  wdog : Nat
  dl : Nat
  mbw : Nat
  hways : Nat
  vlm : Nat
  ctx : Nat
  lcrit : Bool
  fchk : Bool
  prio : Nat
  deriving DecidableEq, Repr

/-- A launch accepted and not complete (R29, R47). -/
structure Launch where
  id : Nat
  q : Nat
  ctx : Nat
  lr : LaunchRec
  /-- The queue record in force when it was accepted (R361). -/
  qr : QRec
  cmd : CmdHdr
  /-- `%time` when accepted (R369) and deadline in µs. -/
  acc : Nat
  dl : Nat
  /-- Next group neither placed nor withdrawn; groups retired, withdrawn ones included (R47, R49). -/
  next : Nat
  retired : List Nat
  /-- Ended because a unit cannot be placed (R40). -/
  ended : Bool
  /-- Last actual group start by die (R42). -/
  lastStart : List (Nat × Nat)
  /-- Level instances completed, as (level, instance) (R34). -/
  instDone : List (Nat × Nat)
  /-- Node image of a graph launch: pointer and bytes (Table 27-2). -/
  img : Option (Nat × Nat)
  deriving DecidableEq, Repr

/-- A command taken from a ring and not complete (R378, R379). -/
structure QCmd where
  step : Event
  hdr : CmdHdr
  started : Bool
  deriving DecidableEq, Repr

/-- A hardware queue with its ring (R361, R378). -/
structure Queue where
  cfg : QRec
  bound : Bool
  base : Nat
  entries : Nat
  owner : Nat
  head : Word
  cmds : List QCmd
  torn : Bool
  /-- Watchdog count in ns (R358). -/
  wd : Nat
  /-- Bytes served in this interval, against `mbw` (R371). -/
  mused : Nat
  /-- Left without teams by a host pre-emption (R358). -/
  hostPre : Bool
  deriving DecidableEq, Repr

/-- A context's descriptor (Table 21-4). -/
structure CtxDesc where
  ptroot : Nat
  uhnd : Nat
  sav : Nat
  savsz : Nat
  stkb : Nat
  stkn : Nat
  stkr : Nat
  deriving DecidableEq, Repr

/-- A context: its descriptor, earlier descriptors that resident groups still use, by version (R347), carve windows
(tower, base, limit) (R98), parts of the save area in use (R356) and stack slots handed out (R353). A context number of
the model is the identifier plus 2^16 × version; version 0 is the newest descriptor. -/
structure Ctx where
  desc : CtxDesc
  old : List (Nat × CtxDesc)
  wins : List (Nat × Nat × Nat)
  savUsed : List (Nat × Nat)
  stkUsed : List Nat
  deriving DecidableEq, Repr

/-! ## Cores, clusters and engines -/

/-- A block of the L1 (R105): frame and word span, whether its page is software-managed, the bytes it copies there, its
dirty bytes (offsets in the frame), policy, and the fill record of hint 0: predictor index, anchor, words read. -/
structure Block where
  frame : Nat
  lo : Nat
  hi : Nat
  sm : Bool
  data : List Host.Cell
  dirty : List Nat
  pol : Nat
  fill : Option (Nat × Nat × Nat × Nat)
  use : Nat
  deriving DecidableEq, Repr

/-- Words of a frame that a prefetch still wants in the L1 (R112): low, high, software-managed, policy, and the fill record of
hint 0: predictor index, anchor. -/
structure Wanted where
  lo : Nat
  hi : Nat
  sm : Bool
  pol : Nat
  fr : Option (Nat × Nat)
  deriving DecidableEq, Repr

/-- A miss entry (R115): the sector asked for, `%cycles` at the first request, what a prefetch still wants of it. -/
structure Miss where
  sector : Nat
  born : Nat
  want : Option Wanted
  deriving DecidableEq, Repr

/-- A line of the instruction cache (R12, R123): line number, its bytes, the draw counter when it was read. -/
structure ILine where
  line : Nat
  bytes : List Byte
  born : Nat
  deriving DecidableEq, Repr

/-- A sector of the checker cache (R284): sector number, the context a rounded copy is for, its bytes. -/
structure CSector where
  sector : Nat
  ctx : Option Nat
  bytes : List Byte
  deriving DecidableEq, Repr

/-- One walk of a weaver graph (R240): ready at its node, waiting for a team it started or for its copy. -/
inductive WalkState where
  | ready
  | team (idx : Nat)
  | copy (id : Nat)
  deriving DecidableEq, Repr

/-- A walk: its number, node, the node's 256 bits as the walk read them, and state. -/
structure Walk where
  id : Nat
  node : Nat
  word : Nat
  st : WalkState
  deriving DecidableEq, Repr

/-- The weaver of a core (R238): the group and command of the running graph, its walks, waiting forks, nodes completed, status.
-/
structure Weaver where
  run : Option (Nat × Nat)
  walks : List Walk
  /-- Forks not taken yet because 64 walks run, oldest first (R240). -/
  forks : List Nat
  done : Nat
  st : Nat
  bad : Nat
  deriving DecidableEq, Repr

/-- What a core holds beside its memories. -/
structure Core where
  blocks : List Block
  /-- Spatial predictor: entry, lo, hi (R107). -/
  pred : List (Nat × Int × Int)
  misses : List Miss
  icache : List ILine
  ccache : List CSector
  /-- Bytes of another device's software-managed words brought for one access that fills nothing (R316, `.BYP`). -/
  byp : List Host.Cell
  /-- Instructions in the execute stages: `%time` of issue and class (R366); window of each section: start and class (R367).
  -/
  exec_ : List (Nat × Nat)
  wins : List (Nat × (Nat × Nat))
  /-- Owner group of each claimed slot, and slots whose release waits (R213, R214). -/
  slots : List (Nat × Nat)
  releasing : List Nat
  /-- Rotation counter (R289), row on the spare, rows covered by the row checker (R290). -/
  rot : Nat
  spare : Option Nat
  covered : List Nat
  /-- Matrix token: held, requested, `%time` at which the array fell idle (R224). -/
  tok : Bool
  want : Bool
  idle : Nat
  weaver : Weaver
  /-- `%cycles` (R64). -/
  cyc : DWord
  deriving DecidableEq, Repr

/-- A cluster's controls (R370, R374 to R376): rail high, switch in progress, gated, gate pending, retained, retention
pending, byte budget, what is left in this interval, and the images written at retention entry: group, context, address.
-/
structure Cluster where
  vhi : Bool
  sw : Option Bool
  gated : Bool
  gating : Bool
  ret : Bool
  retaining : Bool
  budget : Nat
  left : Nat
  recs : List (Nat × Nat × Nat)
  deriving DecidableEq, Repr

/-- Who issued an engine command: a team, a copy node of a graph that the team `hnd` started (R228, R240), or the host by a
copy command (Table 27-2). -/
inductive Issuer where
  | team (hnd : Nat)
  | node (core walk hnd : Nat)
  | host (h : CmdHdr)
  deriving DecidableEq, Repr

/-- One end of a copy: a space 0 address, a scratchpad byte of a core, a carve byte of a tower, or a byte of a slot of
the issuing core (data from 0, side area from 2,048). -/
inductive ELoc where
  | glob (va : Nat)
  | scr (core off : Nat)
  | crv (tower off : Nat)
  | slot (n off : Nat)
  deriving DecidableEq, Repr

/-- What an engine command does, as fixed at issue (R228 to R238, R48). -/
inductive EOp where
  /-- Pieces to move in order: source, destination, bytes (R230, R231). `rel`: its space 0 writes are releases. -/
  | move (parts : List (ELoc × ELoc × Nat)) (rel : Bool)
  /-- `.GATH` (R232): base, offset of the index list, elements, element bytes, destination. -/
  | gather (base list cnt esz : Nat) (dst : ELoc)
  /-- A collective (R236). -/
  | coll (fn comm seq op dt count : Nat) (send recv : ELoc)
  /-- A transfer (R237). -/
  | xfer (put : Bool) (comm peer remote : Nat) (loc : ELoc) (len : Nat) (ether : Bool) (seq : Nat)
  | gstart (node : Nat)
  | gstat (word : Word)
  | gcond (off : Nat) (v : Word)
  /-- `FETCHWORK` (R48): the mailbox's scratchpad offset. -/
  | fetch (mbox : Nat)
  deriving DecidableEq, Repr

/-- A translation that failed for an engine command (R233): the address, the cause, the context it was walked in, and whether it has been
delivered. -/
structure EWait where
  addr : Nat
  cause : Nat
  ctx : Nat
  told : Bool
  deriving DecidableEq, Repr

/-- An engine command outstanding (R228). `wait`: stopped on a failed translation. `tries`: 1 once a `TLBINV` has made it walk
again. `sent`: a request has gone to its peer (R237); `peer`: what its peers have answered. `fin`: status and count it ends with once
its writes have performed (R320). -/
structure ECmd where
  id : Nat
  op : EOp
  issuer : Issuer
  grp : Nat
  q : Nat
  ctx : Nat
  core : Nat
  pc : BitVec 48
  sup : Bool
  /-- Reply register (R228). -/
  rep : Option Nat
  /-- Local bytes read and written (R234): (slot, first, bytes), slot 129 + c standing for the scratchpad of core c. -/
  rd : List (Nat × Nat × Nat)
  wr : List (Nat × Nat × Nat)
  moved : Nat
  wait : Option EWait
  tries : Nat
  sent : Bool
  peer : Option PeerReply
  fin : Option (Nat × Nat)
  deriving DecidableEq, Repr

/-- One stake channel (R209): owning context, the groups that named it, entries oldest first. -/
structure Chan where
  owner : Option Nat
  groups : List Nat
  entries : List (List (Word × BitVec 4))
  deriving DecidableEq, Repr

/-! ## Coherence -/

/-- The states of Table 18-1. -/
inductive DieState where
  | i
  | s
  | u
  | m
  | t
  deriving DecidableEq, Repr

/-- A sector of a die (R327 to R329): state, tokens by holder (0 to 47 the L1s, 48 to 95 the checker caches, 96 the die
port), the owner token's holder, dirty bytes not at home yet, the rounded copy and the context it is for, and persistent
requests waiting at the port (R328). An engine command holds tokens only within the step that makes its access (R327). -/
structure DieSec where
  st : DieState
  tok : List (Nat × Nat)
  own : Nat
  dirty : List Host.Cell
  rnd : List Host.Cell
  ctx : Nat
  persist : List (Nat × Bool)
  /-- The core whose persistent request was active last (R328). -/
  last : Option Nat
  /-- Failed transient requests by core (R328). -/
  fails : List (Nat × Nat)
  /-- The write-through of the sector that keeps every token until Done1 (R335). -/
  busy : Option Nat
  /-- Exact bytes brought from the home for one access of a context that does not subscribe (R336). -/
  peek : List Host.Cell
  /-- Queues whose stores made the dirty bytes (R339). -/
  qs : List Nat
  deriving DecidableEq, Repr

/-- A sharer slot (Tables 18-2 and 18-3): format, agent, invalidate mode. -/
structure Sharer where
  fmt : Nat
  agent : Nat
  inv : Bool
  deriving DecidableEq, Repr

/-- A sector field (Table 18-5): `st` 0 I, 1 S, 2 M. -/
structure SecField where
  pend : Bool
  st : Nat
  hold : List Bool
  deriving DecidableEq, Repr

/-- A directory entry (Table 18-2). `coarse`: the groups of a coarse entry. `held`: the agents that hold a sector of a coarse
entry, which its bits do not name (the model's own: R331 frees the entry with its last holder's notice). -/
structure DirEntry where
  coarse : Option (List Nat)
  held : List (Nat × Nat)
  sfm : Nat
  slots : List (Option Sharer)
  sec : List SecField
  deriving DecidableEq, Repr

/-- A message of a home that an agent must acknowledge (R332, R334). -/
inductive HomeMsg where
  | inval
  | recall
  | update
  deriving DecidableEq, Repr

/-- An acknowledgement a transaction waits for. -/
structure Await where
  agent : Nat
  sector : Nat
  msg : HomeMsg
  deriving DecidableEq, Repr

/-- What a home transaction does when its acknowledgements are in (R331, R332, R334): serve its request again, now that
nothing stands against it; return a coarse entry to pointer mode first; answer a write-through; free the entry; nothing. -/
inductive Then where
  | again (e : Event)
  | collapse (e : Event)
  | through (agent : Nat) (collapse : Bool)
  | free
  | none
  deriving DecidableEq, Repr

/-- A home transaction in progress (R332): its sector, the sectors it keeps pending, what follows, the acknowledgements it
waits for, and, for a write-through, those Done2 waits for after Done1 (R334). -/
structure Txn where
  sector : Nat
  span : List Nat
  kind : Then
  acks : List Await
  later : List Await
  done1 : Bool
  deriving DecidableEq, Repr

/-- A write-through of a team on its way (R335): its number, the team, die and sector, its bytes, whether it is a
read-modify-write's (R334) and a store to an SO page (R299), and whether Done1 has come. -/
structure Through where
  id : Nat
  hnd : Nat
  die : Nat
  sector : Nat
  cells : List Host.Cell
  cond : Bool
  so : Bool
  done1 : Bool
  deriving DecidableEq, Repr

/-- What a die has asked a home (R329, R336, R337). `peek`: exact bytes for one access of another context (R336). -/
inductive AskKind where
  | exact
  | rounded
  | write
  | peek
  | sub
  | upg
  | unsub
  deriving DecidableEq, Repr

/-- A request of a die that its home has not answered: the sector, or the line of a subscription request, and the owed result
of the team that asked (R207), if one did. -/
structure Ask where
  die : Nat
  pos : Nat
  kind : AskKind
  owed : Option (Nat × Nat)
  deriving DecidableEq, Repr

/-- The value a byte of a UO page had before a store (R298), and the draw counter then. -/
structure Older where
  pa : Nat
  byte : Byte
  at_ : Nat
  deriving DecidableEq, Repr

/-- One claim (Table 14-1). Registers are (strand, register, value, tag); `ecc` an uncorrectable error in the entry; `trap` the
fault it reports. -/
structure Claim where
  hnd : Nat
  pc : BitVec 48
  word : List Byte
  amask : List Nat
  sum : Nat
  src : List (Nat × Nat × Word × BitVec 4)
  res : List (Nat × Nat × Word × BitVec 4)
  nsr : List (Nat × BitVec 8)
  ctr : List (BitVec 8)
  next : BitVec 48
  addr : List (Nat × DWord)
  ldata : List (Nat × List Byte)
  sdata : List (Nat × List Byte)
  samp : Option Nat
  sigd : BitVec 16
  trap : Option Trap
  ecc : Bool
  deriving DecidableEq, Repr

/-- A die's subscription (R207): die, line, context, format. -/
structure Subscr where
  die : Nat
  line : Nat
  ctx : Nat
  fmt : Nat
  deriving DecidableEq, Repr

/-! ## The device -/

/-- A RAS record (Table 21-7). -/
structure RasRec where
  seq : Nat
  time : DWord
  kind : Nat
  loc : Nat
  q : Nat
  ctx : Nat
  agent : Nat
  addr : DWord
  detail : DWord
  deriving DecidableEq, Repr

/-- A host port's event ring (R382): the write index and the events that wait. -/
structure EvRing where
  bound : Bool
  base : Nat
  entries : Nat
  wr : Word
  waiting : List (List Byte)
  deriving DecidableEq, Repr

/-- A communicator (R390): ranks as (device, context, paths, IPv6 address). -/
structure Comm where
  rank : Nat
  ranks : List (Nat × Nat × Nat × Nat)
  deriving DecidableEq, Repr

/-- Boot state (R383, R384): `boot` of Table 27-6, admin port, digest of the running image, fused security version,
boots so far. -/
structure Boot where
  boot : Nat
  admin : Option Nat
  image : List Byte
  svn : Nat
  count : Nat
  deriving DecidableEq, Repr

/-- Package power (R370 to R373, R377). -/
structure Power where
  pool : Nat
  floor : Nat
  ramp : Nat
  /-- Rack budget in force, its expiry, the last sequence number applied, the safe budget. -/
  rack : Nat
  expiry : Option Nat
  lastSeq : Option Nat
  safe : Nat
  /-- Last estimate, ballast on, grants and admissions delayed by the ramp rate (R372), watts above the rack budget (R373). -/
  est : Nat
  ballast : Bool
  hold : Bool
  excess : Nat
  /-- Cores waiting for a token, first come first (R224). -/
  queue : List Nat
  /-- Numbers of the 1 µs intervals that began last, for the byte budgets (R371) and for the estimate (R372). -/
  us : Nat
  eus : Nat
  deriving DecidableEq, Repr

/-- A turn of the schedule (the model's own): a team issues, a step of the device happens, or a main core retires an
instruction, whose claim is what that core computed (R281). -/
inductive Turn where
  | issue (hnd : Nat)
  | dev (e : Event)
  | retire (c : Claim)
  deriving DecidableEq, Repr

/-- Bytes lo to hi − 1 of a memory that have no defined content (R28, R98, R100): they read as free values of a draw. -/
structure Undef where
  lo : Nat
  hi : Nat
  draw : Nat
  deriving DecidableEq, Repr

/-- The machine. -/
structure State where
  /-- Turns to come (the model's own; see the assumption log). -/
  agenda : List Turn
  /-- Steps that have become due, oldest first (the model's own). -/
  due : List Event
  /-- The team whose turn it is (the model's own). -/
  cur : Nat
  /-- Counter that free values are drawn with (the model's own). -/
  fresh : Nat
  /-- Counter for new numbers of groups, launches, engine commands and walks (the model's own). -/
  names : Nat
  teams : List Team
  groups : List Group
  /-- Cluster barriers: (launch, instance), four barriers (R200). -/
  cbars : List ((Nat × Nat) × List Barrier)
  launches : List Launch
  queues : List (Nat × Queue)
  /-- The supervisor queue (R346). -/
  supq : Option Nat
  ctxs : List (Nat × Ctx)
  cores : List (Nat × Core)
  /-- Cores out of use, and pair numbers that moved to a spare site of their tower: (tower, pair), one for each move (R11). -/
  offCores : List Nat
  spares : List (Nat × Nat)
  clusters : List (Nat × Cluster)
  /-- Scratchpad: core × 2^19 + offset; its poisoned 8-byte words (R12, R117). -/
  scr : Memory
  scrPsn : List Nat
  scrUnd : List Undef
  /-- Slots: (core × 128 + slot) × 2,304 + byte (R100). -/
  slotm : Memory
  slotUnd : List Undef
  /-- Hoop carve: tower × 2^34 + offset; poisoned sectors; carved slices by tower (R98, R117). -/
  crv : Memory
  crvPsn : List Nat
  crvUnd : List Undef
  slices : List (Nat × Nat)
  /-- Physical memory of the domain by 48-bit address (R99, R348), poisoned 4 KiB pages (R117). -/
  mem : Memory
  memPsn : List Nat
  tlb : List Tlb
  ecmds : List ECmd
  /-- Channels: pair × 4 + channel (R209). -/
  chans : List (Nat × Chan)
  /-- Directory entries by line number (address div 256) (R330), transactions, requests behind `pend` (R332). -/
  dir : List (Nat × DirEntry)
  txns : List Txn
  behind : List Event
  /-- Messages sent to other agents and homes: agent or device, message (R326). -/
  net : List (Nat × Event)
  /-- Epochs by agent, and agents that may not take coherent permission (R326, R339). -/
  epochs : List (Nat × Byte)
  dead : List Nat
  /-- Coarse exponent g (R331). -/
  coarseG : Nat
  /-- Sectors held by dies: die × 2^42 + sector number (R329). -/
  secs : List (Nat × DieSec)
  throughs : List Through
  subsc : List Subscr
  /-- Open requests of this device's dies (R329), own epochs of its dies (R326), notices counted as acknowledgements whose own
  are still to come (R333), writes of the device itself that wait for permission (R327), queues whose stores or write-backs a
  home dropped, by die (R339). -/
  asks : List Ask
  dieEp : List (Nat × Byte)
  late : List (Nat × Nat)
  /-- Dies of this device that know of their death and take no permission until they are admitted (R339). -/
  barred : List Nat
  dwq : List (List Host.Cell)
  lost : List (Nat × Nat)
  /-- Values that bytes of UO pages had before (R298). -/
  older : List Older
  /-- Uncorrectable errors not found yet, by space 0 to 2: physical address, scratchpad or carve byte (R117, R118). -/
  flaws : List (Nat × Nat)
  /-- Claim queues by section (core × 4 + section), oldest first (R281). -/
  claims : List (Nat × List Claim)
  /-- The sample that the claim under check gives (R282; the model's own). -/
  sample : Option Nat
  /-- The fault that the trap taken last reported (the model's own: what a claim must report, R282). -/
  told : Option Trap
  /-- Supervisor fault ring (R346): base, write index, read index, deliveries that wait. -/
  frBase : Nat
  frWr : Nat
  frRd : Nat
  frWait : List Delivery
  ras : List RasRec
  rasLost : Nat
  rasSeq : Nat
  power : Power
  events : List (Nat × EvRing)
  boot : Boot
  comms : List (Nat × Comm)
  devid : Nat
  /-- Dead time in ms (Table 27-5, function 7). -/
  deadMs : Nat
  /-- Coherent traffic has happened (Table 27-5, function 7): messages with another device, or requests of this device's dies but for the
  device's own accesses (log entry 58). -/
  traffic : Bool
  /-- Peers in recovery: the time they were reported, and whether the dead time has been reported (R387). -/
  recovery : List (Nat × (Nat × Bool))
  lanesOff : List Nat
  rowsOff : List Nat
  /-- `%time` (R64). -/
  time : DWord
  /-- Which queue round-robin served last (R364). -/
  rrq : Nat
  deriving DecidableEq, Repr

/-- Why a step stops. -/
inductive Fault where
  /-- Raised by `exec` of a team instruction when the current handle names no resident team that may issue: no team
  executes an instruction then. Safe: the machine stops where the device would do nothing. -/
  | noTeam
  deriving DecidableEq, Repr

/-- What has no meaning. -/
inductive Refusal where
  /-- Raised by an arm of `exec` whose meaning is not written. Safe: nothing is claimed of it. -/
  | notModelled (mnemonic : String)
  deriving DecidableEq, Repr

/-- A weaver at rest (R238). -/
def Weaver.idle : Weaver := ⟨none, [], [], 0, 0, 0⟩

/-- A core after reset (R289, R290, R224; Table 4-6). -/
def Core.reset : Core :=
  { blocks := [], pred := [], misses := [], icache := [], ccache := [], byp := [], exec_ := [], wins := [], slots := [], releasing := [], rot := 0, spare := none, covered := [], tok := false,
    want := false, idle := 0, weaver := Weaver.idle, cyc := 0 }

/-- A cluster's controls at boot (Table 23-4). -/
def Cluster.reset : Cluster := ⟨false, none, false, false, false, false, 4294967295, 4294967295, []⟩

/-- A queue record that reserves nothing (Table 23-1, every field 0). -/
def QRec.zero : QRec := ⟨[], 0, 0, 0, 0, 0, 0, 0, 0, false, false, 0⟩

/-- A queue to which no ring is bound (log entry 4). -/
def Queue.reset : Queue := ⟨QRec.zero, false, 0, 0, 0, 0, [], false, 0, 0, false⟩

/-- A stake channel nobody owns (R209). -/
def Chan.reset : Chan := ⟨none, [], []⟩

/-- A line with no entry: I in every sector (R330). -/
def DirEntry.empty : DirEntry :=
  ⟨none, [], 0, [none, none, none, none], List.replicate 4 ⟨false, 0, [false, false, false, false]⟩⟩

/-- A sector the die holds no copy of: every token is at the port (R327, Table 18-1 row I). -/
def DieSec.absent : DieSec := ⟨.i, [(96, 128)], 96, [], [], 0, [], none, [], none, [], []⟩

/-- An event ring nobody bound (R382). -/
def EvRing.reset : EvRing := ⟨false, 0, 0, 0, []⟩

/-- Package power at boot (Table 23-4; log entry 9 for the safe budget). -/
def Power.reset : Power := ⟨384, 0, 100000, 2400, none, none, 2400, 0, false, false, 0, [], 0, 0⟩

/-- The machine right after reset (R383): no core runs, no ring is bound, boot status 1. Values the spec states none for
are those of log entries 2 to 11. -/
def State.reset : State :=
  { agenda := [], due := [], cur := 0, fresh := 0, names := 0, teams := [], groups := [], cbars := [], launches := [],
    queues := [], supq := none, ctxs := [], cores := [], offCores := [], spares := [], clusters := [], scr := [],
    scrPsn := [], scrUnd := [], slotm := [], slotUnd := [], crv := [], crvPsn := [], crvUnd := [], slices := [], mem := [], memPsn := [], tlb := [], ecmds := [],
    chans := [], dir := [], txns := [], behind := [], net := [], epochs := [], dead := [], coarseG := 7, secs := [],
    throughs := [], subsc := [], asks := [], dieEp := [], late := [], barred := [], dwq := [], lost := [], older := [], flaws := [], claims := [], sample := none, told := none, frBase := 0, frWr := 0, frRd := 0, frWait := [], ras := [],
    rasLost := 0, rasSeq := 0, power := Power.reset, events := [], boot := ⟨1, none, [], 0, 0⟩, comms := [], devid := 0,
    deadMs := 0, traffic := false, recovery := [], lanesOff := [], rowsOff := [], time := 0, rrq := 0 }

end Sys2Proof.Machine
end

