-- ==== Sys2Proof/Machine/Base.lean ====
section
/-! DEFINITION. Reading and writing the parts of the state: memories, teams, cores, queues; numbering of cores, dies and
clusters (R10, R11, R326); the RAS log (R360); verdicts, which carry the reported fault of an instruction (R342). -/

namespace Sys2Proof.Machine

/-! ## Memory -/

/-- The byte at an address; an unlisted one reads 0 (log entry 5). -/
def Memory.get : Memory → Nat → Byte
  | [], _ => 0
  | c :: m, a => if c.1 = a then c.2 else Memory.get m a

/-- The memory with byte `b` at address `a`, in canonical form. -/
def Memory.put : Memory → Nat → Byte → Memory
  | [], a, b => if b = 0 then [] else [(a, b)]
  | c :: m, a, b =>
    if a < c.1 then (if b = 0 then c :: m else (a, b) :: c :: m)
    else if a = c.1 then (if b = 0 then m else (a, b) :: m)
    else c :: Memory.put m a b

/-- The memory with every cell of a list written in order. -/
def Memory.putAll (m : Memory) (cs : List Host.Cell) : Memory := cs.foldl (fun m c => m.put c.1 c.2) m

/-- `n` bytes from an address on. -/
def Memory.read (m : Memory) (a n : Nat) : List Byte := (List.range n).map (fun i => m.get (a + i))

/-- Bytes as cells from an address on. -/
def cellsAt (a : Nat) (bs : List Byte) : List Host.Cell := bs.mapIdx (fun i b => (a + i, b))

/-! ## Bytes with no defined content -/

/-- The draw under which a byte has no defined content, if it has none. -/
def undAt (u : List Undef) (a : Nat) : Option Nat := (u.find? (fun x => decide (x.lo ≤ a) && decide (a < x.hi))).map (·.draw)
/-- The bytes lo to hi − 1 become defined. -/
def undCut (u : List Undef) (lo hi : Nat) : List Undef :=
  u.flatMap (fun x =>
    if hi ≤ x.lo ∨ x.hi ≤ lo then [x]
    else (if x.lo < lo then [{ x with hi := lo }] else []) ++ (if hi < x.hi then [{ x with lo := hi }] else []))
/-- The bytes of cells become defined. -/
def undCells (u : List Undef) (cs : List Host.Cell) : List Undef := if u.isEmpty then u else cs.foldl (fun u c => undCut u c.1 (c.1 + 1)) u
/-- The bytes lo to hi − 1 lose their content. -/
def undAdd (u : List Undef) (lo hi draw : Nat) : List Undef := undCut u lo hi ++ [⟨lo, hi, draw⟩]
/-- A byte of a memory some of whose bytes have no defined content. -/
def openGet (m : Memory) (u : List Undef) (a : Nat) : Byte :=
  match undAt u a with
  | some d => Config.openByte d a
  | none => m.get a

/-! ## Places: cores, dies, clusters, agents -/

/-- The die of a device core index (R10). -/
def dieOf (core : Nat) : Nat := core / 48
/-- The cluster, 0 to 31 over the device (R10). -/
def clusterOf (core : Nat) : Nat := core / 12
/-- The rank within the cluster (R10). -/
def rankOf (core : Nat) : Nat := core % 12
/-- The bonded pair, 0 to 191, of a core (R11): tower × 48 + logical core. -/
def pairOf (core : Nat) : Nat := core / 96 * 48 + core % 48
/-- The core is on the lower die of its pair (R9, R11). -/
def isLower (core : Nat) : Bool := core / 48 % 2 == 0
/-- The core with a rank in the cluster of another core (R97). -/
def peerCore (core rank : Nat) : Nat := clusterOf core * 12 + rank
/-- The sector number of an address (R62). -/
def sectorOf (pa : Nat) : Nat := pa / 64
/-- The frame, which is also the directory line (R62). -/
def frameOf (pa : Nat) : Nat := pa / 256
/-- The device a physical address lies on (R348). -/
def devOf (pa : Nat) : Nat := pa / 2 ^ 39
/-- The agent ID of a compute die of this device (R326). -/
def agentOf (s : State) (die : Nat) : Nat := s.devid * 16 + die
/-- The compute die of this device an agent is, if it is one (R326). -/
def localDie (s : State) (agent : Nat) : Option Nat :=
  if agent / 16 = s.devid ∧ agent % 16 < 8 then some (agent % 16) else none
/-- The home tower of a physical address (R99). -/
def homeTower (pa : Nat) : Nat := bits pa 12 2 ^^^ bits pa 14 2

/-- The hoop slice of a physical address within its home tower (R99). -/
def hoopSlice (pa : Nat) : Nat := bits pa 14 6 ^^^ bits pa 8 4
/-- The epoch the homes of this device hold for an agent (R326). -/
def State.epochOf (s : State) (a : Nat) : Byte := (aget a s.epochs).getD 0
/-- The epoch a die of this device takes itself to have (R326, R339). -/
def State.ownEpoch (s : State) (die : Nat) : Byte := (aget die s.dieEp).getD 0
/-- A die of this device that the homes have not left behind (R339). -/
def State.current (s : State) (die : Nat) : Bool := s.ownEpoch die == s.epochOf (agentOf s die)

/-! ## Parts of the state -/

/-- A core. -/
def State.core (s : State) (c : Nat) : Core := (aget c s.cores).getD Core.reset
/-- The state with one core changed. -/
def State.setCore (s : State) (c : Nat) (f : Core → Core) : State := { s with cores := aset c (f (s.core c)) s.cores }
/-- A cluster's controls. -/
def State.cluster (s : State) (c : Nat) : Cluster := (aget c s.clusters).getD Cluster.reset
/-- The state with one cluster's controls changed. -/
def State.setCluster (s : State) (c : Nat) (f : Cluster → Cluster) : State :=
  { s with clusters := aset c (f (s.cluster c)) s.clusters }
/-- A hardware queue. -/
def State.queue (s : State) (q : Nat) : Queue := (aget q s.queues).getD Queue.reset
/-- The state with one queue changed. -/
def State.setQueue (s : State) (q : Nat) (f : Queue → Queue) : State :=
  { s with queues := aset q (f (s.queue q)) s.queues }
/-- The 16-bit identifier in a context number. -/
def ctxId (c : Nat) : Nat := c % 65536
/-- A context, if the host gave one, under the descriptor of the number's version (R347). -/
def State.ctx (s : State) (c : Nat) : Option Ctx :=
  (aget (ctxId c) s.ctxs).map (fun x => if c < 65536 then x else { x with desc := (aget (c / 65536) x.old).getD x.desc })
/-- The state with one context changed, if it exists. -/
def State.setCtx (s : State) (c : Nat) (f : Ctx → Ctx) : State :=
  match aget (ctxId c) s.ctxs with
  | some x => { s with ctxs := aset (ctxId c) (f x) s.ctxs }
  | none => s
/-- A group by the model's number. -/
def State.group (s : State) (g : Nat) : Option Group := s.groups.find? (fun x => x.id == g)
/-- The state with one group changed. -/
def State.setGroup (s : State) (g : Nat) (f : Group → Group) : State :=
  { s with groups := s.groups.map (fun x => if x.id = g then f x else x) }
/-- A launch by number. -/
def State.launch (s : State) (l : Nat) : Option Launch := s.launches.find? (fun x => x.id == l)
/-- The state with one launch changed. -/
def State.setLaunch (s : State) (l : Nat) (f : Launch → Launch) : State :=
  { s with launches := s.launches.map (fun x => if x.id = l then f x else x) }
/-- The resident team with a handle. -/
def State.team (s : State) (h : Nat) : Option Team := s.teams.find? (fun t => t.hnd == h)
/-- The state with a team put in place of the one with its handle. -/
def State.putTeam (s : State) (t : Team) : State :=
  { s with teams := s.teams.map (fun x => if x.hnd = t.hnd then t else x) }
/-- The state with the team of a handle changed. -/
def State.setTeam (s : State) (h : Nat) (f : Team → Team) : State :=
  { s with teams := s.teams.map (fun x => if x.hnd = h then f x else x) }
/-- A stake channel. -/
def State.chan (s : State) (k : Nat) : Chan := (aget k s.chans).getD Chan.reset
/-- The state with one channel changed. -/
def State.setChan (s : State) (k : Nat) (f : Chan → Chan) : State := { s with chans := aset k (f (s.chan k)) s.chans }
/-- The engine command of a number. -/
def State.ecmd (s : State) (id : Nat) : Option ECmd := s.ecmds.find? (fun x => x.id == id)
/-- The state with one engine command changed. -/
def State.setECmd (s : State) (id : Nat) (f : ECmd → ECmd) : State :=
  { s with ecmds := s.ecmds.map (fun x => if x.id = id then f x else x) }
/-- A host port's event ring. -/
def State.evring (s : State) (p : Nat) : EvRing := (aget p s.events).getD EvRing.reset
/-- The state with a step become due. -/
def State.later (s : State) (i : Event) : State := { s with due := s.due ++ [i] }
/-- The state with a message sent (R326). -/
def State.send (s : State) (dest : Nat) (i : Event) : State := { s with net := s.net ++ [(dest, i)] }

/-- A scratchpad byte, core × 2^19 + offset (R12). -/
def State.scrByte (s : State) (a : Nat) : Byte := openGet s.scr s.scrUnd a
/-- A carve byte, tower × 2^34 + offset (R98). -/
def State.crvByte (s : State) (a : Nat) : Byte := openGet s.crv s.crvUnd a
/-- A slot byte, (core × 128 + slot) × 2,304 + byte (R100). -/
def State.slotByte (s : State) (a : Nat) : Byte := openGet s.slotm s.slotUnd a

/-- Slot, section and core of a handle (Table 12-3). -/
def hndCore (h : Nat) : Nat := h % 512
/-- The section of a handle (Table 12-3). -/
def hndSec (h : Nat) : Nat := h / 512 % 4
/-- The slot in the section of a handle (Table 12-3). -/
def hndSlot (h : Nat) : Nat := h / 2048 % 16
/-- The handle of a slot, section and core (Table 12-3). -/
def mkHnd (slot sec core : Nat) : Nat := slot * 2048 + sec * 512 + core

/-- The core a team is on. -/
def Team.core (t : Team) : Nat := hndCore t.hnd
/-- Passes of a team (R21). -/
def Team.passes (t : Team) : Nat := t.strands.length / 32
/-- The group of a team. -/
def State.grpOf (s : State) (t : Team) : Option Group := s.group t.grp
/-- The context of a team: its group's, or a newer version of it (R347). -/
def State.ctxOf (s : State) (t : Team) : Nat := t.newer.getD (match s.group t.grp with | some g => g.ctx | none => 0)
/-- The queue of a team. -/
def State.qOf (s : State) (t : Team) : Nat := match s.group t.grp with | some g => g.q | none => 0
/-- The queue record that governs a team: the one in force when its launch was accepted (R361). -/
def State.recOf (s : State) (t : Team) : QRec :=
  match (s.group t.grp).bind (fun g => s.launch g.launch) with | some l => l.qr | none => (s.queue (s.qOf t)).cfg
/-- The team belongs to the device supervisor (R346). -/
def State.isSup (s : State) (t : Team) : Bool := s.supq == some (s.qOf t)
/-- The time as a number. -/
def State.now (s : State) : Nat := s.time.toNat

/-! ## Memory byte budgets -/

/-- Bytes of a cluster's budget that are withheld while the estimate exceeds the rack budget: the share by which it does, the same
part of every cluster's budget (R373). -/
def withheld (s : State) (cl : Nat) : Nat := if s.power.excess = 0 then 0 else (s.cluster cl).budget * s.power.excess / max 1 s.power.est
/-- The memory-side arbiters serve a request of a core and queue in this interval (R371), unless admissions are delayed (R372,
R373). `mbw`: the queue's reservation in force for the request (R361). -/
def memRoom (s : State) (core q mbw : Nat) : Bool :=
  !s.power.hold && decide ((s.cluster (clusterOf core)).left > withheld s (clusterOf core)) && (mbw == 0 || decide ((s.queue q).mused < mbw))
/-- n bytes are charged to the cluster's budget and the queue's reservation (R371). -/
def memCharge (s : State) (core q n : Nat) : State :=
  let s := s.setCluster (clusterOf core) (fun c => { c with left := c.left - n })
  s.setQueue q (fun x => { x with mused := x.mused + n })

/-! ## RAS log and device events -/

/-- An event waits for a host port's ring (R382). -/
def postEvent (s : State) (port : Nat) (bs : List Byte) : State :=
  { s with events := aset port { s.evring port with waiting := (s.evring port).waiting ++ [bs] } s.events }

/-- The 64 bytes of a device event (R382). -/
def eventBytes (s : State) (e : HostEvt) : List Byte :=
  ([BitVec.ofNat 8 e.kind, BitVec.ofNat 8 e.q] ++ leBytes 2 e.ctx ++ leBytes 4 0 ++ leBytes 8 s.now ++
    (e.detail ++ List.replicate 48 (0 : Byte)).take 48)

/-- A device event for the host of the admin port becomes due (R382). -/
def tellHost (s : State) (kind q ctx : Nat) (detail : List Byte) : State :=
  match s.boot.admin with
  | some p => s.later (.hostEvent p ⟨kind, q, ctx, detail⟩)
  | none => s

/-- Writes one RAS record; when the log is full the oldest is dropped and the lost count rises (R360). -/
def rasWrite (s : State) (kind loc q ctx agent : Nat) (addr detail : DWord) : State :=
  let r : RasRec := ⟨s.rasSeq, s.time, kind, loc, q, ctxId ctx, agent, addr, detail⟩
  let full := s.ras.length ≥ 4096
  let s' := { s with ras := (if full then s.ras.drop 1 else s.ras) ++ [r], rasLost := s.rasLost + (if full then 1 else 0),
                     rasSeq := s.rasSeq + 1 }
  tellHost s' 5 q ctx []

/-- The location field of a RAS record for a core and section (Table 21-7). -/
def rasLoc (core sec : Nat) : Nat := core + 512 * sec

/-! ## Verdicts -/

/-- Whether fault x is reported before y: priority, then no strand before strands, then the lowest strand, then the
lowest address (R342). -/
def Trap.le (x y : Trap) : Bool :=
  let key := fun t : Trap => (t.prio, (match t.rstr with | none => 0 | some s => s + 1), t.addr.toNat, t.cause)
  let (a, b, c, d) := key x
  let (a', b', c', d') := key y
  a < a' || (a == a' && (b < b' || (b == b' && (c < c' || (c == c' && d ≤ d')))))

/-- The result of testing and computing an instruction: its result, or the fault it reports. -/
inductive V (α : Type) where
  | ok (a : α)
  | bad (t : Trap)
  deriving Repr

/-- The result of the first used in the second. -/
def V.bind {α β : Type} (x : V α) (f : α → V β) : V β := match x with | .ok a => f a | .bad t => .bad t

/-- The result changed. -/
def V.map {α β : Type} (f : α → β) (x : V α) : V β := match x with | .ok a => .ok (f a) | .bad t => .bad t

/-- Two tests of one instruction, each made whatever the other finds: the fault reported first wins (R342). -/
def V.both {α β : Type} (x : V α) (y : V β) : V (α × β) :=
  match x, y with
  | .ok a, .ok b => .ok (a, b)
  | .ok _, .bad t => .bad t
  | .bad t, .ok _ => .bad t
  | .bad t, .bad u => .bad (if t.le u then t else u)

/-- All tests of a list, each made whatever the others find (R342). -/
def V.all {α : Type} : List (V α) → V (List α)
  | [] => .ok []
  | x :: xs => (V.both x (V.all xs)).map (fun p => p.1 :: p.2)

/-- A test that raises a fault when its condition fails. -/
def V.test (c : Bool) (t : Trap) : V Unit := if c then .ok () else .bad t

/-- A fault of Table 21-1 with no address. -/
def trapOf (prio cause : Nat) (r : Option Nat) : Trap := ⟨prio, cause, r, 0, 0⟩
/-- Illegal instruction (Table 21-1). -/
def trapIllegal : Trap := trapOf 1 1 none
/-- Privilege (Table 21-1). -/
def trapPriv : Trap := trapOf 1 2 none
/-- Alignment at an address (Table 21-1). -/
def trapAlign (r : Option Nat) (a : DWord) : Trap := ⟨2, 3, r, a, 0⟩
/-- Translation, cause 0x04 to 0x06, at an address (Table 21-1). -/
def trapTrans (cause : Nat) (r : Option Nat) (a : DWord) : Trap := ⟨3, cause, r, a, 0⟩
/-- Address (Table 21-1). -/
def trapAddr (r : Option Nat) (a : DWord) : Trap := ⟨3, 7, r, a, 0⟩
/-- Poison of memory or peer (Table 21-1). -/
def trapPoison (r : Option Nat) (a : DWord) : Trap := ⟨4, 8, r, a, 0⟩
/-- Poison of a register (Table 21-1). -/
def trapRegPoison (r : Option Nat) : Trap := trapOf 4 9 r
/-- Register-bound (Table 21-1). -/
def trapBound (r : Option Nat) : Trap := trapOf 5 10 r
/-- Format tag (Table 21-1). -/
def trapTag (r : Option Nat) : Trap := trapOf 5 11 r
/-- Matrix hazard (Table 21-1). -/
def trapHazard (r : Option Nat) : Trap := trapOf 5 12 r
/-- Accumulator integrity (Table 21-1). -/
def trapAcc (r : Option Nat) : Trap := trapOf 5 13 r
/-- Nesting overflow (Table 21-1). -/
def trapNest : Trap := trapOf 5 14 none
/-- Signature (Table 21-1). -/
def trapSig : Trap := trapOf 6 15 none
/-- Stall count (Table 21-1). -/
def trapStall : Trap := trapOf 7 16 none

end Sys2Proof.Machine
end

