-- ==== Sys2Proof/Machine/Translate.lean ====
section
/-! DEFINITION. Pointers (R95, R96, R151), translation by the page tables with cached leaf entries (R348 to R352),
scratchpad and carve reach (R97, R98), and the poison test of an access (R117, R118). -/

namespace Sys2Proof.Machine

/-! ## The value of coherent memory -/

/-- A sector of a die (R329). -/
def State.sec (s : State) (die sector : Nat) : DieSec := (aget (die * 2 ^ 42 + sector) s.secs).getD DieSec.absent
/-- The state with one die sector changed; a sector the die no longer holds is not listed. -/
def State.setSec (s : State) (die sector : Nat) (d : DieSec) : State :=
  if d = DieSec.absent then { s with secs := adel (die * 2 ^ 42 + sector) s.secs }
  else { s with secs := aset (die * 2 ^ 42 + sector) d s.secs }

/-- The byte a cell list gives for an address. -/
def cellAt (cs : List Host.Cell) (a : Nat) : Option Byte := (cs.find? (fun c => c.1 == a)).map (·.2)

/-- The present value of a byte of a coherent page: a dirty byte of the die in M, else the home's (R310, R327). A die the homes
have left behind counts for nothing (R339). -/
def cohByte (s : State) (pa : Nat) : Byte :=
  match s.secs.findSome? (fun x => if x.1 % 2 ^ 42 = pa / 64 && s.current (x.1 / 2 ^ 42) then cellAt x.2.dirty pa else none) with
  | some b => b
  | none => s.mem.get pa

/-- `n` bytes of physical memory at their present value. -/
def cohBytes (s : State) (pa n : Nat) : List Byte := (List.range n).map (fun i => cohByte s (pa + i))

/-! ## The walk -/

/-- Bytes of physical memory on a device: 384 GB (R13, R5). -/
def devBytes : Nat := 384 * 10 ^ 9

/-- A device of the domain (R349). -/
def inDomain (s : State) (dev : Nat) : Bool := dev == s.devid || Config.domain.contains dev

/-- A page-table entry read as a relaxed load (R348, R350). -/
def pteAt (s : State) (table idx : Nat) : Nat := leNat (cohBytes s (table + 8 * idx) 8)

/-- The attribute bits `sv`, `coh`, `ord`, `x`, `w` of an entry (Table 21-5). -/
def pteAttrs (e : Nat) : Nat := bits e 3 6

/-- A valid entry is invalid whatever its level (R349): a reserved bit, `ord` 3, SO with software-managed, a frame out
of its device, a device out of the domain. -/
def pteBad (s : State) (e : Nat) : Bool :=
  bits e 48 16 != 0 || bitAt e 11 || bitAt e 2 || bits e 5 2 == 3 || (bits e 5 2 == 1 && bitAt e 7) ||
  decide (bits e 12 27 * 4096 ≥ devBytes) || !inDomain s (bits e 39 9)

/-- The 16 entries of a 64 KiB page agree (R349). -/
def pte64Ok (s : State) (table idx e : Nat) : Bool :=
  let first := idx / 16 * 16
  let base := bits (pteAt s table first) 12 36
  base % 16 == 0 && (List.range 16).all (fun i =>
    let f := pteAt s table (first + i)
    bitAt f 0 && bitAt f 9 && bitAt f 1 && pteAttrs f == pteAttrs e && bits f 12 36 == base + i)

/-- The leaf an entry at a level maps (R348): virtual base, size and attributes; the sixteen entries of a 64 KiB page map one
leaf (R349). -/
def leafOf (ctx va level e : Nat) : Tlb :=
  let size := if level = 2 then 2 ^ 30 else if level = 1 then 2 ^ 21 else if level = 0 ∧ bitAt e 9 then 65536 else 4096
  { ctx := ctx, va := va / size * size, size := size, pa := bits e 12 36 * 4096 / size * size, w := bitAt e 3, x := bitAt e 4,
    sv := bitAt e 8, coh := bits e 7 1, ord := bits e 5 2 }

/-- The walk from a level's table (R348, R349): the leaf, or the cause 0x04, 0x05 or 0x06. `level + 1` tables are left.
-/
def walk (s : State) (ctx va : Nat) : Nat → Nat → Except Nat Tlb
  | 0, _ => .error 5
  | n + 1, table =>
    let idx := bits va (12 + 9 * n) 9
    let e := pteAt s table idx
    if !bitAt e 0 then .error (if n = 0 ∧ bitAt e 10 then 6 else 4)
    else if pteBad s e then .error 5
    else if bitAt e 1 then
      (if n = 3 then .error 5
       else
         let l := leafOf ctx va n e
         if (n ≠ 0 ∧ bits e 12 36 * 4096 % l.size ≠ 0) ∨ l.pa % 2 ^ 39 + l.size > devBytes then .error 5
         else if n = 0 ∧ bitAt e 9 ∧ !pte64Ok s table idx e then .error 5
         else .ok l)
    else if n = 0 ∨ pteAttrs e ≠ 0 then .error 5
    else walk s ctx va n (bits e 12 36 * 4096)

/-- The leaf for a virtual address of a context, under the descriptor of the number's version (R347): a cached one, else by a
walk (R350). -/
def leafFor (s : State) (ctx va : Nat) : Except Nat Tlb :=
  match s.tlb.find? (fun t => t.ctx == ctx && decide (t.va ≤ va) && decide (va < t.va + t.size)) with
  | some t => .ok t
  | none => match s.ctx ctx with
    | none => .error 4
    | some c => walk s ctx va 4 (c.desc.ptroot / 4096 * 4096)

/-- The state with a leaf cached (R350). -/
def cacheLeaf (s : State) (t : Tlb) : State := if s.tlb.contains t then s else { s with tlb := t :: s.tlb }

/-- What an access needs of its page (R349, R102): to write, to execute, to be strong; whether poison faults it (R118), and
whether it reads, so that an error in what it reads is found. -/
structure Need where
  write : Bool
  exec_ : Bool
  strong : Bool
  poison : Bool
  read : Bool
  deriving DecidableEq, Repr

/-- A plain load. -/
def Need.rd : Need := ⟨false, false, false, true, true⟩
/-- A plain store. -/
def Need.wr : Need := ⟨true, false, false, true, false⟩
/-- An instruction fetch (R123). -/
def Need.fetch : Need := ⟨false, true, false, false, false⟩

/-- An access that reads a byte meets an uncorrectable error there (R117, R118). -/
def Need.flawed (n : Need) (s : State) (sp a : Nat) : Bool := n.read && s.flaws.contains (sp, a)

/-- The permission checks of R349 and R102 pass. -/
def permOk (t : Tlb) (sup : Bool) (n : Need) : Bool :=
  (!n.write || t.w) && (!n.exec_ || t.x) && (!t.sv || sup) && (!n.strong || t.coh == 0)

/-- The leaf for an access, or the cause of its translation fault. -/
def transFor (s : State) (ctx : Nat) (sup : Bool) (n : Need) (va : Nat) : Except Nat Tlb :=
  match leafFor s ctx va with
  | .error c => .error c
  | .ok t => if permOk t sup n then .ok t else .error 5

/-- The width of a space's address field (R151). -/
def spaceWidth (sp : Nat) : Nat := if sp = 0 then 48 else if sp = 1 then 19 else 34

/-- A pointer is valid (R151). -/
def ptrOk (p : DWord) : Bool :=
  let v := p.toNat
  match v / 2 ^ 60 with
  | 0 => bits v 48 12 == 0
  | 1 => bits v 52 8 == 0 && bits v 19 29 == 0 && decide (bits v 48 4 < 12)
  | 2 => bits v 52 8 == 0 && bits v 34 14 == 0 && decide (bits v 48 4 < 4)
  | _ => false

/-- The space of a pointer (R95). -/
def ptrSpace (p : DWord) : Nat := p.toNat / 2 ^ 60
/-- Rank or tower of a pointer. -/
def ptrSel (p : DWord) : Nat := bits p.toNat 48 4
/-- The address field of a pointer. -/
def ptrField (p : DWord) : Nat := bits p.toNat 0 (spaceWidth (ptrSpace p))

/-- The pointer moved by an offset (R96); none where that is an address fault. -/
def ptrAdd (p : DWord) (d : Int) : Option DWord :=
  if !ptrOk p then none
  else
    let x : Int := (ptrField p : Int) + d
    if x < 0 ∨ x ≥ (2 ^ spaceWidth (ptrSpace p) : Nat) then none
    else some (BitVec.ofNat 64 (p.toNat - ptrField p + x.toNat))

/-- A scratchpad byte lies in an allocation of a resident group of the context (R97). -/
def inAlloc (s : State) (ctx core off : Nat) : Bool :=
  s.groups.any (fun g => ctxId g.ctx == ctxId ctx && g.core == core && decide (g.sbase ≤ off) && decide (off < g.sbase + g.sbytes) &&
    (match g.res with | .saved _ => false | _ => true))

/-- A carve range lies in one window of the context (R98). -/
def inWindow (s : State) (ctx tower off n : Nat) : Bool :=
  match s.ctx ctx with
  | none => false
  | some c => c.wins.any (fun w => w.1 == tower && decide (w.2.1 ≤ off) && decide (off + n ≤ w.2.2))

/-- Tests one byte of an access and finds where it lies (R96 to R98, R118, R349). `r` is the strand concerned; `core` the
issuing core; `p` the pointer of the first byte and `n` the access's bytes. -/
def locByte (s : State) (ctx core : Nat) (sup : Bool) (nd : Need) (r : Option Nat) (p : DWord) (n i : Nat) : V Loc :=
  match ptrAdd p i with
  | none => .bad (trapAddr r p)
  | some q =>
    let f := ptrField q
    match ptrSpace q with
    | 0 => match transFor s ctx sup nd f with
      | .error c => .bad (trapTrans c r q)
      | .ok t =>
        let pa := t.pa + (f - t.va)
        if nd.poison && (s.memPsn.contains (pa / 4096) || nd.flawed s 0 pa) then .bad (trapPoison r q) else .ok (.mem pa t)
    | 1 =>
      let c := peerCore core (ptrSel q)
      if !inAlloc s ctx c f then .bad (trapAddr r q)
      else
        let k := c * 2 ^ 19 + f
        if nd.poison && (s.scrPsn.contains (k / 8) || nd.flawed s 1 k) then .bad (trapPoison r q) else .ok (.scr k)
    | _ =>
      if !inWindow s ctx (ptrSel q) (ptrField p) n then .bad (trapAddr r q)
      else
        let k := ptrSel q * 2 ^ 34 + f
        if nd.poison && (s.crvPsn.contains (k / 64) || nd.flawed s 2 k) then .bad (trapPoison r q) else .ok (.crv k)

/-- Tests every byte of an access (R103): where its bytes lie, or the fault at the lowest address. -/
def locate (s : State) (ctx core : Nat) (sup : Bool) (nd : Need) (r : Option Nat) (p : DWord) (n : Nat) : V (List Loc) :=
  V.all ((List.range n).map (fun i => locByte s ctx core sup nd r p n i))

/-- The leaves an access used, to be cached (R350). -/
def Loc.leaf : Loc → Option Tlb
  | .mem _ t => some t
  | _ => none

/-- Caches the leaves of an access. -/
def cacheLocs (s : State) (ls : List Loc) : State := (ls.filterMap Loc.leaf).foldl cacheLeaf s

end Sys2Proof.Machine
end

