-- ==== Sys2Proof/Machine/Die.lean ====
section
/-! DEFINITION. A compute die of this device as an agent (18_coherence.md): the L1 and checker-cache copies its holders keep,
tokens (R327, R328), die states (R329, Table 18-1), the messages it sends, and what it does with a home's answers and
messages (R333, R336, R337). -/

namespace Sys2Proof.Machine

/-! ## Blocks of the L1 that a die gives up -/

/-- A block cut to the words lo to hi of its frame. Each part keeps the whole fill record of the block (R107 does not say
which words of it belong to which part; log entry 40). -/
def Block.cut (b : Block) (lo hi : Nat) : Block :=
  { b with lo := lo, hi := hi, data := b.data.filter (fun c => decide (4 * lo ≤ c.1) && decide (c.1 < 4 * hi + 4)),
           dirty := b.dirty.filter (fun o => decide (4 * lo ≤ o) && decide (o < 4 * hi + 4)) }

/-- A block without the words lo to hi: the parts on either side (R113). -/
def Block.without (b : Block) (lo hi : Nat) : List Block :=
  (if b.lo < lo then [b.cut b.lo (min b.hi (lo - 1))] else []) ++
  (if b.hi > hi then [b.cut (max b.lo (hi + 1)) b.hi] else [])

/-- A block holds some word of lo to hi of the frame. -/
def Block.meets (b : Block) (frame lo hi : Nat) : Bool := b.frame == frame && decide (b.lo ≤ hi) && decide (lo ≤ b.hi)

/-- The set of a frame (R105): frame number mod 256. -/
def setOf (frame : Nat) : Nat := frame % 256
/-- The blocks of a set. -/
def Core.inSet (c : Core) (st : Nat) : List Block := c.blocks.filter (fun b => setOf b.frame == st)

/-- A core without the coherent (or software-managed) words lo to hi of a frame. -/
def Core.dropWords (c : Core) (sm : Bool) (frame lo hi : Nat) : Core :=
  { c with blocks := c.blocks.flatMap (fun b => if b.sm == sm && b.meets frame lo hi then b.without lo hi else [b]) }

/-- The core has words of a sector of a coherent page in its L1. -/
def Core.hasSector (c : Core) (sector : Nat) : Bool :=
  c.blocks.any (fun b => b.meets (sector / 4) (sector % 4 * 16) (sector % 4 * 16 + 15) && !b.sm)

/-- The sectors a block covers. -/
def Block.sectors (b : Block) : List Nat := (List.range (b.hi / 16 - b.lo / 16 + 1)).map (fun i => b.frame * 4 + b.lo / 16 + i)

/-! ## Messages of a die -/

/-- The header of a message from a die of this device (R326). -/
def hdrOf (s : State) (die : Nat) : MsgHdr := ⟨agentOf s die, s.ownEpoch die⟩

/-- The home of a sector is on this device (R99, R326). -/
def isHome (s : State) (sector : Nat) : Bool := devOf (sector * 64) == s.devid

/-- The type code that the log of a dropped message gives (Table 21-8): its place among the requests of Table 18-6. -/
def msgType (e : Event) : Nat :=
  match e with
  | .exactRead _ _ => 0
  | .subscribedRead _ _ => 1
  | .writePermission _ _ => 2
  | .writeThrough _ _ _ _ => 3
  | .notice _ _ _ => 4
  | .writeBack _ _ _ => 5
  | .subscriptionRequest _ _ _ _ _ => 6
  | .upgradeRequest _ _ => 7
  | .unsubscribeRequest _ _ => 8
  | .acknowledgement _ _ _ _ => 9
  | _ => 10

/-- A message of another epoch than the table's is dropped without effect, logged, and answered "stale epoch" (R339). -/
def dropMsg (s : State) (m : MsgHdr) (sector : Nat) (e : Event) : State :=
  let s := rasWrite s 8 65535 255 65535 m.agent (BitVec.ofNat 64 (sector * 64)) (BitVec.ofNat 64 (msgType e + 256 * m.epoch.toNat))
  match localDie s m.agent with
  | some d => s.later (.staleEpoch d)
  | none => s.send m.agent (.staleEpoch (m.agent % 16))

/-- A message of an agent reaches a home under the epoch the table holds (R339). -/
def epochOk (s : State) (m : MsgHdr) : Bool := m.epoch == s.epochOf m.agent

/-- Queues whose stores or write-backs the homes dropped are noted for the die that sent them (R339). -/
def noteLost (s : State) (die : Nat) (qs : List Nat) : State := { s with lost := qs.foldl (fun l q => if l.contains (die, q) then l else l ++ [(die, q)]) s.lost }

/-- Dirty bytes of a sector a die keeps in M go home as a write-back (R329): the die keeps M. `p`: which addresses. -/
def writeBackSector (s : State) (die sector : Nat) (p : Nat → Bool) : State :=
  let d := s.sec die sector
  let cs := d.dirty.filter (fun c => p c.1)
  if cs.isEmpty then s
  else
    let e : Event := .writeBack (hdrOf s die) sector cs
    let s := s.setSec die sector { d with dirty := d.dirty.filter (fun c => !p c.1) }
    if !isHome s sector then { s with mem := s.mem.putAll cs }.send (devOf (sector * 64)) e
    else if s.current die then { s with mem := s.mem.putAll cs }
    else noteLost (dropMsg s (hdrOf s die) sector e) die d.qs

/-! ## Tokens (R327) -/

/-- Tokens a holder has. -/
def DieSec.tokOf (d : DieSec) (h : Nat) : Nat := (aget h d.tok).getD 0

/-- Moves n tokens from one holder to another. -/
def DieSec.moveTok (d : DieSec) (a b n : Nat) : DieSec :=
  let t := aset b (d.tokOf b + n) (aset a (d.tokOf a - n) d.tok)
  { d with tok := t.filter (fun x => x.2 ≠ 0) }

/-- A holder that can spare a token: the port, else one with two or more. -/
def DieSec.giver (d : DieSec) (h : Nat) : Option Nat :=
  if d.tokOf 96 ≥ 1 then some 96 else (d.tok.find? (fun x => x.1 != h && decide (x.2 ≥ 2))).map (·.1)

/-- Gives a holder a token if it has none (R327, R328). -/
def DieSec.giveOne (d : DieSec) (h : Nat) : DieSec :=
  if d.tokOf h ≥ 1 then d
  else match d.giver h with
    | some g => d.moveTok g h 1
    | none => d

/-- A reader's tokens: one for the L1 of the core, one for its checker cache, which takes part as a reader (R284). -/
def DieSec.forRead (d : DieSec) (lcore : Nat) : DieSec := (d.giveOne lcore).giveOne (48 + lcore)

/-- A writer's tokens: all 128, the owner token among them (R327). An engine command, and the device itself at its port, give
them back in the step that takes them. -/
def DieSec.forWrite (d : DieSec) (h : Nat) : DieSec := { d with tok := [(h, 128)], own := h }

/-- Every token is at the port. -/
def DieSec.home (d : DieSec) : Bool := d.tokOf 96 == 128

/-- The tokens of a core's L1 and checker cache go back to the die port. -/
def DieSec.giveBack (d : DieSec) (lcore : Nat) : DieSec :=
  let d := (d.moveTok lcore 96 (d.tokOf lcore)).moveTok (48 + lcore) 96 (d.tokOf (48 + lcore))
  if d.own = lcore then { d with own := 96 } else d

/-- A core's tokens of a sector go back to the die port, the copies of its checker cache with them; when every token is there
the sector is given up soon (R329). -/
def returnTokens (s : State) (core sector : Nat) : State :=
  let die := dieOf core
  let d := s.sec die sector
  let s := s.setCore core (fun c => { c with ccache := c.ccache.filter (fun x => x.sector != sector) })
  if d.st = .i then s
  else
    let d := d.giveBack (core % 48)
    let s := s.setSec die sector d
    if d.home then s.later (.tokensBackAtPort die sector) else s

/-- A part of a block for which its set has no tag entry leaves the L1: its dirty bytes go home, and so do tokens of sectors the
core has no more words of (R105, R113). -/
def partOut (s : State) (core : Nat) (b : Block) : State :=
  b.sectors.foldl (fun s x =>
    let s := if (s.sec (dieOf core) x).own = core % 48 then
      writeBackSector s (dieOf core) x (fun a => decide (b.lo * 4 ≤ a % 256) && decide (a % 256 < b.hi * 4 + 4)) else s
    if (s.core core).hasSector x then s else returnTokens s core x) s

/-- A core's L1 without coherent words lo to hi of a frame; a set left with more than 32 blocks loses the part above (R113). -/
def dropCoreWords (s : State) (core frame lo hi : Nat) : State :=
  let s := s.setCore core (fun c => c.dropWords false frame lo hi)
  if ((s.core core).inSet (setOf frame)).length ≤ 32 then s
  else match (s.core core).blocks.find? (fun b => !b.sm && b.frame == frame && b.lo == hi + 1) with
    | some b => partOut (s.setCore core (fun c => { c with blocks := dropFirst (fun x => x == b) c.blocks })) core b
    | none => s

/-- Every L1 of a die but that of the core `keep`, and every checker cache, without a sector (R327: a holder that gives up its
last token drops its copy). -/
def dropInDie (s : State) (die sector : Nat) (keep : Option Nat) : State :=
  let lo := sector % 4 * 16
  ((s.cores.map (·.1)).filter (fun c => dieOf c == die)).foldl (fun s c =>
    let s := if (s.core c).ccache.any (fun x => x.sector == sector) then
      s.setCore c (fun k => { k with ccache := k.ccache.filter (fun x => x.sector != sector) }) else s
    if some c ≠ keep ∧ (s.core c).hasSector sector then dropCoreWords s c (sector / 4) lo (lo + 15) else s) s

/-! ## What a die does with the home's messages (Table 18-1) -/

/-- The state of a sector the die has no copy of any more; requests at its port stay (R328). -/
def DieSec.gone (d : DieSec) : DieSec :=
  { DieSec.absent with persist := d.persist, last := d.last, fails := d.fails, peek := d.peek }

/-- The die gives up a sector: it collects all tokens and its dirty bytes, drops its copies and goes to I. -/
def dieGiveUp (s : State) (die sector : Nat) : State × List Host.Cell :=
  let d := s.sec die sector
  ((dropInDie s die sector none).setSec die sector d.gone, d.dirty)

/-- A die in M recalled for read: it collects all tokens and its dirty bytes, and keeps an exact copy in S (Table 18-1). -/
def dieRecalled (s : State) (die sector : Nat) : State × List Host.Cell :=
  let d := s.sec die sector
  ((((dropInDie s die sector none).setSec die sector { d.gone with st := .s }).later (.tokensBackAtPort die sector)), d.dirty)

/-- The four sectors of a line. -/
def lineSecs (line : Nat) : List Nat := [line * 4, line * 4 + 1, line * 4 + 2, line * 4 + 3]

/-- The die's rounded copies of a line are dropped. -/
def dropRounded (s : State) (die line : Nat) : State :=
  (lineSecs line).foldl (fun s x => if (s.sec die x).st = .u then (dieGiveUp s die x).1 else s) s

/-- The die's record of a subscription to a line ends, its rounded copies with it (R208, R337). -/
def dieEndSub (s : State) (die line : Nat) : State :=
  dropRounded { s with subsc := s.subsc.filter (fun x => !(x.die == die && x.line == line)) } die line

/-- The die replaces elements of its rounded copy while its port holds all tokens (R337). -/
def dieUpdate (s : State) (die sector : Nat) (elems : List Host.Cell) : State :=
  let d := s.sec die sector
  (dropInDie s die sector none).setSec die sector
    { d with tok := [(96, 128)], own := 96, rnd := d.rnd.map (fun c => (c.1, (cellAt elems c.1).getD c.2)) }

/-- The die has asked a home something about a sector or line. -/
def asked (s : State) (die pos : Nat) (k : AskKind) : Bool := s.asks.any (fun a => a.die == die && a.pos == pos && a.kind == k)
/-- The first open request of a kind at a place is answered. -/
def endAsk (s : State) (die pos : Nat) (k : AskKind) : State :=
  { s with asks := dropFirst (fun a => a.die == die && a.pos == pos && a.kind == k) s.asks }
/-- The die subscribes to the line of a sector, for whatever context. -/
def dieSubscribes (s : State) (die sector : Nat) : Bool := s.subsc.any (fun x => x.die == die && x.line == sector / 4)
/-- The die has sent an upgrade or unsubscribe request for a line that is not answered (R337). -/
def leftLine (s : State) (die line : Nat) : Bool := asked s die line .upg || asked s die line .unsub
/-- The context of the die's subscription to a line. -/
def subCtx (s : State) (die line : Nat) : Nat :=
  match s.subsc.find? (fun x => x.die == die && x.line == line) with | some x => x.ctx | none => 0

/-- Exact bytes of a sector homed on another device, as the answer of its home gives them. -/
def takeBytes (s : State) (sector : Nat) (data : List Host.Cell) : State :=
  if isHome s sector then s else { s with mem := s.mem.putAll (data.filter (fun c => c.1 / 64 == sector)) }

/-- The open request that exact bytes of a sector answer: the first one sent. -/
def exactAsk (s : State) (die sector : Nat) : Option AskKind :=
  (s.asks.find? (fun a => a.die == die &&
    ((a.pos == sector && (a.kind == .exact || a.kind == .peek || a.kind == .rounded)) ||
     (a.pos == sector / 4 && (a.kind == .sub || a.kind == .upg))))).map (·.kind)

/-- A grant reaches the die (Tables 18-1 and 18-6). An exact answer to a die that subscribes to the line serves one access
(R336); one that ends a subscription makes a rounded copy exact (R337); one to a subscribed read says that the subscription was
demoted (R331). -/
def dieGrant (s : State) (die sector : Nat) (k : GrantKind) (data : List Host.Cell) : State :=
  let d := s.sec die sector
  match k with
  | .exact => (match exactAsk s die sector with
    | none => s
    | some .peek => (endAsk s die sector .peek).setSec die sector { d with peek := data }
    | some .rounded =>
      let s := dieEndSub (takeBytes (endAsk s die sector .rounded) sector data) die (sector / 4)
      s.setSec die sector { s.sec die sector with st := .s }
    | some .exact =>
      let s := endAsk s die sector .exact
      if dieSubscribes s die sector then s.setSec die sector { d with peek := data }
      else if d.st = .i then (takeBytes s sector data).setSec die sector { d with st := .s }
      else s
    | some _ =>
      let s := takeBytes (dropInDie s die sector none) sector data
      if d.st = .u ∨ d.st = .i then s.setSec die sector { d with st := .s, tok := [(96, 128)], own := 96, rnd := [], ctx := 0 } else s)
  | .rounded =>
    if !asked s die sector .rounded then s
    else
      let s := endAsk s die sector .rounded
      if dieSubscribes s die sector ∧ d.st = .i then
        s.setSec die sector { d with st := .u, rnd := data, ctx := subCtx s die (sector / 4) }
      else s
  | .m => if !asked s die sector .write then s
    else (takeBytes (endAsk s die sector .write) sector data).setSec die sector { s.sec die sector with st := .m }
  | .t => if !asked s die sector .write then s
    else (takeBytes (endAsk s die sector .write) sector data).setSec die sector { s.sec die sector with st := .t }

/-- A line's answer counts in the result of the team that asked (R207), each count held at 0xFFFF when the result is made. -/
def countSub (s : State) (owed : Option (Nat × Nat)) (fmtd : Bool) : State :=
  match owed with
  | none => s
  | some (h, id) =>
    let s := s.setTeam h (fun t => { t with subs := t.subs.map (fun r => if r.id = id then
      { r with fmtd := if fmtd then r.fmtd + 1 else r.fmtd, exact := if fmtd then r.exact else r.exact + 1, left := r.left - 1 } else r) })
    s.later (.subscriptionAnswered h)

/-- The open line request that comes first. -/
def lineAsk (s : State) (die line : Nat) : Option Ask :=
  s.asks.find? (fun a => a.die == die && a.pos == line && (a.kind == .sub || a.kind == .upg || a.kind == .unsub))

/-- The home's last answer to a request about a line: at the format, or an exact share (R207, R208, R336, R337). -/
def dieLineDone (s : State) (die line : Nat) (fmtd : Bool) : State :=
  match lineAsk s die line with
  | none => s
  | some a =>
    let s := { s with asks := dropFirst (fun x => x == a) s.asks }
    let s := match a.kind with
      | .sub => if fmtd then (lineSecs line).foldl (fun s x => if (s.sec die x).st = .i then s else (dieGiveUp s die x).1) s
        else dieEndSub s die line
      | _ => dieEndSub s die line
    countSub s a.owed fmtd

/-! ## Persistent requests (R328) -/

/-- Whether the die's state lets a core read, or write, a sector without asking the home (Table 18-1). -/
def dieAllows (d : DieSec) (wr : Bool) : Bool := d.busy.isNone && (if wr then d.st = .m || d.st = .t else d.st ≠ .i)
/-- The tokens a request asks for move to the core (R327). -/
def giveTokens (s : State) (die core sector : Nat) (wr : Bool) : State :=
  let s := if wr then dropInDie s die sector (some (die * 48 + core)) else s
  let d := s.sec die sector
  s.setSec die sector (if wr then d.forWrite core else d.forRead core)
/-- The order of persistent requests: ascending cluster rank and core (R328). -/
def persistKey (c : Nat) : Nat := c % 12 * 4 + c / 12
/-- The waiting request the port activates next: the first in the order after the one that was active last, round-robin (R328).
-/
def nextPersist (d : DieSec) : Option (Nat × Bool) :=
  let key := fun (x : Nat × Bool) => match d.last with
    | some l => (persistKey x.1 + 47 - persistKey l) % 48
    | none => persistKey x.1
  d.persist.foldl (fun (r : Option (Nat × Bool)) x => match r with
    | none => some x
    | some y => if key x < key y then some x else some y) none
/-- The port activates its persistent requests one after another while the die's state allows the one whose turn it is (R328). -/
def servePersist (die sector : Nat) : Nat → State → State
  | 0, s => s
  | n + 1, s =>
    let d := s.sec die sector
    match nextPersist d with
    | none => s
    | some r =>
      if !dieAllows d r.2 then s
      else
        let s := giveTokens s die r.1 sector r.2
        servePersist die sector n (s.setSec die sector { s.sec die sector with persist := dropFirst (· == r) d.persist, last := some r.1 })

/-- A grant arrives, and the port goes on with its persistent requests. -/
def takeGrant (s : State) (die sector : Nat) (k : GrantKind) (data : List Host.Cell) : State :=
  servePersist die sector 48 (dieGrant s die sector k data)

end Sys2Proof.Machine
end

