-- ==== Sys2Proof/Machine/Home.lean ====
section
/-! DEFINITION. The homes of this device (18_coherence.md): the directory (R330, R331), its transactions (R332 to R334), and
subscriptions (R336, R337). A message between a home and a die of the same device takes effect in the step that sends it;
messages to and from other agents wait in `net` and arrive as steps of their own (log entry 12). -/

namespace Sys2Proof.Machine

/-! ## Directory entries (R330) -/

/-- The entry of a line. -/
def State.dirE (s : State) (line : Nat) : DirEntry := (aget line s.dir).getD DirEntry.empty
/-- Puts a line's entry; one that records nothing is not kept. -/
def State.setDir (s : State) (line : Nat) (e : DirEntry) : State :=
  if e.coarse = none ∧ e.slots.all Option.isNone ∧ e.sec.all (fun f => !f.pend && f.st == 0) then
    { s with dir := adel line s.dir }
  else { s with dir := aset line e s.dir }

/-- The slot of an agent. -/
def DirEntry.slotOf (e : DirEntry) (a : Nat) : Option Nat :=
  e.slots.findIdx? (fun x => match x with | some p => p.agent == a | none => false)
/-- A free slot. -/
def DirEntry.freeSlot (e : DirEntry) : Option Nat := e.slots.findIdx? Option.isNone
/-- The agent and format of a slot. -/
def DirEntry.slot (e : DirEntry) (k : Nat) : Option Sharer := nth none e.slots k
/-- The line has a subscription slot (R330). -/
def DirEntry.hasSub (e : DirEntry) : Bool := e.slots.any (fun x => match x with | some p => p.fmt != 0 | none => false)
/-- The field of a sector of the line. -/
def DirEntry.field (e : DirEntry) (q : Nat) : SecField := nth ⟨false, 0, [false, false, false, false]⟩ e.sec q
/-- The entry with one sector field changed. -/
def DirEntry.setField (e : DirEntry) (q : Nat) (f : SecField → SecField) : DirEntry := { e with sec := upd e.sec q f }
/-- Slot k holds no sector. -/
def DirEntry.holdsNone (e : DirEntry) (k : Nat) : Bool := e.sec.all (fun f => !(nth false f.hold k))
/-- Frees exact slots that hold nothing, and sets a sector nobody holds to I (R330, R332). -/
def DirEntry.tidy (e : DirEntry) : DirEntry :=
  { e with
    slots := e.slots.mapIdx (fun k x => match x with
      | some p => if p.fmt = 0 ∧ e.holdsNone k then none else some p
      | none => none)
    sec := if e.coarse.isSome then e.sec else e.sec.map (fun f => if f.hold.any id then f else { f with st := 0 }) }
/-- Slot k holds sector q. -/
def DirEntry.hold (e : DirEntry) (k q : Nat) : DirEntry := e.setField q (fun f => { f with hold := upd f.hold k (fun _ => true) })
/-- The agents that hold sector q by a slot, with their slots. -/
def DirEntry.holders (e : DirEntry) (q : Nat) : List (Nat × Sharer) :=
  (e.slots.mapIdx (fun k x => (k, x))).filterMap (fun y => match y.2 with
    | some p => if nth false (e.field q).hold y.1 then some (y.1, p) else none
    | none => none)

/-- Exact bytes of a sector at its home. -/
def homeSector (s : State) (sector : Nat) : List Host.Cell := cellsAt (sector * 64) (s.mem.read (sector * 64) 64)

/-- Bytes of a storage element. -/
def stoBytes (sfm : Nat) : Nat := if sfm = 1 then 2 else 4
/-- The rounded view of a storage element at an address (R193). -/
def roundedAt (m : Memory) (sfm fmt a : Nat) : List Host.Cell :=
  let n := stoBytes sfm
  cellsAt a (leBytes n (roundedView sfm fmt (leNat (m.read a n))))
/-- The rounded bytes of a sector for a subscriber (Table 18-6, subscribed read). -/
def roundedSector (s : State) (sfm fmt sector : Nat) : List Host.Cell :=
  (List.range (64 / stoBytes sfm)).flatMap (fun i => roundedAt s.mem sfm fmt (sector * 64 + i * stoBytes sfm))

/-- An agent holds sector q, as the entry records it. -/
def DirEntry.has (e : DirEntry) (a q : Nat) : Bool :=
  match e.coarse with
  | some _ => e.held.contains (a, q)
  | none => match e.slotOf a with | some k => nth false (e.field q).hold k | none => false
/-- An agent no longer holds sector q. -/
def DirEntry.drop (e : DirEntry) (a q : Nat) : DirEntry :=
  match e.coarse with
  | some _ =>
    let e := { e with held := e.held.filter (· ≠ (a, q)) }
    if e.held.any (fun x => x.2 == q) then e else e.setField q (fun f => { f with st := 0 })
  | none => match e.slotOf a with
    | some k => (e.setField q (fun f => { f with hold := upd f.hold k (fun _ => false) })).tidy
    | none => e
/-- An entry that records no copy any more; transactions in progress stay. -/
def DirEntry.cleared (e : DirEntry) : DirEntry :=
  { DirEntry.empty with sec := e.sec.map (fun f => ⟨f.pend, 0, [false, false, false, false]⟩) }
/-- A sector's field with a state. -/
def DirEntry.setSt (e : DirEntry) (q st : Nat) : DirEntry := e.setField q (fun f => { f with st := st })
/-- The slot of an agent is a subscription (R330). -/
def DirEntry.subscribed (e : DirEntry) (a : Nat) : Bool :=
  e.slots.any (fun x => match x with | some p => p.agent == a && p.fmt != 0 | none => false)

/-! ## Messages of a home -/

/-- The coarse group of an agent (R331). -/
def coarseGroup (s : State) (a : Nat) : Nat := a / 2 ^ s.coarseG
/-- Every agent of the domain: eight dies and four host ports of each device (R326, R331). -/
def allAgents (s : State) : List Nat :=
  (s.devid :: Config.domain.filter (· ≠ s.devid)).flatMap (fun d => (List.range 12).map (d * 16 + ·))

/-- Sends a message to an agent that is no die of this device, under its epoch (R326); one declared dead is sent nothing. -/
def tell (s : State) (a : Nat) (f : DieHdr → Event) : State :=
  if s.dead.contains a then s else s.send a (f ⟨a % 16, s.epochOf a⟩)
/-- Sends a home's answer to an agent: applied at once to a die of this device (log entry 12). -/
def replyTo (s : State) (a sector : Nat) (k : GrantKind) (data : List Host.Cell) : State :=
  match localDie s a with
  | some d => takeGrant s d sector k data
  | none => tell { s with traffic := s.traffic || a / 16 != s.devid } a (fun p => .grant p sector k data)
/-- The last answer to a request about a line (R207, R208): no bytes, at the line's first sector. -/
def replyLine (s : State) (a line : Nat) (fmtd : Bool) : State :=
  match localDie s a with
  | some d => dieLineDone s d line fmtd
  | none => tell s a (fun p => .grant p (line * 4) (if fmtd then .rounded else .exact) [])

/-- Invalidates one holder of a sector. A die of this device gives it up at once and its dirty bytes are written; any
other agent is sent the message and must acknowledge; one declared dead counts as having answered "absent" (R339). -/
def invalidateAt (s : State) (demote : Bool) (a sector : Nat) : State × List Await :=
  if s.dead.contains a then (s, [])
  else match localDie s a with
  | some d =>
    let r := dieGiveUp s d sector
    let s : State := { r.1 with mem := r.1.mem.putAll r.2 }
    let s := s.setDir (sector / 4) ((s.dirE (sector / 4)).drop a (sector % 4))
    (if demote then dieEndSub s d (sector / 4) else s, [])
  | none => (tell s a (fun p => .invalidation p sector demote), [⟨a, sector, .inval⟩])
/-- Recalls an M owner for read (Table 18-6). -/
def recallAt (s : State) (o sector : Nat) : State × List Await :=
  let toS := fun s : State => s.setDir (sector / 4) ((s.dirE (sector / 4)).setSt (sector % 4) 1)
  if s.dead.contains o then (s, [])
  else match localDie s o with
  | some d =>
    let r := dieRecalled s d sector
    (toS { r.1 with mem := r.1.mem.putAll r.2 }, [])
  | none => (tell s o (fun p => .recall p sector), [⟨o, sector, .recall⟩])
/-- Several messages, and the acknowledgements they ask for. -/
def tellAll {α : Type} (f : State → α → State × List Await) (l : List α) (s : State) : State × List Await :=
  l.foldl (fun r x => let y := f r.1 x; (y.1, r.2 ++ y.2)) (s, [])

/-- The M owner of a sector, where there is one (R330). -/
def mOwner (s : State) (sector : Nat) : Option Nat :=
  let e := s.dirE (sector / 4)
  if (e.field (sector % 4)).st = 2 then ((e.holders (sector % 4)).head?).map (fun x => x.2.agent) else none
/-- The M owners of a line but for an agent, with their sectors. -/
def lineOwners (s : State) (a line : Nat) : List (Nat × Nat) :=
  (lineSecs line).filterMap (fun x => match mOwner s x with | some o => if o = a then none else some (o, x) | none => none)
/-- Exact holders of a sector by slot, but for an agent. -/
def exactHolders (s : State) (a sector : Nat) : List Nat :=
  (((s.dirE (sector / 4)).holders (sector % 4)).filter (fun x => x.2.fmt == 0 && x.2.agent != a)).map (fun x => x.2.agent)
/-- What a coarse entry's invalidations go to (R331): every agent of every set group, in every sector not I, but for the sector
of the requester itself. -/
def coarseTargets (s : State) (a sector : Nat) : List (Nat × Nat) :=
  let e := s.dirE (sector / 4)
  match e.coarse with
  | none => []
  | some gs => (lineSecs (sector / 4)).flatMap (fun x => if (e.field (x % 4)).st = 0 then [] else
      ((allAgents s).filter (fun b => gs.contains (coarseGroup s b) && !(b == a && x == sector))).map (fun b => (b, x)))

/-! ## Transactions (R332) -/

/-- Sets or clears `pend` of a sector (R332). -/
def setPend (s : State) (sector : Nat) (b : Bool) : State :=
  s.setDir (sector / 4) ((s.dirE (sector / 4)).setField (sector % 4) (fun f => { f with pend := b }))
/-- The sector has a transaction in progress. -/
def isPend (s : State) (sector : Nat) : Bool := ((s.dirE (sector / 4)).field (sector % 4)).pend
/-- Starts a transaction that waits for acknowledgements. -/
def startTxn (s : State) (t : Txn) : State := t.span.foldl (fun s x => setPend s x true) { s with txns := s.txns ++ [t] }
/-- The sectors of an ended transaction are pending no more. -/
def endTxn (s : State) (t : Txn) : State :=
  t.span.foldl (fun s x => setPend s x (s.txns.any (fun y => y.span.contains x))) s
/-- Waits for acknowledgements, then goes on as said. -/
def await (s : State) (sector : Nat) (k : Then) (acks : List Await) : State :=
  startTxn s ⟨sector, acks.foldl (fun l a => sadd a.sector l) [sector], k, acks, [], false⟩

/-- Turns an entry coarse (R331): each exact slot becomes the bit of its group; each subscription slot is demoted, every sector it
holds invalidated. No sector of the line is M then. -/
def turnCoarse (s : State) (line : Nat) : State :=
  let e := s.dirE line
  let exact := (List.range 4).flatMap (fun q => ((e.holders q).filter (fun x => x.2.fmt == 0)).map (fun x => (x.2.agent, q)))
  let subs := (e.slots.filterMap id).filter (fun p => p.fmt != 0)
  let demoted := subs.flatMap (fun p => ((List.range 4).filter (e.has p.agent)).map (fun q => (p.agent, line * 4 + q)))
  let s := subs.foldl (fun s p => match localDie s p.agent with | some d => dieEndSub s d line | none => s) s
  let s := s.setDir line { e with
    coarse := some (exact.foldl (fun l x => sadd (coarseGroup s x.1) l) [])
    held := exact
    slots := [none, none, none, none]
    sec := e.sec.mapIdx (fun q f => ⟨f.pend, if exact.any (fun x => x.2 == q) then 1 else 0, [false, false, false, false]⟩) }
  let r := tellAll (fun s x => invalidateAt s true x.1 x.2) demoted s
  if r.2.isEmpty then r.1 else await r.1 (line * 4) .none r.2

/-- A slot for an agent (R331): with none free the entry turns coarse, every M owner of the line recalled first. The
acknowledgements still to come, if any. -/
def slotFor (s : State) (a line : Nat) : State × List Await :=
  let e := s.dirE line
  if e.coarse.isSome || (e.slotOf a).isSome || e.freeSlot.isSome then (s, [])
  else
    let r := tellAll (fun s x => recallAt s x.1 x.2) (lineOwners s (2 ^ 20) line) s
    if r.2.isEmpty then (turnCoarse r.1 line, []) else r

/-- Adds an agent as an exact holder of a sector, in state `st`, its slot made (R330, R331). -/
def addHolder (s : State) (a sector st : Nat) : State :=
  let line := sector / 4
  let q := sector % 4
  let e := s.dirE line
  match e.coarse with
  | some gs => s.setDir line ({ e with coarse := some (sadd (coarseGroup s a) gs), held := if e.held.contains (a, q) then e.held else e.held ++ [(a, q)] }.setSt q st)
  | none => match e.slotOf a, e.freeSlot with
    | some k, _ => s.setDir line ((e.hold k q).setSt q st)
    | none, some k => s.setDir line (({ e with slots := upd e.slots k (fun _ => some ⟨0, a, false⟩) }.hold k q).setSt q st)
    | none, none => s

/-- Exact data for an agent that holds no subscription (Table 18-6). -/
def grantExact (s : State) (a sector : Nat) : State :=
  replyTo (addHolder s a sector (if mOwner s sector = some a then 2 else 1)) a sector .exact (homeSector s sector)

/-- The exact read of Table 18-6. An agent that subscribes to the line reads for one access and becomes no exact holder (R336).
-/
def homeExact (s : State) (e : Event) (a sector : Nat) : State :=
  if (s.dirE (sector / 4)).subscribed a then replyTo s a sector .exact (homeSector s sector)
  else
    let r := match mOwner s sector with
      | some o => if o = a then (s, []) else recallAt s o sector
      | none => (s, [])
    let q := slotFor r.1 a (sector / 4)
    if (r.2 ++ q.2).isEmpty then grantExact q.1 a sector else await q.1 sector (.again e) (r.2 ++ q.2)

/-- The subscribed read of Table 18-6. -/
def homeRounded (s : State) (e : Event) (a sector : Nat) : State :=
  let d := s.dirE (sector / 4)
  match d.slotOf a with
  | some k =>
    let fmt := match d.slot k with | some p => p.fmt | none => 0
    if fmt = 0 then homeExact s e a sector
    else
      let r := match mOwner s sector with | some o => recallAt s o sector | none => (s, [])
      if !r.2.isEmpty then await r.1 sector (.again e) r.2
      else
        let s := r.1.setDir (sector / 4) (((r.1.dirE (sector / 4)).hold k (sector % 4)).setSt (sector % 4) 1)
        replyTo s a sector .rounded (roundedSector s d.sfm fmt sector)
  | none => homeExact s e a sector

/-- A coarse entry returns to pointer mode once every copy of the line is gone, with one exact slot for the agent that still
holds the sector, if it does (R331). -/
def toPointer (s : State) (keep : Bool) (a sector : Nat) : State :=
  let e := s.dirE (sector / 4)
  if e.coarse.isNone then s
  else
    let s := s.setDir (sector / 4) e.cleared
    if keep && e.held.contains (a, sector % 4) && !s.dead.contains a then addHolder s a sector 1 else s

/-- M for the only holder (Table 18-6). -/
def grantWrite (s : State) (a sector : Nat) : State := replyTo (addHolder s a sector 2) a sector .m (homeSector s sector)

/-- The write permission of Table 18-6. Under a coarse entry every copy of the line but the requester's own of the sector is
invalidated, and the entry returns to pointer mode before M is given (R331). -/
def homeWrite (s : State) (e : Event) (a sector : Nat) : State :=
  let d := s.dirE (sector / 4)
  let r := if d.coarse.isSome || d.hasSub then (s, []) else tellAll (invalidateAt · false · sector) (exactHolders s a sector) s
  let q := slotFor r.1 a (sector / 4)
  if !(r.2 ++ q.2).isEmpty then await q.1 sector (.again e) (r.2 ++ q.2)
  else
    let s := q.1
    if (s.dirE (sector / 4)).hasSub then
      replyTo (if (s.dirE (sector / 4)).subscribed a then s else addHolder s a sector 1) a sector .t (homeSector s sector)
    else
      let r := tellAll (fun s x => invalidateAt s false x.1 x.2) (coarseTargets s a sector) s
      if r.2.isEmpty then grantWrite (toPointer r.1 false a sector) a sector
      else await (r.1) sector (.collapse e) r.2

/-! ## Write-through (R334, R335) -/

/-- The elements of a sector whose rounded value a write changed for a subscriber (R334), as cells of the new rounded
values; `mask`: addresses written. -/
def changedElems (old new : Memory) (sfm fmt sector : Nat) (mask : List Nat) : List Host.Cell :=
  let n := stoBytes sfm
  (List.range (64 / n)).flatMap (fun i =>
    let a := sector * 64 + i * n
    if mask.any (fun m => decide (a ≤ m) && decide (m < a + n)) &&
        roundFmt sfm fmt (leNat (old.read a n)) != roundFmt sfm fmt (leNat (new.read a n))
    then roundedAt new sfm fmt a else [])

/-- The write-through of a die on a sector that waits for Done1 first. -/
def openThrough (s : State) (die sector : Nat) : Option Through :=
  s.throughs.find? (fun t => t.die == die && t.sector == sector && !t.done1)
/-- The read-modify-write in progress whose write-through is answered (R334). -/
def rmwDone (s : State) (id : Nat) (ok : Bool) : State :=
  { s with teams := s.teams.map (fun t => match t.rmw with
      | some r => (match r.sent with
        | some (i, o, f) => if i ≠ id then t
            else if ok then { t with rmw := some { todo := r.todo.drop 1, got := r.got ++ [((match r.todo.head? with | some x => x.1 | none => 0), o, f)], sent := none } }
            else { t with rmw := some { r with sent := none } }
        | none => t)
      | none => t) }
/-- Done1 (R335): the write-through performs to the observers on the writer's die, whose tokens are released. -/
def gotDone1 (s : State) (die sector : Nat) : State :=
  match openThrough s die sector with
  | none => s
  | some t =>
    let s := { s with throughs := s.throughs.map (fun x => if x.id = t.id then { x with done1 := true } else x) }
    let s := rmwDone s t.id true
    let d := s.sec die sector
    if d.busy ≠ some t.id then s
    else
      let s := s.setSec die sector { d with busy := none }
      takeBytes (if d.home then s.later (.tokensBackAtPort die sector) else s) sector t.cells
/-- Done2 (R335): every update and subscription invalidation of the oldest write-through with Done1 is acknowledged. -/
def gotDone2 (s : State) (die sector : Nat) : State :=
  { s with throughs := dropFirst (fun t => t.die == die && t.sector == sector && t.done1) s.throughs }
/-- Retry (R334): nothing was written; the die's state becomes I, and the read-modify-write is repeated. -/
def gotRetry (s : State) (die sector : Nat) : State :=
  match openThrough s die sector with
  | none => s
  | some t => (dieGiveUp (rmwDone { s with throughs := s.throughs.filter (fun x => x.id != t.id) } t.id false) die sector).1

/-- Done1 to the writer. -/
def sendDone1 (s : State) (a sector : Nat) : State :=
  if s.dead.contains a then s
  else match localDie s a with
  | some d => gotDone1 s d sector
  | none => tell s a (fun p => .done1 p sector)
/-- Done2 to the writer. -/
def sendDone2 (s : State) (a sector : Nat) : State :=
  if s.dead.contains a then s
  else match localDie s a with
  | some d => gotDone2 s d sector
  | none => tell s a (fun p => .done2 p sector)
/-- Retry to the writer. -/
def sendRetry (s : State) (a sector : Nat) : State :=
  if s.dead.contains a then s
  else match localDie s a with
  | some d => gotRetry s d sector
  | none => tell s a (fun p => .retry p sector)

/-- A write-through with some acknowledgements in: Done1 when every exact holder has acknowledged, then Done2 when every
subscriber has. None: it is over. -/
def goThrough (s : State) (t : Txn) (a : Nat) (coarse : Bool) : State × Option Txn :=
  if !t.acks.isEmpty then (s, some t)
  else
    let s := if t.done1 then s else sendDone1 (if coarse then toPointer s true a t.sector else s) a t.sector
    if t.later.isEmpty then (sendDone2 s a t.sector, none) else (s, some { t with done1 := true })

/-- Sends a subscriber the elements a write changed for it, or the invalidation its mode asks for (R334). A die of this device
answers as Table 18-1 gives, at once. -/
def tellSub (old : Memory) (sfm sector : Nat) (mask : List Nat) (s : State) (p : Sharer) : State × List Await :=
  let ch := changedElems old s.mem sfm p.fmt sector mask
  if ch.isEmpty || s.dead.contains p.agent then (s, [])
  else if p.inv then invalidateAt s false p.agent sector
  else match localDie s p.agent with
    | some d => (if (s.sec d sector).st = .u ∧ !leftLine s d (sector / 4) then dieUpdate s d sector ch else s, [])
    | none => (tell s p.agent (fun q => .update q sector ch), [⟨p.agent, sector, .update⟩])

/-- The write-through of R334: a conditional one of an agent that no longer holds the sector is answered Retry; else bytes are
written at home, exact holders invalidated, changed elements sent to subscribers. -/
def homeThrough (s : State) (a sector : Nat) (bytes : List Host.Cell) (cond : Bool) : State :=
  let e := s.dirE (sector / 4)
  if cond && !e.has a (sector % 4) then sendRetry s a sector
  else
    let bytes := bytes.filter (fun c => c.1 / 64 == sector)
    let old := s.mem
    let s := { s with mem := s.mem.putAll bytes }
    let r := if e.coarse.isSome then tellAll (fun s x => invalidateAt s false x.1 x.2) (coarseTargets s a sector) s
      else tellAll (invalidateAt · false · sector) (exactHolders s a sector) s
    let q := tellAll (tellSub old e.sfm sector (bytes.map (·.1)))
      (((e.holders (sector % 4)).map (·.2)).filter (fun p => p.fmt != 0 && p.agent != a)) r.1
    let span := (r.2 ++ q.2).foldl (fun l a => sadd a.sector l) [sector]
    match goThrough q.1 ⟨sector, span, .through a e.coarse.isSome, r.2, q.2, false⟩ a e.coarse.isSome with
    | (s, some t) => startTxn s t
    | (s, none) => s

/-! ## Subscriptions (R336, R337) -/

/-- Another agent subscribes to the line (R336). -/
def otherSub (e : DirEntry) (a : Nat) : Bool :=
  e.slots.any (fun x => match x with | some p => p.fmt != 0 && p.agent != a | none => false)
/-- The sectors of a line that a slot holds. -/
def heldOf (e : DirEntry) (k : Nat) : List Nat := (List.range 4).filter (fun q => nth false (e.field q).hold k)
/-- An entry with a slot put, holding nothing. -/
def DirEntry.putSlot (e : DirEntry) (k : Nat) (p : Option Sharer) : DirEntry :=
  { (List.range 4).foldl (fun e q => e.setField q (fun f => { f with hold := upd f.hold k (fun _ => false) })) e with
    slots := upd e.slots k (fun _ => p) }
/-- The slot of an agent becomes exact, and every sector it holds is sent exact (R336, R337). -/
def slotExact (s : State) (a line k : Nat) : State :=
  let e := s.dirE line
  let qs := heldOf e k
  let s := s.setDir line { e with slots := upd e.slots k (fun _ => some ⟨0, a, false⟩) }.tidy
  qs.foldl (fun s q => replyTo s a (line * 4 + q) .exact (homeSector s (line * 4 + q))) s

/-- The home decides on a subscription request (R336), every M owner of the line recalled. A grant at the format ends the exact
copies of the slot, which the die drops when it hears. -/
def homeSubscribe (s : State) (ev : Event) (a line fmt : Nat) (inv bf : Bool) : State :=
  let r := tellAll (fun s x => recallAt s x.1 x.2) (lineOwners s (2 ^ 20) line) s
  if !r.2.isEmpty then await r.1 (line * 4) (.again ev) r.2
  else
    let s := r.1
    let e := s.dirE line
    let req := if bf then 1 else 0
    let suits := !(fmt == 1 && (req == 1 || (otherSub e a && e.sfm == 1)))
    let take := fun k => replyLine (s.setDir line ({ e.putSlot k (some ⟨fmt, a, inv⟩) with sfm := req }).tidy) a line true
    match e.coarse, e.slotOf a with
    | some _, _ => replyLine s a line false
    | none, some k =>
      if suits && (req == e.sfm || !otherSub e a) then take k else replyLine (slotExact s a line k) a line false
    | none, none => match e.freeSlot with
      | some k => if suits && (!e.hasSub || e.sfm == req) then take k else replyLine s a line false
      | none => replyLine s a line false
/-- The upgrade of R337. -/
def homeUpgrade (s : State) (a line : Nat) : State :=
  match (s.dirE line).slotOf a with
  | some k => replyLine (slotExact s a line k) a line false
  | none => replyLine s a line false
/-- The unsubscription of R337: the slot is freed as if clean notices had arrived. -/
def homeUnsubscribe (s : State) (a line : Nat) : State :=
  let e := s.dirE line
  replyLine (match e.slotOf a with
    | some k => if e.subscribed a then s.setDir line (e.putSlot k none).tidy else s
    | none => s) a line false

/-! ## Serving requests in order (R332) -/

/-- The sender and a sector of a message to a home. -/
def msgOf (e : Event) : Option (MsgHdr × Nat) :=
  match e with
  | .exactRead m x => some (m, x)
  | .subscribedRead m x => some (m, x)
  | .writePermission m x => some (m, x)
  | .writeThrough m x _ _ => some (m, x)
  | .notice m x _ => some (m, x)
  | .writeBack m x _ => some (m, x)
  | .subscriptionRequest m l _ _ _ => some (m, l * 4)
  | .upgradeRequest m l => some (m, l * 4)
  | .unsubscribeRequest m l => some (m, l * 4)
  | .acknowledgement m x _ _ => some (m, x)
  | .smWriteBack m x _ => some (m, x)
  | _ => none
/-- The sectors a request concerns: the whole line of a subscription request, and of a write under a coarse entry (R331). -/
def concerns (s : State) (e : Event) : List Nat :=
  match e with
  | .writePermission _ x => if (s.dirE (x / 4)).coarse.isSome then lineSecs (x / 4) else [x]
  | .writeThrough _ x _ _ => if (s.dirE (x / 4)).coarse.isSome then lineSecs (x / 4) else [x]
  | .subscriptionRequest _ l _ _ _ => lineSecs l
  | .upgradeRequest _ l => lineSecs l
  | .unsubscribeRequest _ l => lineSecs l
  | _ => match msgOf e with | some x => [x.2] | none => []

/-- A full directory frees an entry (R331): every holder gives its copies up, subscriptions are demoted, and the entry is gone
when all have acknowledged. An entry with a transaction in progress stays. -/
def dirFree (s : State) (line : Nat) : State :=
  let e := s.dirE line
  if (lineSecs line).any (isPend s) then s
  else
    let slots := (e.slots.filterMap id).flatMap (fun p => ((List.range 4).filter (e.has p.agent)).map (fun q => (p.agent, line * 4 + q, p.fmt != 0)))
    let s := (e.slots.filterMap id).foldl (fun s p => match localDie s p.agent with
      | some d => if p.fmt ≠ 0 then dieEndSub s d line else s
      | none => s) s
    let r := tellAll (fun s (x : Nat × Nat × Bool) => invalidateAt s x.2.2 x.1 x.2.1)
      (slots ++ (coarseTargets s (2 ^ 20) (line * 4)).map (fun x => (x.1, x.2, false))) s
    if r.2.isEmpty then r.1.setDir line (r.1.dirE line).cleared
    else startTxn r.1 ⟨line * 4, lineSecs line, .free, r.2, [], false⟩
/-- Frees an entry where the storage is found full (R331; which, and whether, is a free value of log entry 21). -/
def dirRoom (s : State) (line : Nat) : State :=
  if s.dir.isEmpty then s else
  let k := Config.dirEvict s.fresh
  let s := { s with fresh := s.fresh + 1 }
  match k.bind (fun k => s.dir[k % max 1 s.dir.length]?) with
  | some e => if e.1 = line ∨ (s.dir.any (fun x => x.1 == line)) then s else dirFree s e.1
  | none => s

/-- Serves one request of an agent that may have permission (R332, R339). -/
def serveOne (s : State) (e : Event) : State :=
  match msgOf e with
  | none => s
  | some (m, _) =>
    if s.dead.contains m.agent then s
    else match e with
      | .exactRead m x => homeExact (dirRoom s (x / 4)) e m.agent x
      | .subscribedRead m x => homeRounded s e m.agent x
      | .writePermission m x => homeWrite (dirRoom s (x / 4)) e m.agent x
      | .writeThrough m x bytes cond => homeThrough s m.agent x bytes cond
      | .subscriptionRequest m l fmt inv bf => if fmt = 0 ∨ fmt > 4 then s else homeSubscribe (dirRoom s l) e m.agent l fmt inv bf
      | .upgradeRequest m l => homeUpgrade s m.agent l
      | .unsubscribeRequest m l => homeUnsubscribe s m.agent l
      | _ => s

/-- A transaction with some acknowledgements in: it goes on, or ends (R332). -/
def settle (s : State) (t : Txn) : State :=
  match t.kind with
  | .through a coarse => (match goThrough s t a coarse with
    | (s, some t) => { s with txns := s.txns ++ [t] }
    | (s, none) => endTxn s t)
  | k =>
    if !t.acks.isEmpty then { s with txns := s.txns ++ [t] }
    else
      let s := endTxn s t
      match k with
      | .again e => serveOne s e
      | .collapse e => serveOne (toPointer s false 0 t.sector) e
      | .free => s.setDir (t.sector / 4) (s.dirE (t.sector / 4)).cleared
      | _ => s

/-- The acknowledgement that an agent owes about a sector, and its transaction. -/
def awaited (s : State) (a sector : Nat) : Option (Txn × Await) :=
  s.txns.findSome? (fun t => ((t.acks ++ t.later).find? (fun w => w.agent == a && w.sector == sector)).map (fun w => (t, w)))
/-- The home has heard from an agent what it waited for. -/
def heard (s : State) (t : Txn) (w : Await) : State :=
  settle { s with txns := dropFirst (fun x => x == t) s.txns }
    (if t.acks.contains w then { t with acks := dropFirst (· == w) t.acks } else { t with later := dropFirst (· == w) t.later })

/-- A notice (Table 18-6): dirty bytes written, the hold cleared, a coarse entry freed with its last holder. It counts as the
acknowledgement of a message in flight, whose own comes later (R333). -/
def homeNotice (s : State) (a sector : Nat) (dirty : List Host.Cell) : State :=
  let e := s.dirE (sector / 4)
  let s := if !e.has a (sector % 4) then s
    else
      let e' := e.drop a (sector % 4)
      { s with mem := s.mem.putAll dirty }.setDir (sector / 4) (if e'.coarse.isSome && e'.held.isEmpty then e'.cleared else e')
  match awaited s a sector with
  | some (t, w) => heard { s with late := s.late ++ [(a, sector)] } t w
  | none => s

/-- The acknowledgement of an invalidation, recall or update (R332, R333). One marked "absent" for a message whose notice was
counted already is ignored. -/
def homeAck (s : State) (a sector : Nat) (absent : Bool) (dirty : List Host.Cell) : State :=
  if absent && s.late.contains (a, sector) then { s with late := dropFirst (· == (a, sector)) s.late }
  else match awaited s a sector with
  | none => s
  | some (t, w) =>
    let s : State := { s with mem := s.mem.putAll dirty }
    let e := s.dirE (sector / 4)
    let e := match w.msg with
      | .inval => e.drop a (sector % 4)
      | .recall => if absent then e.drop a (sector % 4) else e.setSt (sector % 4) 1
      | .update => e
    heard (s.setDir (sector / 4) e) t w

/-- A message that is a request (Table 18-6, R336, R337). -/
def isRequest (e : Event) : Bool :=
  match e with
  | .notice _ _ _ => false
  | .writeBack _ _ _ => false
  | .acknowledgement _ _ _ _ => false
  | .smWriteBack _ _ _ => false
  | _ => true
/-- A request must wait behind a transaction or an earlier request for a sector (R332). -/
def mustWait (s : State) (before : List Event) (e : Event) : Bool :=
  (concerns s e).any (fun x => isPend s x || before.any (fun b => (concerns s b).contains x))
/-- The first waiting request that may be served, with those before and after it. -/
def nextBehind (s : State) (before : List Event) : List Event → Option (Event × List Event)
  | [] => none
  | e :: rest => if mustWait s before e then nextBehind s (before ++ [e]) rest else some (e, before ++ rest)
/-- Requests that waited are served in arrival order (R332). -/
def serveBehind : Nat → State → State
  | 0, s => s
  | n + 1, s => match nextBehind s [] s.behind with
    | some (e, rest) => serveBehind n (serveOne { s with behind := rest } e)
    | none => s

/-- A message reaches the home of its sector on this device (R326, R332, R333, R338, R339). -/
def homeRecv (e : Event) (s : State) : State :=
  match msgOf e with
  | none => s
  | some (m, x) =>
    if !isHome s x then s
    else if !epochOk s m then dropMsg s m x e
    else
      let s : State := { s with traffic := s.traffic || isRequest e && !(m.agent / 16 == s.devid && decide (8 ≤ m.agent % 16)) }
      let s := match e with
        | .notice m x dirty => homeNotice s m.agent x (dirty.filter (fun c => c.1 / 64 == x))
        | .writeBack m x dirty => if mOwner s x = some m.agent then { s with mem := s.mem.putAll (dirty.filter (fun c => c.1 / 64 == x)) } else s
        | .acknowledgement m x absent dirty => homeAck s m.agent x absent (dirty.filter (fun c => c.1 / 64 == x))
        | .smWriteBack _ x dirty => { s with mem := s.mem.putAll (dirty.filter (fun c => c.1 / 64 == x)) }
        | _ => if mustWait s s.behind e then { s with behind := s.behind ++ [e] } else serveOne s e
      serveBehind (s.behind.length + 1) s

end Sys2Proof.Machine
end

