-- ==== Sys2Proof/Machine/Coherence.lean ====
section
/-! DEFINITION. What an access asks of the coherence protocol: tokens and permission for a holder of a die (R327, R329, R336),
stores in M and T (R110, R335), notices (R332, R333), and the accesses of the device itself at a die's port (R327). -/

namespace Sys2Proof.Machine

/-- A die asks a home for something, once (R329). A home on this device hears now; a home on another device is sent the message.
A die that knows of its death asks for nothing (R339). -/
def askHome (s : State) (die pos sector : Nat) (k : AskKind) (owed : Option (Nat × Nat)) (msg : Event) : State :=
  if s.barred.contains die ∨ (owed.isNone ∧ asked s die pos k) then s
  else
    let s := { s with asks := s.asks ++ [⟨die, pos, k, owed⟩] }
    if isHome s sector then homeRecv msg s else s.send (devOf (sector * 64)) msg

/-- The die's subscription to the line of a sector for a context (R207). -/
def subOf (s : State) (die sector : Nat) (ctx : Option Nat) : Bool :=
  s.subsc.any (fun x => x.die == die && x.line == sector / 4 && some x.ctx == ctx)

/-- The die asks for exact bytes of a sector for one access (R336). -/
def askPeek (s : State) (die sector : Nat) : State := askHome s die sector sector .peek none (.exactRead (hdrOf s die) sector)
/-- The die asks for a sector it has no copy of: for the subscribing context a subscribed read, for another context of a
subscribing die exact bytes for one access, else an exact read (Table 18-1, row I; R336). -/
def askRead (s : State) (die sector : Nat) (ctx : Option Nat) : State :=
  if subOf s die sector ctx then askHome s die sector sector .rounded none (.subscribedRead (hdrOf s die) sector)
  else if dieSubscribes s die sector then askPeek s die sector
  else askHome s die sector sector .exact none (.exactRead (hdrOf s die) sector)

/-- A holder takes the token a read needs; an engine command, or the device at the port, gives it back in the same step. -/
def DieSec.takeOne (d : DieSec) (h : Nat) : DieSec := if h < 48 then d.forRead h else d

/-- A holder of a die is to read a sector of a coherent page for a context (Table 18-1, core read): the state after, and whether
it can read now. A sector whose write-through waits for Done1 serves nobody (R335). -/
def acquireRead (s : State) (die h : Nat) (ctx : Option Nat) (sector : Nat) : State × Bool :=
  let d := s.sec die sector
  if d.busy.isSome then (s, false)
  else match d.st with
  | .i =>
    if !d.peek.isEmpty then (s, true)
    else
      let s := askRead s die sector ctx
      let d := s.sec die sector
      if d.st = .i then (s, !d.peek.isEmpty) else if d.st = .u ∧ some d.ctx ≠ ctx then (s, false)
      else (s.setSec die sector (d.takeOne h), true)
  | .u =>
    if leftLine s die (sector / 4) then (s, false)
    else if some d.ctx = ctx then (s.setSec die sector (d.takeOne h), true)
    else if !d.peek.isEmpty then (s, true)
    else
      let s := askPeek s die sector
      (s, !(s.sec die sector).peek.isEmpty)
  | _ => (s.setSec die sector (d.takeOne h), true)

/-- Bytes brought for one access are used up (R336). -/
def endPeek (s : State) (die : Nat) (secs : List Nat) : State :=
  secs.foldl (fun s x => let d := s.sec die x; if d.peek.isEmpty then s else s.setSec die x { d with peek := [] }) s

/-- Ends the die's share of a line for an owed answer or before a store (R208, R337): upgrade. -/
def upgradeLine (s : State) (die line : Nat) (owed : Option (Nat × Nat)) : State :=
  askHome s die line (line * 4) .upg owed (.upgradeRequest (hdrOf s die) line)

/-- A holder of a die is to write a sector of a coherent page (Table 18-1, core write): the state after, and whether it can now.
A subscribing die first upgrades its share (R208). The L1 of the core `keep` keeps its words. -/
def acquireWrite (s : State) (die h : Nat) (keep : Option Nat) (sector : Nat) : State × Bool :=
  let s := if dieSubscribes s die sector then upgradeLine s die (sector / 4) none else s
  let d := s.sec die sector
  if d.busy.isSome ∨ dieSubscribes s die sector ∨ leftLine s die (sector / 4) then (s, false)
  else
    let s := if d.st = .m ∨ d.st = .t then s
      else askHome s die sector sector .write none (.writePermission (hdrOf s die) sector)
    let d := s.sec die sector
    if d.st = .m ∨ d.st = .t then
      let s := dropInDie s die sector keep
      (s.setSec die sector ((s.sec die sector).forWrite (if h < 48 then h else 96)), true)
    else (s, false)

/-- Bytes that a holder with every token stores to a sector: dirty bytes of the die in M (R110), written through in T with every
token kept until Done1 (R334, R335). `hnd`: the team, for what waits on the write-through; `q` its queue. The number of the
write-through, if there is one. -/
def storeSector (s : State) (hnd q die sector : Nat) (bytes : List Host.Cell) (cond so : Bool) : State × Option Nat :=
  let d := s.sec die sector
  if d.st = .t then
    let id := s.names
    let msg : Event := .writeThrough (hdrOf s die) sector bytes cond
    let s := { s.setSec die sector { d with busy := some id } with
      names := id + 1, throughs := s.throughs ++ [⟨id, hnd, die, sector, bytes, cond, so, false⟩] }
    (if isHome s sector then homeRecv msg s else s.send (devOf (sector * 64)) msg, some id)
  else
    (s.setSec die sector { d with dirty := bytes.foldl (fun l c => (l.filter (fun x => x.1 ≠ c.1)) ++ [c]) d.dirty, qs := sadd q d.qs }, none)

/-- A die gives back a sector of which every token is at its port: the notice, dirty where a byte is (R329, R332, R333). -/
def dieNotice (s : State) (die sector : Nat) : State :=
  let d := s.sec die sector
  let msg : Event := .notice (hdrOf s die) sector d.dirty
  let s := s.setSec die sector d.gone
  if isHome s sector then homeRecv msg (if s.current die || d.dirty.isEmpty then s else noteLost s die d.qs)
  else { s with mem := s.mem.putAll d.dirty }.send (devOf (sector * 64)) msg

/-! ## The value a holder reads -/

/-- A byte of a coherent page as a die's holder reads it for a context (R193, R310, R336): the rounded copy of the subscribing
context, bytes brought for this access, the die's own dirty byte, else the present value. -/
def dieByte (s : State) (die : Nat) (ctx : Option Nat) (pa : Nat) : Byte :=
  let d := s.sec die (pa / 64)
  if d.st = .u ∧ some d.ctx = ctx then (cellAt d.rnd pa).getD (cohByte s pa)
  else match cellAt (if d.st = .u ∨ d.st = .i then d.peek else d.dirty) pa with
    | some b => b
    | none => cohByte s pa

/-! ## The device itself at a die's port -/

/-- The die through whose port the distributor, the supervisor port and the host interface make their accesses: the first that may
take permission (R327 names no other holder; log entry 41). -/
def devDie (s : State) : Nat :=
  ((List.range 8).find? (fun d => !s.dead.contains (agentOf s d) && !s.barred.contains d)).getD 0

/-- Acquires every sector of a list (R327); those that could not be had. -/
def acquireAll (s : State) (acq : State → Nat → State × Bool) (secs : List Nat) : State × List Nat :=
  secs.foldl (fun r x => let y := acq r.1 x; (y.1, if y.2 then r.2 else r.2 ++ [x])) (s, [])
/-- The distinct values of f over a list, rising. -/
def distinct (f : Nat → Nat) (l : List Nat) : List Nat := l.foldl (fun r x => sadd (f x) r) []

/-- Sectors whose every token is at a die's port are given up soon (R329). -/
def idleSectors (s : State) (die : Nat) (secs : List Nat) : State :=
  secs.foldl (fun s x => let d := s.sec die x; if d.home && d.st != .i then s.later (.tokensBackAtPort die x) else s) s

/-- What an access of the device itself leaves, from the state before it: at addresses of its own memory it is no traffic (log entry 58). -/
def ownAccess (s0 : State) (pas : List Nat) (s : State) : State := { s with traffic := s0.traffic || pas.any (fun a => devOf a != s0.devid) }
/-- The device is to read physical addresses of coherent pages: the state after, and whether it can now. -/
def devReady (s : State) (pas : List Nat) : State × Bool :=
  let r := acquireAll s (fun s x => acquireRead s (devDie s) 97 none x) (distinct (· / 64) pas)
  (ownAccess s pas r.1, r.2.isEmpty)
/-- Their bytes, once it can. -/
def devBytesAt (s : State) (pas : List Nat) : List Byte := pas.map (dieByte s (devDie s) none)
/-- The device's reading is over. -/
def devDone (s : State) (pas : List Nat) : State :=
  let secs := distinct (· / 64) pas
  idleSectors (endPeek s (devDie s) secs) (devDie s) secs

/-- The device reads physical addresses of coherent pages, none where another agent must answer first. -/
def devGet (s : State) (pas : List Nat) : State × Option (List Byte) :=
  let r := devReady s pas
  if r.2 then (devDone r.1 pas, some (devBytesAt r.1 pas)) else (r.1, none)

/-- The device's own writes are made in order, each sector once the port may write it (R327). -/
def devFlush : Nat → State → State
  | 0, s => s
  | n + 1, s => match s.dwq with
    | [] => s
    | cs :: rest =>
      let x := (cs.head?.map (·.1)).getD 0 / 64
      let d := devDie s
      let r := acquireWrite s d 97 none x
      if !r.2 then ownAccess s [x * 64] r.1
      else devFlush n (ownAccess s [x * 64] ((storeSector { r.1 with dwq := rest } (2 ^ 20) 255 d x cs false false).1.later (.tokensBackAtPort d x)))
/-- The device writes cells of physical memory, sector by sector, as a store that every copy gives way to (R313, R327). -/
def devWrite (s : State) (cells : List Host.Cell) : State :=
  let parts := (distinct (· / 64) (cells.map (·.1))).map (fun x => cells.filter (fun c => c.1 / 64 == x))
  devFlush (s.dwq.length + parts.length + 1) { s with dwq := s.dwq ++ parts }

end Sys2Proof.Machine
end

