-- ==== Sys2Proof/Machine/L1.lean ====
section
/-! DEFINITION. The variable-length L1 (R105 to R111), the spatial predictor (R107), miss entries (R115), the checker cache (R284),
software-managed copies and their write-backs (R111, R316, R338), and the bytes an access of a core reads or writes. -/

namespace Sys2Proof.Machine

/-- Words a block occupies (R105). -/
def Block.words (b : Block) : Nat := b.hi - b.lo + 1

/-- The next use order. -/
def Core.nextUse (c : Core) : Nat := c.blocks.foldl (fun a b => max a b.use) 0 + 1

/-- The predictor entry of an evicted block that a hint-0 access filled (R107): offsets from the anchor of the lowest and
highest words that loads read. -/
def Core.predict (c : Core) (b : Block) : Core :=
  match b.fill with
  | some (i, anchor, rlo, rhi) =>
    { c with pred := (c.pred.filter (fun p => p.1 != i)) ++ [(i, (rlo : Int) - anchor, (rhi : Int) - anchor)] }
  | none => c

/-- Writes bytes of software-managed pages home, sector by sector (R338): a home on this device applies them at once. -/
def smHome (s : State) (die : Nat) (cells : List Host.Cell) : State :=
  (distinct (· / 64) (cells.map (·.1))).foldl (fun s x =>
    let e : Event := .smWriteBack (hdrOf s die) x (cells.filter (fun c => c.1 / 64 == x))
    if isHome s x then homeRecv e s else s.send (devOf (x * 64)) e) s

/-- The dirty bytes of a software-managed block as cells of physical memory. -/
def Block.dirtyCells (b : Block) : List Host.Cell :=
  b.dirty.filterMap (fun o => (cellAt b.data o).map (fun v => (b.frame * 256 + o, v)))

/-- A block, or a part of one, has left a core's L1: dirty bytes go home under R110 and R111, tokens go back. -/
def blockOut (s : State) (core : Nat) (b : Block) : State :=
  if b.sm then smHome s (dieOf core) b.dirtyCells else partOut s core b

/-- Evicts one block (R107, R108). -/
def evictBlock (s : State) (core : Nat) (b : Block) : State :=
  blockOut (s.setCore core (fun c => ({ c with blocks := dropFirst (fun x => x == b) c.blocks }).predict b)) core b

/-- The block to evict from a set (R108): one marked stream first, else the least recently used, never `keep`. -/
def victim (c : Core) (st keep : Nat) : Option Block :=
  let bs := (c.inSet st).filter (fun b => b.use != keep)
  let pick := fun l : List Block => l.foldl (fun (a : Option Block) b => match a with
    | none => some b
    | some x => if b.use < x.use then some b else some x) none
  match pick (bs.filter (fun b => b.pol == 1)) with
  | some b => some b
  | none => pick bs

/-- Evicts blocks of a set until it fits: 32 tag entries and 256 words (R105). -/
def makeRoom (s : State) (core st keep : Nat) : Nat → State
  | 0 => s
  | n + 1 =>
    let bs := (s.core core).inSet st
    if bs.length ≤ 32 ∧ (bs.map Block.words).foldl (· + ·) 0 ≤ 256 then s
    else match victim (s.core core) st keep with
      | some b => makeRoom (evictBlock s core b) core st keep n
      | none => s

/-- Fills words lo to hi of a frame and merges them with the blocks of the frame they overlap or abut (R105). Words held
already keep their bytes; `home` gives the others on a software-managed page. `fr`: the fill record of hint 0. The merged block
keeps the record of this fill where it has one, else that of the first block merged (R107 does not say; log entry 40). -/
def fillWords (s : State) (core frame lo hi : Nat) (sm : Bool) (pol : Nat) (fr : Option (Nat × Nat)) (home : Nat → Byte) : State :=
  let c := s.core core
  let near := c.blocks.filter (fun b => b.frame == frame && b.sm == sm && decide (b.lo ≤ hi + 1) && decide (lo ≤ b.hi + 1))
  let held := near.flatMap (fun b => b.data)
  let fresh := if sm then (List.range (4 * (hi - lo + 1))).filterMap (fun i =>
    let o := 4 * lo + i
    if (cellAt held o).isSome then none else some (o, home (frame * 256 + o))) else []
  let use := c.nextUse
  let b : Block := { frame := frame, lo := near.foldl (fun a b => min a b.lo) lo, hi := near.foldl (fun a b => max a b.hi) hi,
                     sm := sm, data := held ++ fresh, dirty := near.flatMap (fun b => b.dirty), pol := pol,
                     fill := match fr with
                       | some (i, anchor) => some (i, anchor, anchor, anchor)
                       | none => (near.head?).bind (fun b => b.fill),
                     use := use }
  let s := s.setCore core (fun c => { c with blocks := (c.blocks.filter (fun x => !near.contains x)) ++ [b] })
  makeRoom s core (setOf frame) use 40

/-- The words fetched in a frame on a miss (Table 6-5), from the byte offsets touched: runs of words, low and high. Hint, predictor
index. -/
def spanFor (c : Core) (hint idx : Nat) (offs : List Nat) : List (Nat × Nat) :=
  let blo := (minNat? offs).getD 0
  let bhi := offs.foldl max 0
  let secs := (distinct (· / 64) offs).map (fun q => (16 * q, 16 * q + 15))
  match hint with
  | 1 => [(blo / 8 * 2, bhi / 8 * 2 + 1)]
  | 2 => secs
  | 3 => [(0, 63)]
  | _ => match c.pred.find? (fun p => p.1 == idx) with
    | some p => [(min (blo / 4) (((blo / 4 : Nat) : Int) + p.2.1).toNat, max (bhi / 4) (min 63 (((blo / 4 : Nat) : Int) + p.2.2).toNat))]
    | none => secs

/-- A core holds a word of a frame. -/
def Core.holds (c : Core) (sm : Bool) (frame w : Nat) : Bool := c.blocks.any (fun b => b.sm == sm && b.meets frame w w)

/-- Loads read words of a frame: the fill records of hint 0 take note (R107). -/
def Core.noteRead (c : Core) (frame : Nat) (ws : List Nat) : Core :=
  { c with blocks := c.blocks.map (fun b => ws.foldl (fun b w => if b.meets frame w w then
      { b with fill := b.fill.map (fun f => (f.1, f.2.1, min f.2.2.1 w, max f.2.2.2 w)) } else b) b) }
/-- The blocks that hold words of a frame are used now (R108). -/
def Core.touch (c : Core) (frame : Nat) (ws : List Nat) : Core :=
  let n := c.nextUse
  { c with blocks := c.blocks.map (fun b => if ws.any (fun w => b.meets frame w w) then { b with use := n } else b) }

/-- The copy a core holds of a software-managed byte (R111). -/
def Core.smByte (c : Core) (pa : Nat) : Option Byte :=
  c.blocks.findSome? (fun b => if b.sm ∧ b.frame = pa / 256 then cellAt b.data (pa % 256) else none)

/-- Physical addresses of an access on coherent pages. -/
def cohAddrs (ls : List Loc) : List Nat := ls.filterMap (fun l => match l with | .mem pa t => if t.coh = 0 then some pa else none | _ => none)
/-- Physical addresses of an access on software-managed pages. -/
def smAddrs (ls : List Loc) : List Nat := ls.filterMap (fun l => match l with | .mem pa t => if t.coh = 0 then none else some pa | _ => none)

/-- How a pass uses the L1: block-size hint, policy, predictor index of the instruction, whether loads read. -/
structure CacheUse where
  hint : Nat
  pol : Nat
  idx : Nat
  load : Bool
  deriving DecidableEq, Repr

/-- The subscribing context an access belongs to (R193). -/
def ctxSub (ctx : Nat) : Option Nat := some (ctxId ctx)

/-! ## Misses -/

/-- Cycles during which requests to one sector share a fill (R115). -/
def shareCycles : Nat := 64
/-- Each request to a sector takes a miss entry of the core or shares one opened at most 64 cycles ago; false: all 64 are busy
(R115). -/
def missAdd (s : State) (core : Nat) (m : Miss) : State × Bool :=
  let c := s.core core
  match c.misses.find? (fun x => x.sector == m.sector && decide (m.born < x.born + shareCycles) && (m.want.isNone || x.want == m.want)) with
  | some _ => (s, true)
  | none => if c.misses.length ≥ 64 then (s, false) else (s.setCore core (fun c => { c with misses := c.misses ++ [m] }), true)
/-- Some request of the core may open a miss entry, or shares one for every sector asked for. -/
def missRoom (s : State) (core : Nat) (secs : List Nat) : Bool :=
  let c := s.core core
  decide (c.misses.length < 64) || secs.all (fun x => c.misses.any (fun m => m.sector == x))
/-- The fills of a sector are made: its entries are free again. -/
def missEnd (s : State) (core sector : Nat) : State :=
  s.setCore core (fun c => { c with misses := c.misses.filter (fun m => m.sector != sector) })

/-- The words a fetch wants of the sectors of a frame that are not there yet wait at miss entries (R112, R316). -/
def missWant (s : State) (core frame : Nat) (runs : List (Nat × Nat)) (sm : Bool) (pol : Nat) (fr : Option (Nat × Nat)) (secs : List Nat) : State :=
  secs.foldl (fun s x => runs.foldl (fun s r =>
    let lo := max r.1 (x % 4 * 16)
    let hi := min r.2 (x % 4 * 16 + 15)
    if x / 4 = frame ∧ lo ≤ hi then (missAdd s core ⟨x, (s.core core).cyc.toNat, some ⟨lo, hi, sm, pol, fr⟩⟩).1 else s) s) s

/-- A sector's copy in the die is one that a core reading for a context may have in its L1. -/
def readable (d : DieSec) (ctx : Nat) : Bool :=
  d.busy.isNone && (match d.st with | .i => false | .u => some d.ctx == ctxSub ctx | _ => true)

/-- Blocks of the other page kind that hold words of the runs leave the L1 first: no two entries hold one word (R105). -/
def evictOther (s : State) (core frame : Nat) (sm : Bool) (runs : List (Nat × Nat)) : State :=
  ((s.core core).blocks.filter (fun b => b.sm != sm && runs.any (fun r => b.meets frame r.1 r.2))).foldl (fun s b => evictBlock s core b) s

/-- A context that does not subscribe to a line its die subscribes to has its bytes for one access only, and none of them in an L1 (R336).
-/
def oneAccess (s : State) (die : Nat) (ctx : Option Nat) (sector : Nat) : Bool :=
  let d := s.sec die sector
  (d.st = .u && some d.ctx != ctx) || (d.st = .i && dieSubscribes s die sector && !subOf s die sector ctx)
/-- Fetches runs of words of a frame: those of sectors the core can read now are filled, the others asked for; on a
software-managed page homed here every word is there. The sectors still to come. -/
def fetchRuns (s : State) (core ctx frame : Nat) (sm : Bool) (pol : Nat) (fr : Option (Nat × Nat)) (runs : List (Nat × Nat)) :
    State × List Nat :=
  let s := evictOther s core frame sm runs
  let secs := (distinct id (runs.flatMap (fun r => (List.range (r.2 / 16 - r.1 / 16 + 1)).map (fun i => frame * 4 + r.1 / 16 + i)))).filter
    (fun x => sm || !oneAccess s (dieOf core) (ctxSub ctx) x)
  let r := if sm then (s, if isHome s (frame * 4) then [] else secs)
    else acquireAll s (fun s x => acquireRead s (dieOf core) (core % 48) (ctxSub ctx) x) secs
  let ok := secs.filter (fun x => !r.2.contains x && (sm || readable (r.1.sec (dieOf core) x) ctx))
  let parts := runs.flatMap (fun w => ok.filterMap (fun x =>
    let lo := max w.1 (x % 4 * 16)
    let hi := min w.2 (x % 4 * 16 + 15)
    if lo ≤ hi then some (lo, hi) else none))
  (parts.foldl (fun s w => fillWords s core frame w.1 w.2 sm pol fr s.mem.get) r.1, r.2)

/-- A pass touches words of a frame (R106 to R108): a miss fetches its span, unless the policy bypasses the L1. -/
def fillFrame (s : State) (core ctx : Nat) (sm : Bool) (u : CacheUse) (offs : List Nat) (frame : Nat) : State :=
  let ws := distinct (· / 4) offs
  let c := s.core core
  let s := if u.pol = 3 ∨ ws.all (c.holds sm frame) then s
    else (fetchRuns s core ctx frame sm u.pol (if u.hint = 0 then some (u.idx, (minNat? ws).getD 0) else none)
      (spanFor c u.hint u.idx offs)).1
  s.setCore core (fun c => let c := c.touch frame ws; if u.load then c.noteRead frame ws else c)

/-- Fills the frames a pass touches. -/
def fillAll (s : State) (core ctx : Nat) (u : CacheUse) (ls : List Loc) : State :=
  let go := fun (sm : Bool) (as : List Nat) (s : State) =>
    (distinct (· / 256) as).foldl (fun s f => fillFrame s core ctx sm u ((as.filter (fun a => a / 256 == f)).map (· % 256)) f) s
  go true (smAddrs ls) (go false (cohAddrs ls) s)

/-- The checker cache of a core takes a clean copy of a sector it has a token for (R284): 1,024 sectors, the oldest makes room.
-/
def checkFill (s : State) (core ctx sector : Nat) : State :=
  let d := s.sec (dieOf core) sector
  let c := s.core core
  if !readable d ctx || d.tokOf (48 + core % 48) = 0 || c.ccache.any (fun x => x.sector == sector) then s
  else
    let bs := (List.range 64).map (fun i => dieByte s (dieOf core) (ctxSub ctx) (sector * 64 + i))
    let put := c.ccache ++ [⟨sector, if d.st = .u then ctxSub ctx else none, bs⟩]
    let out := put.take (put.length - 1024)
    let s := s.setCore core (fun c => { c with ccache := put.drop (put.length - 1024) })
    out.foldl (fun s x =>
      let e := s.sec (dieOf core) x.sector
      let e := e.moveTok (48 + core % 48) 96 (e.tokOf (48 + core % 48))
      let s := s.setSec (dieOf core) x.sector e
      if e.home then s.later (.tokensBackAtPort (dieOf core) x.sector) else s) s

/-- Words of another device's software-managed pages that an access needs and the core has not: their sectors. -/
def smAway (s : State) (core : Nat) (as : List Nat) : List Nat :=
  distinct (· / 64) (as.filter (fun a => !isHome s (a / 64) && !(s.core core).holds true (a / 256) (a % 256 / 4) && (cellAt (s.core core).byp a).isNone))

/-- Asks for the software-managed words that must come from another device (R316): miss entries hold what they are for. -/
def askAway (s : State) (core : Nat) (u : CacheUse) (as secs : List Nat) : State :=
  (distinct (· / 4) secs).foldl (fun s f =>
    let offs := (as.filter (fun a => a / 256 == f)).map (· % 256)
    missWant s core f (spanFor (s.core core) u.hint u.idx offs) true u.pol
      (if u.hint = 0 then some (u.idx, (minNat? offs).getD 0 / 4) else none) (secs.filter (fun x => x / 4 == f))) s

/-- Makes the bytes of a pass readable by a core: tokens, then fills. The sectors that another agent must give first. -/
def prepRead (s : State) (core ctx : Nat) (u : CacheUse) (ls : List Loc) : State × List Nat :=
  let secs := distinct (· / 64) (cohAddrs ls)
  let r := acquireAll (cacheLocs s ls) (fun s x => acquireRead s (dieOf core) (core % 48) (ctxSub ctx) x) secs
  let away := smAway r.1 core (smAddrs ls)
  if !(r.2 ++ away).isEmpty then (askAway r.1 core u (smAddrs ls) away, r.2 ++ away)
  else (secs.foldl (fun s x => checkFill s core ctx x) (fillAll r.1 core ctx u ls), [])

/-- Makes the bytes of a pass writable by a core (R327, R329). A software-managed word the core does not hold is filled first, but
under `.BYP` (R316). -/
def prepWrite (s : State) (core ctx : Nat) (u : CacheUse) (ls : List Loc) : State × List Nat :=
  let r := acquireAll (cacheLocs s ls) (fun s x => acquireWrite s (dieOf core) (core % 48) (some core) x) (distinct (· / 64) (cohAddrs ls))
  let away := if u.pol = 3 then [] else smAway r.1 core (smAddrs ls)
  if !(r.2 ++ away).isEmpty then (askAway r.1 core u (smAddrs ls) away, r.2 ++ away)
  else (fillAll r.1 core ctx u ls, [])

/-- A pass misses in the L1: words it touches that its core does not hold, under a policy that allocates (R106, R116). -/
def missing (s : State) (core : Nat) (u : CacheUse) (ls : List Loc) : Bool :=
  u.pol != 3 && ((cohAddrs ls).any (fun a => !(s.core core).holds false (a / 256) (a % 256 / 4)) ||
    (smAddrs ls).any (fun a => !(s.core core).holds true (a / 256) (a % 256 / 4)))

/-! ## The bytes of an access -/

/-- The byte a core's load reads (R193, R284): from its checker cache, else the coherent byte as its die reads it; the core's own
copy of a software-managed byte, else what was brought for it, else the home's; the scratchpad or carve byte. -/
def readLoc (s : State) (core ctx : Nat) (l : Loc) : Byte :=
  match l with
  | .mem pa t =>
    if t.coh = 0 then
      match (s.core core).ccache.find? (fun x => x.sector == pa / 64 && (x.ctx.isNone || x.ctx == ctxSub ctx)) with
      | some x => nth 0 x.bytes (pa % 64)
      | none => dieByte s (dieOf core) (ctxSub ctx) pa
    else match (s.core core).smByte pa with
      | some b => b
      | none => (cellAt (s.core core).byp pa).getD (s.mem.get pa)
  | .scr k => s.scrByte k
  | .crv k => s.crvByte k

/-- The number little-endian bytes at places make. -/
def readLocs (s : State) (core ctx : Nat) (ls : List Loc) : Nat := leNat (ls.map (readLoc s core ctx))

/-- What was brought for one access is used up (R316, R336). -/
def endAccess (s : State) (core : Nat) (ls : List Loc) : State :=
  let s := endPeek s (dieOf core) (distinct (· / 64) (cohAddrs ls))
  if (s.core core).byp.isEmpty then s
  else s.setCore core (fun c => { c with byp := c.byp.filter (fun x => !(smAddrs ls).contains x.1) })

/-- A software-managed store into the core's block, dirty (R110, R111); bytes of words not held go home (R108, `.BYP`).
-/
def smStore (s : State) (core : Nat) (cs : List Host.Cell) : State :=
  let c := s.core core
  let heldBy := fun a : Nat => c.holds true (a / 256) (a % 256 / 4)
  let inn := cs.filter (fun x => heldBy x.1)
  let out := cs.filter (fun x => !heldBy x.1)
  let s := s.setCore core (fun c => { c with blocks := c.blocks.map (fun b =>
    if b.sm then
      let mine := inn.filter (fun x => x.1 / 256 == b.frame && decide (b.lo ≤ x.1 % 256 / 4) && decide (x.1 % 256 / 4 ≤ b.hi))
      mine.foldl (fun b x => { b with data := (b.data.filter (fun y => y.1 ≠ x.1 % 256)) ++ [(x.1 % 256, x.2)],
                                      dirty := sadd (x.1 % 256) b.dirty }) b
    else b) })
  smHome s (dieOf core) out

/-- Scratchpad bytes written; a word every byte of which is written loses its mark (R117). -/
def scrWrite (s : State) (cs : List Host.Cell) : State :=
  let ks := cs.map (·.1)
  { s with scr := s.scr.putAll cs, scrUnd := undCells s.scrUnd cs,
           scrPsn := s.scrPsn.filter (fun w => !(List.range 8).all (fun i => ks.contains (w * 8 + i))) }

/-- Carve bytes written; a sector every byte of which is written loses its mark (R117). -/
def crvWrite (s : State) (cs : List Host.Cell) : State :=
  let ks := cs.map (·.1)
  { s with crv := s.crv.putAll cs, crvUnd := undCells s.crvUnd cs,
           crvPsn := s.crvPsn.filter (fun w => !(List.range 64).all (fun i => ks.contains (w * 64 + i))) }

/-- A page kind of the places of an access: whether some byte lies on a page with an ordering code (Table 6-4). -/
def onOrd (ord : Nat) (ls : List Loc) : Bool := ls.any (fun l => match l with | .mem _ t => t.ord == ord | _ => false)

/-- The values UO bytes had before a plain store (R298); the latest for each. -/
def noteOlder (s : State) (ls : List Loc) : State :=
  if !onOrd 2 ls then s
  else
    let as := ls.filterMap (fun l => match l with | .mem pa t => if t.ord = 2 ∧ t.coh = 0 then some pa else none | _ => none)
    { s with older := s.older.filter (fun o => !as.contains o.pa) ++ as.map (fun a => ⟨a, cohByte s a, s.fresh⟩) }

/-- Writes bytes where they lie, as a core's store whose sectors are writable already (R194). `hnd`, `q`: the team and its queue. -/
def writeLocs (s : State) (hnd q core : Nat) (ls : List (Loc × Byte)) : State :=
  let coh := ls.filterMap (fun x => match x.1 with | .mem pa t => if t.coh = 0 then some (pa, x.2) else none | _ => none)
  let so := onOrd 1 (ls.map (·.1))
  let sm := ls.filterMap (fun x => match x.1 with | .mem pa t => if t.coh = 0 then none else some (pa, x.2) | _ => none)
  let sc := ls.filterMap (fun x => match x.1 with | .scr k => some (k, x.2) | _ => none)
  let cv := ls.filterMap (fun x => match x.1 with | .crv k => some (k, x.2) | _ => none)
  let s := (distinct (· / 64) (coh.map (·.1))).foldl (fun s x => (storeSector s hnd q (dieOf core) x (coh.filter (fun c => c.1 / 64 == x)) false so).1) s
  let s := if sm.isEmpty then s else smStore s core sm
  let s := if sc.isEmpty then s else scrWrite s sc
  if cv.isEmpty then s else crvWrite s cv

end Sys2Proof.Machine
end

