-- ==== Sys2Proof/Machine/Access.lean ====
section
/-! DEFINITION. An access of a team, whatever instruction makes it: its byte budgets (R371), what it waits for (R115, R116, R297,
R299, R392), and the release of a store with its acceptance at the home (R66, R300). -/

namespace Sys2Proof.Machine

/-- An access of one strand: its places, and the bytes it stores. -/
structure Access where
  k : Nat
  ls : List Loc
  bs : List Byte

/-- The physical addresses of accesses in space 0. -/
def globAddrs (ls : List Loc) : List Nat := ls.filterMap (fun l => match l with | .mem pa _ => some pa | _ => none)
/-- The places of an instruction's accesses. -/
def placesOf (xs : List Access) : List Loc := xs.flatMap (·.ls)
/-- Bytes of an instruction's accesses in space 0. -/
def memBytes (xs : List Access) : Nat := (globAddrs (placesOf xs)).length

/-! ## What a team's access waits for -/

/-- Write-throughs of a team still on their way (R335). -/
def throughsOf (s : State) (h : Nat) : List Through := s.throughs.filter (fun x => x.hnd == h)
/-- Bytes of the team's released stores that have not performed yet (R300). -/
def Team.pending (t : Team) : List (Loc × Byte) := t.rel.flatMap (·.cells)
/-- Two places are the same byte. -/
def Loc.same : Loc → Loc → Bool
  | .mem a _, .mem b _ => a == b
  | .scr a, .scr b => a == b
  | .crv a, .crv b => a == b
  | _, _ => false
/-- The team's earlier accesses that the rows of Table 16-1 put first have performed, as far as they concern this one: bytes still to
be performed that it overlaps; on an SO page, the team's SO stores (R299); for a write to scratchpad or carve, what stood before
its last release `FENCE` (R392). -/
def orderReady (s : State) (t : Team) (write : Bool) (ls : List Loc) : Bool :=
  !t.pending.any (fun p => ls.any (fun l => l.same p.1)) &&
  (!onOrd 1 ls || (throughsOf s t.hnd).all (fun x => !x.so || x.done1)) &&
  (!(write && t.fence != 0 && ls.any (fun l => match l with | .mem _ _ => false | _ => true)) ||
    (throughsOf s t.hnd).all (fun x => decide (t.fence ≤ x.id)))

/-- The team waits for sectors that another agent must give, or, in a latency-critical queue, parked until its words are there (R55,
R116); each sector takes a miss entry of the core (R115). -/
def awaitSectors (s : State) (t : Team) (parked : Bool) (secs : List Nat) : State :=
  let s := secs.foldl (fun s x => (missAdd s t.core ⟨x, (s.core t.core).cyc.toNat, none⟩).1) s
  s.setTeam t.hnd (fun t => { t with status := if parked then .parked secs else .fabric secs })

/-- Makes the accesses of an instruction ready pass by pass (R106, R107, R327). False: the team must wait: an earlier access of its own
has still to perform, the budgets have no room in this interval (R371), every miss entry is busy (R115), another agent must answer,
or a latency-critical team has missed in the L1 and is parked until its fill (R116). The bytes are charged once the accesses go
ahead. -/
def prepAccess (s : State) (t : Team) (write : Bool) (u : CacheUse) (xs : List Access) : State × Bool :=
  let ls := placesOf xs
  let n := memBytes xs
  let q := s.qOf t
  if n ≠ 0 && !memRoom s t.core q (s.recOf t).mbw || !orderReady s t write ls then (s, false)
  else
    let ctx := s.ctxOf t
    let miss := (s.recOf t).lcrit && missing s t.core u ls
    let passes := ((List.range (t.strands.length / 32)).map (fun p => (xs.filter (fun x => x.k / 32 == p)).flatMap (·.ls))).filter (fun l => !l.isEmpty)
    let r := passes.foldl (fun (r : State × List Nat) ls =>
      if !r.2.isEmpty then r else if write then prepWrite r.1 t.core ctx u ls else prepRead r.1 t.core ctx u ls) (s, [])
    if !r.2.isEmpty then
      (if missRoom s t.core r.2 then (awaitSectors r.1 t (s.recOf t).lcrit r.2, false) else (s, false))
    else if miss && !missing r.1 t.core u ls then
      let fs := distinct (· / 256) (globAddrs ls)
      let s := awaitSectors r.1 t true (distinct (· / 64) (globAddrs ls))
      (fs.foldl (fun s f => s.later (.missFill t.core f (0, 63) [])) s, false)
    else (if n = 0 then r.1 else memCharge r.1 t.core q n, true)

/-- The state with the charges of an access that has still to be made taken back: `s0` before it. -/
def State.uncharge (s s0 : State) : State := { s with clusters := s0.clusters, queues := s0.queues }

/-! ## Plain reads of UO pages (R298) -/

/-- A byte as a plain load of a team reads it: on a UO page perhaps the value before its last store, where nothing orders the load
after that store (log entry 42). -/
def readPlain (s : State) (t : Team) (l : Loc) : Byte :=
  match l with
  | .mem pa x =>
    if x.ord = 2 ∧ x.coh = 0 then
      (match s.older.find? (fun o => o.pa == pa && decide (t.mark ≤ o.at_)) with
        | some o => if Config.uoEarlier s.fresh pa then o.byte else readLoc s t.core (s.ctxOf t) l
        | none => readLoc s t.core (s.ctxOf t) l)
    else readLoc s t.core (s.ctxOf t) l
  | _ => readLoc s t.core (s.ctxOf t) l
/-- An ordering point of a team: its reads of UO pages reach no further back (R298). -/
def State.orderPoint (s : State) (h : Nat) : State := s.setTeam h (fun t => { t with mark := s.fresh })

/-! ## Releasing a store (R66) -/

/-- The bytes of a store beyond the first page it touches, which perform on their own (R103, R300); the rest first. -/
def splitStore (cs : List (Loc × Byte)) : List (Loc × Byte) × List (Loc × Byte) :=
  match (globAddrs (cs.map (·.1))).head? with
  | none => (cs, [])
  | some pa => cs.partition (fun c => match c.1 with | .mem a _ => a / 4096 == pa / 4096 | _ => true)

/-- A team's store is about to be made: its accesses are ready, and in precise-store mode its home has accepted it, which the team
waits for (R66). False: the team waits. -/
def releasePrep (s : State) (t : Team) (u : CacheUse) (xs : List Access) : State × Bool :=
  let r := prepAccess s t true u xs
  if !r.2 || !bitAt t.tctl.toNat 5 || (globAddrs (placesOf xs)).isEmpty then r
  else match t.status with
    | .accepted => r
    | .waiting => (s, false)
    | _ => ((s.setTeam t.hnd (fun t => { t with status := .waiting })).later (.storeAccepted t.hnd false), false)

/-- A store has been made: in imprecise mode it is released, and its acceptance at the home, with the bytes that have still to perform,
is to come (R66, R300). -/
def releaseEnd (s : State) (t : Team) (xs : List Access) (late : List (Loc × Byte)) : State :=
  let pas := globAddrs (placesOf xs)
  if pas.isEmpty || bitAt t.tctl.toNat 5 then s
  else
    let r : Released := ⟨s.names, pas, late⟩
    let s : State := { s with names := s.names + 1 }
    (s.setTeam t.hnd (fun t => { t with rel := t.rel ++ [r] })).later (.storeAccepted t.hnd false)

/-- The bytes of later parts that no higher strand's first part writes over (R194), from each strand's parts. -/
def lateCells : List (List (Loc × Byte) × List (Loc × Byte)) → List (Loc × Byte)
  | [] => []
  | p :: ps => p.2.filter (fun c => !ps.any (fun q => q.1.any (fun d => d.1.same c.1))) ++ lateCells ps
/-- A plain store of a team, once it is ready: all of it, but for the later parts of split accesses on RC and UO pages, whose order no
rule gives (R300). Higher strands' bytes remain (R194). -/
def storePlain (s : State) (t : Team) (xs : List Access) : State :=
  let precise := bitAt t.tctl.toNat 5
  let parts := xs.map (fun x => if precise then (x.ls.zip x.bs, []) else splitStore (x.ls.zip x.bs))
  releaseEnd (writeLocs (noteOlder s (placesOf xs)) t.hnd (s.qOf t) t.core (parts.flatMap (·.1))) t xs (lateCells parts)

end Sys2Proof.Machine
end

