-- ==== Sys2Proof/Machine/Ops.lean ====
section
/-! DEFINITION. What every instruction of a team shares: its registers and active strands (R22, R126), its tests in the
order of R342, its retirement with both signatures (R134, R291) and the check sequence (R287), a signature mismatch
(R286, R288), completion of commands (R380), teardown (R293), and taking a fault or trap (R343 to R346) with the return
from one (R248). -/

namespace Sys2Proof.Machine

/-! ## The instruction as fields -/

/-- Opcode of an instruction (0x3FF for a device step). -/
def opcOf (i : Instr) : Nat := match toRaw i with | some r => r.opc.toNat | none => 1023
/-- The header fields of an instruction. -/
def hdrF (i : Instr) : Hdr := match toRaw i with | some r => r.h | none => ⟨0, 0, false, 0, 63, 63⟩
/-- The instruction reads source b from an immediate. -/
def hasImm (i : Instr) : Bool :=
  match toRaw i, desc i with
  | some r, some d => r.len == 2 && (d.bf == .either || d.bf == .imm)
  | _, _ => false
/-- The destination registers the fields name (R58); the scale register of `PBPACK` stands in `x8` (R181). -/
def destRegs (i : Instr) : List Nat :=
  match toRaw i, desc i with
  | some r, some d => d.d.regs r.vd ++ (match i with | .pbpack a => [a.x8.toNat] | _ => [])
  | _, _ => []
/-- The source registers the fields name (R58). -/
def srcRegs (i : Instr) : List Nat :=
  match toRaw i, desc i with
  | some r, some d =>
    let vc : RegField := BitVec.ofNat 8 (if r.opc.toNat / 128 = 5 then bits r.ext.toNat 48 8 else bits r.ext.toNat 0 8)
    d.a.regs r.va ++ (if hasImm i then [] else d.b.regs r.vb) ++ d.c.regs vc
  | _, _ => []
/-- The registers the two guard fields name (R126). -/
def guardRegs (h : Hdr) : List Nat := ([h.g1, h.g2].map (fun g => g.toNat % 64)).filter (· < 63)
/-- Every register a field of the instruction names (R58, R221). -/
def namedRegs (i : Instr) : List Nat := destRegs i ++ srcRegs i ++ guardRegs (hdrF i)

/-- A control instruction (R134): opcodes 0x080 to 0x08C. -/
def isControl (i : Instr) : Bool := let o := opcOf i; decide (0x80 ≤ o) && decide (o ≤ 0x8c)
/-- The expected static signature of a control instruction (Table 7-9) or of `SIGCHK` (R249). -/
def sigxOf (i : Instr) : Option (BitVec 16) :=
  match i with
  | .sigchk a => some (BitVec.ofNat 16 (256 * (srcField a.b).toNat + a.va.toNat))
  | _ => if isControl i then (toRaw i).map (fun r => BitVec.ofNat 16 (bits r.ext.toNat 48 16)) else none
/-- Instructions marked P in Table 7-12 (R244). -/
def isPriv (i : Instr) : Bool :=
  match i with
  | .tlbinv _ => true
  | .ctxsave _ => true
  | .ctxload _ => true
  | .poisonclr _ => true
  | .hostmsg _ => true
  | .rasrd _ => true
  | _ => false
/-- The latency of a producer (Table 7-4); none for groups 5 to 7 and the link writes of group 1 (R130). -/
def latencyOf (i : Instr) : Option Nat :=
  let o := opcOf i
  match desc i with
  | some d =>
    if o < 0x80 ∨ (0x100 ≤ o ∧ o < 0x200) then some (nth 2 [2, 4, 6, 12] d.cls)
    else if 0x200 ≤ o ∧ o < 0x280 then some (if 0x209 ≤ o ∧ o ≤ 0x20c then 10 else 4)
    else none
  | none => none

/-! ## Strands and registers -/

/-- A register of a strand; beyond the declared count it reads as a fresh one, which a test has faulted first. -/
def Strand.reg (x : Strand) (r : Nat) : Reg := nth Reg.zero x.regs r
/-- A register value under a tag: under tags 9, 10 and 14 bits 31:30 hold 0 (R72). -/
def tagValue (v : Word) (tag : BitVec 4) : Word := if tag = 9 ∨ tag = 10 ∨ tag = 14 then v &&& 0x3fffffff else v
/-- The strand with a register written: value and tag, the poison mark cleared (R61, R62, R72). -/
def Strand.set (x : Strand) (r : Nat) (v : Word) (tag : BitVec 4) : Strand := { x with regs := x.regs.set r ⟨tagValue v tag, tag, false⟩ }
/-- The strand is enabled (R22). -/
def Strand.enabled (x : Strand) : Bool := x.ctr == 0
/-- The strand has exited (R43). -/
def Strand.exited (x : Strand) : Bool := x.ctr == 0xff
/-- A strand of a team. -/
def Team.strand (t : Team) (k : Nat) : Strand := nth ⟨[], 0xff, 0⟩ t.strands k
/-- The team with one strand changed. -/
def Team.setStrand (t : Team) (k : Nat) (f : Strand → Strand) : Team := { t with strands := upd t.strands k f }
/-- Strand numbers of a team. -/
def Team.all (t : Team) : List Nat := List.range t.strands.length
/-- Every strand has exited (R47). -/
def Team.done (t : Team) : Bool := t.strands.all Strand.exited
/-- Writes one register in several strands (R140). -/
def Team.writeAll (t : Team) (ks : List Nat) (r : Nat) (v : Word) (tag : BitVec 4) : Team :=
  ks.foldl (fun t k => t.setStrand k (fun x => x.set r v tag)) t

/-- One guard passes in a strand (R126); a poisoned guard register is a fault of the strand. -/
def guardOk (t : Team) (g : BitVec 7) (k : Nat) : V Bool :=
  let r := g.toNat % 64
  if r = 63 then .ok true
  else if r ≥ t.nreg then .ok false
  else
    let x := (t.strand k).reg r
    if x.psn then .bad (trapRegPoison (some k)) else .ok (bitAt x.val.toNat 0 != bitAt g.toNat 6)

/-- Both guards pass in a strand. -/
def guardsOk (t : Team) (h : Hdr) (k : Nat) : V Bool :=
  (V.both (guardOk t h.g1 k) (guardOk t h.g2 k)).map (fun p => p.1 && p.2)

/-- The enabled strands (R22). -/
def Team.enabled (t : Team) : List Nat := t.all.filter (fun k => (t.strand k).enabled)
/-- The strands active for an instruction (R22); one whose guard read faults does not count. -/
def activeOf (t : Team) (h : Hdr) : List Nat :=
  t.enabled.filter (fun k => match guardsOk t h k with | .ok b => b | .bad _ => false)
/-- The faults of guard reads (R126, R61). -/
def guardFaults (t : Team) (h : Hdr) : V Unit := (V.all (t.enabled.map (guardsOk t h))).map (fun _ => ())

/-- Pass words of a set of strands (R23). -/
def passWord (ks : List Nat) (p : Nat) : Nat := (ks.filter (fun k => k / 32 == p)).foldl (fun w k => w + 2 ^ (k % 32)) 0
/-- The summary word of a set of strands (R23). -/
def sumWord (ks : List Nat) (passes : Nat) : Nat :=
  (List.range passes).foldl (fun w p => if passWord ks p = 0 then w else w + 2 ^ p) 0

/-! ## What an instruction runs with, and what it comes to -/

/-- The instruction's surroundings: state, team, active strands and leader (R22, R24). -/
structure Run where
  s : State
  t : Team
  i : Instr
  act : List Nat

/-- The leader (R24). -/
def Run.lead (c : Run) : Option Nat := c.act.head?
/-- The team's core. -/
def Run.core (c : Run) : Nat := c.t.core
/-- The team's context. -/
def Run.ctx (c : Run) : Nat := c.s.ctxOf c.t
/-- The team is a supervisor team. -/
def Run.sup (c : Run) : Bool := c.s.isSup c.t
/-- The state with the team replaced. -/
def Run.put (c : Run) (t : Team) : State := c.s.putTeam t

/-- An instruction's effect: the state with it made (the team still unretired), where control goes, whether that
instruction is reached by stepping, whether a signature half stands as the effect left it, the (strand, register) pairs
read where they are not every source in every active strand, and the registers written with their strands (R130). -/
structure Done where
  s : State
  jump : Option (BitVec 48)
  stepped : Bool
  keepSigs : Bool
  keepSigd : Bool
  reads : Option (List (Nat × Nat))
  writes : List (Nat × List Nat)

/-- An effect after which control passes in sequence. -/
def Done.seq (s : State) : Done := ⟨s, none, true, false, false, none, []⟩

/-- What executing comes to: an effect; the team not ready (R211), with the state as it stands; a fault; a software trap
after its own commit (R247). -/
inductive Res where
  | done (d : Done)
  | hold (s : State)
  | trap (t : Trap)
  | soft (t : Trap)

/-- A verdict turned into an outcome. -/
def V.res {α : Type} (v : V α) (f : α → Res) : Res := match v with | .ok a => f a | .bad t => .trap t

/-- Another test beside an outcome: the fault reported first wins (R342). -/
def Res.also (r : Res) (v : V Unit) : Res :=
  match v, r with
  | .ok _, r => r
  | .bad t, .trap u => .trap (if t.le u then t else u)
  | .bad t, _ => .trap t

/-! ## Signatures and the check sequence -/

/-- `%sigs` as the instruction at a pc meets it: 0 at a multiple of 64 (R134). -/
def sigsAt (t : Team) : BitVec 16 := if t.pc.toNat % 64 = 0 then 0 else t.sigs
/-- `%sigs` after an instruction that is not a control instruction (R134). -/
def sigsFold (g : BitVec 16) (low : Nat) : BitVec 16 := g.rotateLeft 3 ^^^ fold16 low
/-- `%sigd` after the active masks of an instruction (R291). -/
def sigdMask (g : BitVec 16) (act : List Nat) (passes : Nat) : BitVec 16 :=
  (List.range passes).foldl (fun g p =>
    let w := passWord act p
    if w = 0 then g else g.rotateLeft 5 ^^^ fold16 w ^^^ BitVec.ofNat 16 p) g
/-- Live strands whose counter is non-zero before and 0 after (R291). -/
def resumed (a b : List Strand) : Nat :=
  ((a.zip b).filter (fun p => !p.1.exited && p.1.ctr != 0 && p.2.ctr == 0)).length
/-- `ENDIF` or `ENDLOOP`. -/
def isEnd (i : Instr) : Bool := match i with | .endif _ => true | .endloop _ => true | _ => false
/-- `%sigd` after an instruction (R291): `t0` before it, `t1` with its counters. -/
def sigdAfter (i : Instr) (t0 t1 : Team) (act : List Nat) : BitVec 16 :=
  let g := sigdMask t0.sigd act t0.passes
  if isEnd i then g.rotateLeft 1 ^^^ BitVec.ofNat 16 (resumed t0.strands t1.strands) else g

/-- The static comparison of an instruction differs (R134, R249). -/
def sigDiffers (t : Team) (i : Instr) : Bool :=
  match sigxOf i with
  | some x => (!isControl i || t.stepped) && x != sigsAt t
  | none => false

/-- `%mism` rises, and holds at all ones (R67). -/
def Team.mismUp (t : Team) : Team := { t with mism := if t.mism = 0xffffffff then t.mism else t.mism + 1 }
/-- A team with its check sequence: a mismatch that makes four among the last 64 entries enters checked-only mode (R287). -/
def Team.withSeq (t : Team) (q : List Bool) : Team :=
  { t with seq := q, chk := if (q.filter id).length ≥ 4 ∧ t.chk = none then some 4096 else t.chk }
/-- A mismatch of a team's claim (R286, R287): `%mism` rises and the sequence takes the entry; what the main core did since is
discarded. -/
def Team.mismatch (t : Team) : Team :=
  { (t.mismUp.withSeq ((true :: t.seq).take 64)) with checks := t.checks + 1, work := none }
/-- A claim that matches and commits nothing, for it reports a fault, enters the sequence (R287). -/
def Team.noted (t : Team) : Team := { t with seq := (false :: t.seq).take 64, checks := t.checks + 1 }
/-- A claim that matches and commits enters the sequence; in the mode one commit is spent (R287). -/
def Team.matched (t : Team) : Team := { t.noted with chk := t.chk.map (· - 1) }
/-- The entry number n of the sequence, made when its instruction issued, turns into a mismatch (R289). -/
def Team.turnEntry (t : Team) (n : Nat) : Team :=
  t.mismUp.withSeq (upd t.seq (t.checks - 1 - n) (fun _ => true))

/-- A read of a sampled name commits with a value (R282). -/
def Team.sampled (t : Team) (name v : Nat) : Team := { t with samps := aset name v t.samps }
/-- A sampled value: that of the claim under check, else what the name holds now (R282). -/
def sampleOf (s : State) (v : Nat) : Nat := s.sample.getD v

/-- What the main core has claimed of a team and is not checked yet is discarded, with its working copy (R286). -/
def dropClaims (s : State) (h : Nat) : State :=
  let qs : List (Nat × List Claim) := s.claims.map (fun q => (q.1, q.2.filter (fun c => c.hnd != h)))
  { s with claims := qs.filter (fun q => !q.2.isEmpty) }.setTeam h (fun t => { t with work := none })

/-! ## The stall-count test -/

/-- The (strand, register) pairs an instruction reads (R129, R130): its sources in every active strand unless its
effect says otherwise, and its guards in every enabled strand. -/
def readsOf (c : Run) (d : Done) : List (Nat × Nat) :=
  (match d.reads with
    | some l => l
    | none => c.act.flatMap (fun k => (srcRegs c.i).map (fun r => (k, r)))) ++
  c.t.enabled.flatMap (fun k => (guardRegs (hdrF c.i)).map (fun r => (k, r)))

/-- Some value read was written too few stall cycles ago (R130). -/
def tooShort (t : Team) (rs : List (Nat × Nat)) : Bool :=
  t.prod.any (fun p => decide (p.dist < p.lat) && rs.any (fun x => x.2 == p.reg && p.strands.contains x.1))

/-- The producers after an instruction (R130): values read or written over drop out, distances grow by `stall` + 1, and
the instruction's own writes are added. -/
def prodAfter (t : Team) (i : Instr) (rs : List (Nat × Nat)) (ws : List (Nat × List Nat)) : List Producer :=
  let n := (hdrF i).stall.toNat + 1
  let cut := fun p : Producer =>
    { p with strands := p.strands.filter (fun k =>
        !rs.any (fun x => x.1 == k && x.2 == p.reg) && !ws.any (fun w => w.1 == p.reg && w.2.contains k)),
             dist := p.dist + n }
  let old := (t.prod.map cut).filter (fun p => !p.strands.isEmpty && decide (p.dist < p.lat))
  match latencyOf i with
  | some l => old ++ (if n < l then ws.filterMap (fun w => if w.2.isEmpty then none else some ⟨w.1, w.2, n, l, false⟩) else [])
  | none => old

/-! ## Errors found by a read -/

/-- The byte of its space that a pointer of a context names, from a core: space, byte. -/
def ptrByte (s : State) (ctx core : Nat) (p : DWord) : Option (Nat × Nat) :=
  if !ptrOk p then none
  else match ptrSpace p with
    | 0 => (match leafFor s ctx (ptrField p) with | .ok l => some (0, l.pa + (ptrField p - l.va)) | .error _ => none)
    | 1 => some (1, peerCore core (ptrSel p) * 2 ^ 19 + ptrField p)
    | _ => some (2, ptrSel p * 2 ^ 34 + ptrField p)
/-- An uncorrectable error that a read found at a byte marks its page, word or sector (R117), a burst of memory with a RAS record
(R119). -/
def markFlaw (s : State) (sp a : Nat) : State :=
  if !s.flaws.contains (sp, a) then s
  else
    let s := { s with flaws := s.flaws.filter (· ≠ (sp, a)) }
    match sp with
    | 0 => rasWrite { s with memPsn := sadd (a / 4096) s.memPsn } 6 65535 255 65535 0 (BitVec.ofNat 64 a) (BitVec.ofNat 64 (a % 4096))
    | 1 => { s with scrPsn := sadd (a / 8) s.scrPsn }
    | _ => { s with crvPsn := sadd (a / 64) s.crvPsn }
/-- A poison fault whose address holds an error found by the faulting read marks it (R117, R118). -/
def noteFlaw (s : State) (ctx core : Nat) (t : Trap) : State :=
  if t.cause ≠ 8 ∨ s.flaws.isEmpty then s
  else match ptrByte s ctx core t.addr with
    | some x => markFlaw s x.1 x.2
    | none => s

/-! ## Memory the device itself reads and writes -/

/-- Writes bytes at a space 0 address of a context, where every page allows it; none where one does not (R29, R380). -/
def ctxWrite (s : State) (ctx va : Nat) (bs : List Byte) : Option State :=
  match locate s ctx 0 true Need.wr none (BitVec.ofNat 64 va) bs.length with
  | .bad _ => none
  | .ok ls =>
    let pick := fun (sm : Bool) => (ls.zip bs).filterMap (fun x => match x.1 with
      | .mem pa t => if (t.coh != 0) == sm then some (pa, x.2) else none
      | _ => none)
    let s := devWrite s (pick false)
    some (if (pick true).isEmpty then s else smHome s (devDie s) (pick true))

/-- What a read by the device comes to: a page does not allow it, another agent must answer first, or the bytes. -/
inductive Got where
  | bad
  | wait
  | bytes (bs : List Byte)
  deriving DecidableEq, Repr

/-- Reads bytes at a space 0 address of a context, with the rights of the supervisor, so that a page with `sv` counts as permitted (R29
and Table 21-5 do not say which rights the device reads with; log entry 44). The read acquires at system scope: copies that other
agents hold dirty are recalled first (R29, R327). -/
def ctxGet (s : State) (ctx va n : Nat) : State × Got :=
  match locate s ctx 0 true Need.rd none (BitVec.ofNat 64 va) n with
  | .bad t => (noteFlaw s ctx 0 t, .bad)
  | .ok ls =>
    let pas := cohAddrs ls
    let r := devReady s pas
    if !r.2 then (r.1, .wait)
    else (devDone r.1 pas, .bytes (ls.map (fun l => match l with
      | .mem pa t => if t.coh = 0 then dieByte r.1 (devDie r.1) none pa else r.1.mem.get pa
      | _ => 0)))

/-- The 16 bytes of a completion record (Table 27-3). -/
def complBytes (s : State) (h : CmdHdr) (st detail : Nat) (late : Bool) : List Byte :=
  [BitVec.ofNat 8 st, if late then 1 else 0] ++ leBytes 2 detail ++ leBytes 4 h.tag ++ leBytes 8 s.now

/-- The context in which a command completes: that of the queue record in force when its launch was accepted (R361), else the
queue's. -/
def cmdCtx (s : State) (h : CmdHdr) : Nat := match s.launches.find? (fun l => l.cmd == h) with | some l => l.ctx | none => (s.queue h.q).cfg.ctx
/-- Completes a command (R380): its record is written under a context, it leaves its queue's list, and the watchdog count returns to
0 (R358). -/
def completeIn (s : State) (ctx : Nat) (h : CmdHdr) (st detail : Nat) (late : Bool) : State :=
  let s := if h.crec = 0 then s else (ctxWrite s ctx h.crec (complBytes s h st detail late)).getD s
  s.setQueue h.q (fun q => { q with cmds := dropFirst (fun c => c.hdr == h && c.started) q.cmds, wd := 0 })
/-- Completes a command in its own context. -/
def completeCmd (s : State) (h : CmdHdr) (st detail : Nat) (late : Bool) : State := completeIn s (cmdCtx s h) h st detail late

/-! ## Teardown -/

/-- A channel forgets a group; with none left it is unowned and its entries are discarded (R209). -/
def Chan.forget (c : Chan) (g : Nat) : Chan :=
  let gs := c.groups.filter (· ≠ g)
  if c.owner.isSome ∧ gs.isEmpty ∧ c.groups.contains g then Chan.reset else { c with groups := gs }

/-- A part of a context's save area is free again. -/
def freePlace (s : State) (ctx : Nat) (addr : Option Nat) : State :=
  match addr with
  | some a => s.setCtx ctx (fun c => { c with savUsed := c.savUsed.filter (fun u => u.1 != a) })
  | none => s
/-- The resources of a group are freed (R47, R100, R209): slots (each once its commands are complete), channels, its record or the place
kept for it (R357). -/
def freeGroup (s : State) (g : Group) : State :=
  let s := freePlace (freePlace s g.ctx g.sav) g.ctx (match g.res with | .saved a => some a | _ => none)
  let busy := fun n : Nat => s.ecmds.any (fun e => e.core == g.core && (e.rd ++ e.wr).any (fun x => x.1 == n))
  let mine := ((s.core g.core).slots.filter (fun x => x.2 == g.id)).map (·.1)
  let s := s.setCore g.core (fun c => { c with
    slots := c.slots.filter (fun x => x.2 != g.id || busy x.1),
    releasing := mine.foldl (fun l n => if busy n then sadd n l else sdel n l) c.releasing,
    weaver := match c.weaver.run with | some r => if r.1 = g.id then Weaver.idle else c.weaver | none => c.weaver })
  let s := { s with chans := s.chans.map (fun x => (x.1, x.2.forget g.id)),
                    groups := s.groups.filter (fun x => x.id != g.id) }
  s

/-- A team gives back its stack slot (R353). -/
def freeStack (s : State) (ctx slot : Nat) : State := s.setCtx ctx (fun c => { c with stkUsed := sdel slot c.stkUsed })

/-- A launch completes after its deadline (R369). -/
def Launch.late (l : Launch) (now : Nat) : Bool := decide (l.dl ≠ 0) && decide (now > l.acc + 1000 * l.dl)
/-- The command is a launch that completes after its deadline (R369). -/
def cmdLate (s : State) (h : CmdHdr) : Bool := match s.launches.find? (fun l => l.cmd == h) with | some l => l.late s.now | none => false
/-- Bytes of stores already released whose team leaves the device are written (R293). -/
def writeLate (s : State) (core : Nat) (cs : List (Loc × Byte)) : State :=
  if cs.isEmpty then s
  else
    let pick := fun (sm : Bool) => cs.filterMap (fun x => match x.1 with
      | .mem pa t => if (t.coh != 0) == sm then some (pa, x.2) else none
      | _ => none)
    smHome (devWrite s (pick false)) (dieOf core) (pick true)
/-- Teams leave the device: what they had under way is nobody's any more, stores already released stay, and claims not checked are
discarded. -/
def forgetTeams (s : State) (mine : Team → Bool) : State :=
  let hs := (s.teams.filter mine).map (·.hnd)
  let s := (s.teams.filter mine).foldl (fun s t => writeLate s t.core t.pending) (hs.foldl dropClaims s)
  let gone := fun h : Nat => hs.contains h
  { s with
    teams := s.teams.filter (fun t => !mine t)
    throughs := s.throughs.map (fun x => if gone x.hnd then { x with hnd := 2 ^ 20 } else x)
    asks := s.asks.map (fun a => match a.owed with | some o => if gone o.1 then { a with owed := some (2 ^ 20, 0) } else a | none => a) }

/-- Tears down a hardware queue (R293): its teams and groups are discarded, its engine commands abandoned, its launches
and commands complete with status 0x07, and the host is told. -/
def teardown (s : State) (q : Nat) : State :=
  let gs := s.groups.filter (fun g => g.q == q)
  let mine := fun t : Team => gs.any (fun g => g.id == t.grp)
  let s := s.teams.foldl (fun s t => if mine t then freeStack s (s.ctxOf t) t.stks else s) s
  let s := gs.foldl (fun s g => (g.kept.map (·.stks)).foldl (fun s k => freeStack s g.ctx k) s) s
  let s := { forgetTeams s mine with ecmds := s.ecmds.filter (fun e => e.q != q) }
  let s := gs.foldl freeGroup s
  let cs := (s.queue q).cmds
  let s := s.setQueue q (fun x => { x with torn := true, cmds := x.cmds.map (fun c => { c with started := true }) })
  let s := cs.foldl (fun s c => completeCmd s c.hdr 7 0 (cmdLate s c.hdr)) s
  let ls := s.launches.filter (fun l => l.q == q)
  let s := { s with launches := s.launches.filter (fun l => l.q != q),
                    cbars := s.cbars.filter (fun x => !ls.any (fun l => l.id == x.1.1)) }
  tellHost s 1 q (s.queue q).cfg.ctx []

/-! ## Faults and traps -/

/-- Rows of Table 21-1 delivered to the user handler. -/
def toUser (cause : Nat) : Bool := cause ∈ [1, 3, 7, 10, 11, 12, 13, 14, 16, 17]

/-- The 64 bytes of a supervisor delivery record (Table 21-3). -/
def deliveryBytes (d : Delivery) : List Byte :=
  leBytes 8 d.pc.toNat ++ leBytes 8 d.trap.addr.toNat ++ [if d.eng then 1 else 0] ++ leBytes 3 0 ++ leBytes 4 d.hnd ++
  [BitVec.ofNat 8 d.q, BitVec.ofNat 8 d.trap.cause, BitVec.ofNat 8 d.trap.prio, BitVec.ofNat 8 d.trap.num] ++
  leBytes 2 (d.trap.rstr.getD 65535) ++ leBytes 2 d.ctx ++ leBytes 4 d.amsum.toNat ++ List.replicate 28 0

/-- Writes one delivery record and advances the write index, or lets it wait while the ring is full (R346). -/
def ringDeliver (s : State) (d : Delivery) : State :=
  if s.frWr - s.frRd ≥ 4096 ∨ !s.frWait.isEmpty then { s with frWait := s.frWait ++ [d] }
  else { devWrite s (cellsAt (s.frBase + s.frWr % 4096 * 64) (deliveryBytes d)) with frWr := s.frWr + 1 }

/-- Delivery to the supervisor (R346): the team stops where it stands and the record is written. A fault of a supervisor
team is a RAS record, the end of its queue and an event instead. `soft`: a `TRAP`, which commits (R247). -/
def superDeliver (s : State) (t : Team) (tr : Trap) (act : List Nat) (soft : Bool) : State :=
  let q := s.qOf t
  if s.isSup t then
    let s := rasWrite s 0x0d (rasLoc t.core (hndSec t.hnd)) q (s.ctxOf t) 0 (BitVec.ofNat 64 t.pc.toNat) (BitVec.ofNat 64 tr.cause)
    let c := s.ctxOf t
    tellHost (teardown s q) 2 q c (leBytes 1 tr.cause)
  else
    let d : Delivery := { trap := tr, pc := t.pc, amsum := word (sumWord act t.passes), eng := false, hnd := t.hnd, q := q,
                          ctx := s.ctxOf t }
    let t := if soft then t.matched else t.noted
    ringDeliver (dropClaims (s.putTeam { t with status := .stopped d, held := false }) t.hnd) d

/-- The trap frame of a handler strand (Table 21-2). -/
def frameBytes (pc : BitVec 48) (tr : Trap) (k : Nat) : List Byte :=
  leBytes 8 pc.toNat ++ leBytes 8 tr.addr.toNat ++
  [BitVec.ofNat 8 tr.cause, BitVec.ofNat 8 tr.prio, BitVec.ofNat 8 tr.num, if tr.rstr = some k then 1 else 0] ++
  leBytes 2 (tr.rstr.getD 65535) ++ List.replicate 42 0

/-- A register of a strand read under R61 and R62. -/
def regV (t : Team) (k r : Nat) : V Reg :=
  if r ≥ t.nreg then .bad (trapBound none)
  else
    let x := (t.strand k).reg r
    if x.psn then .bad (trapRegPoison (some k)) else .ok x
/-- A pair of a strand (R62). -/
def pairV (t : Team) (k r : Nat) : V DWord :=
  (V.both (regV t k r) (regV t k (r + 1))).map (fun p => BitVec.ofNat 64 (p.1.val.toNat + 2 ^ 32 * p.2.val.toNat))
/-- A strand with a pair written (R62). -/
def Strand.setPair (x : Strand) (r : Nat) (v : DWord) (tag : BitVec 4) : Strand :=
  (x.set r (word v.toNat) tag).set (r + 1) (word (v.toNat / 2 ^ 32)) tag

/-- Where a handler strand's frame goes: v16:v17 lowered by 64, and the bytes' places (R344 step 4). -/
def frameAt (s : State) (t : Team) (k : Nat) : V (DWord × List Loc) :=
  (pairV t k 16).bind (fun sp =>
    let p := sp - 64
    (locate s (s.ctxOf t) t.core (s.isSup t) Need.wr (some k) p 64).map (fun ls => (p, ls)))

/-- A register whose value is still to come: a reply, or a result of the matrix array (R129, R221). -/
def Team.owes (t : Team) (r : Nat) : Bool := t.pend.contains r || t.mat.any (fun m => decide (m.base ≤ r) && decide (r < m.base + m.span))

/-- What handler entry makes of a team (R344): `hs` its handler strands with their new v16:v17. -/
def Team.enter (t : Team) (hs : List (Nat × DWord)) (a : Activation) (uhnd : Nat) (soft : Bool) : Team :=
  let ks := hs.map (·.1)
  let t := if soft then t.matched else t.noted
  let t := hs.foldl (fun t x => t.setStrand x.1 (fun y => y.setPair 16 x.2 0)) t
  { t with
    strands := t.strands.mapIdx (fun k x => if x.exited then x else { x with ctr := if ks.contains k then 0 else 1 })
    act := some a, sigs := 0, sigd := 0, stepped := false, held := false, status := .run, pc := BitVec.ofNat 48 uhnd
    prod := (t.prod.map (fun p => { p with pre := true, strands := if p.reg = 16 ∨ p.reg = 17 then p.strands.filter (fun k => !ks.contains k) else p.strands })).filter
      (fun p => !p.strands.isEmpty) }

/-- Handler entry (R344), in place of the commit: `pc` and the signature halves saved for `ERET`, `stepped` of the
instruction at `pc`. Every strand's frame is tested before any is written; a fault of one goes to the supervisor. The frames are
plain stores of the team: they wait, and are released, as those are (R66). v16:v17 is read as any register is (R129). -/
def handlerEntry (s : State) (t : Team) (tr : Trap) (act : List Nat) (uhnd : Nat) (pc : BitVec 48)
    (sigs sigd : BitVec 16) (stepped soft : Bool) : State :=
  let hs := if tr.rstr.isNone then t.enabled else act
  if t.owes 16 || t.owes 17 then s.putTeam { t with held := true, since := s.now }
  else match V.all (hs.map (frameAt s t)) with
  | .bad u => superDeliver (noteFlaw s (s.ctxOf t) t.core u) t u act false
  | .ok fs =>
    let xs := (hs.zip fs).map (fun x => (⟨x.1, x.2.2, frameBytes pc tr x.1⟩ : Access))
    let r := releasePrep s t ⟨0, 0, t.pc.toNat / 8 % 256, false⟩ xs
    if !r.2 then r.1.setTeam t.hnd (fun t => { t with held := true, since := s.now })
    else
      let a : Activation := ⟨pc, t.strands.map (·.ctr), sigs, sigd, stepped⟩
      let s := storePlain r.1 t xs
      let s := dropClaims (s.setTeam t.hnd (fun t => t.enter (hs.zip (fs.map (·.1))) a uhnd soft)) t.hnd
      match s.team t.hnd with
      | some t => if t.chk = some 0 then s.later (.checkedOnlyExit t.hnd) else s
      | none => s

/-- Taking a fault or trap (R343): to the user handler when its row names it, the context has one, the team has no
activation and v16:v17; else to the supervisor. `soft`: a `TRAP`, whose own terms are in the saved halves and whose saved
pc is that of the instruction after it (R247, R344). -/
def takeTrap (s : State) (t : Team) (tr : Trap) (act : List Nat) (soft : Bool) (i : Instr) : State :=
  let uh := match s.ctx (s.ctxOf t) with | some c => c.desc.uhnd | none => 0
  let s := noteFlaw { s with told := some tr } (s.ctxOf t) t.core tr
  let s := if tr.cause = 15 then rasWrite s 9 (rasLoc t.core (hndSec t.hnd)) (s.qOf t) (s.ctxOf t) 0 (BitVec.ofNat 64 t.pc.toNat)
    (BitVec.ofNat 64 (((sigxOf i).getD 0).toNat + 65536 * (sigsAt t).toNat)) else s
  if toUser tr.cause && uh != 0 && t.act.isNone && decide (t.nreg ≥ 18) && !s.isSup t then
    (if soft then
      handlerEntry s t tr act uh (t.pc + BitVec.ofNat 48 (byteLength i)) (sigsFold (sigsAt t) (lowWord i))
        (sigdAfter i t t act) true true
     else handlerEntry s t tr act uh t.pc t.sigs t.sigd t.stepped false)
  else superDeliver s t tr act soft

/-- The return from a handler activation (R248, R345): program counter, counters and signature halves as entry saved
them; a strand that has exited since stays so (R43). -/
def Team.unwind (t : Team) (a : Activation) : Team :=
  { t with pc := a.pc, sigs := a.sigs, sigd := a.sigd, act := none,
           strands := (t.strands.zip a.ctrs).map (fun x => if x.1.exited then x.1 else { x.1 with ctr := x.2 }),
           prod := t.prod.filter (fun p => !p.pre) }

/-! ## Running one instruction -/

/-- A cluster lets its teams issue: not gated, not in retention (R375, R376). -/
def clusterRuns (s : State) (core : Nat) : Bool :=
  let c := s.cluster (clusterOf core)
  !c.gated && !c.ret && !c.retaining

/-- The first instruction of a group waits until `stagger` ns after the actual start of the launch's last group on the die (R42). -/
def startReady (s : State) (t : Team) : Bool :=
  match s.grpOf t with
  | none => true
  | some g => g.started || (match s.launch g.launch with
    | none => true
    | some l => match aget (dieOf g.core) l.lastStart with
      | some a => decide (a + l.lr.stagger ≤ s.now)
      | none => true)
/-- The group of a team has started: its first instruction has issued (R42). -/
def noteStart (s : State) (t : Team) : State :=
  match s.grpOf t with
  | none => s
  | some g => if g.started then s
    else (s.setGroup g.id (fun g => { g with started := true })).setLaunch g.launch (fun l => { l with lastStart := aset (dieOf g.core) s.now l.lastStart })
/-- The team may execute an instruction: not stopped, not exited, not about to be saved, not at the end of checked-only mode
(R287), its group's start due, its cluster running; an instruction some of whose strands have acted already goes on there (R376). -/
def canIssue (s : State) (t : Team) : Bool :=
  (match t.status with | .stopped _ => false | _ => true) && !t.done && t.yielded.isNone && t.chk != some 0 && startReady s t && (clusterRuns s t.core || t.rmw.isSome)

/-- `MMAWAIT`, which no locked register keeps from its work (R221). -/
def isMmawait (i : Instr) : Bool := match i with | .mmawait _ => true | _ => false
/-- The encoding that is illegal whatever stands in it (R259). -/
def isIllegal (i : Instr) : Bool := match i with | .illegal _ => true | _ => false
/-- The tests that the fields alone decide: every register below N (R58) and, but for `MMAWAIT`, none locked (R221). -/
def fieldTests (t : Team) (i : Instr) : V Unit :=
  let rs := namedRegs i
  (V.both (V.test (rs.all (· < t.nreg)) (trapBound none))
    (V.test (isMmawait i || rs.all (fun r => !t.lock.contains r)) (trapHazard none))).map (fun _ => ())

/-- Some field names a register that a reply is still to be written to (R129). -/
def waitsReply (t : Team) (i : Instr) : Bool := (namedRegs i).any (fun r => t.pend.contains r)

/-- The live count of a yield point (R128, Table 7-3). -/
def liveCount (t : Team) (h : Hdr) : Nat := min (nth 24 [24, 32, 48, 64, 96, 128, 192, 256] h.hold.toNat) t.nreg

/-- Retirement: both signature halves, the program counter, the check sequence, the producers, the watchdog (R358) and
a yield point with a request pending (R51). `d`: the effect. -/
def retire (c : Run) (d : Done) : State :=
  match d.s.team c.t.hnd with
  | none => d.s
  | some t1 =>
    let sigs := if d.keepSigs then t1.sigs else if isControl c.i then 0 else sigsFold (sigsAt c.t) (lowWord c.i)
    let sigd := if d.keepSigd then t1.sigd else sigdAfter c.i c.t t1 c.act
    let y := (hdrF c.i).y && t1.preq.isSome
    let rs := readsOf c d
    let t2 := { t1.matched with
      sigs := sigs, sigd := sigd, pc := d.jump.getD (c.t.pc + BitVec.ofNat 48 (byteLength c.i)), stepped := d.stepped,
      prod := prodAfter t1 c.i rs d.writes, held := false, since := c.s.now,
      status := match t1.status with | .stopped x => .stopped x | _ => .run,
      yielded := if y then some (liveCount t1 (hdrF c.i), false) else t1.yielded }
    let s := (d.s.putTeam t2).setQueue (d.s.qOf t2) (fun q => { q with wd := 0 })
    let s := if t2.chk = some 0 then s.later (.checkedOnlyExit t2.hnd) else s
    let s := if y then s.later (.yieldPointSave t2.hnd) else s
    if t2.done then s.later (.teamRetire t2.hnd) else s

/-- The outcome of an instruction's body becomes the next state. -/
def finish (c : Run) (r : Res) : State :=
  match r with
  | .trap tr => takeTrap (noteStart c.s c.t) c.t tr c.act false c.i
  | .soft tr => takeTrap (noteStart c.s c.t) c.t tr c.act true c.i
  | .hold s => s.setTeam c.t.hnd (fun t => { t with
      held := true, since := c.s.now,
      yielded := if (hdrF c.i).y && t.preq.isSome && t.rmw.isNone then some (liveCount t (hdrF c.i), false) else t.yielded })
  | .done d =>
    if bitAt c.t.tctl.toNat 3 && tooShort c.t (readsOf c d) then takeTrap (noteStart c.s c.t) c.t trapStall c.act false c.i
    else noteStart (retire c d) c.t

/-- Executes one instruction of the current team. Encoding and privilege come first (R136, R244, R259), for they rank before every
other fault; then the team waits for registers a reply is owed to (R129); then the static signature (R134, R288) and the tests of R58
and R221 with the guards, beside the body's own (R342). An instruction some of whose strands have acted already goes on (R334). -/
def runI (i : Instr) (body : Run → Res) (s : State) : Host.Outcome State Fault Refusal :=
  match s.team s.cur with
  | none => .fault .noTeam
  | some t =>
    let c : Run := ⟨s, t, i, activeOf t (hdrF i)⟩
    if !canIssue s t then .fault .noTeam
    else if t.rmw.isSome then .next (finish c (body c))
    else if isIllegal i || !Instr.WellFormed i then .next (finish c (.trap trapIllegal))
    else if isPriv i && !s.isSup t then .next (finish c (.trap trapPriv))
    else if waitsReply t i then .next (finish c (.hold s))
    else if sigDiffers t i && t.chk.isNone then .next (dropClaims (noteStart (s.putTeam t.mismatch) t) t.hnd)
    else
      let tests := V.both (fieldTests t i) (V.both (guardFaults t (hdrF i)) (V.test (!sigDiffers t i) trapSig))
      .next (finish c ((body c).also (tests.map (fun _ => ()))))

/-- The stall-count test of an instruction that leaves something behind before it retires, made before it does (R130). -/
def Run.stalls (c : Run) (reads : Option (List (Nat × Nat))) : Bool :=
  bitAt c.t.tctl.toNat 3 && tooShort c.t (readsOf c { Done.seq c.s with reads := reads })

end Sys2Proof.Machine
end

