-- ==== Sys2Proof/Machine/Fetch.lean ====
section
/-! DEFINITION. Fetching an instruction (R120, R121, R123) through the instruction cache of the core, which no store and no engine
write changes (R12, R123; log entry 14). -/

namespace Sys2Proof.Machine

/-- What a fetch finds: an instruction, or the fault it raises. -/
inductive Fetched where
  | instr (i : Instr)
  | bad (t : Trap)
  deriving DecidableEq, Repr

/-- Lines of 64 bytes in the instruction cache of a core: 128 KiB (R12). -/
def icacheLines : Nat := 2048

/-- The line of the core's instruction cache that a team may execute from: it was read when the team's group was placed, or later
(R123). -/
def icLine (s : State) (t : Team) (pa : Nat) : Option ILine :=
  let born := match s.grpOf t with | some g => g.born | none => 0
  (s.core t.core).icache.find? (fun x => x.line == pa / 64 && decide (born ≤ x.born))
/-- The bytes of a line as a fetch reads them now: those of the die on a coherent page, those at home on a software-managed one. -/
def lineNow (s : State) (die : Nat) (coh : Nat) (line : Nat) : List Byte :=
  (List.range 64).map (fun i => if coh = 0 then dieByte s die none (line * 64 + i) else s.mem.get (line * 64 + i))
/-- A byte as a fetch of a team reads it. -/
def fetchByte (s : State) (t : Team) (l : Tlb) (va : Nat) : Byte :=
  let pa := l.pa + (va - l.va)
  match icLine s t pa with
  | some x => nth 0 x.bytes (pa % 64)
  | none => if l.coh = 0 then dieByte s (dieOf t.core) none pa else s.mem.get pa

/-- The bytes of the fetch block from an address on (R121). -/
def fetchBytes (s : State) (t : Team) (l : Tlb) (pc : Nat) : List Byte := (List.range (32 - pc % 32)).map (fun i => fetchByte s t l (pc + i))

/-- The instruction in the bytes from pc to the end of its fetch block: none where the word is no instruction, would cross
the block or is a remnant of it, or pc is no multiple of 4 (R120, R121, R136). -/
def blockInstr (pc : Nat) (bs : List Byte) : Option Instr :=
  if pc % 4 ≠ 0 ∨ bs.length < 8 then none else (decode (bs.take 16)).map (·.1)

/-- Fetches the instruction at a team's program counter. -/
def fetchAt (s : State) (t : Team) : Fetched :=
  let pc := t.pc.toNat
  match transFor s (s.ctxOf t) (s.isSup t) Need.fetch pc with
  | .error c => .bad (trapTrans c none (BitVec.ofNat 64 pc))
  | .ok l => match blockInstr pc (fetchBytes s t l pc) with
    | some i => .instr i
    | none => .bad trapIllegal

/-- The line at a team's program counter stands in its core's instruction cache, and its leaf is cached (R350). False: another agent
must give the sector first. The oldest line makes room. -/
def fetchFill (s : State) (t : Team) : State × Bool :=
  match transFor s (s.ctxOf t) (s.isSup t) Need.fetch t.pc.toNat with
  | .error _ => (s, true)
  | .ok l =>
    let pa := l.pa + (t.pc.toNat - l.va)
    let s := cacheLeaf s l
    if (icLine s t pa).isSome then (s, true)
    else
      let die := dieOf t.core
      let r := if l.coh = 0 then acquireRead s die 97 none (pa / 64) else (s, true)
      if !r.2 then (r.1.setTeam t.hnd (fun t => { t with status := .fabric [pa / 64], held := true }), false)
      else
        let x : ILine := ⟨pa / 64, lineNow r.1 die l.coh (pa / 64), r.1.fresh⟩
        let s := if l.coh = 0 then idleSectors (endPeek r.1 die [pa / 64]) die [pa / 64] else r.1
        (s.setCore t.core (fun c =>
          let ls := c.icache.filter (fun y => y.line != x.line) ++ [x]
          { c with icache := ls.drop (ls.length - icacheLines) }), true)

end Sys2Proof.Machine
end

