-- ==== Sys2Proof/Machine/Flags.lean ====
section
/-! DEFINITION. Flags and rounding modes of an instruction: the sticky flags (R65), the effective rounding mode (R66,
R78, R133), the comparison conditions of Tables 8-4 and 9-3. -/

namespace Sys2Proof.Machine

/-- ORs flags into a strand (R65). -/
def Strand.flag (x : Strand) (f : Flags) : Strand := { x with nsr := x.nsr ||| f }

/-- Bits 62:60 of `mod`. -/
def subOf3 (m : BitVec 4) : Nat := m.toNat % 8
/-- Bit 63 of `mod` (R139). -/
def topBit (m : BitVec 4) : Bool := bitAt m.toNat 3
/-- The rounding mode of `%tctl` (Table 4-5). -/
def Team.rm (t : Team) : Nat := t.tctl.toNat % 4
/-- Outlier mode append (Table 4-5). -/
def Team.om (t : Team) : Bool := bitAt t.tctl.toNat 2
/-- The effective rounding mode: the instruction's own field, else `%tctl.rm` (Table 7-11, R78). -/
def modeOf (t : Team) (m : BitVec 4) : Nat := if subOf3 m ≥ 4 then subOf3 m - 4 else t.rm

/-- The conditions of Table 8-4 on the outcome of a comparison. -/
def intCond (sub : Nat) (o : Ordering) : Bool :=
  match sub with
  | 0 => o == .eq
  | 1 => o != .eq
  | 2 => o == .lt
  | 3 => o != .gt
  | 4 => o == .gt
  | _ => o != .lt

/-- A truth value as a register value. -/
def boolWord (b : Bool) : Word := if b then 1 else 0

end Sys2Proof.Machine
end

