-- ==== Sys2Proof/Machine/Operands.lean ====
section
/-! DEFINITION. Operand forms and the frames in which group 0 to 4 instructions read their sources and write their
results: per strand (R138), leader broadcast (R140), and over a whole team. -/

namespace Sys2Proof.Machine

/-- What one strand of an instruction comes to: registers written with value and tag, and flags. -/
structure Out where
  ws : List (Nat × Word × BitVec 4)
  fl : Flags

/-- One register with tag 0. -/
def Out.one (vd : RegField) (v : Word) (fl : Flags) : Out := ⟨[(vd.toNat, v, 0)], fl⟩
/-- One register with a tag. -/
def Out.tagged (vd : RegField) (v : Word) (tag : BitVec 4) (fl : Flags) : Out := ⟨[(vd.toNat, v, tag)], fl⟩
/-- A pair with tag 0 (R150). -/
def Out.pair (vd : RegField) (v : Nat) (fl : Flags) : Out :=
  ⟨[(vd.toNat, word v, 0), (vd.toNat + 1, word (v / 2 ^ 32), 0)], fl⟩

/-- A strand with an outcome written. -/
def Strand.out (x : Strand) (o : Out) : Strand := (o.ws.foldl (fun x w => x.set w.1 w.2.1 w.2.2) x).flag o.fl
/-- A strand with an outcome's registers written and its flags left out. -/
def Strand.outRegs (x : Strand) (o : Out) : Strand := o.ws.foldl (fun x w => x.set w.1 w.2.1 w.2.2) x

/-- The register's value read in a strand (R62). -/
def Run.reg (c : Run) (k : Nat) (r : RegField) : V Word := (regV c.t k r.toNat).map (·.val)
/-- Value and tag read in a strand (R62). -/
def Run.regT (c : Run) (k : Nat) (r : RegField) : V Reg := regV c.t k r.toNat
/-- A pair read in a strand (R62). -/
def Run.pair (c : Run) (k : Nat) (r : RegField) : V DWord := pairV c.t k r.toNat
/-- Source b: a register, or the immediate read in the same way (R138). -/
def Run.src (c : Run) (k : Nat) (b : Src) : V Word := match b with | .reg r => c.reg k r | .imm w => .ok w

/-- The team with each active strand's outcome written (R138). -/
def writeOuts (t : Team) (ks : List Nat) (os : List Out) : Team :=
  (ks.zip os).foldl (fun t x => t.setStrand x.1 (fun y => y.out x.2)) t

/-- Registers written, with the strands they are written in (R130). -/
def wroteIn (ks : List Nat) (os : List Out) : List (Nat × List Nat) :=
  let all := ks.zip os
  (os.foldl (fun l o => o.ws.foldl (fun l w => sadd w.1 l) l) []).map (fun r =>
    (r, (all.filter (fun x => x.2.ws.any (fun w => w.1 == r))).map (·.1)))

/-- The frame of R138: every active strand computes, then all write. -/
def lanes (c : Run) (f : Nat → V Out) : Res :=
  (V.all (c.act.map f)).res (fun os =>
    .done { Done.seq (c.put (writeOuts c.t c.act os)) with writes := wroteIn c.act os })

/-- The sources of the instruction in one strand (R130). -/
def Run.srcIn (c : Run) (k : Nat) : List (Nat × Nat) := (srcRegs c.i).map (fun r => (k, r))

/-- Writes an outcome to every strand of a team, flags to one (R140). -/
def writeEvery (t : Team) (o : Out) (l : Nat) : Team :=
  { t with strands := t.strands.mapIdx (fun k x => let y := x.outRegs o; if k = l then y.flag o.fl else y) }

/-- The leader-broadcast frame of R140, which group 6 and 7 results share (R212, R244). -/
def leaderAll (c : Run) (f : Nat → V Out) : Res :=
  match c.lead with
  | none => .done { Done.seq c.s with reads := some [] }
  | some l => (f l).res (fun o =>
      .done { Done.seq (c.put (writeEvery c.t o l)) with
        reads := some (c.srcIn l), writes := o.ws.map (fun w => (w.1, c.t.all)) })

/-- The frame of a group 0 instruction with a `.U` bit in `mod` (R139). -/
def lanesU (c : Run) (m : BitVec 4) (f : Nat → V Out) : Res := if topBit m then leaderAll c f else lanes c f

/-- One source. -/
def alu1 (a : Alu) (f : Word → Word × Flags) (c : Run) : Res :=
  lanesU c a.m (fun k => (c.reg k a.va).map (fun x => Out.one a.vd (f x).1 (f x).2))
/-- Two sources. -/
def alu2 (a : Alu) (f : Word → Word → Word × Flags) (c : Run) : Res :=
  lanesU c a.m (fun k => (V.both (c.reg k a.va) (c.src k a.b)).map (fun p => Out.one a.vd (f p.1 p.2).1 (f p.1 p.2).2))
/-- Three registers of one strand. -/
def Run.three (c : Run) (k : Nat) (a : Ter) : V (Word × Word × Word) := V.both (c.reg k a.va) (V.both (c.reg k a.vb) (c.reg k a.vc))
/-- Three sources. -/
def alu3 (a : Ter) (f : Word → Word → Word → Word × Flags) (c : Run) : Res :=
  lanesU c a.m (fun k => (c.three k a).map (fun p => Out.one a.vd (f p.1 p.2.1 p.2.2).1 (f p.1 p.2.1 p.2.2).2))
/-- Two pairs to a pair. -/
def alu64 (a : Alu) (f : Nat → Nat → Nat) (c : Run) : Res :=
  lanesU c a.m (fun k => (V.both (c.pair k a.va) (c.pair k (srcField a.b))).map (fun p => Out.pair a.vd (f p.1.toNat p.2.toNat) 0))
/-- Two registers to a pair. -/
def aluWide (a : Alu) (f : Nat → Nat → Nat) (c : Run) : Res :=
  lanesU c a.m (fun k => (V.both (c.reg k a.va) (c.reg k (srcField a.b))).map (fun p => Out.pair a.vd (f p.1.toNat p.2.toNat) 0))
/-- A pair and a register or immediate to a pair. -/
def aluShift64 (a : Alu) (f : Nat → Nat → Nat) (c : Run) : Res :=
  lanesU c a.m (fun k => (V.both (c.pair k a.va) (c.src k a.b)).map (fun p => Out.pair a.vd (f p.1.toNat p.2.toNat) 0))
/-- Two pairs compared into a register. -/
def aluCmp64 (a : Alu) (f : Nat → Nat → Ordering) (c : Run) : Res :=
  lanesU c a.m (fun k => (V.both (c.pair k a.va) (c.pair k (srcField a.b))).map (fun p =>
    Out.one a.vd (boolWord (intCond (subOf3 a.m) (f p.1.toNat p.2.toNat))) 0))

end Sys2Proof.Machine
end

