-- ==== Sys2Proof/Machine/Special.lean ====
section
/-! DEFINITION. Division, square root and the special functions of R80 and Table 5-5, correctly rounded. Quotients and
roots keep a sticky bit. A transcendental value is enclosed between two bounds that are computed in whole numbers; the
bounds are narrowed until both round alike. No such value is itself representable outside the cases taken apart first,
so the rounding of the bounds is that of the exact value, flags included. -/

namespace Sys2Proof.Machine

/-- n, with a bit below it that is 1 when something was cut: rounds as the exact value does. -/
def stickyFV (neg : Bool) (n : Nat) (cut : Bool) (e : Int) : FV := .fin neg (2 * n + (if cut then 1 else 0)) (e - 1)

/-- The quotient of two finite non-zero values, to 120 bits and a sticky bit. -/
def quotFV (neg : Bool) (m : Nat) (e : Int) (n : Nat) (f : Int) : FV :=
  stickyFV neg (m * 2 ^ 120 / n) (m * 2 ^ 120 % n ≠ 0) (e - f - 120)

/-- A square root, to more than 100 bits and a sticky bit. -/
def sqrtFV (m : Nat) (e : Int) : FV :=
  let (m, e) := if e % 2 = 0 then (m, e) else (2 * m, e - 1)
  let x := m * 2 ^ 240
  let r := Nat.sqrt x
  stickyFV false r (r * r ≠ x) (e / 2 - 120)

/-- The reciprocal of a square root, with a sticky bit. -/
def rsqrtFV (m : Nat) (e : Int) : FV :=
  let (m, e) := if e % 2 = 0 then (m, e) else (2 * m, e - 1)
  let r := Nat.sqrt (2 ^ 200 / m)
  stickyFV false r (r * r * m ≠ 2 ^ 200) (-100 - e / 2)

/-- Division (Table 5-5 and R80). -/
def Fmt.div (f : Fmt) (mode x y : Nat) : Nat × Flags :=
  let a := f.dec x
  let b := f.dec y
  let neg := a.neg != b.neg
  match a, b with
  | .nan s, b => (f.qnan, flIf (s || b.isSnan) flNv)
  | _, .nan s => (f.qnan, flIf s flNv)
  | .inf _, .inf _ => (f.qnan, flNv)
  | .inf _, .fin _ _ _ => (f.infEnc neg, flNone)
  | .fin _ _ _, .inf _ => (f.sgn neg, flNone)
  | .fin _ m e, .fin _ n g =>
    if n = 0 then (if m = 0 then (f.qnan, flNv) else (f.infEnc neg, flDz))
    else if m = 0 then (f.sgn neg, flNone)
    else f.round mode (quotFV neg m e n g)

/-- Square root (Table 5-5 and R80). -/
def Fmt.sqrt (f : Fmt) (mode x : Nat) : Nat × Flags :=
  match f.dec x with
  | .nan s => (f.qnan, flIf s flNv)
  | .inf true => (f.qnan, flNv)
  | .inf false => (x, flNone)
  | .fin neg m e => if m = 0 then (x, flNone) else if neg then (f.qnan, flNv) else f.round mode (sqrtFV m e)

/-! ## Constants and series in fixed point: a value v stands for v / 2^p -/

/-- Σ over odd j of (±1)^i / (j × b^j), by terms. -/
def oddSeries (alt : Bool) (p b : Nat) : Int :=
  ((List.range (p + 4)).foldl (fun (a : Int × Nat) i =>
    let t : Int := (a.2 / (2 * i + 1) : Nat)
    (if alt && i % 2 == 1 then a.1 - t else a.1 + t, a.2 / (b * b))) ((0 : Int), 2 ^ p / b)).1
/-- π. -/
def piFix (p : Nat) : Int := 16 * oddSeries true p 5 - 4 * oddSeries true p 239
/-- ln 2. -/
def ln2Fix (p : Nat) : Int := 2 * oddSeries false p 3
/-- e^y for 0 ≤ y < 1. -/
def expFix (p : Nat) (y : Int) : Int :=
  ((List.range (p + 4)).foldl (fun (a : Int × Int) i => (a.1 + a.2, a.2 * y / (2 ^ p : Nat) / ((i : Int) + 1)))
    ((0 : Int), ((2 ^ p : Nat) : Int))).1
/-- ln s for s near 1, from z = (s − 1) / (s + 1). -/
def lnFix (p : Nat) (z : Int) : Int :=
  let zz := z * z / (2 ^ p : Nat)
  2 * ((List.range (p + 4)).foldl (fun (a : Int × Int) i => (a.1 + a.2 / (2 * (i : Int) + 1), a.2 * zz / (2 ^ p : Nat)))
    ((0 : Int), z)).1
/-- sin(πt) / t, for t² given. -/
def sinFix (p : Nat) (t2 : Int) : Int :=
  let pi := piFix p
  let k := pi * pi / (2 ^ p : Nat) * t2 / (2 ^ p : Nat)
  ((List.range (p + 4)).foldl (fun (a : Int × Int) i =>
    (a.1 + a.2, -(a.2 * k / (2 ^ p : Nat) / ((2 * (i : Int) + 2) * (2 * i + 3))))) ((0 : Int), pi)).1

/-- What bounds a value: the two bounds' signed significands and their exponent. -/
abbrev Bounds := Int × Int × Int
/-- Bounds around an approximation that is off by less than 2^24 units. -/
def around (v : Int) (e : Int) : Bounds := (v - 16777216, v + 16777216, e)
/-- A bound as a value. -/
def intExp (v e : Int) : FV := .fin (decide (v < 0)) v.natAbs e
/-- The first precision at which both bounds round alike decides. -/
def roundAlike (b : Nat → Bounds) : List Nat → Nat × Flags
  | [] => Fmt.f32.round 0 (.fin false 0 0)
  | p :: ps =>
    let x := b p
    let lo := Fmt.f32.round 0 (intExp x.1 x.2.2)
    let hi := Fmt.f32.round 0 (intExp x.2.1 x.2.2)
    if lo = hi ∨ ps = [] then lo else roundAlike b ps
/-- Precisions tried. -/
def precisions : List Nat := [128, 512]

/-- 2^x for a finite non-zero x. -/
def exp2Fin (neg : Bool) (m : Nat) (e : Int) : Nat × Flags :=
  let t := topExp m e
  if t ≥ 8 then Fmt.f32.round 0 (.fin false 1 (if neg then -152 else 128))
  else if t < -26 then Fmt.f32.round 0 (.fin false (if neg then 2 ^ 30 - 1 else 2 ^ 30 + 1) (-30))
  else
    let v : Int := if neg then -(m : Int) else m
    let k : Int := if e ≥ 0 then v * (2 ^ e.toNat : Nat) else v / (2 ^ (-e).toNat : Nat)
    let r : Int := if e ≥ 0 then 0 else v % (2 ^ (-e).toNat : Nat)
    if r = 0 then Fmt.f32.round 0 (.fin false 1 k)
    else if k ≥ 128 then Fmt.f32.round 0 (.fin false 1 128)
    else roundAlike (fun p =>
      let y := ln2Fix p * r / (2 ^ (-e).toNat : Nat)
      around (expFix p y) (k - p)) precisions

/-- log2 x for a finite positive x. -/
def log2Fin (m : Nat) (e : Int) : Nat × Flags :=
  let j := Nat.log2 m
  if m = 2 ^ j then Fmt.f32.round 0 (intFV (j + e))
  else
    let (d, k) := if 2 * m > 3 * 2 ^ j then (2 ^ (j + 1), (j : Int) + e + 1) else (2 ^ j, (j : Int) + e)
    roundAlike (fun p =>
      let z : Int := ((m : Int) - d) * (2 ^ p : Nat) / ((m : Int) + d)
      around (k * (2 ^ p : Nat) + lnFix p z * (2 ^ p : Nat) / ln2Fix p) (-p)) precisions

/-- sin(πn/d) for 0 < n < d/2. -/
def sinRat (neg : Bool) (n d : Nat) (e : Int) : Nat × Flags :=
  roundAlike (fun p =>
    let s := sinFix p (n * n * 2 ^ p / (d * d) : Nat)
    let lo := (s - 16777216) * n
    let hi := (s + 16777216) * n
    if neg then (-hi, -lo, e - p) else (lo, hi, e - p)) precisions

/-- sin(πx) for a finite non-zero x. -/
def sinpiFin (neg : Bool) (m : Nat) (e : Int) : Nat × Flags :=
  let d := 2 ^ (-e).toNat
  if e ≥ 0 ∨ m % d = 0 then Fmt.f32.round 0 (.fin neg 0 0)
  else
    let y := m % (2 * d)
    let (neg, y) := if y > d then (!neg, y - d) else (neg, y)
    let y := if 2 * y > d then d - y else y
    if 2 * y = d then Fmt.f32.round 0 (.fin neg 1 0) else sinRat neg y d e

/-- cos(πx) for a finite non-zero x. -/
def cospiFin (m : Nat) (e : Int) : Nat × Flags :=
  if e > 0 then Fmt.f32.round 0 (.fin false 1 0)
  else
    let d := 2 ^ (-e).toNat
    let y := m % (2 * d)
    let y := if y > d then 2 * d - y else y
    let (neg, y) := if 2 * y > d then (true, d - y) else (false, y)
    if 2 * y = d then Fmt.f32.round 0 (.fin false 0 0)
    else if y = 0 then Fmt.f32.round 0 (.fin neg 1 0)
    else if y * 2 ^ 14 < d then Fmt.f32.round 0 (.fin neg (2 ^ 30 - 1) (-30))
    else sinRat neg (d - 2 * y) (2 * d) (e - 1)

/-- tanh x for a finite non-zero x. -/
def tanhFin (neg : Bool) (m : Nat) (e : Int) : Nat × Flags :=
  let t := topExp m e
  if t ≥ 4 then Fmt.f32.round 0 (.fin neg (2 ^ 40 - 1) (-40))
  else if t < -13 then
    let k := (-2 * e + 1).toNat
    Fmt.f32.round 0 (.fin neg (m * (2 ^ k - m * m)) (e - k))
  else roundAlike (fun p =>
    let y : Int := if e ≥ 0 then (m * 2 ^ e.toNat * 2 ^ p / 32 : Nat) else (m * 2 ^ p / (32 * 2 ^ (-e).toNat) : Nat)
    let x := (List.range 6).foldl (fun (x : Int) _ => x * x / ((2 ^ p : Nat) : Int)) (expFix p y)
    let o : Int := (2 ^ p : Nat)
    let v := (x - o) * o / (x + o)
    around (if neg then -v else v) (-p)) precisions

/-- The frame of a one-source function: the NaN rule, then the row's own cases. -/
def funOf (f : FV → Nat × Flags) (x : Nat) : Nat × Flags :=
  match Fmt.f32.dec x with
  | .nan s => (Fmt.f32.qnan, flIf s flNv)
  | v => f v

/-- `FRCP`. -/
def frcpN : Nat → Nat × Flags := funOf (fun v => match v with
  | .fin neg m e => if m = 0 then (Fmt.f32.infEnc neg, flDz) else Fmt.f32.round 0 (quotFV neg 1 0 m e)
  | x => (Fmt.f32.sgn x.neg, flNone))
/-- `FRSQ`. -/
def frsqN : Nat → Nat × Flags := funOf (fun v => match v with
  | .fin neg m e =>
    if m = 0 then (Fmt.f32.infEnc neg, flDz) else if neg then (Fmt.f32.qnan, flNv) else Fmt.f32.round 0 (rsqrtFV m e)
  | x => if x.neg then (Fmt.f32.qnan, flNv) else (0, flNone))
/-- `FEXP2`. -/
def fexp2N : Nat → Nat × Flags := funOf (fun v => match v with
  | .fin neg m e => if m = 0 then (0x3f800000, flNone) else exp2Fin neg m e
  | x => if x.neg then (0, flNone) else (Fmt.f32.infEnc false, flNone))
/-- `FLOG2`. -/
def flog2N : Nat → Nat × Flags := funOf (fun v => match v with
  | .fin neg m e => if m = 0 then (Fmt.f32.infEnc true, flDz) else if neg then (Fmt.f32.qnan, flNv) else log2Fin m e
  | x => if x.neg then (Fmt.f32.qnan, flNv) else (Fmt.f32.infEnc false, flNone))
/-- `FSINPI`. -/
def fsinpiN : Nat → Nat × Flags := funOf (fun v => match v with
  | .fin neg m e => if m = 0 then (Fmt.f32.sgn neg, flNone) else sinpiFin neg m e
  | _ => (Fmt.f32.qnan, flNv))
/-- `FCOSPI`. -/
def fcospiN : Nat → Nat × Flags := funOf (fun v => match v with
  | .fin _ m e => if m = 0 then (0x3f800000, flNone) else cospiFin m e
  | _ => (Fmt.f32.qnan, flNv))
/-- `FTANH`. -/
def ftanhN : Nat → Nat × Flags := funOf (fun v => match v with
  | .fin neg m e => if m = 0 then (Fmt.f32.sgn neg, flNone) else tanhFin neg m e
  | x => (Fmt.f32.round 0 (.fin x.neg 1 0)))

end Sys2Proof.Machine
end

