-- ==== Sys2Proof/Machine/Float.lean ====
section
/-! DEFINITION. Group 2: FP32 and FP64 arithmetic, the special functions and the scalar conversions (R164 to R171). -/

namespace Sys2Proof.Machine

/-- A number and flags as a register's value. -/
def asWord (r : Nat × Flags) : Word × Flags := (word r.1, r.2)

/-- A conversion or function of one register to one, under the effective mode. -/
def fp1 (a : Alu) (f : Nat → Nat → Nat × Flags) (c : Run) : Res := alu1 a (fun x => asWord (f (modeOf c.t a.m) x.toNat)) c
/-- Two registers to one. -/
def fp2 (a : Alu) (f : Nat → Nat → Nat → Nat × Flags) (c : Run) : Res :=
  alu2 a (fun x y => asWord (f (modeOf c.t a.m) x.toNat y.toNat)) c
/-- One pair to a pair. -/
def dp1 (a : Alu) (f : Nat → Nat → Nat × Flags) (c : Run) : Res :=
  lanesU c a.m (fun k => (c.pair k a.va).map (fun x =>
    let r := f (modeOf c.t a.m) x.toNat
    Out.pair a.vd r.1 r.2))
/-- Two pairs to a pair. -/
def dp2 (a : Alu) (f : Nat → Nat → Nat → Nat × Flags) (c : Run) : Res :=
  lanesU c a.m (fun k => (V.both (c.pair k a.va) (c.pair k (srcField a.b))).map (fun p =>
    let r := f (modeOf c.t a.m) p.1.toNat p.2.toNat
    Out.pair a.vd r.1 r.2))

/-- The conditions of Table 9-3 on an outcome. -/
def floatCond (cc : Nat) (o : Option Ordering) : Bool :=
  match cc, o with
  | 0, o => o == some .eq
  | 1, o => o != some .eq
  | 2, o => o == some .lt
  | 3, o => o == some .lt || o == some .eq
  | 4, o => o == some .gt
  | 5, o => o == some .gt || o == some .eq
  | 6, o => o == none
  | _, o => o != none

/-- A comparison (R167): whether it holds, and `nv`. -/
def floatCmp (cc : Nat) (a b : FV) : Bool × Flags :=
  (floatCond cc (a.cmp b),
   flIf (a.isSnan || b.isSnan || ((a.isNan || b.isNan) && decide (2 ≤ cc) && decide (cc ≤ 5))) flNv)

/-- The class word of an FP32 encoding (Table 9-4). -/
def classWord (x : Nat) : Word :=
  match Fmt.f32.dec x with
  | .nan s => if s then 0x100 else 0x200
  | .inf n => if n then 0x1 else 0x80
  | .fin n m _ =>
    if m = 0 then (if n then 0x8 else 0x10)
    else if bits x 23 8 = 0 then (if n then 0x4 else 0x20)
    else (if n then 0x2 else 0x40)

/-- `FRND` and `DRND`. -/
def Fmt.toIntegral (f : Fmt) (mode x : Nat) : Nat × Flags :=
  match f.dec x with
  | .nan s => (f.qnan, flIf s flNv)
  | .inf _ => (x, flNone)
  | .fin neg m e =>
    if m = 0 then (x, flNone)
    else
      let r := roundInt mode neg m e
      ((f.round mode (.fin neg r.1.natAbs 0)).1, flIf r.2 flNx)

/-- `FSCALE`: a shift of 1,000 or more in either direction leaves every FP32 value past the format's ends. -/
def fscaleN (mode x : Nat) (n : Int) : Nat × Flags :=
  match Fmt.f32.dec x with
  | .nan s => (Fmt.f32.qnan, flIf s flNv)
  | .inf _ => (x, flNone)
  | .fin neg m e => Fmt.f32.round mode (.fin neg m (e + max (-1000) (min 1000 n)))

/-- One format to another with rounding (Table 5-10). -/
def fmtConv (f g : Fmt) (mode x : Nat) : Nat × Flags := g.fin mode (f.dec x) (f.dec x).isSnan

/-- FADD (R166). -/
def execFadd (a : Alu) (s : State) := runI (.fadd a) (fp2 a Fmt.f32.add) s
/-- FSUB (R166). -/
def execFsub (a : Alu) (s : State) := runI (.fsub a) (fp2 a Fmt.f32.sub) s
/-- FMUL (R166). -/
def execFmul (a : Alu) (s : State) := runI (.fmul a) (fp2 a Fmt.f32.mul) s
/-- FFMA (R166). -/
def execFfma (a : Ter) (s : State) :=
  runI (.ffma a) (fun c => alu3 a (fun x y z => asWord (Fmt.f32.fma (modeOf c.t a.m) x.toNat y.toNat z.toNat)) c) s
/-- FMIN (R166). -/
def execFmin (a : Alu) (s : State) := runI (.fmin a) (fp2 a (fun _ => Fmt.f32.minmax false)) s
/-- FMAX (R166). -/
def execFmax (a : Alu) (s : State) := runI (.fmax a) (fp2 a (fun _ => Fmt.f32.minmax true)) s
/-- FCMP (R167). -/
def execFcmp (a : Alu) (s : State) :=
  runI (.fcmp a) (alu2 a (fun x y =>
    let r := floatCmp (subOf3 a.m) (Fmt.f32.dec x.toNat) (Fmt.f32.dec y.toNat)
    (boolWord r.1, r.2))) s
/-- FCLASS (R168). -/
def execFclass (a : Alu) (s : State) := runI (.fclass a) (alu1 a (fun x => (classWord x.toNat, 0))) s
/-- FRND (R166). -/
def execFrnd (a : Alu) (s : State) := runI (.frnd a) (fp1 a Fmt.f32.toIntegral) s
/-- FDIV (R169): RNE. -/
def execFdiv (a : Alu) (s : State) := runI (.fdiv a) (fp2 a (fun _ => Fmt.f32.div 0)) s
/-- FSQRT (R169). -/
def execFsqrt (a : Alu) (s : State) := runI (.fsqrt a) (fp1 a (fun _ => Fmt.f32.sqrt 0)) s
/-- FRCP (R169). -/
def execFrcp (a : Alu) (s : State) := runI (.frcp a) (fp1 a (fun _ => frcpN)) s
/-- FRSQ (R169). -/
def execFrsq (a : Alu) (s : State) := runI (.frsq a) (fp1 a (fun _ => frsqN)) s
/-- FEXP2 (R169). -/
def execFexp2 (a : Alu) (s : State) := runI (.fexp2 a) (fp1 a (fun _ => fexp2N)) s
/-- FLOG2 (R169). -/
def execFlog2 (a : Alu) (s : State) := runI (.flog2 a) (fp1 a (fun _ => flog2N)) s
/-- FSINPI (R169). -/
def execFsinpi (a : Alu) (s : State) := runI (.fsinpi a) (fp1 a (fun _ => fsinpiN)) s
/-- FCOSPI (R169). -/
def execFcospi (a : Alu) (s : State) := runI (.fcospi a) (fp1 a (fun _ => fcospiN)) s
/-- FTANH (R169). -/
def execFtanh (a : Alu) (s : State) := runI (.ftanh a) (fp1 a (fun _ => ftanhN)) s
/-- FSCALE (R166). -/
def execFscale (a : Alu) (s : State) :=
  runI (.fscale a) (fun c => alu2 a (fun x y => asWord (fscaleN (modeOf c.t a.m) x.toNat y.toInt)) c) s
/-- FCOPYS (R166). -/
def execFcopys (a : Alu) (s : State) :=
  runI (.fcopys a) (alu2 a (fun x y => ((y &&& 0x80000000) ||| (x &&& 0x7fffffff), 0))) s
/-- DADD (R170). -/
def execDadd (a : Alu) (s : State) := runI (.dadd a) (dp2 a Fmt.f64.add) s
/-- DSUB (R170). -/
def execDsub (a : Alu) (s : State) := runI (.dsub a) (dp2 a Fmt.f64.sub) s
/-- DMUL (R170). -/
def execDmul (a : Alu) (s : State) := runI (.dmul a) (dp2 a Fmt.f64.mul) s
/-- DFMA (R170). -/
def execDfma (a : Ter) (s : State) :=
  runI (.dfma a) (fun c => lanesU c a.m (fun k => (V.both (c.pair k a.va) (V.both (c.pair k a.vb) (c.pair k a.vc))).map (fun p =>
    let r := Fmt.f64.fma (modeOf c.t a.m) p.1.toNat p.2.1.toNat p.2.2.toNat
    Out.pair a.vd r.1 r.2))) s
/-- DMIN (R170). -/
def execDmin (a : Alu) (s : State) := runI (.dmin a) (dp2 a (fun _ => Fmt.f64.minmax false)) s
/-- DMAX (R170). -/
def execDmax (a : Alu) (s : State) := runI (.dmax a) (dp2 a (fun _ => Fmt.f64.minmax true)) s
/-- DCMP (R170). -/
def execDcmp (a : Alu) (s : State) :=
  runI (.dcmp a) (fun c => lanesU c a.m (fun k => (V.both (c.pair k a.va) (c.pair k (srcField a.b))).map (fun p =>
    let r := floatCmp (subOf3 a.m) (Fmt.f64.dec p.1.toNat) (Fmt.f64.dec p.2.toNat)
    Out.one a.vd (boolWord r.1) r.2))) s
/-- DDIV (R170, R80): the effective mode. -/
def execDdiv (a : Alu) (s : State) := runI (.ddiv a) (dp2 a Fmt.f64.div) s
/-- DSQRT (R170, R80). -/
def execDsqrt (a : Alu) (s : State) := runI (.dsqrt a) (dp1 a Fmt.f64.sqrt) s
/-- DRND (R170). -/
def execDrnd (a : Alu) (s : State) := runI (.drnd a) (dp1 a Fmt.f64.toIntegral) s

/-- The scalar conversions take no `.U` (R171): one strand's outcome in each active strand. -/
def conv1 (a : Alu) (f : Nat → Nat → Out) (c : Run) : Res :=
  lanes c (fun k => (c.reg k a.va).map (fun x => f (modeOf c.t a.m) x.toNat))
/-- The same from a pair. -/
def convD (a : Alu) (f : Nat → Nat → Out) (c : Run) : Res :=
  lanes c (fun k => (c.pair k a.va).map (fun x => f (modeOf c.t a.m) x.toNat))
/-- A result in one register. -/
def outW (vd : RegField) (r : Nat × Flags) : Out := Out.one vd (word r.1) r.2
/-- A result in a pair. -/
def outD (vd : RegField) (r : Nat × Flags) : Out := Out.pair vd r.1 r.2
/-- An integer as an exact value: unsigned when `z`. -/
def intVal (z : Bool) (x w : Nat) : FV := intFV (if z then (x : Int) else sint x w)

/-- FCVTI (R171). -/
def execFcvti (a : Alu) (s : State) :=
  runI (.fcvti a) (conv1 a (fun m x => outW a.vd (fvToInt m (!topBit a.m) 32 (Fmt.f32.dec x)))) s
/-- ICVTF (R171). -/
def execIcvtf (a : Alu) (s : State) := runI (.icvtf a) (conv1 a (fun m x => outW a.vd (Fmt.f32.round m (intVal (topBit a.m) x 32)))) s
/-- DCVTF (R171). -/
def execDcvtf (a : Alu) (s : State) := runI (.dcvtf a) (convD a (fun m x => outW a.vd (fmtConv Fmt.f64 Fmt.f32 m x))) s
/-- FCVTD (R171): exact. -/
def execFcvtd (a : Alu) (s : State) := runI (.fcvtd a) (conv1 a (fun m x => outD a.vd (fmtConv Fmt.f32 Fmt.f64 m x))) s
/-- DCVTL (R171). -/
def execDcvtl (a : Alu) (s : State) :=
  runI (.dcvtl a) (convD a (fun m x => outD a.vd (fvToInt m (!topBit a.m) 64 (Fmt.f64.dec x)))) s
/-- LCVTD (R171). -/
def execLcvtd (a : Alu) (s : State) := runI (.lcvtd a) (convD a (fun m x => outD a.vd (Fmt.f64.round m (intVal (topBit a.m) x 64)))) s

end Sys2Proof.Machine
end

