-- ==== Sys2Proof/Machine/Packed.lean ====
section
/-! DEFINITION. Group 3 but for the conversions and pairing blocks: packed arithmetic (R172 to R175), element access and
tags (R176). -/

namespace Sys2Proof.Machine

/-- Element width of a tag (Table 5-1); a tag 0 register is one element of 32 bits (R185). -/
def eltW (t : Nat) : Nat := nth 32 [32, 16, 16, 16, 16, 8, 8, 8, 8, 6, 6, 4, 4, 8, 6, 4] t
/-- Elements per register of a tag (Table 5-1). -/
def eltN (t : Nat) : Nat := nth 1 [1, 2, 2, 2, 2, 4, 4, 4, 4, 5, 5, 8, 8, 4, 5, 8] t
/-- Element i of a register (R72). -/
def elt (t x i : Nat) : Nat := bits x (eltW t * i) (eltW t)
/-- Elements laid out in a register (R72). -/
def packElts (w : Nat) : List Nat → Nat
  | [] => 0
  | e :: es => e % 2 ^ w + 2 ^ w * packElts w es
/-- The element format of a floating tag (Table 4-2). -/
def tagFmt (t : Nat) : Option Fmt :=
  match t with
  | 1 => some Fmt.bf16
  | 2 => some Fmt.f16
  | 5 => some Fmt.e4m3
  | 6 => some Fmt.e5m2
  | _ => none
/-- Signed integer tags. -/
def tagSigned (t : Nat) : Bool := t ∈ [3, 7, 9, 11]
/-- An integer element's value under its tag. -/
def eltInt (t x : Nat) : Int := if tagSigned t then sint x (eltW t) else x
/-- An exact integer saturated to w bits, signed or not (R71). -/
def satTo (signed : Bool) (w : Nat) (v : Int) : Nat × Flags :=
  let r := if signed then satS v w else satZ v w
  (wrap r w, flIf (r ≠ v) flSat)
/-- An exact integer saturated to an element of a tag (R172). -/
def satElt (t : Nat) (v : Int) : Nat × Flags := satTo (tagSigned t) (eltW t) v
/-- Tags 1 to 12. -/
def tags12 : List Nat := [1, 2, 3, 4, 5, 6, 7, 8, 9, 10, 11, 12]

/-- T, the packed sources and the scalar ones of a strand (R172): every read first, then the tag test. -/
def packedIn (c : Run) (k : Nat) (tags : List Nat) (ps : List RegField) (ss : List Src) : V (Nat × List Nat × List Nat) :=
  (V.both (V.all (ps.map (c.regT k))) (V.all (ss.map (c.src k)))).bind (fun r =>
    let t := match r.1 with | x :: _ => x.tag.toNat | [] => 0
    if tags.contains t && r.1.all (fun x => x.tag.toNat == t) then
      .ok (t, r.1.map (·.val.toNat), r.2.map (·.toNat))
    else .bad (trapTag (some k)))

/-- Elements with their flags gathered into one outcome. -/
def eltOut (vd : RegField) (w : Nat) (es : List (Nat × Flags)) (tag : Nat) : Out :=
  Out.tagged vd (word (packElts w (es.map (·.1)))) (BitVec.ofNat 4 tag) (es.foldl (fun f e => f ||| e.2) 0)

/-- The frame of R172: `f` gives element i's result from T and the sources' words. -/
def packFrame (m : BitVec 4) (vd : RegField) (tags : List Nat) (ps : List RegField) (ss : List Src)
    (f : Nat → List Nat → List Nat → Nat → Nat × Flags) (res : Nat → Nat) (c : Run) : Res :=
  lanesU c m (fun k => (packedIn c k tags ps ss).map (fun x =>
    eltOut vd (eltW x.1) ((List.range (eltN x.1)).map (f x.1 x.2.1 x.2.2)) (res x.1)))

/-- An element-wise operation by tag kind: `ff` on floating elements, `fi` exact on integers and then saturated. -/
def eltWise (ff : Fmt → List Nat → Nat × Flags) (fi : List Int → Int) (t : Nat) (ws : List Nat) (i : Nat) : Nat × Flags :=
  let es := ws.map (fun w => elt t w i)
  match tagFmt t with
  | some f => ff f es
  | none => satElt t (fi (es.map (eltInt t)))

/-- A row of Table 9-7. -/
def packRow (m : BitVec 4) (vd : RegField) (ps : List RegField) (ff : Fmt → Nat → List Nat → Nat × Flags)
    (fi : List Int → Int) (c : Run) : Res :=
  packFrame m vd tags12 ps [] (fun t ws _ i => eltWise (fun f es => ff f (modeOf c.t m) es) fi t ws i) id c

/-- The n-th of a list of elements. -/
def en (es : List Nat) (i : Nat) : Nat := nth 0 es i
/-- The n-th of a list of integers. -/
def ei (es : List Int) (i : Nat) : Int := nth 0 es i

/-- PADD (R172). -/
def execPadd (a : Alu) (s : State) :=
  runI (.padd a) (packRow a.m a.vd [a.va, srcField a.b] (fun f md es => f.add md (en es 0) (en es 1)) (fun v => ei v 0 + ei v 1)) s
/-- PSUB (R172). -/
def execPsub (a : Alu) (s : State) :=
  runI (.psub a) (packRow a.m a.vd [a.va, srcField a.b] (fun f md es => f.sub md (en es 0) (en es 1)) (fun v => ei v 0 - ei v 1)) s
/-- PMUL (R172). -/
def execPmul (a : Alu) (s : State) :=
  runI (.pmul a) (packRow a.m a.vd [a.va, srcField a.b] (fun f md es => f.mul md (en es 0) (en es 1)) (fun v => ei v 0 * ei v 1)) s
/-- PFMA (R172). -/
def execPfma (a : Ter) (s : State) :=
  runI (.pfma a) (packRow a.m a.vd [a.va, a.vb, a.vc] (fun f md es => f.fma md (en es 0) (en es 1) (en es 2))
    (fun v => ei v 0 * ei v 1 + ei v 2)) s
/-- PMIN (R172). -/
def execPmin (a : Alu) (s : State) :=
  runI (.pmin a) (packRow a.m a.vd [a.va, srcField a.b] (fun f _ es => f.minmax false (en es 0) (en es 1)) (fun v => min (ei v 0) (ei v 1))) s
/-- PMAX (R172). -/
def execPmax (a : Alu) (s : State) :=
  runI (.pmax a) (packRow a.m a.vd [a.va, srcField a.b] (fun f _ es => f.minmax true (en es 0) (en es 1)) (fun v => max (ei v 0) (ei v 1))) s
/-- PABS (R172). -/
def execPabs (a : Alu) (s : State) :=
  runI (.pabs a) (packRow a.m a.vd [a.va] (fun f _ es => (en es 0 % 2 ^ (f.width - 1), 0)) (fun v => (ei v 0).natAbs)) s
/-- PCLAMP (R172). -/
def execPclamp (a : Ter) (s : State) :=
  runI (.pclamp a) (packRow a.m a.vd [a.va, a.vb, a.vc]
    (fun f _ es =>
      let x := f.minmax true (en es 0) (en es 1)
      let y := f.minmax false x.1 (en es 2)
      (if (f.dec (en es 1)).cmp (f.dec (en es 2)) = some .gt then en es 2 else y.1, x.2 ||| y.2))
    (fun v => if ei v 1 > ei v 2 then ei v 2 else min (max (ei v 0) (ei v 1)) (ei v 2))) s

/-- The unsigned tag of an element width (R173). -/
def maskTag (t : Nat) : Nat := match eltW t with | 16 => 4 | 8 => 8 | 6 => 10 | _ => 12
/-- PCMP (R173). -/
def execPcmp (a : Alu) (s : State) :=
  runI (.pcmp a) (packFrame a.m a.vd tags12 [a.va, srcField a.b] [] (fun t ws _ i =>
    let x := elt t (en ws 0) i
    let y := elt t (en ws 1) i
    let r := match tagFmt t with
      | some f => floatCmp (subOf3 a.m) (f.dec x) (f.dec y)
      | none => (floatCond (subOf3 a.m) (some (compare (eltInt t x) (eltInt t y))), 0)
    (if r.1 then 2 ^ eltW t - 1 else 0, r.2)) maskTag) s
/-- PSEL (R173). -/
def execPsel (a : Ter) (s : State) :=
  runI (.psel a) (packFrame a.m a.vd tags12 [a.va, a.vb] [.reg a.vc] (fun t ws ss i =>
    (elt t (if bitAt (elt t (en ss 0) i) (eltW t - 1) then en ws 0 else en ws 1) i, 0)) id) s

/-- The dot products of R174: n elements of tag T with a 32-bit accumulator. -/
def dotW (mode t a b c : Nat) : Word × Flags :=
  let ix := List.range (eltN t)
  match tagFmt t with
  | some f =>
    let xs := ix.map (fun i => f.dec (elt t a i))
    let ys := ix.map (fun i => f.dec (elt t b i))
    let acc := Fmt.f32.dec c
    let ts := acc :: (xs.zip ys).map (fun p => p.1.mul p.2)
    asWord (Fmt.f32.fin mode (FV.sum mode ts)
      ((acc :: xs ++ ys).any FV.isSnan || (xs.zip ys).any (fun p => zeroInf p.1 p.2) || sumInvalid ts))
  | none =>
    let p := ix.map (fun i => eltInt t (elt t a i) * eltInt t (elt t b i))
    asWord (satTo (tagSigned t) 32 (p.foldl (· + ·) (if tagSigned t then sint c 32 else c)))
/-- A dot product instruction. -/
def packDot (a : Ter) (tags : List Nat) (c : Run) : Res :=
  lanesU c a.m (fun k => (packedIn c k tags [a.va, a.vb] [.reg a.vc]).map (fun x =>
    let r := dotW (modeOf c.t a.m) x.1 (en x.2.1 0) (en x.2.1 1) (en x.2.2 0)
    Out.one a.vd r.1 r.2))
/-- PDOT2 (R174). -/
def execPdot2 (a : Ter) (s : State) := runI (.pdot2 a) (packDot a [1, 2, 3, 4]) s
/-- PDOT4 (R174). -/
def execPdot4 (a : Ter) (s : State) := runI (.pdot4 a) (packDot a [5, 6, 7, 8]) s

/-- A right shift that rounds half up (R175); from 40 on every shift of a 32-bit value gives 0. -/
def shrRound (x : Int) (n : Nat) : Int :=
  let n := min n 40
  if n = 0 then x else (x + (2 ^ (n - 1) : Nat)) / (2 ^ n : Nat)
/-- PSHRR (R175). -/
def execPshrr (a : Alu) (s : State) :=
  runI (.pshrr a) (fun c =>
    if subOf3 a.m % 2 = 1 then
      alu2 a (fun x n => (word (wrap (shrRound x.toInt n.toNat) 32), 0)) c
    else packFrame a.m a.vd [3, 4, 7, 8, 9, 10, 11, 12] [a.va] [a.b] (fun t ws ss i =>
      (wrap (shrRound (eltInt t (elt t (en ws 0) i)) (en ss 0)) (eltW t), 0)) id c) s

/-- PACKH (R176). -/
def execPackh (a : Alu) (s : State) :=
  runI (.packh a) (fun c => lanesU c a.m (fun k => (V.both (c.reg k a.va) (c.reg k (srcField a.b))).map (fun p =>
    Out.tagged a.vd ((p.2 &&& 0xffff0000) ||| word (p.1.toNat / 65536)) (nth 4 [1, 3] (subOf3 a.m)) 0))) s

/-- An element index at or past n is a format-tag fault of the strand (R176). -/
def eltIn (t j k : Nat) : V Unit := V.test (decide (j < eltN t)) (trapTag (some k)) |>.map (fun _ => ())

/-- UNPK (R176). `UNPK` has `.U` in bit 63 and j in `sub`. -/
def execUnpk (a : Alu) (s : State) :=
  runI (.unpk a) (fun c => lanesU c a.m (fun k => (packedIn c k tags12 [a.va] []).bind (fun x =>
    let j := subOf3 a.m
    (eltIn x.1 j k).map (fun _ =>
      let e := elt x.1 (en x.2.1 0) j
      let r := match tagFmt x.1 with
        | some f => fmtConv f Fmt.f32 0 e
        | none => (wrap (eltInt x.1 e) 32, 0)
      Out.one a.vd (word r.1) r.2)))) s

/-- INSRT (R176). -/
def execInsrt (a : Ter) (s : State) :=
  runI (.insrt a) (fun c => lanesU c a.m (fun k => (packedIn c k tags12 [a.vc] [.reg a.va]).bind (fun x =>
    let j := a.x8.toNat
    (eltIn x.1 j k).map (fun _ =>
      let v := en x.2.2 0
      let r := match tagFmt x.1 with
        | some f => fmtConv Fmt.f32 f (modeOf c.t a.m) v
        | none => satElt x.1 (if tagSigned x.1 then sint v 32 else v)
      let es := (List.range (eltN x.1)).map (fun i => if i = j then r.1 else elt x.1 (en x.2.1 0) i)
      Out.tagged a.vd (word (packElts (eltW x.1) es)) (BitVec.ofNat 4 x.1) r.2)))) s

/-- TAGSET (R176): `mod` is the tag. -/
def execTagset (a : Alu) (s : State) :=
  runI (.tagset a) (fun c => lanes c (fun k => (c.reg k a.va).map (fun x => Out.tagged a.vd x a.m 0))) s
/-- TAGGET (R176). -/
def execTagget (a : Alu) (s : State) :=
  runI (.tagget a) (fun c => lanesU c a.m (fun k => (c.regT k a.va).map (fun x => Out.one a.vd (word x.tag.toNat) 0))) s

end Sys2Proof.Machine
end

