-- ==== Sys2Proof/Machine/Lane.lean ====
section
/-! DEFINITION. Group 4: data movements, votes, slides, reductions and scans over the strands of one team (R184 to R187).
-/

namespace Sys2Proof.Machine

/-- Strands of the team, all passes (R184). -/
def Run.width (c : Run) : Nat := 32 * c.t.passes
/-- Another strand's register with its tag, for strand k; a poison mark is a fault of the strand that reads (R61, R184). -/
def Run.other (c : Run) (k j : Nat) (r : RegField) : V Reg :=
  match regV c.t j r.toNat with
  | .ok x => .ok x
  | .bad t => .bad (if t.rstr = some j then { t with rstr := some k } else t)
/-- No active strand: no effect (R184). -/
def withActive (c : Run) (f : Nat → Res) : Res :=
  match c.lead with
  | none => .done { Done.seq c.s with reads := some [] }
  | some l => f l
/-- Each active strand's outcome with the pairs it read (R130, R184). -/
def lanesReading (c : Run) (f : Nat → V (Out × List (Nat × Nat))) : Res :=
  (V.all (c.act.map f)).res (fun os =>
    .done { Done.seq (c.put (writeOuts c.t c.act (os.map (·.1)))) with
      writes := wroteIn c.act (os.map (·.1)), reads := some (os.flatMap (·.2)) })
/-- The pair read as source b of a strand, when b is a register. -/
def bRead (k : Nat) (b : Src) : List (Nat × Nat) := match b with | .reg r => [(k, r.toNat)] | .imm _ => []

/-- The movement of one register from strand j to strand k; past the team, `dflt` (R184). -/
def Run.moveFrom (c : Run) (a : Alu) (k j dflt : Nat) : V (Out × List (Nat × Nat)) :=
  if j < c.width then (c.other k j a.va).map (fun x => (Out.tagged a.vd x.val x.tag 0, [(j, a.va.toNat)]))
  else if dflt < c.width then (c.other k dflt a.va).map (fun x => (Out.tagged a.vd x.val x.tag 0, [(dflt, a.va.toNat)]))
  else .ok (Out.one a.vd 0 0, [])

/-- A data movement: the source strand of strand k from its b, and what stands in where there is none. -/
def moveRow (a : Alu) (j : Nat → Nat → Nat) (dflt : Nat → Nat) (c : Run) : Res :=
  lanesReading c (fun k => (c.src k a.b).bind (fun n =>
    (c.moveFrom a k (j k n.toNat) (dflt k)).map (fun o => (o.1, bRead k a.b ++ o.2))))

/-- SHFL (R184). -/
def execShfl (a : Alu) (s : State) := runI (.shfl a) (fun c => moveRow a (fun _ n => n) (fun _ => c.width) c) s
/-- SWZ (R184). -/
def execSwz (a : Alu) (s : State) := runI (.swz a) (moveRow a (fun k n => k ^^^ (n % 1024)) id) s
/-- READL (R184): b of the leader only. -/
def execReadl (a : Alu) (s : State) :=
  runI (.readl a) (fun c => withActive c (fun l => (c.src l a.b).res (fun n =>
    lanesReading c (fun k => (c.moveFrom a k n.toNat c.width).map (fun o => (o.1, bRead l a.b ++ o.2)))))) s

/-- The active strands whose a has bit 0 set (Table 9-10). -/
def Run.votes (c : Run) (r : RegField) : V (List Nat) :=
  (V.all (c.act.map (fun k => (c.reg k r).map (fun x => (k, bitAt x.toNat 0))))).map (fun l =>
    (l.filter (·.2)).map (·.1))
/-- A vote: the result of each active strand from the voting strands. -/
def voteRow (a : Alu) (f : List Nat → Nat → Nat) (c : Run) : Res :=
  (c.votes a.va).res (fun vs => lanes c (fun k => .ok (Out.one a.vd (word (f vs k)) 0)))

/-- BALLOT (R184). -/
def execBallot (a : Alu) (s : State) :=
  runI (.ballot a) (fun c => (V.both (c.votes a.va) (V.all (c.act.map (fun k => c.src k a.b)))).res (fun x =>
    lanes c (fun k => (c.src k a.b).map (fun q =>
      Out.one a.vd (word (if q.toNat < c.t.passes then passWord x.1 q.toNat else 0)) 0)))) s
/-- VANY (R184). -/
def execVany (a : Alu) (s : State) := runI (.vany a) (voteRow a (fun vs _ => if vs.isEmpty then 0 else 1)) s
/-- VALL (R184). -/
def execVall (a : Alu) (s : State) :=
  runI (.vall a) (fun c => voteRow a (fun vs _ => if vs.length = c.act.length then 1 else 0) c) s
/-- FIRST (R184). -/
def execFirst (a : Alu) (s : State) := runI (.first a) (voteRow a (fun vs _ => vs.headD 0xffffffff)) s
/-- MBCNT (R184). -/
def execMbcnt (a : Alu) (s : State) := runI (.mbcnt a) (voteRow a (fun vs k => (vs.filter (· < k)).length)) s

/-- Element x of the team's sequence for strand k: strand x / n, which must carry tag T (R185). -/
def Run.seqElt (c : Run) (k t : Nat) (r : RegField) (x : Nat) : V (Nat × (Nat × Nat)) :=
  let j := x / eltN t
  (c.other k j r).bind (fun y =>
    if y.tag.toNat = t then .ok (elt t y.val.toNat (x % eltN t), (j, r.toNat)) else .bad (trapTag (some k)))

/-- The element that a slide puts at place x (R185): its source place, or the fill's. -/
def slideFrom (up edge : Bool) (total x k : Nat) : Option Nat :=
  if up then (if k ≤ x then some (x - k) else if edge then some 0 else none)
  else (if x + k < total then some (x + k) else if edge then some (total - 1) else none)

/-- A slide (R185): T is the leader's tag; only strands whose elements are read are tested for tag and poison. -/
def slideRow (a : Alu) (up : Bool) (c : Run) : Res :=
  withActive c (fun l => (V.both (c.src l a.b) (V.test (a.va.toNat < c.t.nreg) (trapBound none))).res (fun x =>
    let tag := ((c.t.strand l).reg a.va.toNat).tag
    let t := tag.toNat
    let n := eltN t
    let total := c.width * n
    lanesReading c (fun k =>
      (V.all ((List.range n).map (fun i =>
        match slideFrom up (subOf3 a.m % 4 = 1) total (k * n + i) x.1.toNat with
        | some y => (c.seqElt k t a.va y).map some
        | none => .ok none))).map (fun es =>
      (Out.tagged a.vd (word (packElts (eltW t) (es.map (fun e => match e with | some p => p.1 | none => 0)))) tag 0,
       bRead l a.b ++ es.filterMap (fun e => e.map (·.2)))))))
/-- SLIDEUP (R185). -/
def execSlideup (a : Alu) (s : State) := runI (.slideup a) (slideRow a true) s
/-- SLIDEDN (R185). -/
def execSlidedn (a : Alu) (s : State) := runI (.slidedn a) (slideRow a false) s

/-- Which reduction. -/
inductive RedOp where
  | add
  | min
  | max
  deriving DecidableEq, Repr

/-- A floating reduction step. -/
def redF (o : RedOp) (f : Fmt) (mode x y : Nat) : Nat × Flags :=
  match o with
  | .add => f.add mode x y
  | .min => f.minmax false x y
  | .max => f.minmax true x y
/-- An integer reduction step on exact values. -/
def redI (o : RedOp) (x y : Int) : Int :=
  match o with
  | .add => x + y
  | .min => min x y
  | .max => max x y
/-- A reduction step by kind (Table 9-11); `t` is T under `.P`. -/
def redStep (o : RedOp) (kind t mode : Nat) (x y : Nat) : Nat × Flags :=
  match kind with
  | 0 => (wrap (redI o (sint x 32) (sint y 32)) 32, 0)
  | 1 => (wrap (redI o x y) 32, 0)
  | 2 => redF o Fmt.f32 mode x y
  | 3 => redF o Fmt.f64 mode x y
  | _ =>
    let es := (List.range (eltN t)).map (fun i =>
      eltWise (fun f e => redF o f mode (en e 0) (en e 1)) (fun v => redI o (ei v 0) (ei v 1)) t [x, y] i)
    (packElts (eltW t) (es.map (·.1)), es.foldl (fun f e => f ||| e.2) 0)
/-- `pair_tree` over values with the flags of every op gathered (R186). -/
def redTree (o : RedOp) (kind t mode : Nat) (l : List (Option Nat)) : Option (Nat × Flags) :=
  pairTree (fun a b =>
    let r := redStep o kind t mode a.1 b.1
    (r.1, a.2 ||| b.2 ||| r.2)) (l.map (fun x => x.map (fun v => (v, (0 : Flags)))))
/-- The identity of a scan (R187). -/
def redIdent (kind t : Nat) : Nat :=
  match kind with
  | 2 => 0x80000000
  | 3 => 0x8000000000000000
  | 4 => if (tagFmt t).isSome then packElts (eltW t) (List.replicate (eltN t) (2 ^ (eltW t - 1))) else 0
  | _ => 0

/-- T and the operands of the active strands by strand number, absent elsewhere (R186). -/
def Run.operands (c : Run) (kind : Nat) (r : RegField) (l : Nat) : V (Nat × List (Option Nat)) :=
  let t := if kind = 4 then ((c.t.strand l).reg r.toNat).tag.toNat else 0
  let read := fun k : Nat =>
    if kind = 3 then (c.pair k r).map (·.toNat)
    else (c.regT k r).bind (fun x =>
      if kind = 4 ∧ (x.tag.toNat ≠ t ∨ !tags12.contains t) then .bad (trapTag (some k)) else .ok x.val.toNat)
  (V.all (c.act.map read)).map (fun vs =>
    let m := c.act.zip vs
    (t, (List.range c.width).map (fun k => (m.find? (fun p => p.1 == k)).map (·.2))))

/-- A result by kind in one strand's registers. -/
def redOut (vd : RegField) (kind t : Nat) (r : Nat × Flags) : Out :=
  if kind = 3 then Out.pair vd r.1 r.2 else Out.tagged vd (word r.1) (BitVec.ofNat 4 t) r.2

/-- A reduction (R186). -/
def redRow (a : Alu) (o : RedOp) (c : Run) : Res :=
  let kind := subOf3 a.m
  withActive c (fun l => (c.operands kind a.va l).res (fun x =>
    match redTree o kind x.1 c.t.rm x.2 with
    | some r => lanes c (fun _ => .ok (redOut a.vd kind x.1 r))
    | none => .done (Done.seq c.s)))
/-- REDADD (R186). -/
def execRedadd (a : Alu) (s : State) := runI (.redadd a) (redRow a .add) s
/-- REDMIN (R186). -/
def execRedmin (a : Alu) (s : State) := runI (.redmin a) (redRow a .min) s
/-- REDMAX (R186). -/
def execRedmax (a : Alu) (s : State) := runI (.redmax a) (redRow a .max) s
/-- SCAN (R187). -/
def execScan (a : Alu) (s : State) :=
  runI (.scan a) (fun c =>
    let kind := subOf3 a.m
    withActive c (fun l => (c.operands kind a.va l).res (fun x =>
      lanes c (fun k =>
        let n := if topBit a.m then k else k + 1
        let list := x.2.mapIdx (fun j v => if j < n then v else none)
        .ok (redOut a.vd kind x.1 ((redTree .add kind x.1 c.t.rm list).getD (redIdent kind x.1, 0))))))) s

end Sys2Proof.Machine
end

