-- ==== Sys2Proof/Machine/MemPlain.lean ====
section
/-! DEFINITION. Group 5: addresses (R188, R189), plain loads and stores (R191 to R194, R103, R118), and what every store
shares: release, precise-store mode (R66) and the wait for another agent. -/

namespace Sys2Proof.Machine

/-- The offset of a memory operand, 0 in a 64-bit encoding (R132). -/
def memOff (a : Mem) : Int := match a.ext with | some e => e.off.toInt | none => 0
/-- The block hint (Table 6-5). -/
def memHint (a : Mem) : Nat := match a.ext with | some e => e.hint.toNat | none => 0
/-- The policy (Table 6-6). -/
def memPol (a : Mem) : Nat := match a.ext with | some e => e.pol.toNat | none => 0
/-- The loaded tag. -/
def memTag (a : Mem) : BitVec 4 := match a.ext with | some e => e.tg | none => 0
/-- The third register field. -/
def memVc (a : Mem) : RegField := match a.ext with | some e => e.vc | none => 0
/-- The order code. -/
def memOrd (a : Mem) : Nat := match a.ext with | some e => e.ord.toNat | none => 0
/-- The scope code. -/
def memScope (a : Mem) : Nat := match a.ext with | some e => e.scope.toNat | none => 0

/-- The effective address from a strand's pointer pair (R96, R188). -/
def Run.ea (c : Run) (k : Nat) (va : RegField) (d : Int) : V DWord :=
  (c.pair k va).bind (fun p => match ptrAdd p d with | some q => .ok q | none => .bad (trapAddr (some k) p))
/-- The places of an access of strand k, all tested (R103, R189). -/
def Run.places (c : Run) (k : Nat) (nd : Need) (q : DWord) (n : Nat) : V (List Loc) := locate c.s c.ctx c.core c.sup nd (some k) q n

/-- How the instruction uses the L1. -/
def cacheUse (c : Run) (a : Mem) (load : Bool) : CacheUse := ⟨memHint a, memPol a, c.t.pc.toNat / 8 % 256, load⟩

/-- A load's or store's accesses are made once they are ready; else the team waits. -/
def whenReady (c : Run) (write : Bool) (u : CacheUse) (xs : List Access) (f : State → Res) : Res :=
  let r := if write then releasePrep c.s c.t u xs else prepAccess c.s c.t false u xs
  if !r.2 then .hold r.1 else f r.1

/-- The state with each active strand's outcome written. -/
def Run.give (c : Run) (s : State) (os : List Out) : State := s.setTeam c.t.hnd (fun t => writeOuts t c.act os)

/-! ## One strand after another

Where a die writes a sector through (R334), a read-modify-write of one strand is over only when the home has answered it, and so is a
store on an SO page or at sc, which the strand's next one follows (Table 16-1). The instruction then stands in progress. -/

/-- The sector through which a die would write bytes that lie in it. -/
def throughSector (s : State) (die : Nat) (ls : List Loc) : Option Nat :=
  match cohAddrs ls with
  | [] => none
  | pa :: _ => if (s.sec die (pa / 64)).st = .t then some (pa / 64) else none

/-- Strands act in turn, each on what the one before left, until one waits for the home (R195, R334). `f`: from the bytes of the
operand, the old value and the operands, the new value if one is written, and flags. True when all have acted. -/
def seqStep (c : Run) (u : CacheUse) (cond so : Bool) (f : Nat → Nat → Nat → Nat → Option Nat × Flags) : Nat → State → State × Bool
  | 0, s => (s, false)
  | n + 1, s =>
    match s.team c.t.hnd with
    | none => (s, false)
    | some t => match t.rmw with
      | none => (s, false)
      | some r =>
        if r.sent.isSome then (s, false)
        else match r.todo with
          | [] => (s, true)
          | x :: rest =>
            let p := prepWrite (s.putTeam { t with status := .run }) c.core c.ctx u x.2.1
            if !p.2.isEmpty then (awaitSectors p.1 t (s.recOf t).lcrit p.2, false)
            else
              let len := x.2.1.length
              let o := readLocs p.1 c.core c.ctx x.2.1
              let y := f len o x.2.2.1 x.2.2.2
              let next := fun s : State => s.setTeam c.t.hnd (fun t => { t with rmw := some ⟨rest, r.got ++ [(x.1, o, y.2)], none⟩ })
              match y.1 with
              | none => seqStep c u cond so f n (next p.1)
              | some v =>
                let cells := x.2.1.zip (leBytes len v)
                let s := noteOlder p.1 x.2.1
                match throughSector s (dieOf c.core) x.2.1 with
                | some q =>
                  let s := s.setTeam c.t.hnd (fun t => { t with status := .fabric [q], rmw := some { r with sent := some (s.names, o, y.2) } })
                  let bytes := cells.filterMap (fun z => match z.1 with | .mem pa _ => some (pa, z.2) | _ => none)
                  seqStep c u cond so f n (storeSector s c.t.hnd (s.qOf c.t) (dieOf c.core) q bytes cond so).1
                | none => seqStep c u cond so f n (next (writeLocs s c.t.hnd (s.qOf c.t) c.core cells))

/-- Goes on with an instruction in progress: it waits, or `fin` gives its results from the strands' old values and flags. -/
def seqGo (c : Run) (u : CacheUse) (cond so : Bool) (f : Nat → Nat → Nat → Nat → Option Nat × Flags)
    (fin : State → List (Nat × Nat × Flags) → Res) (s : State) : Res :=
  let n := match (s.team c.t.hnd).bind (·.rmw) with | some r => r.todo.length | none => 0
  let r := seqStep c u cond so f (2 * n + 4) s
  if !r.2 then .hold r.1
  else match (r.1.team c.t.hnd).bind (·.rmw) with
    | some w => fin (r.1.setTeam c.t.hnd (fun t => { t with rmw := none, status := .run })) w.got
    | none => .hold r.1

/-- An instruction of that kind from its start: `xs` the strands with their places and operands, once every test has passed and what it
releases has performed. -/
def seqStart (c : Run) (u : CacheUse) (cond so : Bool) (f : Nat → Nat → Nat → Nat → Option Nat × Flags)
    (fin : State → List (Nat × Nat × Flags) → Res) (reads : Option (List (Nat × Nat))) (xs : List (Nat × List Loc × Nat × Nat)) : Res :=
  let as := xs.map (fun x => (⟨x.1, x.2.1, []⟩ : Access))
  whenReady c true u as (fun s =>
    if c.stalls reads then .trap trapStall
    else seqGo c u cond so f fin ((releaseEnd s c.t as []).setTeam c.t.hnd (fun t => { t with rmw := some ⟨xs, [], none⟩ })))

/-- The part of a store in each sector, one after another, as operands of such an instruction. -/
def sectorParts (x : Access) : List (Nat × List Loc × Nat × Nat) :=
  let key := fun l : Loc => match l with | .mem pa _ => pa / 64 + 1 | _ => 0
  (distinct id (x.ls.map key)).map (fun q =>
    let cs := (x.ls.zip x.bs).filter (fun c => key c.1 == q)
    (x.k, cs.map (·.1), leNat (cs.map (·.2)), 0))

/-- Bytes of a width code (Table 10-2). -/
def widthBytes (w : Nat) : Nat := 2 ^ w
/-- The registers a load writes (Table 10-2, R193): little-endian, extended to 32 bits, tagged. -/
def loadOut (vd : RegField) (n : Nat) (sx : Bool) (tag : BitVec 4) (v : Nat) : Out :=
  if n < 4 then Out.tagged vd (word (if sx then wrap (sint v (8 * n)) 32 else v)) tag 0
  else ⟨(List.range (n / 4)).map (fun i => (vd.toNat + i, word (v / 2 ^ (32 * i)), tag)), 0⟩
/-- The n bytes a store takes from registers (Table 10-2). -/
def Run.data (c : Run) (k : Nat) (r : RegField) (n : Nat) : V (List Byte) :=
  (V.all ((List.range (max 1 (n / 4))).map (fun i => regV c.t k (r.toNat + i)))).map (fun rs =>
    (rs.flatMap (fun x => leBytes 4 x.val.toNat)).take n)

/-- The strand, register pairs of a run of registers. -/
def regsIn (k : Nat) (r : RegField) (n : Nat) : List (Nat × Nat) := (List.range n).map (fun i => (k, r.toNat + i))

/-- A load: `addr` gives each active strand's address. -/
def loadRow (a : Mem) (n : Nat) (addr : Nat → V DWord) (nd : Need) (reads : List (Nat × Nat)) (c : Run) : Res :=
  (V.all (c.act.map (fun k => (addr k).bind (fun q => (c.places k nd q n).map (fun ls => (⟨k, ls, []⟩ : Access)))))).res (fun xs =>
    if xs.isEmpty then .done { Done.seq c.s with reads := some reads }
    else whenReady c false (cacheUse c a true) xs (fun s =>
      let os := xs.map (fun x => loadOut a.vd n (topBit a.m) (memTag a) (leNat (x.ls.map (readPlain s c.t))))
      .done { Done.seq (c.give (endAccess s c.core (placesOf xs)) os) with writes := wroteIn c.act os, reads := some reads }))

/-- A store made strand by strand has no results. -/
def noResults (reads : Option (List (Nat × Nat))) (s : State) (_ : List (Nat × Nat × Flags)) : Res := .done { Done.seq s with reads := reads }
/-- The bytes of accesses are stored: on an SO page, or at sc, one strand after another (R297, R299), else together. -/
def storeAll (c : Run) (u : CacheUse) (sc : Bool) (reads : Option (List (Nat × Nat))) (xs : List Access) : Res :=
  let so := onOrd 1 (placesOf xs)
  if sc || so then seqStart c u false so (fun _ _ b _ => (some b, 0)) (noResults reads) reads (xs.flatMap sectorParts)
  else whenReady c true u xs (fun s => .done { Done.seq (storePlain s c.t xs) with reads := reads })
/-- A store in progress goes on. -/
def storeMore (c : Run) (u : CacheUse) (reads : Option (List (Nat × Nat))) : Res :=
  seqGo c u false true (fun _ _ b _ => (some b, 0)) (noResults reads) c.s

/-- A store: `addr` gives each active strand's address (R194): higher strands' bytes remain. -/
def storeRow (a : Mem) (src : RegField) (n : Nat) (addr : Nat → V DWord) (nd : Need) (reads : List (Nat × Nat)) (c : Run) : Res :=
  if c.t.rmw.isSome then storeMore c (cacheUse c a false) (some reads)
  else (V.all (c.act.map (fun k => (V.both (c.data k src n) ((addr k).bind (fun q => c.places k nd q n))).map (fun p =>
    (⟨k, p.2, p.1⟩ : Access))))).res (fun xs =>
    if xs.isEmpty then .done { Done.seq c.s with reads := some reads } else storeAll c (cacheUse c a false) false (some reads) xs)

/-- The addresses of the indexed forms (R192): the leader's pointer, moved by the strand's index. -/
def indexed (c : Run) (a : Mem) (ix : RegField) (n l k : Nat) : V DWord :=
  (V.both (c.pair l a.va) (c.reg k ix)).bind (fun p => match ptrAdd p.1 (memOff a + (p.2.toNat * n : Nat)) with
    | some q => .ok q
    | none => .bad (trapAddr (some k) p.1))

/-- LD (R191 to R193). -/
def execLd (a : Mem) (s : State) :=
  runI (.ld a) (fun c => loadRow a (widthBytes (subOf3 a.m)) (fun k => c.ea k a.va (memOff a)) Need.rd
    (c.act.flatMap (fun k => regsIn k a.va 2)) c) s
/-- LDX (R192). -/
def execLdx (a : Mem) (s : State) :=
  runI (.ldx a) (fun c => match c.lead with
    | none => .done { Done.seq c.s with reads := some [] }
    | some l =>
      let n := widthBytes (subOf3 a.m)
      loadRow a n (indexed c a a.vb n l) Need.rd (regsIn l a.va 2 ++ c.act.flatMap (fun k => regsIn k a.vb 1)) c) s
/-- ST (R194). -/
def execSt (a : Mem) (s : State) :=
  runI (.st a) (fun c =>
    let n := widthBytes (subOf3 a.m)
    storeRow a a.vb n (fun k => c.ea k a.va (memOff a)) Need.wr
      (c.act.flatMap (fun k => regsIn k a.va 2 ++ regsIn k a.vb (max 1 (n / 4)))) c) s
/-- STX (R192, R194). -/
def execStx (a : Mem) (s : State) :=
  runI (.stx a) (fun c => match c.lead with
    | none => .done { Done.seq c.s with reads := some [] }
    | some l =>
      let n := widthBytes (subOf3 a.m)
      storeRow a a.vb n (indexed c a (memVc a) n l) Need.wr
        (regsIn l a.va 2 ++ c.act.flatMap (fun k => regsIn k (memVc a) 1 ++ regsIn k a.vb (max 1 (n / 4)))) c) s

end Sys2Proof.Machine
end

