-- ==== Sys2Proof/Machine/MemStrong.lean ====
section
/-! DEFINITION. Strong accesses (R195 to R198) and `FENCE` (R199), with what a release waits for (R205, R335). -/

namespace Sys2Proof.Machine

/-- What a release at a scope waits for has performed: range operations (R205), bytes of split stores still to come, and
write-throughs, to Done1 or, at device scope and wider, to Done2 (R335). -/
def releaseReady (s : State) (t : Team) (scope : Nat) : Bool :=
  t.ranges.isEmpty && t.pending.isEmpty && (throughsOf s t.hnd).all (fun x => x.done1 && decide (scope < 5))
/-- The order code makes the operation a release. -/
def isRelease (ord : Nat) : Bool := ord == 2 || ord == 3 || ord == 4
/-- The order code makes the operation an acquire. -/
def isAcquire (ord : Nat) : Bool := ord == 1 || ord == 3 || ord == 4

/-- Bytes of a strong operand (R195). -/
def strongBytes (a : Mem) : Nat := if memHint a = 3 then 8 else 4
/-- The L1 use of a strong access: a block that holds the operand (R109). -/
def strongUse (c : Run) (a : Mem) (load : Bool) : CacheUse := ⟨1, memPol a, c.t.pc.toNat / 8 % 256, load⟩
/-- What a strong access needs of its page (R102). -/
def needStrong (write read : Bool) : Need := ⟨write, false, true, true, read⟩
/-- The scope at which a strong access releases: on scratchpad or carve every observer must have seen what came before (R392). -/
def releaseScope (a : Mem) (ls : List Loc) : Nat := if ls.any (fun l => match l with | .mem _ _ => false | _ => true) then 6 else memScope a
/-- What a strong access must wait for has performed: before a release, and between sc accesses (Table 16-1). -/
def strongReady (c : Run) (a : Mem) (ls : List Loc) : Bool :=
  !(isRelease (memOrd a) || memOrd a == 4) || releaseReady c.s c.t (releaseScope a ls)

/-- An aligned access of a strand: the alignment of its address beside every other test, a pointer that is no valid one included (R86,
R103, R195). `d` the offset from the pointer pair `va`. -/
def Run.alignedAt (c : Run) (k : Nat) (va : RegField) (d : Int) (align n : Nat) (nd : Need) : V (List Loc) :=
  (c.pair k va).bind (fun p =>
    let q := (ptrAdd p d).getD (p + BitVec.ofInt 64 d)
    (V.both (V.test (decide (q.toNat % align = 0)) (trapAlign (some k) q)) ((c.ea k va d).bind (fun q => c.places k nd q n))).map (·.2))
/-- The tested address of a strong access (R103, R195). -/
def Run.strongAt (c : Run) (k : Nat) (a : Mem) (write read : Bool) : V (List Loc) :=
  c.alignedAt k a.va (memOff a) (strongBytes a) (strongBytes a) (needStrong write read)

/-- An operand of n bytes from a register or pair, as a number. -/
def Run.operand (c : Run) (k : Nat) (r : RegField) (n : Nat) : V Nat := (c.data k r n).map leNat

/-- The results of atomic actions: old values where they go, flags, and the reads of UO pages ordered where the order acquires. -/
def atomicEnd (c : Run) (a : Mem) (vd : Option RegField) (s : State) (got : List (Nat × Nat × Flags)) : Res :=
  let os := got.map (fun o => match vd with
    | some d => { loadOut d (strongBytes a) false 0 o.2.1 with fl := o.2.2 }
    | none => ⟨[], o.2.2⟩)
  let ks := got.map (·.1)
  let s := s.setTeam c.t.hnd (fun t => writeOuts t ks os)
  .done { Done.seq (if isAcquire (memOrd a) then s.orderPoint c.t.hnd else s) with writes := wroteIn ks os }

/-- A read-modify-write instruction: atomic actions in ascending strand order (R195), each by a conditional write-through where the die
writes through (R334). `vd`: where the old value goes, if it does. `f`: from the old value and the operands, the new value if one is
written, and flags. -/
def atomicRow (a : Mem) (vd : Option RegField) (vc : Option RegField) (f : Nat → Nat → Nat → Option Nat × Flags) (c : Run) : Res :=
  let n := strongBytes a
  let u := strongUse c a true
  let g := fun (_ : Nat) (o b x : Nat) => f o b x
  if c.t.rmw.isSome then seqGo c u true false g (atomicEnd c a vd) c.s
  else
    let operands := fun k => V.both (c.operand k a.vb n) (match vc with | some r => c.operand k r n | none => .ok 0)
    (V.all (c.act.map (fun k => (V.both (operands k) (c.strongAt k a true true)).map (fun p => (k, p.2, p.1.1, p.1.2))))).res (fun xs =>
      if xs.isEmpty then .done (Done.seq c.s)
      else if !strongReady c a (xs.flatMap (·.2.1)) then .hold c.s
      else seqStart c u true false g (atomicEnd c a vd) none xs)

/-- The new value and flags of an atomic operation on w bits (Table 10-3). -/
def atomNew (op w o b : Nat) : Nat × Flags :=
  let f := if w = 64 then Fmt.f64 else Fmt.f32
  match op with
  | 0 => ((o + b) % 2 ^ w, 0)
  | 1 => (o &&& b, 0)
  | 2 => (o ||| b, 0)
  | 3 => (o ^^^ b, 0)
  | 4 => (if sint o w ≤ sint b w then o else b, 0)
  | 5 => (if sint o w ≤ sint b w then b else o, 0)
  | 6 => (min o b, 0)
  | 7 => (max o b, 0)
  | 8 => (b, 0)
  | 9 => (if o ≥ b then 0 else o + 1, 0)
  | 10 => (if o = 0 ∨ o > b then b else o - 1, 0)
  | 11 => f.add 0 o b
  | 12 => f.minmax false o b
  | _ => f.minmax true o b

/-- LDA (R196). -/
def execLda (a : Mem) (s : State) :=
  runI (.lda a) (fun c =>
    let n := strongBytes a
    (V.all (c.act.map (fun k => (c.strongAt k a false true).map (fun ls => (⟨k, ls, []⟩ : Access))))).res (fun xs =>
      if xs.isEmpty then .done (Done.seq c.s)
      else if memOrd a = 4 && !strongReady c a (placesOf xs) then .hold c.s
      else whenReady c false (strongUse c a true) xs (fun s =>
        let os := xs.map (fun x => loadOut a.vd n false (memTag a) (readLocs s c.core c.ctx x.ls))
        let s := c.give (endAccess s c.core (placesOf xs)) os
        .done { Done.seq (if isAcquire (memOrd a) then s.orderPoint c.t.hnd else s) with writes := wroteIn c.act os }))) s
/-- STL (R196). -/
def execStl (a : Mem) (s : State) :=
  runI (.stl a) (fun c =>
    let n := strongBytes a
    if c.t.rmw.isSome then storeMore c (strongUse c a false) none
    else (V.all (c.act.map (fun k => (V.both (c.data k a.vb n) (c.strongAt k a true false)).map (fun p => (⟨k, p.2, p.1⟩ : Access))))).res (fun xs =>
      if xs.isEmpty then .done (Done.seq c.s)
      else if !strongReady c a (placesOf xs) then .hold c.s
      else storeAll c (strongUse c a false) (memOrd a == 4) none xs)) s
/-- ATOM (R197). -/
def execAtom (a : Mem) (s : State) :=
  runI (.atom a) (atomicRow a (some a.vd) none (fun o b _ =>
    let r := atomNew a.m.toNat (8 * strongBytes a) o b
    (some r.1, r.2))) s
/-- RED (R197). -/
def execRed (a : Mem) (s : State) :=
  runI (.red a) (atomicRow a none none (fun o b _ =>
    let r := atomNew a.m.toNat (8 * strongBytes a) o b
    (some r.1, r.2))) s
/-- ATOMCAS (R198). -/
def execAtomcas (a : Mem) (s : State) :=
  runI (.atomcas a) (atomicRow a (some a.vd) (some (memVc a)) (fun o b n => (if o = b then some n else none, 0))) s
/-- FENCE (R199): a release part waits for what a release waits for, and what is written to scratchpad or carve after it waits for the
rest (R392); reads of UO pages after it are ordered (R298). -/
def execFence (a : Mem) (s : State) :=
  runI (.fence a) (fun c =>
    if c.lead.isNone then .done { Done.seq c.s with reads := some [] }
    else if isRelease (memOrd a) && !releaseReady c.s c.t (memScope a) then .hold c.s
    else
      let s := c.s.orderPoint c.t.hnd
      .done { Done.seq (if isRelease (memOrd a) then s.setTeam c.t.hnd (fun t => { t with fence := s.names }) else s) with reads := some [] }) s

end Sys2Proof.Machine
end

