-- ==== Sys2Proof/Machine/Convert.lean ====
section
/-! DEFINITION. Outlier lists (R86), `CVT` (R177 to R179) and pairing blocks (R180 to R183). -/

namespace Sys2Proof.Machine

/-! ## Outlier lists -/

/-- One outlier: the strand it arose in, its recorded index and FP32 value (Table 5-9). -/
structure Outl where
  k : Nat
  idx : Nat
  val : Nat
  deriving DecidableEq, Repr

/-- The FP32 value an outlier records (R86). -/
def outlVal (x : FV) : Nat := (Fmt.f32.round 0 x).1

/-- The tests of a list whenever its pair is read (R86): alignment, a valid pointer to global or scratchpad space, and no
software-managed page. The faults are the leader's. A pointer to the carve is an address fault, which R86 does not name (log entry
45). -/
def listTest (c : Run) (l : Nat) (p : DWord) : V Unit :=
  let place : V Unit :=
    if !ptrOk p || ptrSpace p == 2 then .bad (trapAddr (some l) p)
    else if ptrSpace p = 0 then
      (match leafFor c.s c.ctx (ptrField p) with
        | .ok t => V.test (t.coh == 0) (trapTrans 5 (some l) p)
        | .error _ => .ok ())
    else .ok ()
  (V.both (V.test (decide (p.toNat % 8 = 0)) (trapAlign (some l) p)) place).map (fun _ => ())

/-- An append of the instruction is in progress: its new count is on its way to the home, or there (R334). -/
def Run.appending (c : Run) : Bool := match c.t.rmw with | some r => r.sent.isSome || !r.got.isEmpty | none => false

/-- Each strand's `oap` or `ovf` when the first `fit` outliers went into the list. -/
def appendFlags (os : List Outl) (fit : Nat) : List (Nat × Flags) :=
  (os.take fit).map (fun o => (o.k, flOap)) ++ (os.drop fit).map (fun o => (o.k, flOvf))

/-- The header and the entries of an append as operands of an instruction that acts part by part: the sector of the header first.
The number that stands for the strand is that of the entries written. -/
def appendParts (fit : Nat) (hd ls : List Loc) (bs : List Byte) : List (Nat × List Loc × Nat × Nat) :=
  let ps := sectorParts ⟨fit, hd ++ ls, bs⟩
  let isHd := fun x : Nat × List Loc × Nat × Nat => x.2.1.any (fun z => hd.any (z.same ·))
  ps.filter isHd ++ ps.filter (fun x => !isHd x)

/-- The append of R86: header and entries are tested, then written, the outliers of lower passes and strands first; where the die
writes through, the header's sector as a conditional write-through before the rest (R334). `f` gets the state with them written and
each strand's `oap` or `ovf`. -/
def appendList (c : Run) (l : Nat) (p : DWord) (os : List Outl) (reads : List (Nat × Nat)) (f : State → List (Nat × Flags) → Res) : Res :=
  let u : CacheUse := ⟨1, 0, c.t.pc.toNat / 8 % 256, true⟩
  let act := fun (_ _ b _ : Nat) => ((some b, 0) : Option Nat × Flags)
  let fin := fun (s : State) (got : List (Nat × Nat × Flags)) => f s (appendFlags os ((got.head?.map (·.1)).getD 0))
  if os.isEmpty then f c.s []
  else if c.appending then seqGo c u true false act fin c.s
  else
    let c := { c with s := c.s.setTeam c.t.hnd (fun t => { t with rmw := none }), t := { c.t with rmw := none } }
    (c.places l (needStrong true true) p 8).res (fun hd => whenReady c true u [⟨l, hd, []⟩] (fun s =>
      let h := readLocs s c.core c.ctx hd
      let count := bits h 0 32
      let fit := min os.length (bits h 32 32 - count)
      let at_ : V (List Loc) := if fit = 0 then .ok [] else match ptrAdd p (8 + 8 * count : Nat) with
        | some q => c.places l (needStrong true true) q (8 * fit)
        | none => .bad (trapAddr (some l) p)
      at_.res (fun ls =>
        let bs := leBytes 8 (h + fit) ++ (os.take fit).flatMap (fun o => leBytes 4 o.idx ++ leBytes 4 o.val)
        seqStart { c with s := s.uncharge c.s } u true false act fin (some reads) (appendParts fit hd ls bs))))

/-- Flags ORed into strands. -/
def Team.flagAll (t : Team) (fs : List (Nat × Flags)) : Team := fs.foldl (fun t x => t.setStrand x.1 (fun y => y.flag x.2)) t

/-! ## CVT -/

/-- The floating format of a code. -/
def cvtFmt (f : Nat) : Option Fmt := if f = 0 then some Fmt.f32 else tagFmt f
/-- Width and signedness of an integer code. -/
def cvtInt (f : Nat) : Nat × Bool := if f = 13 then (32, true) else if f = 14 then (32, false) else (eltW f, tagSigned f)

/-- An element to convert: a floating value or an exact integer. -/
inductive CvtVal where
  | flt (x : FV)
  | int (v : Int)
/-- An element in its source format. -/
def cvtRead (sf w i : Nat) : CvtVal :=
  let e := if cvtTag sf = 0 then w else elt sf w i
  match cvtFmt sf with
  | some f => .flt (f.dec e)
  | none => let (n, s) := cvtInt sf; .int (if s then sint e n else e)

/-- One element converted (R178, Table 5-10): its bits, its flags, and the value it records when it is an outlier. -/
def cvtElt (mode : Nat) (om : Bool) (df : Nat) (x : CvtVal) : Nat × Flags × Option Nat :=
  match cvtFmt df with
  | some f =>
    let v : FV := match x with | .flt v => v | .int n => intFV n
    let r := f.fin mode v v.isSnan
    if om && (df == 5 || df == 6) && (v.isNan || v.isInf || (r.2 &&& flOf) != 0) then
      (0, 0, some (match x with | .flt v => outlVal v | .int n => (Fmt.f32.round mode (intFV n)).1))
    else (r.1, r.2, none)
  | none =>
    let (w, s) := cvtInt df
    match x with
    | .flt v => let r := fvToInt mode s w v; (r.1, r.2, none)
    | .int n => let r := satTo s w n; (r.1, r.2, none)

/-- One strand of a `CVT`: the result word, flags and outliers. -/
def cvtStrand (c : Run) (a : Ter) (om : Bool) (k : Nat) : V (Out × List Outl) :=
  let sf := cvtSf a
  let df := cvtDf a
  let j := cvtJ a
  let ns := elemsOf sf
  let nd := elemsOf df
  let n := cvtSources a
  (V.all ((List.range n).map (fun i => regV c.t k (a.va.toNat + i)))).bind (fun rs =>
    if cvtTag sf ≠ 0 ∧ rs.any (fun r => r.tag.toNat != sf) then .bad (trapTag (some k))
    else
      let es := (List.range nd).map (fun i =>
        let m := j * nd + i
        cvtElt (modeOf c.t a.m) om df (cvtRead sf ((nth Reg.zero rs (m / ns)).val.toNat) (m % ns)))
      let w := if cvtTag df = 0 then en (es.map (·.1)) 0 else packElts (eltW df) (es.map (·.1))
      .ok (Out.tagged a.vd (word w) (BitVec.ofNat 4 (cvtTag df)) (es.foldl (fun f e => f ||| e.2.1) 0),
        (es.mapIdx (fun i e => e.2.2.map (fun v => (⟨k, k * nd + i, v⟩ : Outl)))).filterMap id))

/-- The list pair of the leader, read once and tested (R86, R179). -/
def listPair (c : Run) (l : Nat) (vb : RegField) : V DWord :=
  (c.pair l vb).bind (fun p => if c.appending then .ok p else (listTest c l p).map (fun _ => p))

/-- CVT (R177 to R179). -/
def execCvt (a : Ter) (s : State) :=
  runI (.cvt a) (fun c => withActive c (fun l =>
    let df := cvtDf a
    let om := c.t.om && (df == 5 || df == 6)
    (V.both (if om then listPair c l a.vb else .ok 0) (V.all (c.act.map (cvtStrand c a om)))).res (fun x =>
      let os := x.2.map (·.1)
      let reads := c.act.flatMap (fun k => regsIn k a.va (cvtSources a)) ++ (if om then regsIn l a.vb 2 else [])
      appendList c l x.1 (x.2.flatMap (·.2)) reads (fun s fs =>
        .done { Done.seq (s.setTeam c.t.hnd (fun t => (writeOuts t c.act os).flagAll fs)) with
          writes := wroteIn c.act os, reads := some reads })))) s

/-! ## Pairing blocks -/

/-- Words of a block of a pairing tag (R180). -/
def pbWords (tag : Nat) : Nat := if tag = 13 then 8 else if tag = 14 then 7 else 4
/-- Passes that have an active strand, ascending. -/
def Run.livePasses (c : Run) : List Nat := (List.range c.t.passes).filter (fun p => c.act.any (fun k => k / 32 == p))
/-- The active strands of a pass. -/
def Run.inPass (c : Run) (p : Nat) : List Nat := c.act.filter (fun k => k / 32 == p)

/-- One block of a pass packed: its words, scale bytes, flags and outliers (R83 to R85, R181, R182). `vals`: the active
strands' values. -/
structure Packed where
  pass : Nat
  words : List Word
  scale : Word
  fl : List (Nat × Flags)
  outs : List Outl

/-- Packs a pass with a scale pair; `nan`: a preset pair with a byte of 255. -/
def packPass (tag p : Nat) (vals : List (Nat × Nat)) (ehi elo : Nat) (nan : Bool) : Packed :=
  let m := pbM tag
  let n := eltN tag
  let enc := vals.map (fun x => (x.1, Fmt.f32.dec x.2, if nan then some 0 else pbEncode (Fmt.f32.dec x.2) ehi elo m))
  let el := fun i : Nat => match enc.find? (fun e => e.1 % 32 == i) with
    | some e => e.2.2.getD 0
    | none => 0
  { pass := p,
    words := (List.range 32).map (fun w => if w < pbWords tag then
      word (packElts (eltW tag) ((List.range n).map (fun i => if w * n + i < 32 then el (w * n + i) else 0))) else 0),
    scale := word (ehi * 256 + elo),
    fl := enc.filterMap (fun e =>
      if nan then some (e.1, flNv)
      else match e.2.2 with
        | some b => if e.2.1.cmp (pbValue m b ehi elo) = some .eq then none else some (e.1, flNx)
        | none => none),
    outs := enc.filterMap (fun e => if e.2.2.isNone then some ⟨e.1, e.1, outlVal e.2.1⟩ else none) }

/-- Writes the blocks, every strand of their passes (R180); `vs`: the scale register, if any. -/
def writePacked (t : Team) (vd tag : Nat) (vs : Option Nat) (ps : List Packed) : Team :=
  ps.foldl (fun t p =>
    let t := (p.words.mapIdx (fun w x => (p.pass * 32 + w, x))).foldl (fun t x =>
      t.setStrand x.1 (fun y =>
        let y := y.set vd x.2 (BitVec.ofNat 4 tag)
        match vs with | some r => y.set r p.scale 0 | none => y)) t
    t.flagAll p.fl) t

/-- The frame of `PBPACK` and `PBPACKS`: values, list, scales, then all effects together (R180). -/
def packRowPb (a : Ter) (vs : Option Nat) (scales : Run → Nat → List (Nat × Nat) → V (Nat × Nat × Bool))
    (extra : Run → List (Nat × Nat)) (c : Run) : Res :=
  withActive c (fun l =>
    let tag := a.tg.toNat
    (V.both (listPair c l a.vb) (V.both (V.all (c.act.map (fun k => (c.reg k a.va).map (fun v => (k, v.toNat)))))
      (V.all (c.livePasses.map (fun p => scales c p []))))).res (fun x =>
      (V.all (c.livePasses.map (fun p => let vs := x.2.1.filter (fun v => v.1 / 32 == p)
        (scales c p vs).map (fun e => packPass tag p vs e.1 e.2.1 e.2.2)))).res (fun ps =>
        let reads := c.act.flatMap (fun k => regsIn k a.va 1) ++ regsIn l a.vb 2 ++ extra c
        appendList c l x.1 (ps.flatMap (·.outs)) reads (fun s fs =>
          let ks := c.livePasses.flatMap (fun p => (List.range 32).map (fun i => p * 32 + i))
          .done { Done.seq (s.setTeam c.t.hnd (fun t => (writePacked t a.vd.toNat tag vs ps).flagAll fs)) with
            writes := (a.vd.toNat, ks) :: (match vs with | some r => [(r, ks)] | none => []), reads := some reads }))))

/-- PBPACK (R181). -/
def execPbpack (a : Ter) (s : State) :=
  runI (.pbpack a) (packRowPb a (some a.x8.toNat) (fun _ _ vs =>
    let e := pbScales (vs.map (fun v => Fmt.f32.dec v.2)) (pbM a.tg.toNat)
    .ok (e.1, e.2, false)) (fun _ => [])) s
/-- PBPACKS (R182): the pair is that of the lowest active strand of the pass. -/
def execPbpacks (a : Ter) (s : State) :=
  runI (.pbpacks a) (packRowPb a none (fun c p _ => (c.reg ((c.inPass p).headD 0) a.vc).map (fun w =>
    let hi := bits w.toNat 8 8
    let lo := bits w.toNat 0 8
    (hi, lo, hi == 255 || lo == 255)))
    (fun c => c.livePasses.map (fun p => ((c.inPass p).headD 0, a.vc.toNat)))) s

/-- The block of one pass that `PBUNPK` reads: tag, words and scale pair (R183). -/
def unpackRead (c : Run) (a : Ter) (p : Nat) : V (Nat × List Nat × Nat) :=
  let low := (c.inPass p).headD 0
  (V.both (c.reg low a.vc) (c.other low (p * 32) a.va)).bind (fun x =>
    let tag := x.2.tag.toNat
    if tag < 13 then .bad (trapTag (some low))
    else (V.all ((List.range (pbWords tag)).map (fun w => c.other low (p * 32 + w) a.va))).bind (fun rs =>
      if rs.any (fun r => r.tag.toNat != tag) then .bad (trapTag (some low))
      else .ok (tag, rs.map (·.val.toNat), x.1.toNat % 65536)))

/-- PBUNPK (R183). -/
def execPbunpk (a : Ter) (s : State) :=
  runI (.pbunpk a) (fun c => withActive c (fun _ =>
    (V.all (c.livePasses.map (fun p => (unpackRead c a p).map (fun x => (p, x))))).res (fun bs =>
      let os := c.act.map (fun k => match bs.find? (fun b => b.1 == k / 32) with
        | some b =>
          let tag := b.2.1
          let i := k % 32
          let e := elt tag (en b.2.2.1 (i / eltN tag)) (i % eltN tag)
          Out.one a.vd (word (Fmt.f32.round 0 (pbValue (pbM tag) e (b.2.2.2 / 256) (b.2.2.2 % 256))).1) 0
        | none => ⟨[], 0⟩)
      .done { Done.seq (c.put (writeOuts c.t c.act os)) with
        writes := wroteIn c.act os,
        reads := some (bs.flatMap (fun b => (List.range (pbWords b.2.1)).map (fun w => (b.1 * 32 + w, a.va.toNat))) ++
          c.livePasses.map (fun p => ((c.inPass p).headD 0, a.vc.toNat))) }))) s

end Sys2Proof.Machine
end

