-- ==== Sys2Proof/Machine/Matrix.lean ====
section
/-! DEFINITION. Operand slots (R213, R214), the matrix array (R215 to R224, R289, R290), outlier corrections (R225) and the
accumulator format (R226, R227). -/

namespace Sys2Proof.Machine

/-! ## Slots -/

/-- A result the leader computes, written to every strand with tag 0 (R212). -/
def giveAll (c : Run) (s : State) (vd : RegField) (v : Word) (reads : List (Nat × Nat)) : Res :=
  .done { Done.seq (s.putTeam (c.t.writeAll c.t.all vd.toNat v 0)) with reads := some reads, writes := [(vd.toNat, c.t.all)] }

/-- A slot nobody owns and no release of which waits (R213, R214). -/
def Core.slotFree (c : Core) (n : Nat) : Bool := !c.slots.any (fun x => x.1 == n)
/-- A slot the group owns. -/
def Core.owns (c : Core) (n g : Nat) : Bool := c.slots.contains (n, g)
/-- The lowest base of n free slots in a row (R213). -/
def Core.freeRun (c : Core) (n : Nat) : Option Nat :=
  firstFrom (fun b => decide (b + n ≤ 128) && (List.range n).all (fun i => c.slotFree (b + i))) 0 128
/-- The place of a slot's bytes (R100). -/
def slotBase (core n : Nat) : Nat := (core * 128 + n) * 2304
/-- Some engine command of the core reads or writes the slot (R214). -/
def slotBusy (s : State) (core n : Nat) : Bool := s.ecmds.any (fun e => e.core == core && (e.rd ++ e.wr).any (fun x => x.1 == n))

/-- CLAIM (R213); the content of a claimed slot is open until written (R100). -/
def execClaim (a : Alu) (s : State) :=
  runI (.claim a) (fun c => withActive c (fun l => (c.reg l a.va).res (fun x =>
    let n := x.toNat
    let rd := [(l, a.va.toNat)]
    if n = 0 ∨ n > 128 then giveAll c c.s a.vd 0xffffffff rd
    else match (c.s.core c.core).freeRun n with
      | none => giveAll c c.s a.vd 0xffffffff rd
      | some b =>
        let s := c.s.setCore c.core (fun k => { k with slots := k.slots ++ (List.range n).map (fun i => (b + i, c.t.grp)) })
        let s := { s with slotUnd := undAdd s.slotUnd (slotBase c.core b) (slotBase c.core (b + n)) s.fresh, fresh := s.fresh + 1 }
        giveAll c s a.vd (word b) rd))) s
/-- RELEASE (R214): a slot that an engine command still uses is freed when the command completes. -/
def execRelease (a : Alu) (s : State) :=
  runI (.release a) (fun c => withActive c (fun l => (V.both (c.reg l a.va) (c.reg l (srcField a.b))).res (fun x =>
    let mine := ((c.s.core c.core).slots.filter (fun y => y.2 == c.t.grp && decide (x.1.toNat ≤ y.1) &&
      decide (y.1 < x.1.toNat + x.2.toNat))).map (·.1)
    let busy := mine.filter (slotBusy c.s c.core)
    .done { Done.seq (c.s.setCore c.core (fun k => { k with
      slots := k.slots.filter (fun y => !(mine.contains y.1 && !busy.contains y.1)),
      releasing := busy.foldl (fun l n => sadd n l) k.releasing })) with reads := some [(l, a.va.toNat), (l, (srcField a.b).toNat)] }))) s

/-- A slot whose release waited becomes free once no command of the core uses it (R214). -/
def freeReleased (s : State) (core : Nat) : State :=
  let k := s.core core
  let free := k.releasing.filter (fun n => !slotBusy s core n)
  if free.isEmpty then s
  else s.setCore core (fun k => { k with slots := k.slots.filter (fun y => !free.contains y.1),
                                         releasing := k.releasing.filter (fun n => !free.contains n) })

/-! ## Operands -/

/-- The native depth K of a format (Table 11-1). -/
def nativeK (f : Nat) : Nat := nth 8 [32, 32, 64, 64, 64, 64, 128, 8] f
/-- A pairing format. -/
def isPb (f : Nat) : Bool := decide (4 ≤ f) && decide (f ≤ 6)
/-- The tag under which a pairing format's elements are laid out. -/
def pbTag (f : Nat) : Nat := f + 9
/-- The format of the other codes. -/
def matFmt (f : Nat) : Fmt := nth Fmt.f64 [Fmt.bf16, Fmt.f16, Fmt.e4m3, Fmt.e5m2] f

/-- Element k of a row or column (R215): `rd` reads a data byte from the row's start, `sc` a byte of its scale pairs. -/
def matElt (f : Nat) (rd sc : Nat → Byte) (k : Nat) : FV :=
  let num := fun (g : Nat → Byte) o n => leNat ((List.range n).map (fun i => g (o + i)))
  if isPb f then
    let q := k / 32
    let e := k % 32
    let tag := pbTag f
    let w := num rd (4 * pbWords tag * q + 4 * (e / eltN tag)) 4
    pbValue (pbM tag) (elt tag w (e % eltN tag)) (num sc (2 * q + 1) 1) (num sc (2 * q) 1)
  else
    let b := (matFmt f).width / 8
    (matFmt f).dec (num rd (b * k) b)

/-- A row of K elements: of a slot, with its scales from a side area or a scratchpad offset (R215, R217). -/
def matRow (s : State) (core slot row f K : Nat) (scr : Option Nat) : List FV :=
  let base := slotBase core slot
  (List.range K).map (matElt f (fun o => s.slotByte (base + 64 * row + o)) (fun o => match scr with
    | some a => s.scrByte (core * 2 ^ 19 + a + 8 * row + o)
    | none => s.slotByte (base + 2048 + 8 * row + o)))

/-- The format-block word's fields (Table 11-2). -/
structure FmtBlock where
  bsl : Bool
  asl : Bool
  bfm : Nat
  afm : Nat
  bso : Nat
  aso : Nat
/-- Reads a format-block word. -/
def fmtBlock (x : DWord) : FmtBlock :=
  let v := x.toNat
  ⟨bitAt v 61, bitAt v 60, bits v 52 4, bits v 48 4, bits v 19 19, bits v 0 19⟩

/-- The format tests of R217 for `MMA`. -/
def fmtOk (x : DWord) (acc32 : Bool) : Bool :=
  let v := x.toNat
  let f := fmtBlock x
  decide (f.afm < 8) && decide (f.bfm < 8) && bits v 56 4 == 0 && bits v 62 2 == 0 && bits v 38 10 == 0 &&
  (f.afm == 7) == (f.bfm == 7) && !(f.afm == 7 && acc32)
/-- The format tests of R225 for `OXMM`. -/
def fmtOkOx (x : DWord) : Bool :=
  let v := x.toNat
  let f := fmtBlock x
  decide (f.afm < 7) && decide (f.bfm < 7) && bits v 58 2 == 0 && bits v 62 2 == 0 && bits v 38 10 == 0

/-- The tests of a used scale area of n rows or columns in scratchpad (R217): even offset, inside the group's allocation, no poison in the
words it lies in (R118). -/
def areaTest (c : Run) (l off n : Nat) : V Unit :=
  let p : DWord := BitVec.ofNat 64 (2 ^ 60 + rankOf c.core * 2 ^ 48 + off)
  let inside := match c.s.grpOf c.t with
    | some g => decide (g.sbase ≤ off) && decide (off + 8 * n ≤ g.sbase + g.sbytes)
    | none => false
  let psn := (List.range (8 * n)).any (fun i => c.s.scrPsn.contains ((c.core * 2 ^ 19 + off + i) / 8))
  (V.both (V.test (off % 2 == 0) (trapAlign (some l) p)) (V.both (V.test inside (trapAddr (some l) p))
    (V.test (!psn) (trapPoison (some l) p)))).map (fun _ => ())

/-- A slot the group may use (R219). -/
def slotTest (c : Run) (l n : Nat) : V Unit :=
  V.test (decide (n < 128) && (c.s.core c.core).owns n c.t.grp) (trapAddr (some l) 0)

/-- Accumulator row of a strand, N elements read at issue under R61 and R89. -/
def accRow (c : Run) (acc32 : Bool) (vd k n : Nat) : V (List FV) :=
  V.all ((List.range n).map (fun j =>
    if acc32 then (regV c.t k (vd + j)).map (fun r => Fmt.f32.dec r.val.toNat)
    else (V.both (regV c.t k (vd + 3 * j)) (V.both (regV c.t k (vd + 3 * j + 1)) (regV c.t k (vd + 3 * j + 2)))).bind (fun x =>
      match kaOf x.1.val x.2.1.val x.2.2.val with
      | some v => .ok (kaDec v)
      | none => .bad (trapAcc (some k)))))

/-- Rounding to the accumulator format, as a value (R90). -/
def accRound (acc32 : Bool) (x : FV) : FV := if acc32 then Fmt.f32.dec (Fmt.f32.round 0 x).1 else kaDec (kaRound 0 x).1
/-- An accumulator element as register words (R220). -/
def accWords (acc32 : Bool) (x : FV) : List Word := if acc32 then [word (Fmt.f32.round 0 x).1] else kaWords (kaRound 0 x).1
/-- Registers the accumulator spans (R218). -/
def accRegs (acc32 : Bool) (n : Nat) : Nat := if acc32 then n else 3 * n

/-- Results computed at issue stand outstanding, their registers locked in every strand (R219, R221); what they will overwrite is no
producer's any more (R130). -/
def issueMat (c : Run) (s : State) (m : MatPend) (e : Event) (reads : List (Nat × Nat)) : Res :=
  .done { Done.seq ((s.setTeam c.t.hnd (fun t => { t with
    lock := (List.range m.span).foldl (fun l i => sadd (m.base + i) l) t.lock, mat := t.mat ++ [m] })).later e) with
    reads := some reads, writes := (List.range m.span).map (fun i => (m.base + i, c.act)) }

/-- The matrix instruction is fully checked (R66, R289). -/
def fullCheck (c : Run) : Bool := bitAt c.t.tctl.toNat 4 || (c.s.recOf c.t).fchk || c.t.chk.isSome

/-- What an `OPFENCE` waits for, by number: an engine command, a write-through, or the bytes of a store still to come. -/
def fenceOpen (s : State) (t : Team) (n : Nat) : Bool :=
  s.ecmds.any (fun e => e.id == n) || s.throughs.any (fun x => x.id == n) || t.rel.any (fun r => r.id == n && !r.cells.isEmpty)
/-- Earlier accesses an `OPFENCE` makes the instruction wait for are complete (R223). -/
def opfReady (c : Run) : Bool := c.t.opf.all (fun n => !fenceOpen c.s c.t n)
/-- Registers read in strands by a matrix instruction. -/
def accReads (c : Run) (vd n : Nat) : List (Nat × Nat) := c.act.flatMap (fun k => (List.range n).map (fun i => (k, vd + i)))

/-- The rotation counter assigned to executed passes in order (R289). -/
def rotations (full : Bool) (j : Nat) (ps : List Nat) : List (Nat × Nat) :=
  ps.mapIdx (fun i p => (p, if full then j else (j + i) % 8))

/-- The computed rows of an `MMA` (R219, R90). -/
def mmaRows (c : Run) (fb : FmtBlock) (K n ab bs : Nat) (acc32 : Bool) (accs : List (Nat × List FV)) : List (Nat × List Word) :=
  let cols := (List.range n).map (fun j => matRow c.s c.core bs j fb.bfm K (if fb.bsl && isPb fb.bfm then some fb.bso else none))
  accs.map (fun x =>
    let p := x.1 / 32
    let row := matRow c.s c.core (ab + p) (x.1 % 32) fb.afm K (if fb.asl && isPb fb.afm then some (fb.aso + 256 * p) else none)
    (x.1, (x.2.zip cols).flatMap (fun y =>
      accWords acc32 (matSum (accRound acc32) y.1 ((row.zip y.2).map (fun z => z.1.mul z.2))))))

/-- The current team's next instruction is an `MMA` and its core holds no token: the team is not ready (R224). -/
def wantsMma (a : MmaF) (s : State) : Option Run :=
  match s.team s.cur with
  | none => none
  | some t => if canIssue s t && decide ((Instr.mma a).WellFormed) && !(s.core t.core).tok then some ⟨s, t, .mma a, []⟩ else none
/-- The core of a team that waits for a token asks for one (R224). -/
def askToken (s : State) (core : Nat) : State :=
  if s.due.contains (.tokenRequest core) || (s.core core).want then s else s.later (.tokenRequest core)

/-- MMA (R218 to R221, R223, R224). -/
def execMma (a : MmaF) (s : State) : Host.Outcome State Fault Refusal :=
  match wantsMma a s with
  | some c => .next (finish c (.hold (askToken s c.core)))
  | none => runI (.mma a) (fun c => withActive c (fun l => if !opfReady c then .hold c.s else
  (V.both (c.pair l a.va) (c.reg l a.vb)).res (fun x =>
    let fb := fmtBlock x.1
    let n := 8 * 2 ^ a.nsz.toNat
    let K := min (nativeK fb.afm) (nativeK fb.bfm)
    let ab := bits x.2.toNat 0 7
    let bs := bits x.2.toNat 8 7
    let ps := c.livePasses
    let slots := V.all (ps.map (fun p => (V.both (slotTest c l (ab + p)) (slotTest c l bs)).map (fun _ => ())))
    let areas := V.both
      (V.all (ps.map (fun p => if fb.asl && isPb fb.afm then areaTest c l (fb.aso + 256 * p) 32 else .ok ())))
      (if fb.bsl && isPb fb.bfm then areaTest c l fb.bso n else .ok ())
    let accs := V.all (c.act.map (fun k =>
      if a.clr then .ok (k, List.replicate n (FV.fin false 0 0)) else (accRow c a.acc32 a.vd.toNat k n).map (fun r => (k, r))))
    (V.both (V.both (V.test (fmtOk x.1 a.acc32) (trapTag (some l))) (V.both slots areas)) accs).res (fun y =>
      let full := fullCheck c
      let j := (c.s.core c.core).rot
      let m : MatPend := { ox := false, base := a.vd.toNat, span := accRegs a.acc32 n, vals := mmaRows c fb K n ab bs a.acc32 y.2,
                           instr := .mma a, pc := c.t.pc, full := full, replays := 0, rot := rotations full j ps, seen := [],
                           entry := c.t.checks }
      issueMat c (c.s.setCore c.core (fun k => { k with rot := if full then j else (j + ps.length) % 8 })) m
        (.mmaComplete c.t.hnd [])
        (regsIn l a.va 2 ++ regsIn l a.vb 1 ++ (if a.clr then [] else accReads c a.vd.toNat m.span)))))) s
/-- MMAWAIT (R222); without an enabled strand it has no effect (R46, R212). -/
def execMmawait (a : Alu) (s : State) :=
  runI (.mmawait a) (fun c =>
    if c.lead.isNone then .done { Done.seq c.s with reads := some [] }
    else if c.t.mat.isEmpty then .done { Done.seq (c.put { c.t with lock := [] }) with reads := some [] } else .hold c.s) s
/-- The numbers of the team's commands that write a slot or scratchpad, and of its stores and atomics on their way (R223). -/
def fenceIds (c : Run) : List Nat :=
  ((c.s.ecmds.filter (fun e => e.issuer == .team c.t.hnd && (!e.wr.isEmpty || (match e.op with | .gcond _ _ => true | _ => false)))).map (·.id)) ++
  (throughsOf c.s c.t.hnd).map (·.id) ++ (c.t.rel.filter (fun r => !r.cells.isEmpty)).map (·.id)
/-- OPFENCE (R223); without an active strand it has no effect (R212). -/
def execOpfence (a : Alu) (s : State) :=
  runI (.opfence a) (fun c =>
    if c.lead.isNone then .done { Done.seq c.s with reads := some [] }
    else .done { Done.seq (c.put { c.t with opf := (fenceIds c).foldl (fun l i => sadd i l) (c.t.opf.filter (fenceOpen c.s c.t)) }) with reads := some [] }) s

/-- One correction of an `OXMM` applied to the accumulator rows (R225). -/
def oxApply (c : Run) (acc32 : Bool) (h : Nat) (col : Nat → List FV) (rows : List (Nat × List FV)) (e : Nat × Nat) : List (Nat × List FV) :=
  let k := 32 * h + e.1 % 32
  rows.map (fun r => if r.1 = e.1 / 32 ∧ e.1 / 32 < c.width then
    (r.1, (r.2.zip (col k)).map (fun y => accRound acc32 (FV.sum 0 [y.1, (Fmt.f32.dec e.2).mul y.2]))) else r)

/-- The accumulator words of a strand that no entry of the list names: as they stand. -/
def oldWords (c : Run) (k vd n : Nat) : List Word := (List.range n).map (fun i => ((c.t.strand k).reg (vd + i)).val)

/-- The places of a list with as many entries as its header says (R225). -/
def listEntries (c : Run) (l : Nat) (p : DWord) (hd : List Loc) (s : State) : V (List Loc) :=
  let w := readLocs s c.core c.ctx hd
  match ptrAdd p 8 with
  | some q => (c.places l (needStrong false true) q (8 * min (bits w 0 32) (bits w 32 32))).map (fun ls => hd ++ ls)
  | none => .bad (trapAddr (some l) p)

/-- OXMM (R225). -/
def execOxmm (a : Ter) (s : State) :=
  runI (.oxmm a) (fun c => withActive c (fun l => if !opfReady c then .hold c.s else
  (V.both (listPair c l a.va) (V.both (c.reg l a.vb) (c.pair l a.vc))).res (fun x =>
    let fb := fmtBlock x.2.2
    let n := 8 * 2 ^ (a.x8.toNat % 4)
    let acc32 := bitAt a.x8.toNat 2
    let h := a.x4.toNat % 4
    let K := min (nativeK fb.afm) (nativeK fb.bfm)
    let bs := bits x.2.1.toNat 8 7
    let u : CacheUse := ⟨1, 0, c.t.pc.toNat / 8 % 256, false⟩
    let area := if fb.bsl && isPb fb.bfm then areaTest c l fb.bso n else .ok ()
    let accs := V.all (c.act.map (fun k => (accRow c acc32 a.vd.toNat k n).map (fun r => (k, r))))
    let tests := fun ents : V (List Loc) =>
      V.both (V.both (V.test (fmtOkOx x.2.2 && decide (h < K / 32)) (trapTag (some l))) (V.both (slotTest c l bs) area)) (V.both ents accs)
    match c.places l (needStrong false true) x.1 8 with
    | .bad t => (tests (.bad t)).res (fun _ => .hold c.s)
    | .ok hd => whenReady c false u [⟨l, hd, []⟩] (fun s => (tests (listEntries c l x.1 hd s)).res (fun y =>
      whenReady { c with s := s.uncharge c.s } false u [⟨l, y.2.1, []⟩] (fun s =>
        let es := (List.range ((y.2.1.length - 8) / 8)).map (fun i =>
          let v := readLocs s c.core c.ctx ((y.2.1.drop (8 + 8 * i)).take 8)
          (bits v 0 32, bits v 32 32))
        let cols := (List.range n).map (fun j => matRow c.s c.core bs j fb.bfm K (if fb.bsl && isPb fb.bfm then some fb.bso else none))
        let rows := es.foldl (oxApply c acc32 h (fun k => cols.map (fun col => nth (FV.nan false) col k))) y.2.2
        let m : MatPend := { ox := true, base := a.vd.toNat, span := accRegs acc32 n,
                             vals := rows.map (fun r => (r.1, if es.any (fun e => e.1 / 32 == r.1) then r.2.flatMap (accWords acc32)
                               else oldWords c r.1 a.vd.toNat (accRegs acc32 n))), instr := .oxmm a, pc := c.t.pc,
                             full := false, replays := 0, rot := [], seen := [], entry := c.t.checks }
        issueMat c (endAccess s c.core y.2.1) m (.oxmmComplete c.t.hnd)
          (regsIn l a.va 2 ++ regsIn l a.vb 1 ++ regsIn l a.vc 2 ++ accReads c a.vd.toNat m.span))))))) s

/-- ACCCVT (R226). -/
def execAcccvt (a : Alu) (s : State) :=
  runI (.acccvt a) (fun c => lanes c (fun k => (accRow c false a.va.toNat k 1).map (fun vs =>
    let v := vs.headD (FV.nan false)
    let bf := topBit a.m
    let r := (if bf then Fmt.bf16 else Fmt.f32).fin (modeOf c.t a.m) v v.isSnan
    Out.one a.vd (word (if bf then r.1 * 65536 else r.1)) r.2))) s
/-- ACCSET (R227). -/
def execAccset (a : Alu) (s : State) :=
  runI (.accset a) (fun c => lanes c (fun k => (c.reg k a.va).map (fun x =>
    let v := Fmt.f32.dec x.toNat
    ⟨(kaWords (kaRound 0 v).1).mapIdx (fun i w => (a.vd.toNat + i, w, 0)), flIf v.isSnan flNv⟩))) s

/-! ## Completion -/

/-- The first outstanding result of a kind. -/
def Team.firstMat (t : Team) (ox : Bool) : Option MatPend := t.mat.find? (fun m => m.ox == ox)
/-- The team with one outstanding result changed or gone. -/
def Team.setMat (t : Team) (m : MatPend) (m' : Option MatPend) : Team :=
  { t with mat := match m' with
      | some y => t.mat.map (fun x => if x = m then y else x)
      | none => dropFirst (fun x => x == m) t.mat }
/-- Writes results with tag 0. -/
def Team.writeMat (t : Team) (m : MatPend) (vals : List (Nat × List Word)) : Team :=
  vals.foldl (fun t v => t.setStrand v.1 (fun x => (v.2.mapIdx (fun i w => (m.base + i, w))).foldl (fun x w => x.set w.1 w.2 0) x)) t

/-- The array of a core falls idle when no `MMA` of its teams is outstanding (R224). -/
def noteIdle (s : State) (core : Nat) : State :=
  if s.teams.any (fun t => t.core == core && t.mat.any (fun m => !m.ox)) then s
  else s.setCore core (fun k => { k with idle := s.now })

/-- A physical row found persistent is spared or covered (R290). -/
def spareRow (s : State) (core q ctx row : Nat) : State :=
  match (s.core core).spare with
  | none => rasWrite (s.setCore core (fun k => { k with spare := some row })) 4 (rasLoc core 0) q ctx 0 0 (BitVec.ofNat 64 row)
  | some _ => rasWrite (s.setCore core (fun k => { k with covered := sadd row k.covered })) 5 (rasLoc core 0) q ctx 0 0 (BitVec.ofNat 64 row)

/-- A row difference of an `MMA` is a mismatch of its claim (R289): the first turns the entry made at its issue, one of a replay makes an
entry of its own. -/
def Team.rowsDiffer (t : Team) (m : MatPend) : Team := if m.replays = 0 then t.turnEntry m.entry else t.mismatch
/-- The results of an `MMA` are written; a replay that matched enters the check sequence (R287). -/
def Team.rowsMatch (t : Team) (m : MatPend) : Team := if m.replays = 0 then t else t.noted

/-- MMA_COMPLETE (R219, R289, R290): a sampled difference discards the results and replays the instruction fully checked;
otherwise the results are written, and in a row whose upset no sample caught, a free value. -/
def execMmaComplete (h : Nat) (diff : List RowUpset) (s : State) : Host.Outcome State Fault Refusal :=
  match s.team h with
  | none => .next s
  | some t => match t.firstMat false with
    | none => .next s
    | some m =>
      let k := s.core t.core
      let real := diff.filter (fun d => m.rot.any (fun r => r.1 == d.pass) && decide (d.row < 32) && k.spare != some d.row && !k.covered.contains d.row)
      let hit := real.filter (fun d => m.full || m.rot.any (fun r => r.1 == d.pass && r.2 == d.row / 4))
      if hit.isEmpty then
        let vals := m.vals.map (fun v => if real.any (fun d => d.pass * 32 + d.row == v.1) then
          (v.1, (List.range m.span).map (fun i => Config.upsetWord (s.fresh + v.1 * 256 + i))) else v)
        let s1 := { s with fresh := s.fresh + (if real.isEmpty then 0 else 262144) }
        .next (noteIdle (s1.putTeam (((t.rowsMatch m).writeMat m vals).setMat m none)) t.core)
      else
        let rows := hit.foldl (fun l d => sadd d.row l) []
        let again := rows.filter (fun r => decide (m.replays > 0) && m.seen.contains r)
        let s1 := again.foldl (fun s r => spareRow s t.core (s.qOf t) (s.ctxOf t) r) s
        let m' := { m with full := true, replays := m.replays + 1, seen := rows }
        .next ((dropClaims (s1.putTeam ((t.rowsDiffer m).setMat m (some m'))) h).later (.mmaComplete h (diff.filter (·.persist))))

/-- OXMM_COMPLETE (R225): the results are written. -/
def execOxmmComplete (h : Nat) (s : State) : Host.Outcome State Fault Refusal :=
  match s.team h with
  | none => .next s
  | some t => match t.firstMat true with
    | none => .next s
    | some m => .next (s.putTeam ((t.writeMat m m.vals).setMat m none))

end Sys2Proof.Machine
end

