-- ==== Sys2Proof/Machine/Sync.lean ====
section
/-! DEFINITION. Barriers (R200, R201, R211) and `WAITNE` (R202). -/

namespace Sys2Proof.Machine

/-- A barrier nobody has arrived at (R200). -/
def Barrier.fresh : Barrier := ⟨0, []⟩

/-- Product of the extents of the levels above group, up to the innermost cluster-bound one (R32, R200); none without a
cluster-bound level. -/
def clusterSpan (lr : LaunchRec) : Option Nat :=
  match (lr.levels.filter (fun l => decide (2 ≤ l.domain))).head? with
  | some l => if l.domain = 2 then some l.extent else none
  | none => none

/-- The instance of the innermost cluster-bound level a group lies in. -/
def clusterInst (s : State) (g : Group) : Option (Nat × Nat) :=
  (s.launch g.launch).bind (fun l => (clusterSpan l.lr).map (fun e => (l.id, g.gid / e)))

/-- The participants of a group's barriers (R200). -/
def groupParts (g : Group) : List (Nat × Nat) := g.live.map (fun j => (g.id, j))
/-- The participants of an instance's barriers (R200). -/
def instParts (s : State) (x : Nat × Nat) : List (Nat × Nat) :=
  (s.groups.filter (fun g => clusterInst s g == some x)).flatMap groupParts

/-- A phase in which every participant has arrived completes (R200). -/
def Barrier.settle (b : Barrier) (parts : List (Nat × Nat)) : Barrier :=
  if !b.arr.isEmpty && parts.all (fun p => b.arr.contains p) then ⟨b.phase + 1, []⟩ else b

/-- The four barriers of a cluster-level instance. -/
def instBars (s : State) (x : Nat × Nat) : List Barrier :=
  match s.cbars.find? (fun y => y.1 == x) with | some y => y.2 | none => List.replicate 4 Barrier.fresh
/-- The state with the barriers of an instance put. -/
def setInstBars (s : State) (x : Nat × Nat) (bs : List Barrier) : State :=
  { s with cbars := s.cbars.filter (fun y => y.1 != x) ++ [(x, bs)] }

/-- Every barrier of a group and of its instance settles, as when a participant has retired (R200). -/
def settleBars (s : State) (gid : Nat) : State :=
  match s.group gid with
  | none => s
  | some g =>
    let s := s.setGroup gid (fun g => { g with bars := g.bars.map (fun b => b.settle (groupParts g)) })
    match clusterInst s g with
    | some x => if s.cbars.any (fun y => y.1 == x) then setInstBars s x ((instBars s x).map (fun b => b.settle (instParts s x))) else s
    | none => s

/-- The barrier an instruction names: `clu`, number. -/
def barOf (s : State) (g : Group) (clu : Bool) (n : Nat) : Barrier :=
  if clu then (match clusterInst s g with
    | some x => nth Barrier.fresh (instBars s x) n
    | none => Barrier.fresh)
  else nth Barrier.fresh g.bars n

/-- A team arrives at a barrier (R200, R201). -/
def arriveAt (s : State) (t : Team) (g : Group) (clu : Bool) (n : Nat) : State :=
  let me := (t.grp, t.idx)
  if clu then (match clusterInst s g with
    | some x => setInstBars s x (upd (instBars s x) n (fun b => { b with arr := b.arr ++ [me] }.settle (instParts s x)))
    | none => s)
  else s.setGroup g.id (fun g => { g with bars := upd g.bars n (fun b => { b with arr := b.arr ++ [me] }.settle (groupParts g)) })

/-- The wait condition of `WAITB` (R201). -/
def phaseDone (c p : Word) : Bool := let d := (c - p).toNat; decide (1 ≤ d) && decide (d ≤ 2 ^ 31)

/-- The team has a leader that acts on a barrier; a cluster scope in a launch without a cluster-bound level is illegal,
leader or not (R201). -/
def withBarrier (c : Run) (a : Alu) (f : Nat → Res) : Res :=
  match c.s.grpOf c.t with
  | none => .trap trapIllegal
  | some g => if subOf3 a.m == 3 && (clusterInst c.s g).isNone then .trap trapIllegal else withActive c f

/-- What a barrier instruction names: its group, scope and number, read from the leader (R201). -/
def barName (c : Run) (a : Alu) (l : Nat) : V (Group × Bool × Nat) :=
  let clu := subOf3 a.m == 3
  match c.s.grpOf c.t with
  | none => .bad trapIllegal
  | some g => (c.reg l a.va).map (fun x => (g, clu, if clu then x.toNat % 4 else x.toNat % 16))

/-- The scope a barrier instruction releases at. -/
def barScope (clu : Bool) : Nat := if clu then 3 else 2

/-- A team may arrive now: its release can perform and it has not arrived in the current phase (R201). -/
def canArrive (c : Run) (x : Group × Bool × Nat) : Bool :=
  releaseReady c.s c.t (barScope x.2.1) && !(barOf c.s x.1 x.2.1 x.2.2).arr.contains (c.t.grp, c.t.idx)

/-- ARRIVE (R201). -/
def execArrive (a : Alu) (s : State) :=
  runI (.arrive a) (fun c => withBarrier c a (fun l => (barName c a l).res (fun x =>
    if !canArrive c x then .hold c.s
    else
      let p := (barOf c.s x.1 x.2.1 x.2.2).phase
      let s := arriveAt c.s c.t x.1 x.2.1 x.2.2
      .done { Done.seq (s.putTeam (c.t.writeAll c.t.all a.vd.toNat p 0)) with
        reads := some [(l, a.va.toNat)], writes := [(a.vd.toNat, c.t.all)] }))) s
/-- WAITB (R201). -/
def execWaitb (a : Alu) (s : State) :=
  runI (.waitb a) (fun c => withBarrier c a (fun l => (V.both (barName c a l) (c.reg l (srcField a.b))).res (fun x =>
    if phaseDone (barOf c.s x.1.1 x.1.2.1 x.1.2.2).phase x.2 then
      .done { Done.seq (c.s.orderPoint c.t.hnd) with reads := some [(l, a.va.toNat), (l, (srcField a.b).toNat)] }
    else .hold c.s))) s
/-- The wait of a `BAR` whose arrival is recorded (R201, R211). -/
def barWait (c : Run) (s : State) (g : Group) (w : BarWait) (reads : List (Nat × Nat)) : Res :=
  if phaseDone (barOf s ((s.group g.id).getD g) w.clu w.num).phase w.phase then
    .done { Done.seq ((s.setTeam c.t.hnd (fun t => { t with bwt := none })).orderPoint c.t.hnd) with reads := some reads }
  else .hold (s.setTeam c.t.hnd (fun t => { t with bwt := some w }))
/-- BAR (R201, R211). -/
def execBar (a : Alu) (s : State) :=
  runI (.bar a) (fun c => withBarrier c a (fun l => (barName c a l).res (fun x =>
    match c.t.bwt with
    | some w => barWait c c.s x.1 w [(l, a.va.toNat)]
    | none =>
      if !canArrive c x then .hold c.s
      else if c.stalls (some [(l, a.va.toNat)]) then .trap trapStall
      else
        let p := (barOf c.s x.1 x.2.1 x.2.2).phase
        barWait c (arriveAt c.s c.t x.1 x.2.1 x.2.2) x.1 ⟨x.2.1, x.2.2, p⟩ [(l, a.va.toNat)]))) s

/-- WAITNE (R202): its final read acquires where its order says so. -/
def execWaitne (a : Mem) (s : State) :=
  runI (.waitne a) (fun c => withActive c (fun l =>
    (V.both (c.reg l a.vb) (c.alignedAt l a.va (memOff a) 4 4 (needStrong false true))).res (fun x =>
      let xs : List Access := [⟨l, x.2, []⟩]
      whenReady c false ⟨1, 0, c.t.pc.toNat / 8 % 256, false⟩ xs (fun s =>
        let v := word (readLocs s c.core c.ctx x.2)
        if v = x.1 then .hold (s.uncharge c.s)
        else
          let s := (endAccess s c.core x.2).setTeam c.t.hnd (fun t => t.writeAll t.all a.vd.toNat v 0)
          .done { Done.seq (if isAcquire (memOrd a) then s.orderPoint c.t.hnd else s) with reads := some ((l, a.vb.toNat) :: regsIn l a.va 2), writes := [(a.vd.toNat, c.t.all)] })))) s

end Sys2Proof.Machine
end

