-- ==== Sys2Proof/Machine/Engine.lean ====
section
/-! DEFINITION. Engine commands: what they test and fix at issue (R228 to R232, R236 to R238), their local read and write
sets (R234), how a copy moves its bytes (R230, R233), the nodes of a graph (R239, R240), and the end of a command (R228).
-/

namespace Sys2Proof.Machine

/-! ## Local ranges -/

/-- A set of local bytes: slot number, or 129 + core for scratchpad; first byte; bytes (R234). -/
abbrev LocalRange := Nat × Nat × Nat
/-- Two local ranges meet. -/
def rangesMeet (x y : LocalRange) : Bool := x.1 == y.1 && decide (x.2.1 < y.2.1 + y.2.2) && decide (y.2.1 < x.2.1 + x.2.2)
/-- The local range of a place. -/
def eRange (l : ELoc) (n : Nat) : List LocalRange :=
  match l with
  | .scr core off => if n = 0 then [] else [(129 + core, off, n)]
  | .slot k off => if n = 0 then [] else [(k, off, n)]
  | _ => []
/-- A place some bytes on. -/
def ELoc.plus (l : ELoc) (n : Nat) : ELoc :=
  match l with
  | .glob va => .glob (va + n)
  | .scr c o => .scr c (o + n)
  | .crv t o => .crv t (o + n)
  | .slot k o => .slot k (o + n)

/-- A scratchpad range of a context lies in allocations of its resident groups (R97, R230). -/
def scrOk (s : State) (ctx core off n : Nat) : Bool := decide (off + n ≤ 2 ^ 19) && (List.range n).all (fun i => inAlloc s ctx core (off + i))
/-- A range of the group's own allocation (R229). -/
def ownOk (g : Group) (off n : Nat) : Bool := decide (g.sbase ≤ off) && decide (off + n ≤ g.sbase + g.sbytes)
/-- A slot range lies in the data or in the side area of a slot the group owns (R230). -/
def slotOk (s : State) (g : Group) (k off n : Nat) : Bool :=
  decide (k < 128) && (s.core g.core).owns k g.id &&
  (if off < 2048 then decide (off + n ≤ 2048) else decide (off + n ≤ 2304))

/-- The place a local descriptor names (Table 11-7); none for a bad one. -/
def descAt (g : Group) (slot : Bool) (d : Nat) : Option ELoc :=
  if slot then
    (if bits d 19 13 ≠ 0 ∨ (bitAt d 11 ∧ bits d 0 11 ≥ 256) then none
     else some (.slot (bits d 12 7) (bits d 0 11 + (if bitAt d 11 then 2048 else 0))))
  else if bits d 23 9 ≠ 0 ∨ bits d 19 4 ≥ 12 then none
  else some (.scr (peerCore g.core (bits d 19 4)) (bits d 0 19))
/-- A local range may be used by the group (R230). -/
def placeOk (s : State) (g : Group) (l : ELoc) (n : Nat) : Bool :=
  match l with
  | .scr c o => scrOk s g.ctx c o n
  | .slot k o => slotOk s g k o n
  | _ => true

/-- A pointer of an engine command to a place: space 0 or 1 as allowed (R229, R151). -/
def ptrPlace (core : Nat) (p : DWord) (glob scr : Bool) : Option ELoc :=
  if !ptrOk p then none
  else if ptrSpace p = 0 ∧ glob then some (.glob (ptrField p))
  else if ptrSpace p = 1 ∧ scr then some (.scr (peerCore core (ptrSel p)) (ptrField p))
  else none

/-- The offset a pointer gives in the issuing core's own scratchpad, in the group's allocation, aligned (R229). -/
def ownAt (g : Group) (r : Option Nat) (p : DWord) (n align : Nat) : V Nat :=
  if !ptrOk p ∨ ptrSpace p ≠ 1 ∨ ptrSel p ≠ rankOf g.core then .bad (trapAddr r p)
  else (V.both (V.test (decide (ptrField p % align = 0)) (trapAlign r p))
    (V.test (ownOk g (ptrField p) n) (trapAddr r p))).map (fun _ => ptrField p)

/-- A scratchpad record of n bytes read as a number, under the poison test (R118). -/
def scrRecord (s : State) (core : Nat) (r : Option Nat) (p : DWord) (off n : Nat) : V Nat :=
  let a := core * 2 ^ 19 + off
  if (List.range n).any (fun i => s.scrPsn.contains ((a + i) / 8)) then .bad (trapPoison r p)
  else match (List.range n).find? (fun i => s.flaws.contains (1, a + i)) with
    | some i => .bad (trapPoison r (p + BitVec.ofNat 64 i))
    | none => .ok (leNat ((List.range n).map (fun i => s.scrByte (a + i))))

/-! ## Copies -/

/-- What a command does, with its local read and write sets. -/
structure Plan where
  op : EOp
  rd : List LocalRange
  wr : List LocalRange

/-- The rows of a 2-D copy (R231). -/
def rows2d (va : Nat) (dst : ELoc) (v : Nat) : List (Nat × ELoc) :=
  (List.range (bits v 64 16)).map (fun (r : Nat) =>
    let x : Int := (va : Int) + (r : Int) * sint (bits v 96 32) 32
    (if x < 0 then 2 ^ 48 else x.toNat, dst.plus ((r : Nat) * bits v 80 16 : Nat)))
/-- Every row of a 2-D copy stays in the area, data or side, that the descriptor names (R230). -/
def rowsInArea (d : ELoc) (rows : List (Nat × ELoc)) : Bool :=
  match d with
  | .slot _ o => rows.all (fun y => match y.2 with | .slot _ p => decide (o < 2048) == decide (p < 2048) | _ => true)
  | _ => true

/-- The plan of a 2-D copy from its record (R231). -/
def c2dPlan (s : State) (g : Group) (r : Option Nat) (p : DWord) (va v : Nat) : V Plan :=
  match descAt g (bitAt v 32) (bits v 0 32) with
  | none => .bad (trapAddr r p)
  | some d =>
    let rows := rows2d va d v
    let n := bits v 48 16
    if bits v 33 15 ≠ 0 ∨ bits v 64 16 = 0 ∨ n = 0 then .bad (trapAddr r p)
    else if !rows.all (fun y => placeOk s g y.2 n) || !rowsInArea d rows then .bad (trapAddr r p)
    else .ok ⟨.move (rows.map (fun y => (.glob y.1, y.2, n))) false, [], rows.flatMap (fun y => eRange y.2 n)⟩
/-- The plan of a gather from its record (R232); the alignment of its list is tested beside the rest (R342). -/
def gathPlan (s : State) (g : Group) (r : Option Nat) (p q : DWord) (va v : Nat) : V Plan :=
  let cnt := bits v 96 16
  let e := 2 ^ bits v 88 3
  let io := bits v 64 19
  let fields := bits v 112 16 == 0 && bits v 91 5 == 0 && bits v 83 5 == 0 && bits v 33 31 == 0 && cnt != 0 && decide (bits v 88 3 ≤ 4)
  let rest : V ELoc := match descAt g (bitAt v 32) (bits v 0 32) with
    | none => .bad (trapAddr r p)
    | some d => if fields && scrOk s g.ctx g.core io (4 * cnt) && placeOk s g d (e * cnt) then .ok d else .bad (trapAddr r p)
  (V.both (V.test (io % 4 == 0) (trapAlign r q)) rest).map (fun x =>
    ⟨.gather va io cnt e x.2, [(129 + g.core, io, 4 * cnt)], eRange x.2 (e * cnt)⟩)

/-- The plan of a copy function (R230 to R232): every test of its operands made. -/
def copyPlan (s : State) (g : Group) (r : Option Nat) (fn : Nat) (p q : DWord) : V Plan :=
  let bad := V.bad (trapAddr r p)
  if fn < 5 then
    let len := bits q.toNat 32 20
    let src := ptrPlace g.core p (fn == 0 || fn == 1 || fn == 3) (fn == 2 || fn == 4)
    match src, descAt g (fn == 3 || fn == 4) (bits q.toNat 0 32) with
    | some a, some d =>
      if bits q.toNat 52 12 ≠ 0 ∨ len > 524288 then bad
      else if !placeOk s g a len || !placeOk s g d len then bad
      else
        let (x, y) := if fn = 1 then (d, a) else (a, d)
        .ok ⟨.move [(x, y, len)] (fn == 1), eRange x len, eRange y len⟩
    | _, _ => bad
  else
    let base : V Nat := match ptrPlace g.core p true false with | some (.glob va) => .ok va | _ => .bad (trapAddr r p)
    let va := match base with | .ok a => a | .bad _ => 0
    (V.both base (((ownAt g r q 16 8).bind (fun off => scrRecord s g.core r q off 16)).bind (fun v =>
      if fn = 5 then c2dPlan s g r p va v else gathPlan s g r p q va v))).map (·.2)

/-! ## Nodes of a graph -/

/-- The 256 bits of node x of a group's allocation, when it lies wholly inside (R238). -/
def nodeBits (s : State) (g : Group) (x : Nat) : Option Nat :=
  if x ≥ 16384 ∨ !ownOk g (g.sbase + 32 * x) 32 then none
  else some (leNat ((List.range 32).map (fun i => s.scrByte (g.core * 2 ^ 19 + g.sbase + 32 * x + i))))
/-- The kind of a node. -/
def nodeKind (v : Nat) : Nat := bits v 0 4
/-- Its successors. -/
def nodeNext0 (v : Nat) : Nat := bits v 32 16
/-- The second successor. -/
def nodeNext1 (v : Nat) : Nat := bits v 48 16
/-- The state field. -/
def nodeState (v : Nat) : Nat := bits v 16 16
/-- A successor is none or a node wholly inside the allocation. -/
def succOk (g : Group) (x : Nat) : Bool := x == 65535 || (decide (x < 16384) && ownOk g (g.sbase + 32 * x) 32)
/-- The condition word a node names lies in the allocation, aligned (R229). -/
def cwOk (g : Group) (v : Nat) : Bool := bits v 64 19 % 4 == 0 && ownOk g (bits v 64 19) 4
/-- Payload bits outside the named ones are 0 (R239). -/
def payloadOk (v : Nat) : Bool :=
  match nodeKind v with
  | 0 => bits v 64 192 == 0
  | 1 => bits v 64 48 == 0
  | 2 => bits v 71 57 == 0
  | 3 => bits v 83 173 == 0
  | 4 => bits v 83 13 == 0 && bits v 112 144 == 0
  | _ => bits v 72 184 == 0
/-- A node is valid (R240). -/
def nodeOk (s : State) (g : Group) (v : Nat) : Bool :=
  decide (nodeKind v ≤ 5) && bits v 4 12 == 0 && payloadOk v && succOk g (nodeNext0 v) && succOk g (nodeNext1 v) &&
  (match nodeKind v with
    | 0 => nodeNext0 v == 65535 && nodeNext1 v == 65535
    | 1 => bits v 192 64 % 64 == 0 && decide (1 ≤ bits v 112 8) && decide (bits v 112 8 ≤ 32)
    | 2 => decide (bits v 64 7 ≤ 6) &&
      (match copyPlan s g none (bits v 64 7) (BitVec.ofNat 64 (bits v 192 64)) (BitVec.ofNat 64 (bits v 128 64)) with | .ok _ => true | .bad _ => false)
    | 3 => cwOk g v
    | 4 => cwOk g v
    | _ => nodeNext1 v == 65535 && decide (1 ≤ bits v 64 8))

/-- The step that acts on a node of a kind. -/
def nodeEvent (core walk kind : Nat) : Event :=
  match kind with
  | 0 => .nodeEnd core walk
  | 1 => .nodeLaunchTeam core walk
  | 2 => .nodeCopy core walk
  | 3 => .nodeCondition core walk
  | 4 => .nodeWhile core walk
  | _ => .nodeJoin core walk

/-- The weaver changed. -/
def setWeaver (s : State) (core : Nat) (f : Weaver → Weaver) : State := s.setCore core (fun k => { k with weaver := f k.weaver })

/-- A walk ends; with none left, and no fork waiting, the graph completes (R240). -/
def dropWalk (s : State) (core id : Nat) : State :=
  let s := setWeaver s core (fun w => { w with walks := w.walks.filter (fun x => x.id != id) })
  if (s.core core).weaver.walks.isEmpty then s.later (.graphComplete core) else s

/-- A walk stands at a node: the step its kind asks for becomes due, or the graph fails (R240). -/
def enterNode (s : State) (core id x : Nat) : State :=
  let w := (s.core core).weaver
  let g := w.run.bind (fun r => s.group r.1)
  match g with
  | none => s
  | some g =>
    if w.st = 7 ∨ x = 65535 then dropWalk s core id
    else match nodeBits s g x with
      | none => dropWalk (setWeaver s core (fun w => { w with st := 7, bad := x })) core id
      | some v =>
        if nodeOk s g v then
          (setWeaver s core (fun w => { w with walks := w.walks.map (fun y => if y.id = id then { y with node := x, word := v, st := .ready } else y) })).later
            (nodeEvent core id (nodeKind v))
        else dropWalk (setWeaver s core (fun w => { w with st := 7, bad := x })) core id

/-- Forks that waited are taken, oldest first, while fewer than 64 walks run; a failed graph takes none (R240). -/
def takeForks (core : Nat) : Nat → State → State
  | 0, s => s
  | n + 1, s =>
    let w := (s.core core).weaver
    match w.forks with
    | [] => s
    | x :: rest =>
      if w.st = 7 then setWeaver s core (fun w => { w with forks := [] })
      else if w.walks.length ≥ 64 then s
      else
        let id := s.names
        takeForks core n (enterNode (setWeaver { s with names := id + 1 } core (fun w => { w with forks := rest, walks := w.walks ++ [⟨id, x, 0, .ready⟩] })) core id x)
/-- Forks that waited are taken. -/
def afterWalk (s : State) (core : Nat) : State := takeForks core ((s.core core).weaver.forks.length + 1) s
/-- A fork at a node: a new walk, at once or once fewer than 64 walks run (R240). -/
def fork (s : State) (core x : Nat) : State :=
  if x = 65535 then s else afterWalk (setWeaver s core (fun w => { w with forks := w.forks ++ [x] })) core
/-- A walk ends, and a fork that waited may take its place. -/
def endWalk (s : State) (core id : Nat) : State := afterWalk (dropWalk s core id) core
/-- A walk goes on from the node it stands at to a successor, the node counted complete (R238). -/
def walkOn (s : State) (core id x : Nat) : State :=
  afterWalk (enterNode (setWeaver s core (fun w => { w with done := w.done + 1 })) core id x) core

/-! ## Issue -/

/-- Commands a team has outstanding (R228). -/
def outstanding (s : State) (h : Nat) : Nat := (s.ecmds.filter (fun e => e.issuer == .team h)).length

/-- No peer's answer: a command is to go on by itself (the model's own; Table 11-6 has no such status). -/
def noAnswer : PeerReply := ⟨256, []⟩

/-- A team's command joins those outstanding; its reply register is owed (R228, R129). -/
def addCmd (c : Run) (s : State) (g : Group) (p : Plan) (rep : Option Nat) : State :=
  let id := s.names
  let e : ECmd := { id := id, op := p.op, issuer := .team c.t.hnd, grp := g.id, q := g.q, ctx := c.ctx, core := g.core, pc := c.t.pc,
                    sup := c.sup, rep := rep, rd := p.rd, wr := p.wr, moved := 0, wait := none, tries := 0, sent := false, peer := none,
                    fin := none }
  let s := { s with names := id + 1, ecmds := s.ecmds ++ [e] }
  (s.setTeam c.t.hnd (fun t => { t with pend := match rep with | some r => sadd r t.pend | none => t.pend })).later
    (.engineCommandComplete id noAnswer)

/-- The frame of `XC` (R228): the leader's P and Q, the function's tests, the limit of 64, the command. `plan` goes on with what the
command does, once a record in space 0 can be read. The registers the reply will overwrite are no producer's any more (R130). -/
def xcRow (a : XcF) (useP useQ : Bool) (plan : Run → Group → Nat → DWord → DWord → (State → V Plan → Res) → Res) (c : Run) : Res :=
  withActive c (fun l => match c.s.grpOf c.t with
    | none => .done (Done.seq c.s)
    | some g =>
      if outstanding c.s c.t.hnd ≥ 64 then .hold c.s
      else (V.both (if useP then c.pair l a.va else .ok 0) (if useQ then c.pair l a.vb else .ok 0)).res (fun x =>
        plan c g l x.1 x.2 (fun s v => v.res (fun p =>
          .done { Done.seq (addCmd c s g p (if a.rep then some a.vd.toNat else none)) with
            reads := some ((if useP then regsIn l a.va 2 else []) ++ (if useQ then regsIn l a.vb 2 else [])),
            writes := if a.rep then [(a.vd.toNat, c.t.all)] else [] }))))

/-- A copy's frame. -/
def xcCopy (a : XcF) (fn : Nat) (c : Run) : Res :=
  xcRow a true true (fun c g l p q k => k c.s (copyPlan c.s g (some l) fn p q)) c

/-- XC.G2S (R230). -/
def execXcG2s (a : XcF) (s : State) := runI (.xcG2s a) (xcCopy a 0) s
/-- XC.S2G (R230). -/
def execXcS2g (a : XcF) (s : State) := runI (.xcS2g a) (xcCopy a 1) s
/-- XC.S2S (R230). -/
def execXcS2s (a : XcF) (s : State) := runI (.xcS2s a) (xcCopy a 2) s
/-- XC.G2O (R230). -/
def execXcG2o (a : XcF) (s : State) := runI (.xcG2o a) (xcCopy a 3) s
/-- XC.S2O (R230). -/
def execXcS2o (a : XcF) (s : State) := runI (.xcS2o a) (xcCopy a 4) s
/-- XC.C2D (R231). -/
def execXcC2d (a : XcF) (s : State) := runI (.xcC2d a) (xcCopy a 5) s
/-- XC.GATH (R232). -/
def execXcGath (a : XcF) (s : State) := runI (.xcGath a) (xcCopy a 6) s

/-- A record of 32 bytes in the group's allocation, or in space 0, where it is read as a load of the team (R229). -/
def bigRecord (c : Run) (g : Group) (l : Nat) (p : DWord) (k : State → V Nat → Res) : Res :=
  if ptrSpace p = 0 then
    (V.both (V.test (decide (p.toNat % 8 = 0)) (trapAlign (some l) p)) (c.places l Need.rd p 32)).res (fun x =>
      whenReady c false ⟨0, 0, c.t.pc.toNat / 8 % 256, false⟩ [⟨l, x.2, []⟩] (fun s =>
        k (endAccess s c.core x.2) (.ok (leNat (x.2.map (readPlain s c.t))))))
  else k c.s ((ownAt g (some l) p 32 8).bind (fun off => scrRecord c.s g.core (some l) p off 32))

/-- Bytes of a collective element (Table 11-10). -/
def collBytes (dt : Nat) : Nat := nth 4 [4, 2, 2, 8, 4, 4] dt
/-- The ranks of a communicator, 0 when it is unknown. -/
def commSize (s : State) (h : Nat) : Nat := match aget h s.comms with | some c => c.ranks.length | none => 0
/-- The communicator has this rank alone, so that no other rank's answer is needed. -/
def commAlone (s : State) (h : Nat) : Bool := decide (commSize s h ≤ 1)

/-- The plan of a collective from its record (R236): `fn` 0x10 to 0x12. -/
def collPlan (s : State) (fn : Nat) (g : Group) (r : Option Nat) (p q : DWord) (v : Nat) : V Plan :=
  let cnt := bits v 128 32
  let e := collBytes (bits v 180 4)
  let comm := bits v 160 16
  let n := max 1 (commSize s comm)
  match ptrPlace g.core (BitVec.ofNat 64 (bits v 0 64)) true true, ptrPlace g.core (BitVec.ofNat 64 (bits v 64 64)) true true with
  | some snd, some rcv =>
    let ns := e * cnt * (if fn = 16 then n else 1)
    let nr := e * cnt * (if fn = 17 then n else 1)
    if bits v 184 72 ≠ 0 ∨ bits v 180 4 > 5 ∨ bits v 176 4 > 2 ∨ cnt = 0 then .bad (trapAddr r p)
    else if !placeOk s g snd ns || !placeOk s g rcv nr then .bad (trapAddr r p)
    else .ok ⟨.coll fn comm (bits q.toNat 0 32) (bits v 176 4) (bits v 180 4) cnt snd rcv, eRange snd ns, eRange rcv nr⟩
  | _, _ => .bad (trapAddr r p)
/-- The frame of a collective. -/
def collRow (a : XcF) (fn : Nat) (c : Run) : Res :=
  xcRow a true true (fun c g l p q k => bigRecord c g l p (fun s v => k s (v.bind (collPlan c.s fn g (some l) p q)))) c
/-- XC.RSCAT (R236). -/
def execXcRscat (a : XcF) (s : State) := runI (.xcRscat a) (collRow a 16) s
/-- XC.AGATH (R236). -/
def execXcAgath (a : XcF) (s : State) := runI (.xcAgath a) (collRow a 17) s
/-- XC.AREDU (R236). -/
def execXcAredu (a : XcF) (s : State) := runI (.xcAredu a) (collRow a 18) s

/-- The device and context of a rank (R390). -/
def rankAt (s : State) (comm peer : Nat) : Option (Nat × Nat) :=
  (aget comm s.comms).bind (fun c => (c.ranks[peer]?).map (fun r => (r.1, r.2.1)))
/-- The plan of a transfer from its record (R237). -/
def xferPlan (s : State) (put : Bool) (g : Group) (r : Option Nat) (p q : DWord) (v : Nat) : V Plan :=
  let len := bits v 128 32
  let rem : DWord := BitVec.ofNat 64 (bits v 64 64)
  match ptrPlace g.core (BitVec.ofNat 64 (bits v 0 64)) true true with
  | some loc =>
    if bits v 193 63 ≠ 0 ∨ !ptrOk rem ∨ ptrSpace rem ≠ 0 then .bad (trapAddr r p)
    else if !placeOk s g loc len then .bad (trapAddr r p)
    else .ok ⟨.xfer put (bits v 160 16) (bits v 176 16) rem.toNat loc len (bitAt v 192) (bits q.toNat 0 32),
      if put then eRange loc len else [], if put then [] else eRange loc len⟩
  | none => .bad (trapAddr r p)
/-- The frame of a transfer. -/
def xferRow (a : XcF) (put : Bool) (c : Run) : Res :=
  xcRow a true true (fun c g l p q k => bigRecord c g l p (fun s v => k s (v.bind (xferPlan c.s put g (some l) p q)))) c
/-- XC.PUT (R237). -/
def execXcPut (a : XcF) (s : State) := runI (.xcPut a) (xferRow a true) s
/-- XC.GET (R237). -/
def execXcGet (a : XcF) (s : State) := runI (.xcGet a) (xferRow a false) s

/-- XC.GSTART (R238). -/
def execXcGstart (a : XcF) (s : State) :=
  runI (.xcGstart a) (xcRow a true false (fun c g l p _ k => k c.s
    ((ownAt g (some l) p 32 32).bind (fun off =>
      if (off - g.sbase) % 32 = 0 then .ok ⟨.gstart ((off - g.sbase) / 32), [], []⟩ else .bad (trapAddr (some l) p))))) s
/-- XC.GSTAT (R238). -/
def execXcGstat (a : XcF) (s : State) :=
  runI (.xcGstat a) (xcRow a false false (fun c g _ _ _ k =>
    let w := (c.s.core g.core).weaver
    k c.s (.ok ⟨.gstat (word (min w.done 0xffffff * 256 + (if w.run.isSome then 0x11 else 0x10))), [], []⟩))) s
/-- XC.GCOND (R238): a write of group scope, release order. The word stands in no scoreboard set (R234), but `OPFENCE` counts the command
among those that write scratchpad (R223). -/
def execXcGcond (a : XcF) (s : State) :=
  runI (.xcGcond a) (xcRow a true true (fun c g l p q k => k c.s
    ((ownAt g (some l) p 4 4).map (fun off => ⟨.gcond off (word q.toNat), [], []⟩)))) s

/-! ## Moving bytes -/

/-- Where a byte of a place lies, tested as the engine reaches it (R233). -/
def engineLoc (s : State) (e : ECmd) (nd : Need) (l : ELoc) : V (Option Loc) :=
  match l with
  | .glob va => if va ≥ 2 ^ 48 then .bad (trapAddr none (BitVec.ofNat 64 va)) else (locate s e.ctx e.core e.sup nd none (BitVec.ofNat 64 va) 1).map List.head?
  | .scr c o =>
    let k := c * 2 ^ 19 + o
    if nd.read && (s.scrPsn.contains (k / 8) || s.flaws.contains (1, k)) then .bad (trapPoison none (BitVec.ofNat 64 (2 ^ 60 + rankOf c * 2 ^ 48 + o)))
    else .ok (some (.scr k))
  | .crv t o => .ok (some (.crv (t * 2 ^ 34 + o)))
  | .slot _ _ => .ok none

/-- The handle of the team that issued a command (R233). -/
def ECmd.hnd (e : ECmd) : Nat := match e.issuer with | .team h => h | .node _ _ h => h | .host _ => Config.noIssuer
/-- The name under which the write-throughs of a command go: no team's handle (R320). -/
def ECmd.writer (e : ECmd) : Nat := 2 ^ 21 + e.id
/-- The reservation that governs a command (R361, R371). -/
def ECmd.mbw (e : ECmd) (s : State) : Nat :=
  match (s.group e.grp).bind (fun g => s.launch g.launch) with | some l => l.qr.mbw | none => (s.queue e.q).cfg.mbw

/-- What a run of bytes came to: the state, bytes moved, and what stopped it: a fault with its context, or another agent or a budget to
wait for. -/
structure Moved where
  s : State
  n : Nat
  stop : Option (Trap × Nat)
  busy : Bool

/-- Bytes that can be reached from a place on, up to n, with the fault that ends them. -/
def reachable (s : State) (e : ECmd) (nd : Need) (l : ELoc) (n : Nat) : List (Option Loc) × Option (Trap × Nat) :=
  let vs := (List.range n).map (fun i => engineLoc s e nd (l.plus i))
  let ok := vs.takeWhile (fun v => match v with | .ok _ => true | .bad _ => false)
  (ok.filterMap (fun v => match v with | .ok x => some x | .bad _ => none),
   match vs[ok.length]? with | some (.bad t) => some (t, e.ctx) | _ => none)

/-- The byte at a place. -/
def engineByte (s : State) (e : ECmd) (l : ELoc) (p : Option Loc) : Byte :=
  match l, p with
  | .slot k o, _ => s.slotByte (slotBase e.core k + o)
  | _, some q => readLoc s e.core e.ctx q
  | _, none => 0

/-- The engine may write a sector: it takes every token and the owner token for its access (R327), and leaves them with the L1 of its
core where that holds words of the sector, which absorb the write (R108), else at the port. -/
def engineAcquire (core : Nat) (s : State) (x : Nat) : State × Bool :=
  acquireWrite s (dieOf core) (if (s.core core).hasSector x then core % 48 else 97) (some core) x
/-- Makes the places of an engine's access ready, under policy `.BYP` (R233); what must come from elsewhere first. -/
def enginePrep (s : State) (e : ECmd) (write : Bool) (ls : List Loc) : State × List Nat :=
  let acq := if write then engineAcquire e.core else fun s x => acquireRead s (dieOf e.core) 97 (ctxSub e.ctx) x
  let r := acquireAll (cacheLocs s ls) acq (distinct (· / 64) (cohAddrs ls))
  let away := if write then [] else smAway r.1 e.core (smAddrs ls)
  if (r.2 ++ away).isEmpty then (r.1, []) else (askAway r.1 e.core ⟨1, 3, 0, false⟩ (smAddrs ls) away, r.2 ++ away)

/-- The bytes at a place from its start on, as far as they can be reached, where their sectors can be read now and the budgets have room
(R371). -/
def engineRead (s : State) (e : ECmd) (l : ELoc) (n : Nat) : Moved × List Byte :=
  let r := reachable s e Need.rd l n
  let ls := r.1.filterMap id
  let k := (globAddrs ls).length
  if k != 0 && !memRoom s e.core e.q (e.mbw s) then (⟨s, 0, none, true⟩, [])
  else
    let p := enginePrep s e false ls
    if !p.2.isEmpty then (⟨p.1, 0, none, true⟩, [])
    else
      let bs := r.1.mapIdx (fun i p1 => engineByte p.1 e (l.plus i) p1)
      let s := idleSectors (endAccess p.1 e.core ls) (dieOf e.core) (distinct (· / 64) (cohAddrs ls))
      (⟨if k = 0 then s else memCharge s e.core e.q k, 0, r.2, false⟩, bs)

/-- Bytes written at a place from its start on, as far as it can be reached, where its sectors can be written now and the budgets have
room (R371). -/
def engineWrite (s : State) (e : ECmd) (l : ELoc) (bs : List Byte) : Moved :=
  match l with
  | .slot k o =>
    let cs := cellsAt (slotBase e.core k + o) bs
    ⟨{ s with slotm := s.slotm.putAll cs, slotUnd := undCells s.slotUnd cs }, bs.length, none, false⟩
  | _ =>
    let w := reachable s e Need.wr l bs.length
    let ls := w.1.filterMap id
    let k := (globAddrs ls).length
    if k != 0 && !memRoom s e.core e.q (e.mbw s) then ⟨s, 0, none, true⟩
    else
      let p := enginePrep s e true ls
      if !p.2.isEmpty then ⟨p.1, 0, none, true⟩
      else
        let s := writeLocs (noteOlder p.1 ls) e.writer e.q e.core (ls.zip bs)
        let s := idleSectors s (dieOf e.core) (distinct (· / 64) (cohAddrs ls))
        ⟨if k = 0 then s else memCharge s e.core e.q k, ls.length, w.2, false⟩

/-- Moves up to n bytes from one place to another, ascending (R230). A budget that has room admits the whole of a run. -/
def moveRun (s : State) (e : ECmd) (x y : ELoc) (n : Nat) : Moved :=
  let w := match y with | .slot _ _ => n | _ => (reachable s e Need.wr y n).1.length
  let r := engineRead s e x w
  if r.1.busy then r.1
  else
    let m := engineWrite r.1.s e y r.2
    if m.busy then { m with s := m.s.uncharge s }
    else if m.n = w ∧ w < n then ⟨m.s, m.n, (reachable s e Need.wr (y.plus w) 1).2, false⟩
    else { m with stop := if m.stop.isSome then m.stop else r.1.stop }

/-- The two ends share bytes, so that the order of bytes matters. -/
def overlaps (x y : ELoc) (n : Nat) : Bool := (eRange x n).any (fun a => (eRange y n).any (rangesMeet a))
/-- Moves a part: at once, or byte by byte where its ends share bytes. -/
def movePart (s : State) (e : ECmd) (x y : ELoc) (n : Nat) : Moved :=
  if overlaps x y n then
    (List.range n).foldl (fun m i => if m.stop.isSome || m.busy then m else
      let r := moveRun m.s e (x.plus i) (y.plus i) 1
      { r with n := m.n + r.n }) ⟨s, 0, none, false⟩
  else moveRun s e x y n

/-- Moves the parts of a copy from byte `skip` on. -/
def moveParts (s : State) (e : ECmd) : List (ELoc × ELoc × Nat) → Nat → Moved
  | [], _ => ⟨s, 0, none, false⟩
  | (x, y, n) :: ps, skip =>
    if skip ≥ n then moveParts s e ps (skip - n)
    else
      let m := movePart s e (x.plus skip) (y.plus skip) (n - skip)
      if m.stop.isSome || m.busy then m
      else let r := moveParts m.s e ps 0; { r with n := m.n + r.n }

/-- The parts of a gather: its index list is read as it runs (R232). -/
def gatherParts (s : State) (e : ECmd) (base io cnt es : Nat) (dst : ELoc) : List (ELoc × ELoc × Nat) :=
  (List.range cnt).map (fun i =>
    let u := leNat ((List.range 4).map (fun j => s.scrByte (e.core * 2 ^ 19 + io + 4 * i + j)))
    (.glob (base + u * es), dst.plus (i * es), es))

/-! ## The end of a command -/

/-- The reply word (Table 11-6). -/
def replyWord (st cnt : Nat) : Word := word (min cnt 0xffffff * 256 + st)

/-- A command goes on by itself when what it waited for may be there; each becomes due once. -/
def wakeEngine (s : State) (e : ECmd) : State :=
  let ev : Event := .engineCommandComplete e.id noAnswer
  if e.wait.isNone && !s.due.contains ev then s.later ev else s
/-- The commands of a core may go on now that another has ended. -/
def wakeEngines (s : State) (core : Nat) : State := (s.ecmds.filter (fun e => e.core == core)).foldl wakeEngine s

/-- A team's reply register receives its word (R228). -/
def reply (s : State) (h : Nat) (rep : Option Nat) (w : Word) : State :=
  match rep with
  | some r => s.setTeam h (fun t => { t.writeAll t.all r w 0 with pend := sdel r t.pend, mark := s.fresh })
  | none => s

/-- Ends a command (R228): the reply, or, for a failure nobody is told of, a RAS record and the end of its queue (R293); a
graph's walk goes on. -/
def endCmd (s : State) (e : ECmd) (st cnt : Nat) : State :=
  let s := { s with ecmds := s.ecmds.filter (fun x => x.id != e.id), teams := s.teams.map (fun t => { t with opf := sdel e.id t.opf }) }
  let s := (freeReleased s e.core).setQueue e.q (fun q => { q with wd := 0 })
  let s := match e.issuer with
    | .team h =>
      if e.rep.isSome then reply s h e.rep (replyWord st cnt)
      else if st ≠ 0 then
        teardown (rasWrite s 0x0e (rasLoc e.core (hndSec h)) e.q e.ctx 0 (BitVec.ofNat 64 e.pc.toNat) (BitVec.ofNat 64 (replyWord st cnt).toNat)) e.q
      else s
    | .node core walk _ =>
      let s := if st ≠ 0 then setWeaver s core (fun w => if w.st = 0 then { w with st := st } else w) else s
      (match (s.core core).weaver.walks.find? (fun y => y.id == walk) with
        | some y => walkOn s core walk (nodeNext0 y.word)
        | none => s)
    | .host h => completeCmd s h st 0 false
  wakeEngines s e.core

/-- Writes of a command that have not performed yet: write-throughs under way, or, for the host's, writes that wait for permission. -/
def engineOpen (s : State) (e : ECmd) : Bool :=
  s.throughs.any (fun x => x.hnd == e.writer) ||
  (match e.issuer with | .host _ => !s.dwq.isEmpty || s.throughs.any (fun x => x.hnd == 2 ^ 20) | _ => false)
/-- A command has done all it does: it ends once its writes have performed (R320, R324). -/
def finCmd (s : State) (e : ECmd) (st cnt : Nat) : State :=
  if engineOpen s e then s.setECmd e.id (fun x => { x with fin := some (st, cnt) }) else endCmd s e st cnt

/-- Earlier commands of the core that the command must wait for (R234). -/
def blocked (s : State) (e : ECmd) : Bool :=
  let before := (s.ecmds.takeWhile (fun x => x.id != e.id)).filter (fun x => x.core == e.core)
  before.any (fun x => x.wr.any (fun a => (e.rd ++ e.wr).any (rangesMeet a)) || x.rd.any (fun a => e.wr.any (rangesMeet a)))

/-- The number before which the issuing team's accesses come first: that of the command, or, for a copy node, of the `.GSTART` (R319). -/
def ECmd.since (e : ECmd) (s : State) : Nat :=
  match e.issuer with
  | .node core _ _ => (match (s.core core).weaver.run with | some r => r.2 | none => e.id)
  | _ => e.id
/-- The command makes release writes (R323, R324). -/
def EOp.releases (o : EOp) : Bool :=
  match o with
  | .move _ r => r
  | .xfer _ _ _ _ _ _ _ _ => true
  | .gcond _ _ => true
  | _ => false
/-- The issuing team's earlier accesses have performed (R235), and, before a release write, its earlier range operations (R205). -/
def engineReady (s : State) (e : ECmd) : Bool :=
  let n := e.since s
  match s.team e.hnd with
  | none => true
  | some t => (throughsOf s t.hnd).all (fun x => decide (n ≤ x.id)) && t.rel.all (fun r => r.cells.isEmpty || decide (n ≤ r.id)) &&
    (!e.op.releases || t.ranges.all (fun r => decide (n ≤ r.id)))

end Sys2Proof.Machine
end

