-- ==== Sys2Proof/Machine/Command.lean ====
section
/-! DEFINITION. The order in which the commands of a ring start (R379), who may give admin commands (R381), and the end
of a command (R380). -/

namespace Sys2Proof.Machine

/-- A command that holds every later one until it completes (R379). -/
def isWait (e : Event) : Bool := match e with | .wait _ _ _ => true | _ => false
/-- A command that waits for every earlier one to complete (R379). -/
def isSignal (e : Event) : Bool := match e with | .signal _ _ _ => true | _ => false

/-- A command may start: every earlier one has started, no earlier wait is open, and for a signal or a fenced command every
earlier one has completed (R379). -/
def mayStart (cs : List QCmd) (c : QCmd) : Bool :=
  let before := cs.takeWhile (fun x => x != c)
  !c.started && before.all (·.started) && !before.any (fun x => isWait x.step) &&
  (before.isEmpty || !(isSignal c.step || c.hdr.fence))

/-- Commands of a queue that may start become due (R379). -/
def wakeQueue (s : State) (q : Nat) : State :=
  let cs := (s.queue q).cmds
  cs.foldl (fun s c => if mayStart cs c && !s.due.contains c.step then s.later c.step else s) s

/-- A command completes (R380), and later ones may start. -/
def cmdDone (s : State) (h : CmdHdr) (st detail : Nat) (late : Bool) : State := wakeQueue (completeCmd s h st detail late) h.q

/-- The command of a step in its queue. -/
def findCmd (s : State) (h : CmdHdr) (e : Event) : Option QCmd := (s.queue h.q).cmds.find? (fun c => c.hdr == h && c.step == e)

/-- The state in which a command has started. -/
def markStarted (s : State) (h : CmdHdr) (e : Event) : State :=
  s.setQueue h.q (fun q => { q with cmds := q.cmds.map (fun c => if c.hdr = h ∧ c.step = e then { c with started := true } else c) })

/-- Admin commands are accepted on rings of the admin port only (R381). -/
def adminOk (s : State) (h : CmdHdr) : Bool := s.boot.admin == some (s.queue h.q).owner

/-- A command that may start now; one that waits for every earlier one to complete waits for what they write, too (R379, R380). -/
def startsNow (s : State) (h : CmdHdr) (e : Event) : Bool :=
  match findCmd s h e with
  | some c => mayStart (s.queue h.q).cmds c && (s.dwq.isEmpty || !(isSignal e || h.fence))
  | none => false
/-- A command that may start now starts: `f` is its effect, which completes it or leaves it open. -/
def startCmd (e : Event) (h : CmdHdr) (f : State → State) (s : State) : Host.Outcome State Fault Refusal :=
  if startsNow s h e then .next (wakeQueue (f (markStarted s h e)) h.q) else .next s
/-- A command that reads memory first: it starts once the reading `get` is done, and `f` has the bytes, or none where they cannot be read
(R29, R379). -/
def startGet (e : Event) (h : CmdHdr) (get : State → State × Got) (f : State → Option (List Byte) → State) (s : State) : Host.Outcome State Fault Refusal :=
  if !startsNow s h e then .next s
  else match get s with
    | (s, .wait) => .next s
    | (s, .bad) => .next (wakeQueue (f (markStarted s h e) none) h.q)
    | (s, .bytes bs) => .next (wakeQueue (f (markStarted s h e) (some bs)) h.q)
/-- Bytes at a pointer of a command, in its queue's context (Table 27-2). -/
def cmdGet (h : CmdHdr) (va n : Nat) (s : State) : State × Got := ctxGet s (s.queue h.q).cfg.ctx va n
/-- The addresses of n bytes of physical memory. -/
def physAt (pa n : Nat) : List Nat := (List.range n).map (pa + ·)
/-- Bytes of physical memory. -/
def physGet (pas : List Nat) (s : State) : State × Got := match devGet s pas with | (s, some bs) => (s, .bytes bs) | (s, none) => (s, .wait)

/-- An admin command that may start now: not permitted on another port's ring (R381), else `f`. -/
def startAdmin (e : Event) (h : CmdHdr) (f : State → State) (s : State) : Host.Outcome State Fault Refusal :=
  startCmd e h (fun s => if adminOk s h then f s else cmdDone s h 9 0 false) s

/-- An admin command that reads memory first; on another port's ring it reads nothing (R381). -/
def startAdminGet (e : Event) (h : CmdHdr) (get : State → State × Got) (f : State → Option (List Byte) → State) (s : State) : Host.Outcome State Fault Refusal :=
  startGet e h (fun s => if adminOk s h then get s else (s, .bad)) (fun s o => if adminOk s h then f s o else cmdDone s h 9 0 false) s

/-- The command of a step has started and is open. -/
def isOpen (s : State) (h : CmdHdr) (e : Event) : Bool := match findCmd s h e with | some c => c.started | none => false

/-- A command word that is refused as invalid or done at once. -/
def cmdResult (s : State) (h : CmdHdr) (ok : Bool) : State := cmdDone s h (if ok then 0 else 8) 0 false

end Sys2Proof.Machine
end

