-- ==== Sys2Proof/Machine/Distrib.lean ====
section
/-! DEFINITION. The distributor: levels and coordinates (R32, R33), room on a core (R25 to R28), placement (R37 to R41,
R363 to R365), group and team start (R36, R42), retirement (R34, R47), `FETCHWORK`, `REFILL` and `ITEMSET` (R48 to R50,
R241 to R243). -/

namespace Sys2Proof.Machine

/-! ## Levels -/

/-- The levels above group. -/
def LaunchRec.above (lr : LaunchRec) : List Level := lr.levels.filter (fun l => decide (2 ≤ l.domain))
/-- The levels bound to cluster, die or device. -/
def LaunchRec.bound (lr : LaunchRec) : List Level := lr.levels.filter (fun l => decide (2 ≤ l.domain) && decide (l.domain ≤ 4))
/-- The product of the extents of levels. -/
def extents (ls : List Level) : Nat := ls.foldl (fun p l => p * l.extent) 1
/-- Groups of a launch (R32). -/
def LaunchRec.groups (lr : LaunchRec) : Nat := extents lr.above
/-- Groups of a placement unit (R37): 1 when no level is bound. -/
def LaunchRec.unit (lr : LaunchRec) : Nat := extents lr.bound
/-- Strands of a team. -/
def LaunchRec.strands (lr : LaunchRec) : Nat := 32 * lr.tsize
/-- The coordinate at level i of strand t of team j of group g (R33). -/
def lvlCoord (lr : LaunchRec) (i t j g : Nat) : Nat :=
  match lr.levels[i]? with
  | none => 0
  | some l =>
    let p := extents ((lr.levels.take i).filter (fun m => min m.domain 2 == min l.domain 2))
    (if l.domain = 0 then t else if l.domain = 1 then j else g) / p % l.extent

/-! ## Room -/

/-- Registers a section allocates per strand (R26). -/
def allocRegs (n : Nat) : Nat := (n + 7) / 8 * 8
/-- Teams that hold a place in a section: resident ones and those of placed groups (R25, R42). -/
def seatedTeams (s : State) : List Team := s.teams ++ (s.groups.filter (fun g => g.res == .placed)).flatMap (·.kept)
/-- The teams of a section. -/
def secTeams (s : State) (core sec : Nat) : List Team := (seatedTeams s).filter (fun t => hndCore t.hnd == core && hndSec t.hnd == sec)
/-- A section has room for one more team (R25). -/
def secRoom (s : State) (core sec strands nreg : Nat) : Bool :=
  let ts := secTeams s core sec
  decide (ts.length < 16) && decide ((ts.map (fun t => t.strands.length * allocRegs t.nreg)).foldl (· + ·) 0 + strands * allocRegs nreg ≤ 65536)
/-- The numbers below n in turn from k mod n on. -/
def turn (k n : Nat) : List Nat := (List.range n).map (fun i => (k + i) % n)
/-- A section with room and a free slot in it, which of them is open (R27). -/
def openSeat (s : State) (core strands nreg : Nat) : Option (Nat × Nat) :=
  ((turn (Config.place s.fresh) 4).find? (fun sec => secRoom s core sec strands nreg)).bind (fun sec =>
    ((turn (Config.place (s.fresh + 1)) 16).find? (fun k => !(secTeams s core sec).any (fun t => hndSlot t.hnd == k))).map (fun k => (sec, k)))

/-- Scratchpad allocations of a core. -/
def allocsOf (s : State) (core : Nat) : List (Nat × Nat) :=
  (s.groups.filter (fun g => g.core == core && (match g.res with | .saved _ => false | _ => true) && decide (0 < g.sbytes))).map (fun g => (g.sbase, g.sbytes))
/-- Scratchpad bytes lo to lo + n − 1 lie outside every allocation. -/
def scrFree (s : State) (core lo n : Nat) : Bool :=
  decide (lo + n ≤ 2 ^ 19) && (allocsOf s core).all (fun a => decide (a.1 + a.2 ≤ lo) || decide (lo + n ≤ a.1))
/-- Offsets for an allocation of n bytes, packed from the start of each gap (R28). -/
def scrPlaces (s : State) (core n : Nat) : List Nat :=
  if n = 0 then [0]
  else
    let starts := (allocsOf s core).foldl (fun l a => sadd (a.1 + a.2) l) [0]
    starts.flatMap (fun st => (List.range (2 ^ 19 / n)).filterMap (fun i =>
      if scrFree s core st ((i + 1) * n) then some (st + i * n) else none))

/-- Cores the device has in use (R10, R11). -/
def enabledCore (s : State) (c : Nat) : Bool := decide (c < 384) && !s.offCores.contains c
/-- A cluster takes new groups: power on, no gate or retention under way (R375, R376). -/
def clusterOpen (s : State) (core : Nat) : Bool :=
  let c := s.cluster (clusterOf core)
  !c.gated && !c.gating && !c.ret && !c.retaining
/-- A group that a power gate took from the core is to be restored before any new group is placed there (R375). -/
def gateFirst (s : State) (core : Nat) : Bool :=
  s.groups.any (fun g => g.core == core && g.pre == some .gate && (match g.res with | .saved _ => true | _ => false))

/-- The lowest free stack slot of a context (R353). -/
def freeStk (s : State) (ctx : Nat) : Option Nat :=
  (s.ctx ctx).bind (fun c => firstFrom (fun k => !c.stkUsed.contains k) 0 (min c.desc.stkn (c.stkUsed.length + 1)))

/-! ## Team start -/

/-- The registers of a strand at team start (R36): stack top, `args`, scratchpad pointer, each pair only when it lies
wholly below N. -/
def startRegs (n : Nat) (sp args scr : Nat) : List Reg :=
  let v := fun i : Nat =>
    if i = 16 ∨ i = 17 then (sp, 16) else if i = 20 ∨ i = 21 then (args, 20) else if i = 22 ∨ i = 23 then (scr, 22) else (0, i / 2 * 2)
  (List.range n).map (fun i =>
    let p := v i
    if p.2 + 2 ≤ n then { Reg.zero with val := word (p.1 / 2 ^ (32 * (i - p.2))) } else Reg.zero)
/-- A team as it starts (R36, R251, R287). -/
def startTeam (hnd grp idx nreg strands stks sbase scr : Nat) (d : CtxDesc) (entry : Nat) (tctl : Word) (args : DWord) (node : Bool) : Team :=
  { hnd := hnd, grp := grp, idx := idx, nreg := nreg,
    strands := (List.range strands).map (fun t =>
      ⟨startRegs nreg (d.stkb + (1024 * stks + t + 1) * d.stkr * 1024) args.toNat
        (if scr = 0 then 0 else 2 ^ 60 + rankOf (hndCore hnd) * 2 ^ 48 + sbase), 0, 0⟩),
    pc := BitVec.ofNat 48 entry, tctl := tctl, sigs := 0, sigd := 0, mism := 0, stepped := false, act := none, lock := [], mat := [],
    opf := [], pend := [], ranges := [], subs := [], prod := [], seq := [], chk := none, evf := false, bwt := none, nosleep := false,
    stks := stks, status := .run, held := false, preq := none, yielded := none, rel := [], node := node, withdrawn := [], newer := none,
    rmw := none, work := none, samps := [], checks := 0, since := 0, mark := 0, fence := 0, inval := none }

/-! ## Placement -/

/-- Seats one more team of a group being placed, and takes its stack slot. -/
def seatTeam (lr : LaunchRec) (ctx core gnum sbase j : Nat) (s : State) : Option State :=
  match openSeat s core lr.strands lr.nregs, freeStk s ctx, s.ctx ctx with
  | some p, some k, some c =>
    let t := startTeam (mkHnd p.2 p.1 core) gnum j lr.nregs lr.strands k sbase lr.scr c.desc lr.entry lr.tctl0 lr.args false
    some ({ s.setGroup gnum (fun g => { g with kept := g.kept ++ [t] }) with fresh := s.fresh + 2 }.setCtx ctx (fun c =>
      { c with stkUsed := sadd k c.stkUsed }))
  | _, _, _ => none

/-- Places a group of a launch on a core, if it has room there (R25 to R28, R353, R375). -/
def tryGroup (l : Launch) (s : State) (gid core : Nat) : Option State :=
  if !enabledCore s core || !clusterOpen s core || gateFirst s core then none
  else
    let n := 256 * l.lr.scr
    let ps := scrPlaces s core n
    match ps[Config.place s.fresh % max 1 ps.length]? with
    | none => none
    | some base =>
      let gnum := s.names
      let g : Group := { id := gnum, launch := l.id, gid := gid, q := l.q, ctx := l.ctx, core := core, sbase := base, sbytes := n,
                         used := l.lr.tpg, live := List.range l.lr.tpg, bars := List.replicate 16 Barrier.fresh, iqn := 0, iqc := 0,
                         chans := [], res := .placed, kept := [], pre := none, sav := none, started := false, born := s.fresh }
      let s := { s with names := gnum + 1, fresh := s.fresh + 2, groups := s.groups ++ [g],
                        scrUnd := if n = 0 then s.scrUnd else undAdd s.scrUnd (core * 2 ^ 19 + base) (core * 2 ^ 19 + base + n) s.fresh }
      (List.range l.lr.tpg).foldl (fun (o : Option State) j => o.bind (seatTeam l.lr l.ctx core gnum base j)) (some s)

/-- The candidate cores of a launch (R37), rising. -/
def candidates (s : State) (l : Launch) : List Nat :=
  (List.range 384).filter (fun c => enabledCore s c && (l.qr.cores.isEmpty || l.qr.cores.contains c))
/-- A core lies in an instance of a domain (Table 2-3). -/
def inDom (d : Nat × Nat) (c : Nat) : Bool := if d.1 = 2 then clusterOf c == d.2 else if d.1 = 3 then dieOf c == d.2 else true
/-- The instances of a domain. -/
def domCount (k : Nat) : Nat := if k = 2 then 32 else if k = 3 then 8 else 1
/-- One domain instance lies inside another. -/
def domInside (x y : Nat × Nat) : Bool :=
  if y.1 = 4 then true else if x.1 = y.1 then x.2 == y.2 else x.2 / 4 == y.2
/-- The instances of domain k inside d that hold candidate cores, rising. -/
def instancesIn (cand : List Nat) (k : Nat) (d : Nat × Nat) : List (Nat × Nat) :=
  ((List.range (domCount k)).map (fun i => (k, i))).filter (fun x => domInside x d && cand.any (inDom x))

/-- The tile key of a group (R39). -/
def tileKey (lr : LaunchRec) (gid : Nat) : Nat :=
  let sel := (lr.bound.headD ⟨1, 0, 0, 0⟩).keysel
  (List.range 8).foldl (fun key i => if bitAt sel i then (key * 40503 + lvlCoord lr i 0 0 gid) % 2 ^ 32 else key) 0
/-- H of R39. -/
def tileHash (key : Nat) : Nat :=
  let x := key
  let x := x ^^^ (x / 2 ^ 15)
  let x := x * 0x2c1b3c6d % 2 ^ 32
  let x := x ^^^ (x / 2 ^ 12)
  let x := x * 0x297a2d39 % 2 ^ 32
  x ^^^ (x / 2 ^ 15)

/-- Places one group in a domain instance (R38). -/
def placeGroup (l : Launch) (cand : List Nat) (d : Nat × Nat) (s : State) (gid : Nat) : Option State :=
  let cs := cand.filter (inDom d)
  if l.lr.hash then
    match cs[tileHash (tileKey l.lr gid) % max 1 cs.length]? with
    | none => none
    | some c => match tryGroup l s gid c with
      | some s' => some s'
      | none =>
        if l.lr.spill then
          ((List.range 11).filterMap (fun i =>
            let x := peerCore c ((rankOf c + 1 + i) % 12)
            if cs.contains x then some x else none)).findSome? (tryGroup l s gid)
        else none
  else cs.findSome? (tryGroup l s gid)

/-- Places the groups `g0` to `g0 + n − 1` in a domain instance; those withdrawn already are passed over (R49). -/
def placeRun (l : Launch) (cand : List Nat) (d : Nat × Nat) (g0 n : Nat) (s : State) : Option State :=
  ((List.range n).filter (fun i => decide (l.next ≤ g0 + i))).foldl (fun (o : Option State) i => o.bind (fun s => placeGroup l cand d s (g0 + i))) (some s)

/-- Places an instance of a bound level in a domain instance (R37): `e` its extent, `inner` the bound levels inside it,
outermost first. -/
def placeInst (l : Launch) (cand : List Nat) (e : Nat) : List Level → Nat × Nat → Nat → Nat → State → Option State
  | [], d, g0, n, s => placeRun l cand d g0 n s
  | m :: rest, d, g0, n, s =>
    (List.range e).foldl (fun (o : Option State) i => o.bind (fun s =>
      (instancesIn cand m.domain d).findSome? (fun d' => placeInst l cand m.extent rest d' (g0 + i * (n / e)) (n / e) s))) (some s)

/-- Places the next placement unit of a launch (R37), if a choice for all of it exists now. -/
def placeUnit (s : State) (l : Launch) : Option State :=
  let cand := candidates s l
  let u := l.lr.unit
  let g0 := l.next / u * u
  let r := match l.lr.bound.reverse with
    | [] => placeRun l cand (4, 0) g0 1 s
    | m :: inner => (instancesIn cand m.domain (4, 0)).findSome? (fun d => placeInst l cand m.extent inner d g0 u s)
  r.map (fun s => s.setLaunch l.id (fun x => { x with next := g0 + u }))

/-- The device with every candidate core idle and powered, and every stack slot free (R40). -/
def idleDevice (s : State) : State :=
  { s with teams := [], groups := [], clusters := [], ctxs := s.ctxs.map (fun x => (x.1, { x.2 with stkUsed := [] })) }

/-- The launch of a queue whose groups are to be placed next (R41). -/
def nextLaunch (s : State) (q : Nat) : Option Launch := s.launches.find? (fun l => l.q == q && !l.ended && decide (l.next < l.lr.groups))
/-- A group of the queue is saved, and is restored before any later group is placed (R365). -/
def savedOf (s : State) (q : Nat) : Bool := s.groups.any (fun g => g.q == q && (match g.res with | .saved _ => true | _ => false))

/-- The key by which the distributor serves queues (R364): priority, deadline, round-robin. -/
def serveKey (s : State) (q : Nat) (l : Launch) : Nat × Nat × Nat :=
  (7 - l.qr.prio, if l.dl = 0 then 2 ^ 80 else l.acc + 1000 * l.dl, (q + 63 - s.rrq) % 64)
/-- One key is served before another. -/
def keyLt (x y : Nat × Nat × Nat) : Bool :=
  decide (x.1 < y.1) || (x.1 == y.1 && (decide (x.2.1 < y.2.1) || (x.2.1 == y.2.1 && decide (x.2.2 < y.2.2))))
/-- A queue put in its place in a list ordered by key. -/
def serveInsert (x : Nat × (Nat × Nat × Nat)) : List (Nat × (Nat × Nat × Nat)) → List (Nat × (Nat × Nat × Nat))
  | [] => [x]
  | y :: ys => if keyLt x.2 y.2 then x :: y :: ys else y :: serveInsert x ys
/-- The queues with a unit waiting, in the order in which they are served. -/
def serveOrder (s : State) : List Nat :=
  (((List.range 64).filterMap (fun q => (nextLaunch s q).map (fun l => (q, serveKey s q l)))).foldl (fun l x => serveInsert x l) []).map (·.1)

/-- The group is saved, and the reason is not a host command (R354). -/
def waitsRestore (g : Group) : Bool := g.pre != some .host && (match g.res with | .saved _ => true | _ => false)
/-- What waits for room becomes due: groups that a power gate took (R375), then placement in its order, then the groups that left for it
(R363, R365). -/
def wakePlacement (s : State) : State :=
  let ask := fun (s : State) (e : Event) => if s.due.contains e then s else s.later e
  let gs := s.groups.filter waitsRestore
  let s := (gs.filter (fun g => g.pre == some .gate)).foldl (fun s g => ask s (.groupRestore g.id)) s
  let s := (serveOrder s).foldl (fun s q => ask s (.placementUnit q)) s
  (gs.filter (fun g => g.pre != some .gate)).foldl (fun s g => ask s (.groupRestore g.id)) s

/-- Two groups belong to one placement unit, whose groups are pre-empted and restored together (R54). -/
def sameUnit (s : State) (x y : Group) : Bool :=
  x.id == y.id || (x.launch == y.launch && (match s.launch x.launch with
    | some l => !l.lr.bound.isEmpty && x.gid / l.lr.unit == y.gid / l.lr.unit
    | none => false))
/-- The groups of a group's unit. -/
def unitOf (s : State) (g : Group) : List Group := s.groups.filter (sameUnit s g)

/-- Asks for the pre-emption of groups: each unit's request becomes due once. -/
def askLeave (s : State) (gs : List Group) (why : PreReason) : State :=
  gs.foldl (fun s g => if g.pre.isSome then s
    else (s.setGroup g.id (fun x => { x with pre := some why })).later (.preemptionRequest g.id)) s

/-- The state without some groups and their teams, for finding out what would fit (R365). -/
def without (s : State) (ids : List Nat) : State :=
  { s with groups := s.groups.filter (fun g => !ids.contains g.id), teams := s.teams.filter (fun t => !ids.contains t.grp) }
/-- Whether a group comes before another as one to pre-empt: lower priority, then placed later (R365). -/
def victimLt (s : State) (x y : Group) : Bool :=
  let p := fun g : Group => match s.launch g.launch with | some l => l.qr.prio | none => 0
  decide (p x < p y) || (p x == p y && decide (x.id > y.id))
/-- A group put in its place. -/
def victimInsert (s : State) (x : Group) : List Group → List Group
  | [] => [x]
  | y :: ys => if victimLt s x y then x :: y :: ys else y :: victimInsert s x ys
/-- Victims in order, each with its unit, until what is waited for fits (R365): `fits` in the state without them. -/
def takeVictims (s : State) (fits : State → Bool) : List Group → State → List Group → List Group
  | [], _, got => got
  | g :: gs, t, got =>
    if fits t then got
    else if got.any (fun x => x.id == g.id) then takeVictims s fits gs t got
    else takeVictims s fits gs (without t ((unitOf s g).map (·.id))) (got ++ unitOf s g)

/-- The groups on some cores that have places there and may be asked to leave for a launch's queue; never the supervisor's (R365). -/
def guestsOn (s : State) (q : Nat) (cores : List Nat) : List Group :=
  s.groups.filter (fun g => cores.contains g.core && g.q != q && s.supq != some g.q && (match g.res with | .saved _ => false | _ => true))
/-- The queue record a group was placed under. -/
def groupRec (s : State) (g : Group) : QRec := match s.launch g.launch with | some l => l.qr | none => QRec.zero
/-- A group stays on a reserved core as a guest only while the core's queue does not need it (R363). -/
def isGuest (s : State) (qr : QRec) (g : Group) : Bool := qr.cores.contains g.core && (groupRec s g).cores.isEmpty
/-- Groups in the order in which they would be pre-empted. -/
def victimOrder (s : State) (gs : List Group) : List Group := gs.foldl (fun r g => victimInsert s g r) []

/-- Groups that leave for a waiting unit: those of lower priority on its candidate cores, as far as it takes (R365), and every group of a
non-reserving queue on the reserved cores that the unit then takes (R363). Where it would not fit even so, nobody leaves (R365 gives no
rule for that; log entry 47). -/
def victims (s : State) (l : Launch) : List Group :=
  let here := guestsOn s l.q (candidates s l)
  let guests := (here.filter (isGuest s l.qr)).flatMap (unitOf s)
  let low := here.filter (fun g => !guests.any (fun x => x.id == g.id) && decide ((groupRec s g).prio < l.qr.prio))
  let t := without s (guests.map (·.id))
  let vs := takeVictims s (fun t => (placeUnit t l).isSome) (victimOrder s low) t []
  match placeUnit (without t (vs.map (·.id))) l with
  | none => []
  | some u =>
    let cores := (u.groups.filter (fun g => !s.groups.any (fun x => x.id == g.id))).map (·.core)
    (guests.filter (fun g => (unitOf s g).any (fun x => cores.contains x.core))) ++ vs

/-! ## Retirement -/

/-- The level instances of a launch that have completed, once another group has retired (R34). -/
def instancesDone (l : Launch) : List (Nat × Nat) :=
  ((List.range 8).flatMap (fun i => match l.lr.levels[i]? with
    | some m =>
      if m.domain < 2 then []
      else
        let p := extents ((l.lr.levels.take (i + 1)).filter (fun x => decide (2 ≤ x.domain)))
        (l.retired.map (fun g => g / p)).foldl (fun r x =>
          if !r.contains (i, x) && (List.range p).all (fun j => decide (x * p + j ≥ l.lr.groups) || l.retired.contains (x * p + j)) then r ++ [(i, x)] else r) []
    | none => []))

/-- Notes retired groups (R47, R49), the level instances this completes (R34), and the end of the launch (R40, R47): its
completion record is written, with the late bit after its deadline (R369). -/
def noteRetired (s : State) (lid : Nat) (gids : List Nat) : State :=
  let s := s.setLaunch lid (fun l => let l := { l with retired := gids.foldl (fun r g => sadd g r) l.retired }
                                     { l with instDone := instancesDone l })
  match s.launch lid with
  | none => s
  | some l =>
    if (l.ended || decide (l.next ≥ l.lr.groups)) && decide (l.retired.length ≥ l.next) then
      let s := cmdDone s l.cmd (if l.ended then 2 else 0) 0 (l.late s.now)
      { s with launches := s.launches.filter (fun x => x.id != lid), cbars := s.cbars.filter (fun x => x.1.1 != lid) }
    else s

/-- A group whose teams have all retired and whose graph is complete retires (R47, R238). -/
def tryGroupRetire (s : State) (gid : Nat) : State :=
  match s.group gid with
  | none => s
  | some g =>
    let busy := (match (s.core g.core).weaver.run with | some r => r.1 == gid | none => false) || s.ecmds.any (fun e => e.grp == gid)
    if !g.live.isEmpty || busy || (match g.res with | .resident => false | _ => true) then s
    else wakePlacement (noteRetired (freeGroup s g) g.launch [g.gid])

/-! ## Steps -/

/-- PLACEMENT_UNIT (R37 to R41, R363 to R365): the queue's next unit is placed when it is the first in order that can be;
else groups are asked to leave for it; a unit that can never fit ends the launch (R40). -/
def execPlacementUnit (q : Nat) (s : State) : Host.Outcome State Fault Refusal :=
  match nextLaunch s q with
  | none => .next s
  | some l =>
    if savedOf s q then .next s
    else match (serveOrder s).findSome? (fun p => if savedOf s p then none else ((nextLaunch s p).bind (placeUnit s)).map (fun t => (p, t))) with
      | some (p, t) =>
        if p = q then
          let new := t.groups.filter (fun g => g.launch == l.id && g.res == .placed && !s.groups.any (fun x => x.id == g.id))
          let t := new.foldl (fun t g => t.later (.groupStart g.id)) { t.setQueue q (fun x => { x with wd := 0 }) with rrq := q }
          .next (wakePlacement t)
        else if (placeUnit s l).isSome then .next s
        else if (placeUnit (idleDevice s) l).isNone then .next (wakePlacement (noteRetired (s.setLaunch l.id (fun x => { x with ended := true })) l.id []))
        else .next (askLeave s (victims s l) .sched)
      | none =>
        if (placeUnit (idleDevice s) l).isNone then .next (wakePlacement (noteRetired (s.setLaunch l.id (fun x => { x with ended := true })) l.id []))
        else .next (askLeave s (victims s l) .sched)

/-- A read by the device is worth a step: it can be made, or its requests have still to go out. -/
def readDue (s : State) (r : State × Got) : Bool := match r.2 with | .wait => decide (s.asks.length < r.1.asks.length) | _ => true

/-- The bytes of a graph image become those at offset 0 of a group's allocation (Table 27-2). False: another agent must give them first. -/
def putImage (s : State) (g : Group) (l : Launch) : State × Bool :=
  match l.img with
  | none => (s, true)
  | some (p, n) => match ctxGet s l.ctx p n with
    | (s, .bytes bs) => (scrWrite s (cellsAt (g.core * 2 ^ 19 + g.sbase) bs), true)
    | (s, .bad) => (s, true)
    | (s, .wait) => (s, false)

/-- GROUP_START (R36, R42): the teams of a placed group become resident. Their first instruction issues not before `stagger` ns after the
launch's last start on the die, and that issue is the group's start (R42). -/
def execGroupStart (g : Nat) (s : State) : Host.Outcome State Fault Refusal :=
  match s.group g with
  | none => .next s
  | some x => match x.res, s.launch x.launch with
    | .placed, some l =>
      let early := match aget (dieOf x.core) l.lastStart with | some t => decide (s.now < t + l.lr.stagger) | none => false
      if early || !clusterRuns s x.core then .next s
      else
        let r := putImage s x l
        if !r.2 then .next r.1
        else
          let s := r.1
          let ts := x.kept.map (fun t => { t with preq := if x.pre.isSome then some s.now else none, since := s.now, mark := s.fresh })
          let s := { s.setGroup g (fun y => { y with res := .resident, kept := [] }) with teams := s.teams ++ ts }
          .next (if x.pre.isSome then s.later (.preemptionRequest g) else s)
    | _, _ => .next s

/-- A team has nothing outstanding (R47): engine commands, matrix instructions, stores, replies. -/
def nothingOut (s : State) (t : Team) : Bool :=
  outstanding s t.hnd == 0 && t.mat.isEmpty && t.rel.isEmpty && t.ranges.isEmpty && t.subs.isEmpty && t.rmw.isNone &&
  (throughsOf s t.hnd).isEmpty

/-- TEAM_RETIRE (R47, R49, R200, R240, R353). -/
def execTeamRetire (h : Nat) (s : State) : Host.Outcome State Fault Refusal :=
  match s.team h with
  | none => .next s
  | some t =>
    if !t.done || !nothingOut s t then .next s
    else
      let s := freeStack s (s.ctxOf t) t.stks
      let s := { s with teams := s.teams.filter (fun x => x.hnd != h) }
      let s := s.setGroup t.grp (fun g => { g with live := sdel t.idx g.live })
      let s := settleBars s t.grp
      let s := match s.group t.grp with | some g => if t.withdrawn.isEmpty then s else noteRetired s g.launch t.withdrawn | none => s
      let s := if t.node then
        (let w := (s.core t.core).weaver
         match w.walks.find? (fun y => y.st == .team t.idx), w.run with
          | some y, some r => if r.1 = t.grp then walkOn s t.core y.id (nodeNext0 y.word) else s
          | _, _ => s)
        else s
      .next (wakePlacement (tryGroupRetire s t.grp))

/-- Withdrawn groups of a team count as retired now (R49). -/
def countWithdrawn (s : State) (t : Team) : State :=
  match s.grpOf t with
  | some g => if t.withdrawn.isEmpty then s
    else noteRetired (s.setTeam t.hnd (fun x => { x with withdrawn := [] })) g.launch t.withdrawn
  | none => s

/-- FETCHWORK (R48, R49, R241). -/
def execFetchwork (a : Alu) (s : State) :=
  runI (.fetchwork a) (fun c => withActive c (fun l => match c.s.grpOf c.t with
    | none => .done (Done.seq c.s)
    | some g => ((c.pair l a.va).bind (fun p => (ownAt g (some l) p 32 4).bind (fun off =>
        (scrRecord c.s c.core (some l) p off 4).map (fun _ => off)))).res (fun off =>
      if outstanding c.s c.t.hnd ≥ 64 then .hold c.s
      else
        let s := scrWrite (countWithdrawn c.s c.t) (cellsAt (c.core * 2 ^ 19 + off) (leBytes 4 0))
        let id := s.names
        let s := addCmd c s g ⟨.fetch off, [], []⟩ none
        .done { Done.seq (s.later (.workWithdrawn id)) with reads := some (regsIn l a.va 2) }))) s

/-- WORK_WITHDRAWN (R48): the next unplaced group leaves the launch for the team, and the mailbox says so. In a launch that has ended under
R40 the answer is 2, as if no group were left, which R48 does not say (log entry 48). -/
def execWorkWithdrawn (id : Nat) (s : State) : Host.Outcome State Fault Refusal :=
  match s.ecmd id with
  | none => .next s
  | some e => match e.op, e.issuer with
    | .fetch off, .team h =>
      let l := (s.group e.grp).bind (fun g => s.launch g.launch)
      let base := e.core * 2 ^ 19 + off
      let s := { s with ecmds := s.ecmds.filter (fun x => x.id != id) }
      let s := match l with
        | some l =>
          if !l.ended && decide (l.next < l.lr.groups) then
            let ws := (List.range 7).flatMap (fun i => leBytes 4 (match l.lr.levels[i + 1]? with
              | some m => if m.domain < 2 then 0 else lvlCoord l.lr (i + 1) 0 0 l.next
              | none => 0))
            let s := scrWrite s (cellsAt base (leBytes 4 1 ++ ws))
            let s := s.setTeam h (fun t => { t with withdrawn := t.withdrawn ++ [l.next] })
            s.setLaunch l.id (fun x => { x with next := x.next + 1 })
          else scrWrite s (cellsAt base (leBytes 4 2))
        | none => scrWrite s (cellsAt base (leBytes 4 2))
      .next (wakeEngines s e.core)
    | _, _ => .next s

/-- ITEMSET (R243). -/
def execItemset (a : Alu) (s : State) :=
  runI (.itemset a) (fun c => withActive c (fun l => (V.both (c.reg l a.va) (c.reg l (srcField a.b))).res (fun x =>
    .done { Done.seq (c.s.setGroup c.t.grp (fun g => { g with iqn := x.1, iqc := x.2.toNat })) with
      reads := some [(l, a.va.toNat), (l, (srcField a.b).toNat)] }))) s

/-- REFILL (R50, R242): items in ascending strand order; strands that find none exit. -/
def execRefill (a : Alu) (s : State) :=
  runI (.refill a) (fun c =>
    if c.t.pc.toNat % 64 ≠ 0 ∨ a.vd = a.va then .trap trapIllegal
    else (V.all (c.act.map (fun k => (c.reg k a.va).map (fun x => (k, x))))).res (fun vs =>
      let want := vs.filter (fun x => bitAt x.2.toNat 0)
      let g := c.s.grpOf c.t
      let n := match g with | some g => min g.iqc want.length | none => 0
      let first := match g with | some g => g.iqn | none => 0
      let got := want.take n
      let t := (got.mapIdx (fun i x => (i, x))).foldl (fun t y => t.setStrand y.2.1 (fun z =>
        (z.set a.vd.toNat (first + BitVec.ofNat 32 y.1) 0).set a.va.toNat (y.2.2 &&& 0xfffffffe) 0)) c.t
      let t := (want.drop n).foldl (fun t x => t.setStrand x.1 (fun z => { z with ctr := 0xff })) t
      let ks := got.map (·.1)
      .done { Done.seq ((c.put t).setGroup c.t.grp (fun g => { g with iqn := first + BitVec.ofNat 32 n, iqc := g.iqc - n })) with
        writes := [(a.vd.toNat, ks), (a.va.toNat, ks)] })) s

end Sys2Proof.Machine
end

