-- ==== Sys2Proof/Machine/Weaver.lean ====
section
/-! DEFINITION. The steps of a weaver graph (R238 to R240). -/

namespace Sys2Proof.Machine

/-- A step of a walk: the walk stands ready at a node of the kind, and `f` acts on the graph's group, the walk and the
node's bits as read. After the graph has failed the walk ends (R240). -/
def nodeStep (core walk kind : Nat) (f : State → Group → Walk → Nat → State) (s : State) : Host.Outcome State Fault Refusal :=
  let w := (s.core core).weaver
  match w.run.bind (fun r => s.group r.1), w.walks.find? (fun y => y.id == walk && y.st == .ready) with
  | some g, some y =>
    if nodeKind y.word ≠ kind then .next s
    else if w.st = 7 then .next (endWalk s core walk)
    else .next (f s g y y.word)
  | _, _ => .next s

/-- Changes one walk. -/
def setWalk (s : State) (core id : Nat) (f : Walk → Walk) : State :=
  setWeaver s core (fun w => { w with walks := w.walks.map (fun y => if y.id = id then f y else y) })

/-- The present `state` field of a node. -/
def nodeCount (s : State) (g : Group) (x : Nat) : Nat := match nodeBits s g x with | some v => nodeState v | none => 0
/-- The weaver writes a node's `state` field, a plain store of the group (R240). -/
def setNodeCount (s : State) (g : Group) (x v : Nat) : State :=
  scrWrite s (cellsAt (g.core * 2 ^ 19 + g.sbase + 32 * x + 2) (leBytes 2 v))

/-- The condition word of a node, under the poison test of an engine read (R118). -/
def condWord (s : State) (g : Group) (v : Nat) : Option Nat :=
  match scrRecord s g.core none 0 (bits v 64 19) 4 with | .ok x => some x | .bad _ => none
/-- A walk that met poison ends, and the graph's status is 0x02. -/
def walkPoison (s : State) (core id : Nat) : State :=
  endWalk (setWeaver s core (fun w => if w.st = 0 then { w with st := 2 } else w)) core id

/-- The command that started the running graph of a core. -/
def graphCmd (s : State) (core : Nat) : Option ECmd := (s.core core).weaver.run.bind (fun r => s.ecmd r.2)

/-- NODE_END (R240). -/
def execNodeEnd (core walk : Nat) (s : State) := nodeStep core walk 0 (fun s _ _ _ => walkOn s core walk 65535) s

/-- The next free team index of a graph's group, from `tpg` on (R240). -/
def nextIndex (s : State) (g : Group) : Option Nat :=
  match s.launch g.launch with
  | some l => if g.live.length ≥ 16 then none
    else ((List.range 16).filter (fun j => decide (l.lr.tpg ≤ j) && !g.live.contains j)).head?
  | none => none

/-- A barrier forgets an arrival of a team index that is given anew. -/
def Barrier.forget (b : Barrier) (m : Nat × Nat) : Barrier := { b with arr := b.arr.filter (· ≠ m) }

/-- NODE_LAUNCH_TEAM (R240, R36, R353): waits for an index, a place and a stack slot. The team is placed now, and so under the context's
present descriptor (R347). -/
def execNodeLaunchTeam (core walk : Nat) (s : State) :=
  nodeStep core walk 1 (fun s g _ v =>
    let nreg := bits v 120 8 + 1
    let strands := 32 * bits v 112 8
    match nextIndex s g, openSeat s core strands nreg, freeStk s (ctxId g.ctx), s.launch g.launch, s.ctx (ctxId g.ctx) with
    | some j, some p, some k, some l, some c =>
      let t := startTeam (mkHnd p.2 p.1 core) g.id j nreg strands k g.sbase l.lr.scr c.desc (bits v 192 64) l.lr.tctl0
        (BitVec.ofNat 64 (bits v 128 64)) true
      let t := { t with preq := if g.pre.isSome then some s.now else none, since := s.now, mark := s.fresh,
                        newer := if ctxId g.ctx = g.ctx then none else some (ctxId g.ctx) }
      let s := { s with fresh := s.fresh + 2, teams := s.teams ++ [t] }
      let s := s.setCtx g.ctx (fun c => { c with stkUsed := sadd k c.stkUsed })
      let s := s.setGroup g.id (fun g => { g with live := sadd j g.live, used := max g.used (j + 1), bars := g.bars.map (fun b => b.forget (g.id, j)) })
      let s := match clusterInst s g with
        | some x => if s.cbars.any (fun z => z.1 == x) then setInstBars s x ((instBars s x).map (fun b => b.forget (g.id, j))) else s
        | none => s
      let s := setWalk s core walk (fun y => { y with st := .team j })
      fork s core (nodeNext1 v)
    | _, _, _, _, _ => s) s

/-- NODE_COPY (R240): the copy joins the engine commands of the core. -/
def execNodeCopy (core walk : Nat) (s : State) :=
  nodeStep core walk 2 (fun s g y v =>
    match copyPlan s g none (bits v 64 7) (BitVec.ofNat 64 (bits v 192 64)) (BitVec.ofNat 64 (bits v 128 64)), graphCmd s core with
    | .ok p, some gc =>
      let id := s.names
      let e : ECmd := { id := id, op := p.op, issuer := .node core walk gc.hnd, grp := g.id, q := g.q, ctx := g.ctx, core := core,
                        pc := gc.pc, sup := gc.sup, rep := none, rd := p.rd, wr := p.wr, moved := 0, wait := none, tries := 0,
                        sent := false, peer := none, fin := none }
      let s := { s with names := id + 1, ecmds := s.ecmds ++ [e] }
      let s := setWalk s core walk (fun y => { y with st := .copy id })
      fork (s.later (.engineCommandComplete id noAnswer)) core (nodeNext1 v)
    | _, _ => endWalk (setWeaver s core (fun w => { w with st := 7, bad := y.node })) core walk) s

/-- NODE_CONDITION (R240). -/
def execNodeCondition (core walk : Nat) (s : State) :=
  nodeStep core walk 3 (fun s g _ v => match condWord s g v with
    | none => walkPoison s core walk
    | some x => walkOn s core walk (if x ≠ 0 then nodeNext1 v else nodeNext0 v)) s

/-- NODE_WHILE (R240). -/
def execNodeWhile (core walk : Nat) (s : State) :=
  nodeStep core walk 4 (fun s g y v => match condWord s g v with
    | none => walkPoison s core walk
    | some x =>
      let n := nodeCount s g y.node
      let limit := bits v 96 16
      if x ≠ 0 ∧ (limit = 0 ∨ n < limit) then walkOn (setNodeCount s g y.node (n + 1)) core walk (nodeNext0 v)
      else walkOn (setNodeCount s g y.node 0) core walk (nodeNext1 v)) s

/-- NODE_JOIN (R240). -/
def execNodeJoin (core walk : Nat) (s : State) :=
  nodeStep core walk 5 (fun s g y v =>
    let n := nodeCount s g y.node + 1
    if n ≥ bits v 64 8 then walkOn (setNodeCount s g y.node 0) core walk (nodeNext0 v)
    else walkOn (setNodeCount s g y.node n) core walk 65535) s

/-- GRAPH_COMPLETE (R238, R240): every walk has ended; the `.GSTART` completes with the graph's status, and the group may
retire. -/
def execGraphComplete (core : Nat) (s : State) : Host.Outcome State Fault Refusal :=
  let w := (s.core core).weaver
  match w.run with
  | none => .next s
  | some r =>
    if !w.walks.isEmpty || !w.forks.isEmpty then .next s
    else
      let s := setWeaver s core (fun w => { w with run := none })
      let s := match s.ecmd r.2 with
        | some e => endCmd s e w.st (if w.st = 7 then w.bad else w.done)
        | none => s
      .next (wakePlacement (tryGroupRetire s r.1))

end Sys2Proof.Machine
end

