-- ==== Sys2Proof/Machine/EngineRun.lean ====
section
/-! DEFINITION. An engine command runs and ends (R228, R230 to R238), and an engine delivery (R233, R346). -/

namespace Sys2Proof.Machine

/-- A run of a command stopped on a fault: poison ends it with status 0x02 and an address beyond the space with 0x01; a
failed translation is delivered and the command waits, unless it has walked again already without getting on (R233). An error that the
engine's own read found is marked (R117). -/
def engineStop (s : State) (e : ECmd) (moved : Nat) (t : Trap × Nat) : State :=
  let s := noteFlaw s t.2 e.core t.1
  if t.1.cause = 8 then finCmd s e 2 moved
  else if t.1.cause = 7 ∨ (e.tries = 1 ∧ moved = e.moved) then finCmd s e 1 moved
  else (s.setECmd e.id (fun x => { x with moved := moved, tries := 0, wait := some ⟨t.1.addr.toNat, t.1.cause, t.2, false⟩ })).later (.engineDelivery e.id)

/-- What a run of moves comes to: it waits for another agent, stops, or ends with the rest of the command's work. -/
def engineGo (e : ECmd) (m : Moved) (fin : State → Nat → State) : State :=
  let n := e.moved + m.n
  match m.stop with
  | some t => engineStop m.s e n t
  | none => if m.busy then m.s.setECmd e.id (fun x => { x with moved := n }) else fin m.s n

/-- Bytes written at an end from byte `skip` on, tested as the engine reaches them. -/
def enginePut (s : State) (e : ECmd) (l : ELoc) (bs : List Byte) (skip : Nat) : Moved := engineWrite s e (l.plus skip) (bs.drop skip)

/-! ## Collectives -/

/-- The element format of a floating `dt`. -/
def collFmt (dt : Nat) : Fmt := nth Fmt.f64 [Fmt.f32, Fmt.bf16, Fmt.f16] dt
/-- The reduction of an op code. -/
def collOp (op : Nat) : RedOp := if op = 0 then .add else if op = 1 then .min else .max
/-- One reduction step on elements (R236). -/
def collStep (op dt x y : Nat) : Nat :=
  if dt < 4 then (redF (collOp op) (collFmt dt) 0 x y).1
  else if dt = 4 then wrap (redI (collOp op) (sint x 32) (sint y 32)) 32
  else wrap (redI (collOp op) x y) 32
/-- A NaN result is the canonical NaN (R236). -/
def collFinish (dt x : Nat) : Nat := if dt < 4 && ((collFmt dt).dec x).isNan then (collFmt dt).qnan else x
/-- Element i of a rank's bytes. -/
def collElt (dt i : Nat) (bs : List Byte) : Nat := leNat ((bs.drop (i * collBytes dt)).take (collBytes dt))
/-- The reduction of the ranks' elements i, in rank order (R93, R236). -/
def collReduce (op dt i : Nat) (parts : List (List Byte)) : Nat :=
  collFinish dt ((pairTree (collStep op dt) (parts.map (fun bs => some (collElt dt i bs)))).getD 0)
/-- The bytes of a rank's result (R236): `fn` 17 gathers, the others reduce. -/
def collResult (fn op dt count : Nat) (parts : List (List Byte)) : List Byte :=
  if fn = 17 then parts.flatten else (List.range count).flatMap (fun i => leBytes (collBytes dt) (collReduce op dt i parts))

/-- Some rank of a communicator lies on a device of a list. -/
def ranksOn (c : Comm) (devs : List Nat) : Bool := c.ranks.any (fun r => devs.contains r.1)
/-- Devices with a compute die declared dead (R237, R339). -/
def deadDevs (s : State) : List Nat := (s.dead.filter (· % 16 < 8)).map (· / 16)
/-- Devices the fabric reports as in recovery (R387). -/
def sickDevs (s : State) : List Nat := s.recovery.map (·.1)

/-- A status with which other ranks end a command (Table 11-6): any other reply is an unknown peer or disagreement. -/
def peerStatus (st : Nat) : Nat := if 1 ≤ st ∧ st ≤ 5 then st else 8
/-- A collective: with a rank declared dead it ends with 0x04, with one in recovery it waits (R233, R237); it goes on once its ranks have
all answered, or with no rank but this one. -/
def collRun (s : State) (e : ECmd) (fn comm op dt count : Nat) (send recv : ELoc) : State :=
  match aget comm s.comms with
  | none => finCmd s e 8 0
  | some c =>
    let alone := decide (c.ranks.length = 1)
    let len := count * collBytes dt
    if ranksOn c (deadDevs s) then finCmd s e 4 e.moved
    else if ranksOn c (sickDevs s) then s
    else match (if alone then some ⟨0, []⟩ else e.peer) with
    | none => s
    | some peer =>
      if peer.st ≠ 0 then finCmd s e (peerStatus peer.st) e.moved
      else
        let r := engineRead s e (if fn = 16 then send.plus (c.rank * len) else send) len
        if r.1.busy then r.1.s
        else match r.1.stop with
          | some t => engineStop r.1.s e e.moved t
          | none =>
            let parts := if alone then [r.2] else peer.parts.set c.rank r.2
            if parts.length ≠ c.ranks.length ∨ parts.any (fun p => p.length ≠ len) then finCmd r.1.s e 8 0
            else
              let m := enginePut r.1.s e recv (collResult fn op dt count parts) e.moved
              engineGo e (if m.busy then { m with s := m.s.uncharge s } else m) (fun s n => finCmd s e 0 n)

/-! ## Transfers -/

/-- A transfer to a rank on this device: the remote end lies in the rank's context, with no supervisor's rights, and what fails to
translate there is delivered like any other access of the command (R233, R237). -/
def xferLocal (s : State) (e : ECmd) (put : Bool) (ctx remote : Nat) (loc : ELoc) (len : Nat) : State :=
  let far := { e with ctx := ctx, sup := false }
  let n := len - e.moved
  let r := if put then engineRead s e (loc.plus e.moved) n else engineRead s far (.glob (remote + e.moved)) n
  if r.1.busy then r.1.s
  else
    let m := if put then engineWrite r.1.s far (.glob (remote + e.moved)) r.2 else engineWrite r.1.s e (loc.plus e.moved) r.2
    let m := if m.busy then { m with s := m.s.uncharge s } else if m.stop.isSome then m else { m with stop := r.1.stop }
    engineGo e m (fun s n => finCmd s e 0 n)

/-- Where a request to a rank's device goes in `net`: over Osier to the device, over Ethernet to the device + 2^20 (Table 11-11, R389). -/
def peerAddr (dev : Nat) (ether : Bool) : Nat := if ether then 2 ^ 20 + dev else dev

/-- A `.PUT` to another device (R237, R389): its bytes go out as they can be read, and it ends when the peer's home has accepted them. -/
def putAway (s : State) (e : ECmd) (dev ctx remote : Nat) (ether : Bool) (loc : ELoc) (len : Nat) : State :=
  if e.moved < len then
    let r := engineRead s e (loc.plus e.moved) (len - e.moved)
    if r.1.busy then r.1.s
    else
      let s := if r.2.isEmpty then r.1.s else r.1.s.send (peerAddr dev ether) (.rdmaRequest .write ctx (remote + e.moved) r.2 0)
      let n := e.moved + r.2.length
      match r.1.stop with
      | some t => engineStop s e n t
      | none => s.setECmd e.id (fun x => { x with moved := n, sent := true })
  else match e.peer with
    | some p => finCmd s e (if p.st = 0 then 0 else peerStatus p.st) e.moved
    | none => if len = 0 then finCmd s e 0 0 else s

/-- A `.GET` from another device (R237, R389): a request goes out, and the bytes that answer it are written here. -/
def getAway (s : State) (e : ECmd) (dev ctx remote : Nat) (ether : Bool) (loc : ELoc) (len : Nat) : State :=
  if len = 0 then finCmd s e 0 0
  else match e.peer with
  | none => if e.sent then s
    else (s.setECmd e.id (fun x => { x with sent := true })).send (peerAddr dev ether) (.rdmaRequest .read ctx remote [] (BitVec.ofNat 32 len))
  | some p =>
    if p.st ≠ 0 then finCmd s e (peerStatus p.st) e.moved
    else if (p.parts.headD []).length ≠ len then finCmd s e 3 e.moved
    else engineGo e (enginePut s e loc (p.parts.headD []) e.moved) (fun s n => finCmd s e 0 n)

/-- A transfer (R237): to a dead peer it ends with 0x04; in recovery it waits (R233); otherwise it goes on. -/
def xferRun (s : State) (e : ECmd) (put : Bool) (comm rank remote : Nat) (loc : ELoc) (len : Nat) (ether : Bool) : State :=
  match rankAt s comm rank with
  | none => finCmd s e 8 0
  | some d =>
    if (deadDevs s).contains d.1 then finCmd s e 4 e.moved
    else if d.1 = s.devid then xferLocal s e put d.2 remote loc len
    else if (sickDevs s).contains d.1 then s
    else if put then putAway s e d.1 d.2 remote ether loc len
    else getAway s e d.1 d.2 remote ether loc len

/-! ## Steps -/

/-- A gather as far as its index list can be read: up to the first poisoned index (R232, R233). -/
def gatherRun (s : State) (e : ECmd) (base io cnt es : Nat) (dst : ELoc) : State :=
  let a := fun (i j : Nat) => e.core * 2 ^ 19 + io + 4 * i + j
  let bad := (List.range cnt).find? (fun i => (List.range 4).any (fun j => s.scrPsn.contains (a i j / 8) || s.flaws.contains (1, a i j)))
  let m := moveParts s e ((gatherParts s e base io cnt es dst).take (bad.getD cnt)) e.moved
  engineGo e m (fun s n =>
    let s := match bad with | some i => (List.range 4).foldl (fun s j => markFlaw s 1 (a i j)) s | none => s
    finCmd s e (if bad.isSome then 2 else 0) n)

/-- A copy command of the host runs (R233): an agent of the device moves the bytes in ascending order, in the queue's context,
while the queue's reservation has room (R371). -/
def hostMove (s : State) (e : ECmd) (x y : ELoc) (n : Nat) : Moved :=
  let x := x.plus e.moved
  let y := y.plus e.moved
  let n := n - e.moved
  let room := !s.power.hold && ((s.queue e.q).cfg.mbw == 0 || decide ((s.queue e.q).mused < (s.queue e.q).cfg.mbw))
  if !room && decide (n > 0) then ⟨s, 0, none, true⟩
  else
    let r := reachable s e Need.rd x n
    let w := reachable s e Need.wr y r.1.length
    let k := w.1.length
    let ls := (r.1.take k).filterMap id
    let q := devReady s (cohAddrs ls)
    if !q.2 then ⟨q.1, 0, none, true⟩
    else
      let bs := ls.map (fun l => match l with
        | .mem pa t => if t.coh = 0 then dieByte q.1 (devDie q.1) none pa else q.1.mem.get pa
        | _ => 0)
      let put := fun (sm : Bool) => ((w.1.filterMap id).zip bs).filterMap (fun p => match p.1 with
        | .mem pa t => if (t.coh != 0) == sm then some (pa, p.2) else none
        | _ => none)
      let s := smHome (devWrite (devDone q.1 (cohAddrs ls)) (put false)) (devDie q.1) (put true)
      ⟨s.setQueue e.q (fun q => { q with mused := q.mused + k }), k, if k < r.1.length then w.2 else r.2, false⟩
/-- The run of a host's copy command. -/
def hostRun (s : State) (e : ECmd) (h : CmdHdr) : State :=
  match e.op with
  | .move ((x, y, n) :: _) _ => wakeQueue (engineGo e (hostMove s e x y n) (fun s k => finCmd s e 0 k)) h.q
  | _ => s

/-- What a command does when it may run. -/
def engineRun (s : State) (e : ECmd) : State :=
  match e.op with
  | .move parts _ => engineGo e (moveParts s e parts e.moved) (fun s n => finCmd s e 0 n)
  | .gather base io cnt es dst => gatherRun s e base io cnt es dst
  | .coll fn comm _ op dt count send recv => collRun s e fn comm op dt count send recv
  | .xfer put comm rank remote loc len ether _ => xferRun s e put comm rank remote loc len ether
  | .gstart x =>
    (match (s.core e.core).weaver.run with
      | some r => if r.2 = e.id then s else finCmd s e 6 0
      | none => fork (setWeaver s e.core (fun _ => ⟨some (e.grp, e.id), [], [], 0, 0, 0⟩)) e.core x)
  | .gstat w => finCmd s e (w.toNat % 256) (w.toNat / 256)
  | .gcond off v => finCmd (scrWrite s (cellsAt (e.core * 2 ^ 19 + off) (leBytes 4 v.toNat))) e 0 0
  | .fetch _ => s

/-- ENGINE_COMMAND_COMPLETE (R228, R233 to R238): the command acts once nothing before it on the core's scoreboard holds it
(R234), the issuing team's earlier accesses have performed (R235), and it waits on no translation; `peer` is what the other ranks
answered, if they have. One that has done all it does ends once its writes have performed. -/
def execEngineCommandComplete (id : Nat) (peer : PeerReply) (s : State) : Host.Outcome State Fault Refusal :=
  match s.ecmd id with
  | none => .next s
  | some e0 =>
    let e := if peer.st < 256 ∧ e0.peer = none then { e0 with peer := some peer } else e0
    let s := s.setECmd id (fun _ => e)
    match e.fin with
    | some f => .next (if engineOpen s e then s else match e.issuer with | .host h => wakeQueue (endCmd s e f.1 f.2) h.q | _ => endCmd s e f.1 f.2)
    | none => if e.wait.isSome || blocked s e || !engineReady s e then .next s
      else match e.issuer with
        | .host h => .next (hostRun s e h)
        | _ => .next (engineRun s e)

/-- ENGINE_DELIVERY (R233, R346): the failed translation goes to the supervisor once, and stops no team. A command of the
supervisor's own has no handler to go to. -/
def execEngineDelivery (id : Nat) (s : State) : Host.Outcome State Fault Refusal :=
  match s.ecmd id with
  | none => .next s
  | some e => match e.wait with
    | none => .next s
    | some w =>
      if w.told then .next s
      else
        let s := s.setECmd id (fun x => { x with wait := some { w with told := true } })
        if s.supq = some e.q then
          let s := rasWrite s 0x0d (if e.core < 384 then rasLoc e.core (hndSec e.hnd) else 65535) e.q e.ctx 0 (BitVec.ofNat 64 e.pc.toNat) (BitVec.ofNat 64 w.cause)
          .next (tellHost (teardown s e.q) 2 e.q e.ctx (leBytes 1 w.cause))
        else
          .next (ringDeliver s { trap := trapTrans w.cause none (BitVec.ofNat 64 w.addr), pc := e.pc, amsum := 0, eng := true, hnd := e.hnd,
                                 q := e.q, ctx := ctxId w.ctx })

end Sys2Proof.Machine
end

