-- ==== Sys2Proof/Machine/Save.lean ====
section
/-! DEFINITION. Team images (R69, R70), group records (R356, R357), pre-emption, save and restore (R51 to R54, R211, R254,
R354, R355). -/

namespace Sys2Proof.Machine

/-- Exactly n bytes: padded with zeros. -/
def padTo (n : Nat) (bs : List Byte) : List Byte := (bs ++ List.replicate n 0).take n
/-- Rounded up to a multiple. -/
def alignUp (n a : Nat) : Nat := (n + a - 1) / a * a
/-- The number in n bytes of a byte source. -/
def numAt (g : Nat → Byte) (o n : Nat) : Nat := leNat ((List.range n).map (fun i => g (o + i)))
/-- The set of numbers below n whose bits are 1. -/
def bitSet (v n : Nat) : List Nat := (List.range n).filter (bitAt v)
/-- The number whose set bits are a list of distinct numbers. -/
def ofBits (l : List Nat) : Nat := l.foldl (fun v i => v + 2 ^ i) 0

/-! ## Team images -/

/-- The strands whose saved counter is 0. -/
def enabledIn (cs : List (BitVec 8)) : List Nat := (List.range cs.length).filter (fun k => cs[k]? == some 0)
/-- The image's word for a recorded `BAR` (Table 4-7). -/
def bwtWord (b : Option BarWait) : Nat :=
  match b with | some w => 2 ^ 63 + (if w.clu then 2 ^ 36 else 0) + w.num % 16 * 2 ^ 32 + w.phase.toNat | none => 0
/-- One register record (Table 4-8): the value bytes of a poisoned copy are 0. -/
def regRecord (t : Team) (i p : Nat) : List Byte :=
  let rs := (List.range 32).map (fun k => (t.strand (p * 32 + k)).reg i)
  rs.flatMap (fun r => leBytes 4 (if r.psn then 0 else r.val.toNat)) ++
  (List.range 16).map (fun k => BitVec.ofNat 8 ((nth Reg.zero rs (2 * k)).tag.toNat + 16 * (nth Reg.zero rs (2 * k + 1)).tag.toNat)) ++
  leBytes 4 (ofBits ((List.range 32).filter (fun k => (nth Reg.zero rs k).psn))) ++ List.replicate 12 0
/-- The pass words of a set of strands, 32 words. -/
def passWords (ks : List Nat) (passes : Nat) : List Byte :=
  (List.range 32).flatMap (fun p => leBytes 4 (if p < passes then passWord ks p else 0))
/-- The image of a team (Table 4-7): L registers saved, full or at a yield point. `kind` bit 2 says that the team waits at its `SLEEP`
now: a team restored with the bit and saved again before it executes that `SLEEP` is not marked, and sleeps anew after the next restore
(R69 and R251 do not say; log entry 49). -/
def imageBytes (t : Team) (L : Nat) (full : Bool) : List Byte :=
  let p := t.passes
  let cs := t.strands.map (·.ctr)
  let slept := match t.status with | .slept _ => true | _ => false
  let kind := (if full then 1 else 0) + (if t.act.isSome then 2 else 0) + (if slept then 4 else 0)
  let hc := match t.act with | some a => a.ctrs | none => []
  let (hpc, hsig, hsum) := match t.act with
    | some a => (a.pc.toNat, a.sigs.toNat + 65536 * a.sigd.toNat, sumWord (enabledIn a.ctrs) p)
    | none => (0, 0, 0)
  leBytes 8 t.pc.toNat ++ leBytes 1 kind ++ leBytes 1 p ++ leBytes 2 t.nreg ++ leBytes 2 L ++ leBytes 2 0 ++
  leBytes 4 t.tctl.toNat ++ leBytes 4 (t.sigs.toNat + 65536 * t.sigd.toNat) ++ leBytes 4 t.mism.toNat ++
  leBytes 4 (sumWord (enabledIn cs) p) ++ leBytes 32 (ofBits t.lock) ++ passWords (enabledIn cs) p ++
  leBytes 8 hpc ++ leBytes 4 hsig ++ leBytes 4 hsum ++ leBytes 8 (bwtWord t.bwt) ++ leBytes 4 t.stks ++ List.replicate 36 0 ++
  padTo 1024 cs ++ padTo 1024 (t.strands.map (·.nsr)) ++
  (List.range L).flatMap (fun i => (List.range p).flatMap (regRecord t i)) ++
  (if t.act.isSome then passWords (enabledIn hc) p ++ padTo 1024 hc else [])

/-- Bytes of an image. -/
def imageSize (L p : Nat) (act : Bool) : Nat := 0x900 + 160 * L * p + (if act then 1152 else 0)

/-- What an image records (R70). -/
structure Image where
  pc : Nat
  kind : Nat
  passes : Nat
  nreg : Nat
  live : Nat
  tctl : Word
  sigs : BitVec 16
  sigd : BitVec 16
  mism : Word
  lock : List Nat
  strands : List Strand
  hpc : Nat
  hsigs : BitVec 16
  hsigd : BitVec 16
  hctrs : List (BitVec 8)
  bwt : Option BarWait
  stks : Nat

/-- A register of an image. -/
def imageReg (g : Nat → Byte) (p k i : Nat) : Reg :=
  let o := 0x900 + 160 * (i * p + k / 32)
  let l := k % 32
  let psn := bitAt (numAt g (o + 144) 4) l
  let tag : BitVec 4 := BitVec.ofNat 4 ((g (o + 128 + l / 2)).toNat / 16 ^ (l % 2))
  ⟨if psn then 0 else tagValue (word (numAt g (o + 4 * l) 4)) tag, tag, psn⟩
/-- An image breaks R70. `stkn`: slots of the context's stack pool. -/
def imageBad (g : Nat → Byte) (stkn : Nat) : Bool :=
  let kind := numAt g 8 1
  let p := numAt g 9 1
  let n := numAt g 10 2
  let L := numAt g 12 2
  let bw := numAt g 0xd0 8
  decide (kind > 7) || p == 0 || decide (p > 32) || n == 0 || decide (n > 256) || decide (L > 256) || decide (L > n) ||
  numAt g 14 2 != 0 || numAt g 0xdc 36 != 0 || decide (numAt g 16 4 ≥ 64) || decide (numAt g 32 32 ≥ 2 ^ n) ||
  (!bitAt kind 1 && (numAt g 0xc0 8 != 0 || numAt g 0xc8 4 != 0 || numAt g 0xcc 4 != 0)) ||
  (if bitAt bw 63 then bits bw 37 26 != 0 else bw != 0) || (bitAt kind 2 && bitAt bw 63) || decide (numAt g 0xd8 4 ≥ stkn) ||
  (List.range (L * p)).any (fun i => numAt g (0x900 + 160 * i + 148) 12 != 0)
/-- Reads an image. The words `sum`, `pw`, `hsum` and the pass words of `hact` are not read: the enabled strands follow from the counters,
also where those words disagree with them (R70 does not say which holds; log entry 50). -/
def readImage (g : Nat → Byte) (stkn : Nat) : Option Image :=
  if imageBad g stkn then none
  else
    let kind := numAt g 8 1
    let p := numAt g 9 1
    let n := numAt g 10 2
    let L := numAt g 12 2
    let bw := numAt g 0xd0 8
    let h := 0x900 + 160 * L * p
    some { pc := numAt g 0 8, kind := kind, passes := p, nreg := n, live := L, tctl := word (numAt g 16 4),
           sigs := BitVec.ofNat 16 (numAt g 20 2), sigd := BitVec.ofNat 16 (numAt g 22 2), mism := word (numAt g 24 4),
           lock := bitSet (numAt g 32 32) 256,
           strands := (List.range (32 * p)).map (fun k =>
             ⟨(List.range n).map (fun i => if i < L then imageReg g p k i else Reg.zero), g (0x100 + k), g (0x500 + k)⟩),
           hpc := numAt g 0xc0 8, hsigs := BitVec.ofNat 16 (numAt g 0xc8 2), hsigd := BitVec.ofNat 16 (numAt g 0xca 2),
           hctrs := if bitAt kind 1 then (List.range (32 * p)).map (fun k => g (h + 128 + k)) else [],
           bwt := if bitAt bw 63 then some ⟨bitAt bw 36, bits bw 32 4, word bw⟩ else none,
           stks := numAt g 0xd8 4 }

/-- A team with the state an image records (R70, R287). Bits 63:48 of `pc` and `hpc` are dropped (R70 names no image invalid for them;
log entry 51). What no image holds is kept beside it where the program counter is the one it was kept for: whether an instruction is
reached by stepping (R163), and the producers of the stall-count test, which no pre-emption changes (R130). -/
def Team.load (t : Team) (m : Image) : Team :=
  let pc : BitVec 48 := BitVec.ofNat 48 m.pc
  let hpc : BitVec 48 := BitVec.ofNat 48 m.hpc
  { t with pc := pc, strands := m.strands, tctl := m.tctl, sigs := m.sigs, sigd := m.sigd, mism := m.mism, lock := m.lock,
           act := if bitAt m.kind 1 then some ⟨hpc, m.hctrs, m.hsigs, m.hsigd,
             match t.act with
               | some a => if a.pc = hpc then a.stepped else true
               | none => if t.pc = hpc then t.stepped else true⟩ else none,
           bwt := m.bwt, nosleep := bitAt m.kind 2, stks := m.stks, stepped := if pc = t.pc then t.stepped else false,
           prod := if pc = t.pc then t.prod else [], seq := [], chk := none, held := false, work := none, rmw := none, inval := none }

/-! ## Group records -/

/-- The images of a record from an offset on, each at a multiple of 256, and the offset after the last. -/
def placeImages (o : Nat) (sizes : List Nat) : List Nat × Nat :=
  sizes.foldl (fun r n => (r.1 ++ [alignUp r.2 256], alignUp r.2 256 + n)) ([], o)

/-- The slots a group has claimed, rising. -/
def claimedBy (s : State) (g : Group) : List Nat := (List.range 128).filter (fun n => (s.core g.core).owns n g.id)

/-- The cluster barriers of a group's record (Table 21-6). -/
def cbarBytes (s : State) (g : Group) : List Byte :=
  match clusterInst s g with
  | none => List.replicate 32 0
  | some x => (instBars s x).flatMap (fun b => leBytes 4 b.phase.toNat ++ leBytes 2 b.arr.length ++
      leBytes 2 (ofBits ((List.range 16).filter (fun j => b.arr.contains (g.id, j)))))

/-- The header of a group record (Table 21-6), for the group's teams `ts`. -/
def recordHeader (s : State) (g : Group) (ts : List Team) : List Byte :=
  leBytes 4 g.gid ++ leBytes 2 g.core ++ leBytes 1 0 ++ leBytes 1 g.used ++ leBytes 4 g.sbase ++ leBytes 4 g.sbytes ++
  leBytes 16 (ofBits (claimedBy s g)) ++ leBytes 4 g.iqn.toNat ++ leBytes 4 g.iqc ++
  leBytes 2 (ofBits ((ts.filter (·.evf)).map (·.idx))) ++ leBytes 2 (ofBits ((g.chans.map (· % 4)).foldl (fun l c => sadd c l) [])) ++
  leBytes 4 (ofBits (ts.map (·.idx))) ++
  padTo 128 (g.bars.flatMap (fun b => leBytes 4 b.phase.toNat ++ leBytes 2 (ofBits ((List.range 16).filter (fun j => b.arr.contains (g.id, j)))) ++ leBytes 2 0)) ++
  padTo 32 (cbarBytes s g) ++ List.replicate 48 0

/-- The scratchpad image and its poison bitmap. -/
def scrImage (s : State) (g : Group) : List Byte :=
  let b := g.core * 2 ^ 19 + g.sbase
  (List.range g.sbytes).map (fun i => s.scrByte (b + i)) ++
  (List.range (g.sbytes / 64)).map (fun i => BitVec.ofNat 8 (ofBits ((List.range 8).filter (fun j => s.scrPsn.contains (b / 8 + 8 * i + j)))))

/-- The teams of a group, by index. -/
def teamsOf (s : State) (g : Group) : List Team :=
  (List.range 16).filterMap (fun j => s.teams.find? (fun t => t.grp == g.id && t.idx == j))

/-- How a team is saved: registers and kind (R51, R53); in full unless it stands at a yield point. -/
def saveKind (t : Team) : Nat × Bool := match t.yielded with | some y => y | none => (t.nreg, true)

/-- The whole record of a group (R356). -/
def recordBytes (s : State) (g : Group) (ts : List Team) (kind : Team → Nat × Bool) : List Byte :=
  let head := ts.foldl (fun bs t => padTo (alignUp bs.length 256) bs ++ imageBytes t (kind t).1 (kind t).2) (recordHeader s g ts)
  head ++ scrImage s g ++ (claimedBy s g).flatMap (fun n => (List.range 2304).map (fun i => s.slotByte (slotBase g.core n + i)))

/-- The largest record a group could need (R357). -/
def largestRecord (s : State) (g : Group) : Nat :=
  let ts := teamsOf s g ++ g.kept
  (placeImages 256 (ts.map (fun t => imageSize t.nreg t.passes true))).2 + g.sbytes + g.sbytes / 64 + 2304 * (claimedBy s g).length

/-- The lowest 256-byte-aligned part of a save area with room for n bytes. -/
def savePlace (c : Ctx) (n : Nat) : Option Nat :=
  let free := fun o : Nat => decide (o + n ≤ c.desc.savsz) && c.savUsed.all (fun u => decide (u.1 + u.2 ≤ o) || decide (o + n ≤ u.1))
  (0 :: (c.savUsed.map (fun u => alignUp (u.1 + u.2) 256))).foldl (fun (r : Option Nat) o =>
    if free o then (match r with | some p => some (min p o) | none => some o) else r) none
/-- Room for n bytes taken in a context's save area. -/
def takePlace (s : State) (ctx n : Nat) : Option (State × Nat) :=
  match s.ctx ctx with
  | none => none
  | some c => (savePlace c n).map (fun o => (s.setCtx ctx (fun c => { c with savUsed := c.savUsed ++ [(o, n)] }), o))
/-- The save area keeps room for the largest record of every group of a request, so that none of them can run out of it (R357); none where
they do not all fit. -/
def keepPlaces (s : State) (gs : List Group) : Option State :=
  gs.foldl (fun (o : Option State) g => o.bind (fun s =>
    if g.sav.isSome then some s
    else (takePlace s g.ctx (largestRecord s g)).map (fun r => r.1.setGroup g.id (fun x => { x with sav := some r.2 })))) (some s)
/-- A group's record of n bytes goes to the place kept for it, and what is left of that is free again; slots claimed since the request may
need another place. -/
def recordPlace (s : State) (g : Group) (n : Nat) : Option (State × Nat) :=
  match g.sav, s.ctx g.ctx with
  | some o, some c =>
    if c.savUsed.any (fun u => u.1 == o && decide (n ≤ u.2)) then
      some (s.setCtx g.ctx (fun c => { c with savUsed := c.savUsed.map (fun u => if u.1 = o then (o, n) else u) }), o)
    else takePlace (freePlace s g.ctx (some o)) g.ctx n
  | _, _ => takePlace s g.ctx n
/-- Bytes a request needs (R357). -/
def bytesNeeded (s : State) (gs : List Group) : Nat := (gs.map (fun g => alignUp (largestRecord s g) 256)).foldl (· + ·) 0
/-- A request is refused for want of room: RAS record of kind 0x0C (R357). -/
def refuseSave (s : State) (gs : List Group) : State :=
  match gs with
  | [] => s
  | g :: _ => rasWrite s 0x0c (rasLoc g.core 0) g.q g.ctx 0 0 (BitVec.ofNat 64 (bytesNeeded s gs))

/-- What is kept of a team whose group is saved: a stopped team keeps its fault for a new delivery (R254). -/
def Team.residue (t : Team) : Team :=
  { t with strands := t.strands.map (fun x => { x with regs := [] }), preq := none, yielded := none, held := false, work := none, inval := none,
           status := match t.status with | .stopped d => .stopped d | _ => .run }

/-- Groups asked to leave go on; a gate they were to leave for is not under way any more. -/
def stayHere (s : State) (gs : List Group) : State :=
  let mine := fun g : Nat => gs.any (fun y => y.id == g)
  let s := gs.foldl (fun s g => if g.pre = some .gate then s.setCluster (clusterOf g.core) (fun c => { c with gating := false }) else s) s
  let s := gs.foldl (fun s g => (freePlace s g.ctx g.sav).setGroup g.id (fun z => { z with pre := none, sav := none })) s
  { s with teams := s.teams.map (fun t => if mine t.grp then { t with preq := none, yielded := none } else t) }

/-- Open commands and gates that wait for saves or restores look again. -/
def wakeOpen (s : State) : State :=
  let s := s.queues.foldl (fun s x => x.2.cmds.foldl (fun s c =>
    let open_ := c.started && (match c.step with
      | .preEmpt _ _ => true
      | .restore _ _ => true
      | .mapOutCorePair _ _ => true
      | .powerGate _ _ _ => true
      | .retention _ _ _ => true
      | _ => false)
    if open_ && !s.due.contains c.step then s.later c.step else s) s) s
  s.clusters.foldl (fun s x => if x.2.gating && !s.due.contains (.gatePowerOff x.1) then s.later (.gatePowerOff x.1) else s) s

/-- Writes a group's record and takes the group off its core (R52, R54, R356); none where the save area has no place for it. What the main core has retired and no checker has checked is discarded (R286). -/
def saveGroup (s : State) (g : Group) : Option State :=
  let ts := teamsOf s g
  let bs := recordBytes s g ts saveKind
  match recordPlace s g bs.length, s.ctx g.ctx with
  | some (s1, o), some c => some (
    let s1 := (ctxWrite s1 g.ctx (c.desc.sav + o) bs).getD s1
    let s1 := s1.setCore g.core (fun k => { k with slots := k.slots.filter (fun x => x.2 != g.id) })
    forgetTeams (s1.setGroup g.id (fun x => { x with res := .saved o, kept := ts.map Team.residue, sav := none })) (fun t => t.grp == g.id))
  | _, _ => none

/-- A team stands where it can be saved: at its yield point or boundary, with the completions of R52 made. -/
def teamReady (s : State) (t : Team) : Bool := t.yielded.isSome && nothingOut s t && t.status != .waiting
/-- A group is saved. -/
def isSaved (g : Group) : Bool := match g.res with | .saved _ => true | _ => false
/-- The groups of a unit that are not saved. -/
def hereOf (s : State) (g : Group) : List Group := (unitOf s g).filter (fun y => !isSaved y)
/-- Every group of a unit that is not saved yet can be saved now (R54, R354). -/
def unitReady (s : State) (gs : List Group) : Bool :=
  gs.all (fun g => g.res == .resident && g.pre.isSome && !s.ecmds.any (fun e => e.grp == g.id) &&
    (teamsOf s g).all (teamReady s))

/-- PREEMPTION_REQUEST (R354, R355, R357): the request reaches the teams of the group's unit, unless their records would not
fit; room for them is kept from now on; a stopped team stands at its stop. -/
def execPreemptionRequest (g : Nat) (s : State) : Host.Outcome State Fault Refusal :=
  match s.group g with
  | none => .next s
  | some x =>
    let gs := hereOf s x
    let why := x.pre.getD .sched
    if gs.isEmpty then .next s
    else match keepPlaces s gs with
    | none => .next (wakeOpen (stayHere (refuseSave s gs) gs))
    | some s =>
      let s := gs.foldl (fun s y => s.setGroup y.id (fun z => { z with pre := some (z.pre.getD why) })) s
      let mine := fun t : Team => gs.any (fun y => y.id == t.grp)
      let s := { s with teams := s.teams.map (fun t => if mine t ∧ t.preq = none then
        { t with preq := some s.now,
                 yielded := match t.status with | .stopped _ => some (t.nreg, true) | _ => t.yielded } else t) }
      .next (match s.teams.find? (fun t => mine t && t.yielded.isSome) with
        | some t => s.later (.yieldPointSave t.hnd)
        | none => s)

/-- YIELD_POINT_SAVE (R51, R52, R54, R355, R356): once every team of the unit stands ready, its groups are saved together. -/
def execYieldPointSave (h : Nat) (s : State) : Host.Outcome State Fault Refusal :=
  match (s.team h).bind s.grpOf with
  | none => .next s
  | some g =>
    let gs := hereOf s g
    if !unitReady s gs then .next s
    else match gs.foldl (fun (o : Option State) g => o.bind (fun s => saveGroup s g)) (some s) with
    | none => .next (wakeOpen (stayHere (refuseSave s gs) gs))
    | some s =>
      let s := if g.pre = some .host ∧ !s.teams.any (fun t => s.qOf t == g.q) then s.setQueue g.q (fun q => { q with hostPre := true }) else s
      .next (wakePlacement (wakeOpen s))

/-- The pre-emption timeout of a team in ns (R354, Table 23-1). -/
def preTimeout (s : State) (t : Team) : Nat := (if (s.recOf t).pto = 0 then 200 else (s.recOf t).pto) * 1000

/-- PREEMPTION_TIMEOUT (R53, R211): the team is to be saved in full where it stands. -/
def execPreemptionTimeout (h : Nat) (s : State) : Host.Outcome State Fault Refusal :=
  match s.team h with
  | none => .next s
  | some t => match t.preq, t.yielded with
    | some t0, none =>
      if s.now < t0 + preTimeout s t || t.rmw.isSome then .next s
      else .next ((s.putTeam { t with yielded := some (t.nreg, true) }).later (.yieldPointSave h))
    | _, _ => .next s

/-! ## Restore -/

/-- The record of a saved group as bytes of its save area, read by the device (R29, R327). -/
def recordRead (s : State) (g : Group) (addr : Nat) : State × Got :=
  match s.ctx (ctxId g.ctx) with
  | none => (s, .bad)
  | some c => ctxGet s (ctxId g.ctx) (c.desc.sav + addr) (match c.savUsed.find? (fun u => u.1 == addr) with | some u => u.2 | none => 256)
/-- The records of saved groups, one after another: the state with their reading done, whether one has to wait for another agent, and for
each group its bytes, if its pages allow the reading. -/
def readRecords (s : State) (gs : List Group) : State × Bool × List (Group × Option (List Byte)) :=
  gs.foldl (fun (r : State × Bool × List (Group × Option (List Byte))) g =>
    let x := recordRead r.1 g (match g.res with | .saved a => a | _ => 0)
    match x.2 with
    | .wait => (x.1, true, r.2.2)
    | .bad => (x.1, r.2.1, r.2.2 ++ [(g, none)])
    | .bytes bs => (x.1, r.2.1, r.2.2 ++ [(g, some bs)])) (s, false, [])

/-- A group record breaks a range of its header, names another group than the one saved, or holds a bad image (R357). -/
def recordBad (s : State) (g : Group) (f : Nat → Byte) : Bool :=
  let stkn := match s.ctx (ctxId g.ctx) with | some c => c.desc.stkn | none => 0
  let live := g.kept.map (·.idx)
  numAt f 0xd0 48 != 0 || numAt f 6 1 != 0 || numAt f 0 4 != g.gid % 2 ^ 32 || numAt f 4 2 != g.core || numAt f 7 1 != g.used ||
  numAt f 8 4 != g.sbase || numAt f 12 4 != g.sbytes || numAt f 0x2a 2 ≥ 16 || numAt f 0x2c 4 != ofBits live ||
  (List.range 16).any (fun i => numAt f (0x30 + 8 * i + 6) 2 != 0) ||
  (let r := g.kept.foldl (fun (r : Bool × Nat) t =>
      let o := alignUp r.2 256
      let h := fun i => f (o + i)
      (r.1 || (match readImage h stkn with | some m => m.passes != t.passes || m.nreg != t.nreg | none => true),
       o + imageSize (numAt h 12 2) (numAt h 9 1) (bitAt (numAt h 8 1) 1))) (false, 256)
   r.1)

/-- Seats the teams of a saved group, by index, from their images; none without room (R54). Each holds the stack slot of its image (R70).
Answers the offset after the
last image and the teams delivered again (R254). -/
def seatSaved (g : Group) (f : Nat → Byte) (stkn : Nat) (s : State) : Option (State × Nat × List Team) :=
  g.kept.foldl (fun (r : Option (State × Nat × List Team)) t => r.bind (fun x =>
    let o := alignUp x.2.1 256
    let h := fun i => f (o + i)
    match openSeat x.1 g.core t.strands.length t.nreg, readImage h stkn with
    | some p, some m =>
      let hnd := mkHnd p.2 p.1 g.core
      let t1 := { t.load m with hnd := hnd, evf := bitAt (numAt f 0x28 2) t.idx,
                                since := x.1.now, newer := none,
                                status := match t.status with | .stopped d => .stopped { d with hnd := hnd } | y => y }
      let s1 := x.1.setCtx g.ctx (fun c => { c with stkUsed := sadd m.stks (sdel t.stks c.stkUsed) })
      some ({ s1 with teams := s1.teams ++ [t1], fresh := s1.fresh + 2 }, o + imageSize m.live m.passes (bitAt m.kind 1), x.2.2 ++ [t1])
    | _, _ => none)) (some (s, 256, []))

/-- The barriers a record gives a group. -/
def barsFrom (g : Group) (f : Nat → Byte) : List Barrier :=
  (List.range 16).map (fun i => ⟨word (numAt f (0x30 + 8 * i) 4), (bitSet (numAt f (0x34 + 8 * i) 2) 16).map (fun j => (g.id, j))⟩)
/-- The cluster barriers with a group's arrivals as its record gives them. -/
def cbarsFrom (s : State) (g : Group) (f : Nat → Byte) : State :=
  match clusterInst s g with
  | none => s
  | some x => if s.cbars.any (fun y => y.1 == x) then
      setInstBars s x ((instBars s x).mapIdx (fun i b => ⟨word (numAt f (0xb0 + 8 * i) 4),
        b.arr.filter (fun a => a.1 ≠ g.id) ++ (bitSet (numAt f (0xb0 + 8 * i + 6) 2) 16).map (fun j => (g.id, j))⟩))
    else s

/-- Restores one group where it was (R54, R70, R356, R357); none where its scratchpad, slots or sections are not free. -/
def restoreGroup (s : State) (g : Group) (addr : Nat) (f : Nat → Byte) : Option State :=
  let slots := bitSet (numAt f 0x10 16) 128
  let stkn := match s.ctx (ctxId g.ctx) with | some c => c.desc.stkn | none => 0
  if !enabledCore s g.core || !clusterOpen s g.core || !scrFree s g.core g.sbase g.sbytes || slots.any (fun n => !(s.core g.core).slotFree n) then none
  else (seatSaved g f stkn s).map (fun r =>
    let s := r.1
    let scr := g.core * 2 ^ 19 + g.sbase
    let o := r.2.1
    let s := scrWrite s (cellsAt scr ((List.range g.sbytes).map (fun i => f (o + i))))
    let psn := (List.range (g.sbytes / 8)).filter (fun w => bitAt (f (o + g.sbytes + w / 8)).toNat (w % 8))
    let s := { s with scrPsn := psn.foldl (fun l w => sadd (scr / 8 + w) l) s.scrPsn }
    let s0 := o + g.sbytes + g.sbytes / 64
    let s := (slots.mapIdx (fun i n => (i, n))).foldl (fun s x =>
      let cs := cellsAt (slotBase g.core x.2) ((List.range 2304).map (fun j => f (s0 + 2304 * x.1 + j)))
      { s with slotm := s.slotm.putAll cs, slotUnd := undCells s.slotUnd cs }) s
    let s := s.setCore g.core (fun k => { k with slots := k.slots ++ slots.map (fun n => (n, g.id)) })
    let s := s.setGroup g.id (fun x => { x with
      res := .resident, kept := [], pre := none, ctx := ctxId x.ctx, bars := barsFrom g f, iqn := word (numAt f 0x20 4), iqc := numAt f 0x24 4 })
    let s := cbarsFrom s g f
    let s := freePlace s g.ctx (some addr)
    r.2.2.foldl (fun s t => match t.status with | .stopped d => ringDeliver s d | _ => s) s)

/-- Restores groups together; none where one of them has no room. -/
def restoreAll (s : State) (rs : List (Group × List Byte)) : Option State :=
  rs.foldl (fun (o : Option State) y => o.bind (fun s =>
    restoreGroup s y.1 (match y.1.res with | .saved a => a | _ => 0) (fun o => nth 0 y.2 o))) (some s)

/-- Groups asked to leave for saved ones to return, on cores that are open to them: guests of reserved cores that the unit returns to
(R363), and groups of lower priority in the order of R365, as far as it takes; nobody where it would not fit even so (log entry 47). -/
def victimsFor (s : State) (rs : List (Group × List Byte)) : List Group :=
  match rs.head?.bind (fun y => s.launch y.1.launch) with
  | none => []
  | some l =>
    let cores := rs.map (fun y => y.1.core)
    let fits := fun t : State => (restoreAll t rs).isSome
    let here := guestsOn s l.q cores
    let guests := (here.filter (isGuest s l.qr)).flatMap (unitOf s)
    let low := here.filter (fun g => !guests.any (fun x => x.id == g.id) && decide ((groupRec s g).prio < l.qr.prio))
    let vs := takeVictims s fits (victimOrder s low) (without s (guests.map (·.id))) []
    if fits (without s ((guests ++ vs).map (·.id))) then guests ++ vs else []

/-- A launch still waits for room that a saved group would be asked to give up again: on a core of its queue that the group may not keep
as a guest (R363), or at a higher priority (R365). It goes first where it fits without such groups. -/
def launchFirst (s : State) (g : Group) : Bool :=
  (List.range 64).any (fun q => q != g.q && !savedOf s q && (match nextLaunch s q with
    | none => false
    | some l =>
      let out := fun x : Group => x.q != q && s.supq != some x.q && (isGuest s l.qr x || decide ((groupRec s x).prio < l.qr.prio))
      (candidates s l).contains g.core && out g && (placeUnit (without s ((s.groups.filter out).map (·.id))) l).isSome))

/-- GROUP_RESTORE (R54, R70, R254, R251, R357, R363, R365): every saved group of the unit returns together when all of them have
room and no launch they left for still waits; an invalid record tears the queue down. -/
def execGroupRestore (g : Nat) (s : State) : Host.Outcome State Fault Refusal :=
  match s.group g with
  | none => .next s
  | some x =>
    let gs := (unitOf s x).filter isSaved
    if gs.isEmpty || x.pre == some .host || (x.pre == some .sched && gs.any (launchFirst s)) then .next s
    else
      let r := readRecords s gs
      let s := r.1
      if r.2.1 then .next s
      else match r.2.2.find? (fun y => match y.2 with | some bs => recordBad s y.1 (fun o => nth 0 bs o) | none => true) with
      | some y =>
        let s := rasWrite s 0x0f (rasLoc y.1.core 0) y.1.q y.1.ctx 0 0 (BitVec.ofNat 64 y.1.gid)
        .next (wakePlacement (wakeOpen (teardown s y.1.q)))
      | none =>
        let rs := r.2.2.map (fun y => (y.1, y.2.getD []))
        match restoreAll s rs with
        | some t => .next (wakePlacement (wakeOpen (t.setQueue x.q (fun q => { q with hostPre := false }))))
        | none => .next (askLeave s (victimsFor s rs) .sched)

end Sys2Proof.Machine
end

