-- ==== Sys2Proof/Machine/System.lean ====
section
/-! DEFINITION. Group 7: special state (R63 to R68, R245, R246), traps and return (R247, R248), signature and checking
requests (R249, R250), sleep and events (R251, R252), and the supervisor's instructions (R253 to R259). -/

namespace Sys2Proof.Machine

/-! ## Special state -/

/-- A name as `MOVS` reads it: a word per strand, or 64 bits for the whole team (Table 4-3). -/
inductive Special where
  | word32 (f : Nat → Word)
  | word64 (v : DWord)

/-- Some team of the core waits for want of a matrix token (Table 4-6): its next instruction is an `MMA` and the core holds none (R224).
-/
def wantsToken (s : State) (core : Nat) : Bool :=
  !(s.core core).tok && s.teams.any (fun t => t.core == core && canIssue s t && (match fetchAt s t with | .instr (.mma _) => true | _ => false))
/-- `%tok` of a core (R68). -/
def tokWord (s : State) (core : Nat) : Word :=
  word (s.power.pool % 65536 * 65536 + (if wantsToken s core then 2 else 0) + (if (s.core core).tok then 1 else 0))
/-- `%lvl`i of a strand (R33); in a launch-team node's team `%lvl0` is the strand and group-bound levels read 0 (R240). -/
def lvlWord (c : Run) (i k : Nat) : Word :=
  match (c.s.grpOf c.t).bind (fun g => (c.s.launch g.launch).map (fun l => (g, l))) with
  | none => 0
  | some (g, l) =>
    let dom := match l.lr.levels[i]? with | some m => m.domain | none => 0
    word (if c.t.node then (if i = 0 then k else if dom < 2 then 0 else lvlCoord l.lr i 0 0 g.gid) else lvlCoord l.lr i k c.t.idx g.gid)

/-- The state in which a core's `%cycles` has been sampled (R64): the count goes on by the edges since the last sampling. -/
def sampleCycles (s : State) (core : Nat) : State :=
  { s.setCore core (fun k => { k with cyc := k.cyc + (Config.coreEdges s.fresh).zeroExtend 64 }) with fresh := s.fresh + 1 }

/-- A sampled name's number among those whose last value is kept (R282). -/
def sampledName (sel : Nat) : Option Nat := if sel = 0x18 then some 0 else if sel = 0x19 then some 1 else if sel = 0x30 then some 2 else none
/-- The content of a name by selector (Table 4-3); none for a reserved selector. -/
def specialOf (c : Run) (sel : Nat) : Option Special :=
  match sel with
  | 0x00 => some (.word32 word)
  | 0x01 => some (.word32 (fun k => word (k % 32)))
  | 0x02 => some (.word32 (fun k => word (k / 32)))
  | 0x03 => some (.word32 (fun _ => word (c.t.idx % 16 + 16 * hndSec c.t.hnd)))
  | 0x10 => some (.word32 (fun _ => word (c.core % 512 + 4096 * rankOf c.core)))
  | 0x11 => some (.word32 (fun _ => word (dieOf c.core)))
  | 0x12 => some (.word32 (fun _ => word (c.s.devid % 512)))
  | 0x18 => some (.word64 (BitVec.ofNat 64 (sampleOf c.s (c.s.core c.core).cyc.toNat)))
  | 0x19 => some (.word64 (BitVec.ofNat 64 (sampleOf c.s c.s.now)))
  | 0x20 => some (.word32 (fun k => word (c.t.strand k).nsr.toNat))
  | 0x21 => some (.word32 (fun _ => c.t.tctl))
  | 0x28 => some (.word32 (fun _ => word (sigsAt c.t).toNat))
  | 0x29 => some (.word32 (fun _ => word c.t.sigd.toNat))
  | 0x2a => some (.word32 (fun _ => c.t.mism))
  | 0x30 => some (.word32 (fun _ => word (sampleOf c.s (tokWord c.s c.core).toNat)))
  | _ => if 0x08 ≤ sel ∧ sel ≤ 0x0f then some (.word32 (lvlWord c (sel - 8))) else none

/-- The value a sampled name's read commits with. -/
def specialNat (x : Special) : Nat := match x with | .word32 f => (f 0).toNat | .word64 v => v.toNat
/-- MOVS (R245). -/
def execMovs (a : Alu) (s : State) :=
  runI (.movs a) (fun c =>
    let sel := (srcField a.b).toNat
    let c := if sel = 0x18 ∧ !c.act.isEmpty then { c with s := sampleCycles c.s c.core } else c
    match specialOf c sel with
    | none => .trap trapIllegal
    | some x =>
      let c := match sampledName sel with
        | some n => if c.act.isEmpty then c else { c with t := c.t.sampled n (specialNat x) }
        | none => c
      match x with
      | .word32 f => lanes c (fun k => .ok (Out.one a.vd (f k) 0))
      | .word64 v => if a.vd.toNat % 2 = 1 then .trap trapIllegal else lanes c (fun _ => .ok (Out.pair a.vd v.toNat 0))) s

/-- The write of a team name by the leader's value. -/
def movswTeam (a : Alu) (c : Run) (f : Word → Res) : Res := withActive c (fun l => (c.reg l a.va).res f)
/-- The sources a team name's write reads. -/
def leadRead (c : Run) (r : RegField) : Option (List (Nat × Nat)) := some (match c.lead with | some l => [(l, r.toNat)] | none => [])

/-- MOVSW (R63, R65 to R67, R246). -/
def execMovsw (a : Alu) (s : State) :=
  runI (.movsw a) (fun c => match (srcField a.b).toNat with
    | 0x20 => (V.all (c.act.map (fun k => (c.reg k a.va).map (fun x => (k, x))))).res (fun vs =>
        .done (Done.seq (c.put (vs.foldl (fun t x => t.setStrand x.1 (fun y => { y with nsr := BitVec.ofNat 8 x.2.toNat })) c.t))))
    | 0x21 => movswTeam a c (fun x => if x.toNat ≥ 64 then .trap trapIllegal
        else .done { Done.seq (c.put { c.t with tctl := x }) with reads := leadRead c a.va })
    | 0x2a => movswTeam a c (fun x => .done { Done.seq (c.put { c.t with mism := x }) with reads := leadRead c a.va })
    | 0x28 => if !c.sup then .trap trapIllegal
        else movswTeam a c (fun x => .done { Done.seq (c.put { c.t with sigs := BitVec.ofNat 16 x.toNat }) with keepSigs := true, reads := leadRead c a.va })
    | 0x29 => if !c.sup then .trap trapIllegal
        else movswTeam a c (fun x => .done { Done.seq (c.put { c.t with sigd := BitVec.ofNat 16 x.toNat }) with keepSigd := true, reads := leadRead c a.va })
    | _ => .trap trapIllegal) s

/-! ## Traps, return, signatures -/

/-- TRAP (R247). -/
def execTrap (a : Alu) (s : State) :=
  runI (.trap a) (fun c => withActive c (fun l => .soft ⟨7, 0x11, some l, 0, (srcField a.b).toNat⟩)) s
/-- ERET (R248, R345). -/
def execEret (a : Alu) (s : State) :=
  runI (.eret a) (fun c => match c.t.act with
    | none => .trap trapIllegal
    | some x => .done { Done.seq (c.put (c.t.unwind x)) with
        jump := some x.pc, stepped := x.stepped, keepSigs := true, keepSigd := true, reads := some [] }) s
/-- SIGCHK (R249): the comparison is part of the check every instruction goes through. -/
def execSigchk (a : Alu) (s : State) := runI (.sigchk a) (fun c => .done { Done.seq c.s with reads := some [] }) s
/-- CHKREQ (R250): the next 4,096 instructions, this one's own retirement counted off; what the main core has retired since is discarded,
for the checker bank now executes from the checked copy (R287). It acts whatever its guards, and not where no strand is enabled (R46). -/
def execChkreq (a : Alu) (s : State) :=
  runI (.chkreq a) (fun c =>
    .done { Done.seq (if c.t.enabled.isEmpty then c.s else dropClaims (c.put { c.t with chk := some 4097 }) c.t.hnd) with reads := some [] }) s

/-! ## Sleep and events -/

/-- A `SLEEP` completes: vd says whether the flag woke it (R251). -/
def sleepEnd (a : Alu) (c : Run) (l : Nat) (woke : Bool) : Res :=
  let t := { c.t with evf := if woke then false else c.t.evf, nosleep := false }
  let s := c.put (t.writeAll t.all a.vd.toNat (if woke then 1 else 0) 0)
  .done { Done.seq (if woke then s.orderPoint c.t.hnd else s) with
    reads := some [(l, a.va.toNat)], writes := [(a.vd.toNat, c.t.all)] }
/-- SLEEP (R251, R252). -/
def execSleep (a : Alu) (s : State) :=
  runI (.sleep a) (fun c => withActive c (fun l => (c.reg l a.va).res (fun x =>
    if c.stalls (some [(l, a.va.toNat)]) then .trap trapStall
    else if c.t.evf then sleepEnd a c l true
    else if c.t.nosleep || x == 0 then sleepEnd a c l false
    else match c.t.status with
      | .slept d => if c.s.now ≥ d then sleepEnd a c l false else .hold c.s
      | _ => .hold (c.s.setTeam c.t.hnd (fun t => { t with status := .slept (c.s.now + x.toNat) }))))) s
/-- EVSEND (R251, R252): after a release at group scope. -/
def execEvsend (a : Alu) (s : State) :=
  runI (.evsend a) (fun c => withActive c (fun _ =>
    if !releaseReady c.s c.t 2 then .hold c.s
    else .done { Done.seq { c.s with teams := c.s.teams.map (fun t => if t.grp = c.t.grp then { t with evf := true } else t) } with
      reads := some [] })) s

/-! ## The supervisor's instructions -/

/-- A cached leaf that a `TLBINV` drops (Table 12-2). -/
def tlbHit (kind ctx va : Nat) (t : Tlb) : Bool :=
  match kind with
  | 0 => ctxId t.ctx == ctxId ctx && decide (t.va ≤ va) && decide (va < t.va + t.size)
  | 1 => ctxId t.ctx == ctxId ctx
  | _ => true
/-- A waiting engine command's address is covered by a `TLBINV`: by its page, or by a page it dropped (R350). -/
def tlbCovers (kind ctx va : Nat) (dropped : List Tlb) (e : ECmd) : Bool :=
  match e.wait with
  | none => false
  | some w => match kind with
    | 0 => ctxId w.ctx == ctxId ctx && (w.addr / 4096 == va / 4096 || dropped.any (fun t => decide (t.va ≤ w.addr) && decide (w.addr < t.va + t.size)))
    | 1 => ctxId w.ctx == ctxId ctx
    | _ => true
/-- Drops leaves and lets the commands that waited walk again (R233, R253, R350). -/
def tlbDrop (s : State) (kind ctx va : Nat) : State :=
  let dropped := s.tlb.filter (tlbHit kind ctx va)
  let hit := s.ecmds.filter (tlbCovers kind ctx va dropped)
  let s := { s with tlb := s.tlb.filter (fun t => !tlbHit kind ctx va t),
                    ecmds := s.ecmds.map (fun e => if tlbCovers kind ctx va dropped e then { e with wait := none, tries := 1 } else e) }
  hit.foldl (fun s e => wakeEngines s e.core) s
/-- Accesses that may have used a dropped entry and have not performed (R253): write-throughs, stores of split parts and range operations
that began before the count of names stood at n, of teams and engine commands of the context, or of any. -/
def oldAccess (s : State) (kind ctx n : Nat) : Bool :=
  let ours := fun t : Team => kind == 2 || ctxId (s.ctxOf t) == ctxId ctx
  s.throughs.any (fun x => decide (x.id < n) && (match s.team x.hnd with | some t => ours t | none => true)) ||
  s.teams.any (fun t => ours t && (t.rel.any (fun r => decide (r.id < n) && !r.cells.isEmpty) || t.ranges.any (fun r => decide (r.id < n))))
/-- TLBINV (R253): the entries are dropped at once, and it completes when every access that used one has performed. -/
def execTlbinv (a : Alu) (s : State) :=
  runI (.tlbinv a) (fun c => withActive c (fun l =>
    let kind := subOf3 a.m
    let reads := (if kind = 0 then regsIn l a.va 2 else []) ++ regsIn l (srcField a.b) 1
    (V.both (if kind = 0 then (c.pair l a.va).bind (fun p => if ptrOk p ∧ ptrSpace p = 0 then .ok p else .bad (trapAddr (some l) p)) else .ok 0)
      (c.reg l (srcField a.b))).res (fun x =>
      let ctx := x.2.toNat % 65536
      if c.stalls (some reads) then .trap trapStall
      else
        let r := match c.t.inval with
          | some n => (c.s, n)
          | none => (tlbDrop c.s kind ctx x.1.toNat, c.s.names)
        if oldAccess r.1 kind ctx r.2 then .hold (r.1.setTeam c.t.hnd (fun t => { t with inval := some r.2 }))
        else .done { Done.seq (r.1.setTeam c.t.hnd (fun t => { t with inval := none })) with reads := some reads }))) s

/-- The stopped team a handle names (R254, Table 12-3). -/
def stoppedAt (s : State) (h : Word) : Option Team :=
  if h.toNat ≥ 32768 then none
  else (s.team h.toNat).bind (fun t => match t.status with | .stopped _ => some t | _ => none)

/-- A space 0 pointer of a supervisor instruction. -/
def space0 (l : Nat) (p : DWord) : V Unit := V.test (ptrOk p && ptrSpace p == 0) (trapAddr (some l) p)

/-- A result word for every strand, with the registers read. -/
def supDone (c : Run) (a : Alu) (l : Nat) (s : State) (v : Word) : Res :=
  giveAll { c with t := (s.team c.t.hnd).getD c.t } s a.vd v (regsIn l a.va 2 ++ regsIn l (srcField a.b) 1)

/-- CTXSAVE (R254, R69, R355). It waits for the completions of R52 in the stopped team, whose results would else land between the image
and a `CTXLOAD` of it (log entry 52). -/
def execCtxsave (a : Alu) (s : State) :=
  runI (.ctxsave a) (fun c => withActive c (fun l => (V.both (c.pair l a.va) (c.reg l (srcField a.b))).res (fun x =>
    (V.both (space0 l x.1) (V.test (decide (x.1.toNat % 256 = 0)) (trapAlign (some l) x.1))).res (fun _ =>
      match stoppedAt c.s x.2 with
      | none => supDone c a l c.s 0xffffffff
      | some t =>
        let bs := imageBytes t t.nreg true
        let xs := fun ls : List Loc => [(⟨l, ls, bs⟩ : Access)]
        (c.places l Need.wr x.1 bs.length).res (fun ls =>
          if !nothingOut c.s t then .hold c.s
          else whenReady c true ⟨0, 0, c.t.pc.toNat / 8 % 256, false⟩ (xs ls) (fun s =>
            supDone c a l (storePlain s c.t (xs ls)) (word bs.length))))))) s

/-- The part of an image at a pointer whose size is fixed: what follows is as long as its fields say. -/
def imageHead (c : Run) (l : Nat) (p : DWord) : V (List Loc) := c.places l Need.rd p 0x900

/-- The state with a stopped team loaded from an image (R255, R70): its stack slot as the image says, and with `.GO` the
team runs again. -/
def loadStopped (s : State) (t : Team) (m : Image) (go : Bool) : State :=
  let s := s.setCtx (s.ctxOf t) (fun c => { c with stkUsed := sadd m.stks (sdel t.stks c.stkUsed) })
  let t1 := t.load m
  s.putTeam { t1 with status := if go then .run else t.status, yielded := if go then none else t.yielded, since := s.now }

/-- CTXLOAD (R255, Table 12-4), from any space. It waits for the completions of R52 in the stopped team, as `CTXSAVE` does. -/
def execCtxload (a : Alu) (s : State) :=
  runI (.ctxload a) (fun c => withActive c (fun l => (V.both (c.pair l a.va) (c.reg l (srcField a.b))).res (fun x =>
    (V.test (ptrOk x.1) (trapAddr (some l) x.1)).res (fun _ =>
      match stoppedAt c.s x.2 with
      | none => supDone c a l c.s 2
      | some t => if !nothingOut c.s t then .hold c.s else (imageHead c l x.1).res (fun hd =>
          let u : CacheUse := ⟨0, 0, c.t.pc.toNat / 8 % 256, true⟩
          whenReady c false u [⟨l, hd, []⟩] (fun s0 =>
            let f := fun i => match hd[i]? with | some x => readLoc s0 c.core c.ctx x | none => 0
            (c.places l Need.rd x.1 (imageSize (min 256 (numAt f 12 2)) (min 32 (numAt f 9 1)) (bitAt (numAt f 8 1) 1))).res (fun ls =>
              whenReady { c with s := s0.uncharge c.s } false u [⟨l, ls, []⟩] (fun s =>
                let bs := ls.map (readLoc s c.core c.ctx)
                let stkn := match s.ctx (s.ctxOf t) with | some x => x.desc.stkn | none => 0
                let s := endAccess s c.core ls
                match readImage (fun o => nth 0 bs o) stkn with
                | none => supDone c a l s 1
                | some m =>
                  if m.passes ≠ t.passes ∨ m.nreg ≠ t.nreg then supDone c a l s 3
                  else supDone c a l (loadStopped s t m (topBit a.m)) 0)))))))) s

/-- POISONCLR (R256): a register of each active strand, or a physical page. -/
def execPoisonclr (a : Alu) (s : State) :=
  runI (.poisonclr a) (fun c =>
    if subOf3 a.m = 0 then
      (V.all (c.act.map (fun k => (c.reg k a.va).bind (fun x =>
        if x.toNat ≥ c.t.nreg then .bad (trapBound (some k)) else .ok (k, x.toNat))))).res (fun vs =>
        if vs.any (fun x => c.t.owes x.2) then .hold c.s
        else .done { Done.seq (c.put (vs.foldl (fun t x => t.setStrand x.1 (fun y => y.set x.2 0 0)) c.t)) with
          writes := vs.map (fun x => (x.2, [x.1]))
          reads := some (c.act.flatMap (fun k => regsIn k a.va 1)) })
    else withActive c (fun l => (c.pair l a.va).res (fun p =>
      if p.toNat % 4096 ≠ 0 ∨ p.toNat ≥ 2 ^ 48 then .trap (trapAddr (some l) p)
      else .done { Done.seq { c.s with memPsn := sdel (p.toNat / 4096) c.s.memPsn } with reads := some (regsIn l a.va 2) }))) s

/-- Where the host writes the read index of an event ring (R382). -/
def readIndexAt (r : EvRing) : List Nat := physAt (r.base + 64 * r.entries) 4
/-- The device reads the read index of a port's event ring, as the host wrote it (R382). -/
def ringGet (s : State) (r : EvRing) : State × Option Word :=
  let x := devGet s (readIndexAt r)
  (x.1, x.2.map (fun bs => word (leNat bs)))
/-- The ring is full: the indices differ by the entry count (R382). -/
def EvRing.fullAt (r : EvRing) (rd : Word) : Bool := decide ((r.wr - rd).toNat ≥ r.entries)
/-- Writes one event and then the write index (R382). -/
def ringPush (s : State) (port : Nat) (bs : List Byte) : State :=
  let r := s.evring port
  let s := devWrite s (cellsAt (r.base + 64 * (r.wr.toNat % r.entries)) bs)
  let s := devWrite s (cellsAt (r.base + 64 * r.entries + 4) (leBytes 4 (r.wr + 1).toNat))
  { s with events := aset port { s.evring port with wr := r.wr + 1 } s.events }

/-- HOSTMSG (R257, R382): after a release at system scope; an event that waits already leaves no room. -/
def execHostmsg (a : Alu) (s : State) :=
  runI (.hostmsg a) (fun c => withActive c (fun l => (V.both (c.pair l a.va) (c.reg l (srcField a.b))).res (fun x =>
    (V.both (V.test (ptrOk x.1 && decide (ptrSpace x.1 < 2)) (trapAddr (some l) x.1))
      (V.both (V.test (decide (x.1.toNat % 16 = 0)) (trapAlign (some l) x.1)) (c.places l Need.rd x.1 64))).res (fun y =>
      if !releaseReady c.s c.t 6 then .hold c.s
      else whenReady c false ⟨0, 0, c.t.pc.toNat / 8 % 256, true⟩ [⟨l, y.2.2, []⟩] (fun s =>
        let port := 8 + x.2.toNat % 4
        let ring := s.evring port
        let bs := y.2.2.map (readLoc s c.core c.ctx)
        if !ring.bound then supDone c a l (endAccess s c.core y.2.2) 1
        else
          match ringGet s ring with
          | (s, none) => .hold (s.uncharge c.s)
          | (s, some rd) =>
            let s := endAccess s c.core y.2.2
            if ring.fullAt rd || !ring.waiting.isEmpty then supDone c a l s 2 else supDone c a l (ringPush s port (0x80 :: bs.drop 1)) 0))))) s

/-- The 64 bytes of a RAS record (Table 21-7). -/
def rasBytes (r : RasRec) : List Byte :=
  leBytes 16 r.seq ++ leBytes 8 r.time.toNat ++ leBytes 1 r.kind ++ leBytes 2 r.loc ++ leBytes 1 r.q ++ leBytes 2 r.ctx ++
  leBytes 2 r.agent ++ leBytes 8 r.addr.toNat ++ leBytes 8 r.detail.toNat ++ List.replicate 16 0
/-- One 64-bit word of a record of the log; all ones beyond the last (R258). -/
def rasWord (s : State) (n w : Nat) : Nat :=
  match s.ras[n]? with
  | some r => leNat (((rasBytes r).drop (8 * w)).take 8)
  | none => 2 ^ 64 - 1
/-- RASRD (R258). -/
def execRasrd (a : Alu) (s : State) :=
  runI (.rasrd a) (fun c => leaderAll c (fun l => (c.reg l a.va).map (fun x =>
    Out.pair a.vd (rasWord c.s (bits x.toNat 0 16) (bits x.toNat 16 3)) 0))) s
/-- ILLEGAL (R259). -/
def execIllegal (w : DWord) (s : State) := runI (.illegal w) (fun _ => .trap trapIllegal) s

end Sys2Proof.Machine
end

