-- ==== Sys2Proof/Machine/MemSteps.lean ====
section
/-! DEFINITION. Steps of the memory side that no instruction makes: fills and evictions (R106 to R108), acceptance of
stores (R66), answers of range and subscription operations (R205, R207), wakes (R202, R251), scrubbing (R119, R292) and
containment (R293). -/

namespace Sys2Proof.Machine

/-- Nothing stands between a die's holders and a sector any more: no request for it is open, and no write-through of it waits for
Done1. -/
def secReady (s : State) (die sector : Nat) : Bool :=
  (s.sec die sector).busy.isNone && !s.asks.any (fun a => a.die == die && match a.kind with
    | .sub => a.pos == sector / 4
    | .upg => a.pos == sector / 4
    | .unsub => a.pos == sector / 4
    | _ => a.pos == sector)
/-- A core's request for a sector is served: its miss entries are free again (R115). -/
def servedAt (s : State) (core sector : Nat) : Bool := secReady s (dieOf core) sector && !(s.core core).misses.any (fun m => m.sector == sector)
/-- A team that waited for sectors returns to issue when all are there (R55, R116). -/
def Team.ready (s : State) (t : Team) : Team :=
  let go := fun secs : List Nat => if secs.all (servedAt s t.core) then { t with status := .run, held := false, since := s.now } else t
  match t.status with
  | .parked secs => go secs
  | .fabric secs => go secs
  | _ => t
/-- Teams whose sectors are there return to issue. -/
def wakeTeams (s : State) : State := { s with teams := s.teams.map (Team.ready s) }
/-- A step becomes due, once. -/
def State.soon (s : State) (e : Event) : State := if s.due.contains e then s else s.later e
/-- What waits for answers of other agents looks again: the device's own writes, fills of miss entries, teams, stores not accepted, engine
commands, commands of the rings, placement and restores. -/
def wakeAll (s : State) : State :=
  let s := devFlush (s.dwq.length + 1) s
  let s := s.cores.foldl (fun s c => c.2.misses.foldl (fun s m =>
    if secReady s (dieOf c.1) m.sector && !(match m.want with | some w => w.sm | none => false) then
      s.soon (.missFill c.1 (m.sector / 4) (m.sector % 4 * 16, m.sector % 4 * 16 + 15) []) else s) s) s
  let s := s.teams.foldl (fun s t => match t.rel with | r :: _ => if r.cells.isEmpty then s else s.soon (.storeAccepted t.hnd false) | [] => s) (wakeTeams s)
  let s := s.queues.foldl (fun s q => wakeQueue s q.1) (s.ecmds.foldl wakeEngine s)
  wakePlacement (wakeOpen s)

/-- What a miss entry wanted of its sector is filled: from the die's copy, or from the bytes that came from another device (R105, R112,
R316). -/
def fillWant (core sector : Nat) (data : List Host.Cell) (s : State) (m : Miss) : State :=
  match m.want with
  | none => s
  | some w =>
    let byte := fun a => (cellAt data a).getD (s.mem.get a)
    if !w.sm then (if (s.sec (dieOf core) sector).st = .i then s
      else
        let s := s.setSec (dieOf core) sector ((s.sec (dieOf core) sector).forRead (core % 48))
        fillWords s core (sector / 4) w.lo w.hi false w.pol w.fr byte)
    else if w.pol = 3 then s.setCore core (fun c => { c with byp := c.byp ++ data })
    else fillWords s core (sector / 4) w.lo w.hi true w.pol w.fr byte
/-- The bytes of a whole sector. -/
def wholeSector (sector : Nat) (data : List Host.Cell) : Bool := (List.range 64).all (fun i => (cellAt data (sector * 64 + i)).isSome)
/-- The miss entries of one sector of a core are served and free again (R115), but for those that wait for bytes of another device. -/
def fillSector (core : Nat) (data : List Host.Cell) (s : State) (sector : Nat) : State :=
  if !secReady s (dieOf core) sector then s
  else
    let data := data.filter (fun c => c.1 / 64 == sector)
    let came := wholeSector sector data
    let mine := fun m : Miss => m.sector == sector && (came || !(match m.want with | some w => w.sm | none => false))
    let ms := (s.core core).misses.filter mine
    ms.foldl (fillWant core sector data) (s.setCore core (fun c => { c with misses := c.misses.filter (fun m => !mine m) }))

/-- MISS_FILL (R106, R115, R116, R316): the sectors of a range of words of a frame have come for a core: what its miss entries wanted of
them merges into the L1 (R105), the entries are free again, and the teams that waited return to issue. `data`: bytes of a
software-managed page of another device, as its home sends them. -/
def execMissFill (core frame : Nat) (words : Nat × Nat) (data : List Host.Cell) (s : State) : Host.Outcome State Fault Refusal :=
  if words.1 > words.2 ∨ words.2 > 63 ∨ core ≥ 384 then .next s
  else .next (wakeTeams (((List.range (words.2 / 16 - words.1 / 16 + 1)).map (fun i => frame * 4 + words.1 / 16 + i)).foldl (fillSector core data) s))

/-- L1_EVICTION (R107, R108, R110, R111): the block of a frame that starts at a word leaves the L1. -/
def execL1Eviction (core frame lo : Nat) (s : State) : Host.Outcome State Fault Refusal :=
  match (s.core core).blocks.find? (fun b => b.frame == frame && b.lo == lo) with
  | some b => .next (evictBlock s core b)
  | none => .next s

/-- The address of an access as a strand gives it, for the report of an error at it (an indexed form: the leader's); 0 where
there is none. -/
def storeAddr (t : Team) (i : Instr) (k : Nat) : DWord :=
  let at_ := fun (a : Mem) (x : Nat) => match pairV t k a.va.toNat with
    | .ok p => (ptrAdd p (memOff a + (x : Int))).getD p
    | .bad _ => 0
  match i with
  | .st a => at_ a 0
  | .ld a => at_ a 0
  | .lda a => at_ a 0
  | .waitne a => at_ a 0
  | .cwb a => at_ a 0
  | .cinv a => at_ a 0
  | .cwbi a => at_ a 0
  | .cprf a => at_ a 0
  | .ldx a => at_ a (match regV t k a.vb.toNat with | .ok x => x.val.toNat * widthBytes (subOf3 a.m) | .bad _ => 0)
  | .stl a => at_ a 0
  | .atom a => at_ a 0
  | .atomcas a => at_ a 0
  | .red a => at_ a 0
  | .stx a => at_ a (match regV t k (memVc a).toNat with | .ok x => x.val.toNat * widthBytes (subOf3 a.m) | .bad _ => 0)
  | _ => 0

/-- The bytes of a released store that have still to perform do so now, if their sectors can be written (R300). -/
def performLate (s : State) (t : Team) (cs : List (Loc × Byte)) : State × Bool :=
  let r := acquireAll s (fun s x => acquireWrite s (dieOf t.core) (t.core % 48) (some t.core) x) (distinct (· / 64) (cohAddrs (cs.map (·.1))))
  if !r.2.isEmpty then (r.1, false)
  else (writeLocs (noteOlder r.1 (cs.map (·.1))) t.hnd (s.qOf t) t.core cs, true)

/-- STORE_ACCEPTED (R66, R118, R293): the home accepts the oldest store released, whose last bytes perform then, or, with none, the
store a team in precise-store mode waits at. An error there is a precise poison fault, reported for the lowest active strand at the
address of its access, 0 for a store by `CVT`, `PBPACK` or `CTXSAVE` (R66 names neither; log entry 53). An error of a store released
already, or a page found poisoned, is contained. -/
def execStoreAccepted (h : Nat) (err : Bool) (s : State) : Host.Outcome State Fault Refusal :=
  match s.team h with
  | none => .next s
  | some t => match t.rel, t.status with
    | r :: rest, _ =>
      if err || r.pas.any (fun a => s.memPsn.contains (a / 4096)) then
        let q := s.qOf t
        .next (wakePlacement (wakeOpen (teardown (rasWrite s 3 (rasLoc t.core (hndSec h)) q (s.ctxOf t) 0 0 (BitVec.ofNat 64 (2 ^ q))) q)))
      else
        let p := performLate s t r.cells
        let s := p.1.setTeam h (fun t => { t with rel := rest })
        .next (if p.2 then s.ecmds.foldl wakeEngine s else p.1)
    | [], .waiting =>
      if !err then .next (s.putTeam { t with status := .accepted, held := false })
      else
        let t1 := { t with status := .run }
        (match fetchAt s t with
        | .instr i =>
          let act := activeOf t (hdrF i)
          let k := act.headD 0
          .next (takeTrap (s.putTeam t1) t1 (trapPoison (some k) (storeAddr t i k)) act false i)
        | .bad tr => .next (takeTrap (s.putTeam t1) t1 tr t.enabled false (.illegal 0)))
    | [], _ => .next s

/-- RANGE_OP_COMPLETE (R205): the oldest range operation of the team is complete and its reply written; engine commands that waited for
it may go on. -/
def execRangeOpComplete (h : Nat) (s : State) : Host.Outcome State Fault Refusal :=
  match s.team h with
  | none => .next s
  | some t => match t.ranges with
    | [] => .next s
    | r :: rest =>
      let s := reply (s.putTeam { t with ranges := rest }) h r.vd r.w
      .next (s.ecmds.foldl wakeEngine s)

/-- The result word of a subscription request (R207): each count held at 0xFFFF. -/
def subWord (r : SubOwed) : Word := word (min r.fmtd 65535 + 65536 * min r.exact 65535)
/-- SUBSCRIPTION_ANSWERED (R207, R208): every directory has answered the oldest such request of the team, and its result is written. -/
def execSubscriptionAnswered (h : Nat) (s : State) : Host.Outcome State Fault Refusal :=
  match s.team h with
  | none => .next s
  | some t => match t.subs.find? (fun r => r.left == 0) with
    | none => .next s
    | some r => .next (reply (s.putTeam { t with subs := t.subs.filter (fun x => x.id != r.id) }) h r.vd (subWord r))

/-- WAITNE_WAKE (R202): the waiting team reads again. -/
def execWaitneWake (h : Nat) (s : State) : Host.Outcome State Fault Refusal :=
  .next (s.setTeam h (fun t => if t.held then { t with held := false, since := s.now } else t))

/-- SLEEP_DEADLINE (R251): the team that slept until now is ready to complete its `SLEEP`. -/
def execSleepDeadline (h : Nat) (s : State) : Host.Outcome State Fault Refusal :=
  .next (s.setTeam h (fun t => match t.status with
    | .slept d => if s.now ≥ d then { t with held := false, since := s.now } else t
    | _ => t))

/-- HW_ERROR_CONTAINMENT (R293): the queue named by the entry, or every queue with a resident team on the section, or on
the core where no section is named. -/
def execHwErrorContainment (core sec : Nat) (q : Option Nat) (s : State) : Host.Outcome State Fault Refusal :=
  let qs := match q with
    | some q => [q]
    | none => distinct id ((s.teams.filter (fun t => t.core == core && (decide (sec > 3) || hndSec t.hnd == sec))).map (s.qOf ·))
  let s := rasWrite s 3 (rasLoc core (sec % 4)) (q.getD 255) 65535 0 0 (BitVec.ofNat 64 (ofBits qs))
  .next (wakePlacement (wakeOpen (qs.foldl teardown s)))

/-- One register error met by a scrub (R292): corrected and logged, or marked and logged. -/
def scrubOne (core sec : Nat) (s : State) (e : RegUpset) : State :=
  let h := mkHnd e.t sec core
  match s.team h with
  | none => s
  | some t =>
    if e.corr then rasWrite s 1 (rasLoc core sec) (s.qOf t) (s.ctxOf t) 0 0 (BitVec.ofNat 64 e.reg)
    else
      let s := dropClaims (s.putTeam (t.setStrand e.strand (fun x => { x with regs := upd x.regs e.reg (fun r => { r with psn := true }) }))) h
      rasWrite s 2 (rasLoc core sec) (s.qOf t) (s.ctxOf t) 0 0 (BitVec.ofNat 64 (e.reg + 2 ^ 32 * e.strand))

/-- REGISTER_SCRUB (R292). -/
def execRegisterScrub (core sec : Nat) (errs : List RegUpset) (s : State) : Host.Outcome State Fault Refusal :=
  .next (errs.foldl (scrubOne core sec) s)

/-- REFRESH (R119, R117): an uncorrectable burst poisons its 4 KiB page. -/
def execRefresh (pa : Nat) (bad : Bool) (s : State) : Host.Outcome State Fault Refusal :=
  if !bad ∨ devOf pa ≠ s.devid ∨ pa % 2 ^ 39 ≥ devBytes then .next s
  else .next (rasWrite { s with memPsn := sadd (pa / 4096) s.memPsn } 6 65535 255 65535 0 (BitVec.ofNat 64 pa) (BitVec.ofNat 64 (pa % 4096)))

end Sys2Proof.Machine
end

