-- ==== Sys2Proof/Machine/Range.lean ====
section
/-! DEFINITION. Range operations (R112 to R114, R203 to R205). -/

namespace Sys2Proof.Machine

/-- Which range operation. -/
inductive RangeOp where
  | cwb
  | cinv
  | cwbi
  deriving DecidableEq, Repr

/-- The parts of a range page by page: virtual start and bytes, rising (R103). -/
def pagesOf (a n : Nat) : List (Nat × Nat) :=
  if n = 0 then []
  else (List.range ((a + n - 1) / 4096 - a / 4096 + 1)).map (fun i =>
    let lo := max a ((a / 4096 + i) * 4096)
    let hi := min (a + n) ((a / 4096 + i + 1) * 4096)
    (lo, hi - lo))

/-- The leaf of every part, or the fault of a part (R204): the leader's, with no poison test. -/
def rangeLeaves (c : Run) (l : Nat) (write : Bool) (ps : List (Nat × Nat)) : V (List (Nat × Nat × Tlb)) :=
  V.all (ps.map (fun p => match transFor c.s c.ctx c.sup ⟨write, false, false, false, false⟩ p.1 with
    | .ok t => .ok (p.1, p.2, t)
    | .error e => .bad (trapTrans e (some l) (BitVec.ofNat 64 p.1))))

/-- Words lo to hi of each frame of a physical range, widened to whole words (R113). -/
def frameWords (pa n : Nat) : List (Nat × Nat × Nat) :=
  let w0 := pa / 4
  let w1 := (pa + n - 1) / 4
  (List.range (w1 / 64 - w0 / 64 + 1)).map (fun i =>
    let f := w0 / 64 + i
    (f, if f = w0 / 64 then w0 % 64 else 0, if f = w1 / 64 then w1 % 64 else 63))

/-- Dirty bytes of a core's copies in words lo to hi of a frame: its own on a software-managed page, else those of sectors whose owner
token it holds (R110, R111). -/
def dirtyIn (s : State) (core : Nat) (sm : Bool) (f lo hi : Nat) : List Host.Cell :=
  let inside := fun x : Host.Cell => decide (4 * lo ≤ x.1 % 256) && decide (x.1 % 256 < 4 * hi + 4)
  if sm then ((s.core core).blocks.filter (fun b => b.sm && b.frame == f)).flatMap (fun b => b.dirtyCells.filter inside)
  else (List.range 4).flatMap (fun q =>
    let d := s.sec (dieOf core) (f * 4 + q)
    if d.own = core % 48 then d.dirty.filter inside else [])

/-- Splits a block into a part that is acted on and one that is not, as words lo to hi; without a free tag entry the other part is
written back and dropped (R113). -/
def splitOff (s : State) (core : Nat) (b : Block) (inn out : Nat × Nat) : State × Block :=
  let x := b.cut inn.1 inn.2
  let y := b.cut out.1 out.2
  let free := decide (((s.core core).inSet (setOf b.frame)).length < 32)
  let s := s.setCore core (fun c => { c with blocks := c.blocks.filter (fun z => z != b) ++ (if free then [x, y] else [x]) })
  (if free then s else blockOut s core y, x)

/-- Every block that straddles an edge of words lo to hi of a frame is split there (R113). -/
def splitEdges (s : State) (core : Nat) (sm : Bool) (f lo hi : Nat) : State :=
  ((s.core core).blocks.filter (fun b => b.sm == sm && b.meets f lo hi)).foldl (fun s b =>
    let r := if b.lo < lo then splitOff s core b (lo, b.hi) (b.lo, lo - 1) else (s, b)
    if hi < b.hi then (splitOff r.1 core r.2 (r.2.lo, hi) (hi + 1, b.hi)).1 else r.1) s

/-- A core's copies of words lo to hi written back and left clean: home's bytes become theirs (Table 6-7, R110, R111). -/
def cleanWords (s : State) (core : Nat) (sm : Bool) (f lo hi : Nat) : State :=
  let inside := fun o : Nat => decide (4 * lo ≤ o) && decide (o < 4 * hi + 4)
  if sm then
    let s := smHome s (dieOf core) (dirtyIn s core true f lo hi)
    s.setCore core (fun c => { c with blocks := c.blocks.map (fun b => if b.sm ∧ b.frame = f then
      { b with dirty := b.dirty.filter (fun o => !inside o) } else b) })
  else (List.range 4).foldl (fun s q =>
    let x := f * 4 + q
    if (s.sec (dieOf core) x).own = core % 48 then writeBackSector s (dieOf core) x (fun a => inside (a % 256)) else s) s

/-- The blocks of a core inside words lo to hi of a frame leave its L1, and tokens of sectors it has no more words of go back. -/
def dropRange (s : State) (core : Nat) (sm : Bool) (f lo hi : Nat) : State :=
  let s := s.setCore core (fun c => c.dropWords sm f lo hi)
  if sm then s else (List.range 4).foldl (fun s q =>
    if lo ≤ 16 * q + 15 ∧ 16 * q ≤ hi ∧ !(s.core core).hasSector (f * 4 + q) then returnTokens s core (f * 4 + q) else s) s

/-- Acts on one frame's words (Table 6-7); the dirty bytes discarded. -/
def rangeFrame (o : RangeOp) (core : Nat) (sm : Bool) (r : State × Nat) (w : Nat × Nat × Nat) : State × Nat :=
  let s := splitEdges r.1 core sm w.1 w.2.1 w.2.2
  match o with
  | .cwb => (cleanWords s core sm w.1 w.2.1 w.2.2, r.2)
  | .cwbi => (dropRange (cleanWords s core sm w.1 w.2.1 w.2.2) core sm w.1 w.2.1 w.2.2, r.2)
  | .cinv =>
    if sm then (dropRange s core sm w.1 w.2.1 w.2.2, r.2 + (dirtyIn s core sm w.1 w.2.1 w.2.2).length)
    else (dropRange (cleanWords s core sm w.1 w.2.1 w.2.2) core sm w.1 w.2.1 w.2.2, r.2)

/-- The reply word (Table 10-4). -/
def rangeReply (a n disc : Nat) (skip : Bool) : Word :=
  if n = 0 then 0
  else word (min disc 0xffffff * 256 + (if skip then 128 else 0) + (3 - (a + n + 3) % 4) * 4 + a % 4)

/-- The reply is owed until the operation completes (R205). -/
def oweReply (s : State) (c : Run) (a : Mem) (w : Word) : State :=
  let r : RangeOwed := ⟨s.names, if topBit a.m then some a.vd.toNat else none, w⟩
  let s : State := { s with names := s.names + 1 }
  (s.setTeam c.t.hnd (fun t => { t with ranges := t.ranges ++ [r], pend := if topBit a.m then sadd a.vd.toNat t.pend else t.pend })).later
    (.rangeOpComplete c.t.hnd)

/-- A range operation's effect: the reply owed, and every strand's vd its own once it comes (R130). -/
def rangeDone (s : State) (c : Run) (a : Mem) (w : Word) (reads : List (Nat × Nat)) : Res :=
  .done { Done.seq (oweReply (s.orderPoint c.t.hnd) c a w) with reads := some reads, writes := if topBit a.m then [(a.vd.toNat, c.t.all)] else [] }

/-- The team's earlier stores have performed as far as a range operation on physical words needs them (R114): no bytes of split
stores still to come, and no write-through of a sector of the range on its way from its die. -/
def rangeReady (c : Run) (fs : List (Nat × Nat × Nat)) : Bool :=
  c.t.pending.isEmpty && !c.s.throughs.any (fun x => !x.done1 && x.die == dieOf c.core && fs.any (fun w => w.1 == x.sector / 4))

/-- The range of a range operation: space 0 and below 2^48 (R204). -/
def rangeArgs (c : Run) (a : Mem) (l : Nat) : V (Nat × Nat) :=
  (V.both (c.ea l a.va (memOff a)) (c.reg l a.vb)).bind (fun x =>
    if ptrSpace x.1 ≠ 0 ∨ x.1.toNat + x.2.toNat > 2 ^ 48 then .bad (trapAddr (some l) x.1) else .ok (x.1.toNat, x.2.toNat))

/-- The pairs a range operation reads. -/
def rangeReads (a : Mem) (l : Nat) : List (Nat × Nat) := regsIn l a.va 2 ++ regsIn l a.vb 1

/-- The words of each frame that the parts of a range cover, with their page kind. -/
def partFrames (ls : List (Nat × Nat × Tlb)) : List (Bool × Nat × Nat × Nat) :=
  ls.flatMap (fun p => (frameWords (p.2.2.pa + (p.1 - p.2.2.va)) p.2.1).map (fun w => (p.2.2.coh != 0, w)))

/-- The shared body of `CWB`, `CINV` and `CWBI`. What is written back passes the byte budgets (R371). -/
def rangeRow (a : Mem) (o : RangeOp) (c : Run) : Res :=
  withActive c (fun l => ((rangeArgs c a l).bind (fun x =>
    (rangeLeaves c l (o != .cwb) (pagesOf x.1 x.2)).map (fun ls => (x, ls)))).res (fun y =>
      let fs := partFrames y.2
      let n := fs.foldl (fun n w => if w.1 && o == .cinv then n else n + (dirtyIn c.s c.core w.1 w.2.1 w.2.2.1 w.2.2.2).length) 0
      if !rangeReady c (fs.map (·.2)) || n != 0 && !memRoom c.s c.core (c.s.qOf c.t) (c.s.recOf c.t).mbw then .hold c.s
      else
        let s := y.2.foldl (fun s p => cacheLeaf s p.2.2) (memCharge c.s c.core (c.s.qOf c.t) n)
        let r := fs.foldl (fun r w => rangeFrame o c.core w.1 r w.2) (s, 0)
        rangeDone r.1 c a (rangeReply y.1.1 y.1.2 r.2 false) (rangeReads a l)))

/-- CWB (R203). -/
def execCwb (a : Mem) (s : State) := runI (.cwb a) (rangeRow a .cwb) s
/-- CINV (R203). -/
def execCinv (a : Mem) (s : State) := runI (.cinv a) (rangeRow a .cinv) s
/-- CWBI (R203). -/
def execCwbi (a : Mem) (s : State) := runI (.cwbi a) (rangeRow a .cwbi) s

/-- The runs of words `CPRF` fetches of a frame under its hint (R204). -/
def prefetchRuns (hint lo hi : Nat) : List (Nat × Nat) :=
  if hint = 3 then [(0, 63)] else if hint = 2 then [(lo / 16 * 16, hi / 16 * 16 + 15)] else [(lo / 2 * 2, hi / 2 * 2 + 1)]

/-- The words of a run that a core does not hold. -/
def absentWords (s : State) (core : Nat) (sm : Bool) (f : Nat) (r : Nat × Nat) : Nat :=
  ((List.range (r.2 - r.1 + 1)).filter (fun i => !(s.core core).holds sm f (r.1 + i))).length

/-- Fetches one frame's words for `CPRF`: those whose tokens are not there yet wait at miss entries, as far as entries are free (R112,
R115; log entry 46). -/
def prefetchFrame (c : Run) (a : Mem) (s : State) (w : Bool × Nat × Nat × Nat) : State :=
  let runs := prefetchRuns (memHint a) w.2.2.1 w.2.2.2
  if memPol a = 3 ∨ runs.all (fun r => absentWords s c.core w.1 w.2.1 r == 0) then s
  else
    let fr := if memHint a = 0 then some (c.t.pc.toNat / 8 % 256, w.2.2.1) else none
    let r := fetchRuns s c.core c.ctx w.2.1 w.1 (memPol a) fr runs
    missWant r.1 c.core w.2.1 runs w.1 (memPol a) fr r.2

/-- CPRF (R204, R114): absent, forbidden and poisoned pages are skipped. -/
def execCprf (a : Mem) (s : State) :=
  runI (.cprf a) (fun c => withActive c (fun l => (rangeArgs c a l).res (fun x =>
    let leaves := (pagesOf x.1 x.2).map (fun p => match transFor c.s c.ctx c.sup ⟨false, false, false, false, false⟩ p.1 with
      | .ok t => if c.s.memPsn.contains ((t.pa + (p.1 - t.va)) / 4096) then none else some (p.1, p.2, t)
      | .error _ => none)
    let ls := leaves.filterMap id
    let fs := partFrames ls
    let n := if memPol a = 3 then 0 else fs.foldl (fun n w => (prefetchRuns (memHint a) w.2.2.1 w.2.2.2).foldl (fun n r =>
      n + 4 * absentWords c.s c.core w.1 w.2.1 r) n) 0
    if !rangeReady c (fs.map (·.2)) || n != 0 && (!memRoom c.s c.core (c.s.qOf c.t) (c.s.recOf c.t).mbw || !missRoom c.s c.core [0]) then .hold c.s
    else
      let s := ls.foldl (fun s p => cacheLeaf s p.2.2) (memCharge c.s c.core (c.s.qOf c.t) n)
      rangeDone (fs.foldl (prefetchFrame c a) s) c a (rangeReply x.1 x.2 0 (leaves.any Option.isNone)) (rangeReads a l)))) s

end Sys2Proof.Machine
end

