-- ==== Sys2Proof/Machine/Subscribe.lean ====
section
/-! DEFINITION. Precision subscription: `SUBS`, `UNSUB`, `SUPG` (R206 to R208) (R336, R337 for the home's side). -/

namespace Sys2Proof.Machine

/-- The die subscribes to one line for a context (R207): its earlier record for the line is replaced, and the home is asked. -/
def subscribeLine (s : State) (die ctx fmt : Nat) (inv bf : Bool) (owed : Nat × Nat) (line : Nat) : State :=
  askHome { s with subsc := s.subsc.filter (fun x => !(x.die == die && x.line == line)) ++ [⟨die, line, ctxId ctx, fmt⟩] } die line (line * 4) .sub
    (some owed) (.subscriptionRequest (hdrOf s die) line fmt inv bf)

/-- Ends one subscription of the die: its rounded copies go, and the home is told (R208, R337). -/
def unsubscribeLine (s : State) (die : Nat) (owed : Nat × Nat) (line : Nat) : State :=
  askHome (dieEndSub s die line) die line (line * 4) .unsub (some owed) (.unsubscribeRequest (hdrOf s die) line)

/-- The lines of a run that the die subscribes to for a context (R208). -/
def subscribedLines (s : State) (die ctx : Nat) (ls : List Nat) : List Nat := ls.filter (fun l => subOf s die (l * 4) (ctxSub ctx))

/-- The lines of a run and the storage format bit, all tests made (R206): alignment, space 0, presence, coherence. -/
def runLines (c : Run) (a : Alu) (l : Nat) : V (List Nat × Bool) :=
  (V.both (c.pair l a.va) (c.reg l (srcField a.b))).bind (fun x =>
    let p := x.1
    let n := bits x.2.toNat 0 24
    let lines : V (List Nat) :=
      if !ptrOk p || ptrSpace p != 0 then .bad (trapAddr (some l) p)
      else V.all ((List.range n).map (fun i =>
        let va := p.toNat + 256 * i
        if va ≥ 2 ^ 48 then V.bad (trapAddr (some l) (BitVec.ofNat 64 va))
        else match transFor c.s c.ctx c.sup ⟨false, false, true, false, false⟩ va with
          | .ok t => V.ok ((t.pa + (va - t.va)) / 256)
          | .error e => V.bad (trapTrans e (some l) (BitVec.ofNat 64 va))))
    (V.both (V.test (decide (p.toNat % 256 = 0)) (trapAlign (some l) p)) lines).map (fun y => (y.2, bitAt x.2.toNat 31)))

/-- The frame of the three instructions: every test first, then the leader's run line by line; the team waits while the die has an
earlier request about one of the lines under way. The answer is owed until every line's directory has answered (R207, R208). `pick`: the
lines acted on; `f`: what is asked for each, on behalf of the team and the owed answer's number. -/
def subsRow (a : Alu) (vd : Option Nat) (pick : Run → List Nat → List Nat) (f : Run → Bool → Nat × Nat → State → Nat → State) (c : Run) : Res :=
  withActive c (fun l => (runLines c a l).res (fun x =>
    let ls := pick c x.1
    if ls.any (fun l => (lineAsk c.s (dieOf c.core) l).isSome) then .hold c.s
    else
      let r : SubOwed := ⟨c.s.names, vd, 0, 0, ls.length⟩
      let s := { c.s with names := c.s.names + 1 }.setTeam c.t.hnd (fun t =>
        { t with subs := t.subs ++ [r], pend := match vd with | some d => sadd d t.pend | none => t.pend })
      let s := if ls.isEmpty then s.later (.subscriptionAnswered c.t.hnd) else s
      .done { Done.seq (ls.foldl (f c x.2 (c.t.hnd, r.id)) s) with
        reads := some (regsIn l a.va 2 ++ regsIn l (srcField a.b) 1), writes := match vd with | some d => [(d, c.t.all)] | none => [] }))

/-- SUBS (R207). -/
def execSubs (a : Alu) (s : State) :=
  runI (.subs a) (subsRow a (some a.vd.toNat) (fun _ ls => ls) (fun c bf o s l =>
    subscribeLine s (dieOf c.core) c.ctx (subOf3 a.m) (topBit a.m) bf o l)) s
/-- UNSUB (R208). -/
def execUnsub (a : Alu) (s : State) :=
  runI (.unsub a) (subsRow a none (fun c ls => subscribedLines c.s (dieOf c.core) c.ctx ls) (fun c _ o s l =>
    unsubscribeLine s (dieOf c.core) o l)) s
/-- SUPG (R208). -/
def execSupg (a : Alu) (s : State) :=
  runI (.supg a) (subsRow a none (fun c ls => subscribedLines c.s (dieOf c.core) c.ctx ls) (fun c _ o s l =>
    upgradeLine s (dieOf c.core) l (some o))) s

end Sys2Proof.Machine
end

