-- ==== Sys2Proof/Machine/CohSteps.lean ====
section
/-! DEFINITION. The coherence messages as steps (R326 to R339): those a home of this device receives, those a die of this
device receives, and the token requests within a die. -/

namespace Sys2Proof.Machine

/-- A message has been taken: what waited for an answer of another agent looks again if one has come. -/
def afterMsg (s0 s : State) : State := if s.asks == s0.asks && s.throughs == s0.throughs && s.late == s0.late then s else wakeAll s

/-! ## Within a die -/

/-- The context a core's request of a die is for, as far as the request says: the subscribing one (R328 names none). -/
def reqCtx (s : State) (die sector : Nat) : Option Nat := if dieSubscribes s die sector then some (subCtx s die (sector / 4)) else none
/-- The port asks the home for what the die lacks (Table 18-1). -/
def portAsk (s : State) (die sector : Nat) (wr : Bool) : State :=
  if !wr then askRead s die sector (reqCtx s die sector)
  else if dieSubscribes s die sector then upgradeLine s die (sector / 4) none
  else askHome s die sector sector .write none (.writePermission (hdrOf s die) sector)

/-- TRANSIENT_REQUEST (R327, R328): the holders answer, or it fails; the eighth failure on a sector makes it persistent. -/
def execTransientRequest (die core sector : Nat) (wr fail : Bool) (s : State) : Host.Outcome State Fault Refusal :=
  if die ≥ 8 ∨ core ≥ 48 then .next s
  else
    let d := s.sec die sector
    if fail then
      let n := (aget core d.fails).getD 0 + 1
      if n ≥ 8 then .next ((s.setSec die sector { d with fails := adel core d.fails }).later (.persistentRequest die core sector wr))
      else .next (s.setSec die sector { d with fails := aset core n d.fails })
    else
      let s0 := s
      let s := s.setSec die sector { d with fails := adel core d.fails }
      let s := if dieAllows (s.sec die sector) wr then s else portAsk s die sector wr
      .next (afterMsg s0 (if dieAllows (s.sec die sector) wr then giveTokens s die core sector wr else s))

/-- PERSISTENT_REQUEST (R328): the request waits at the port, which activates one at a time, and for the home's grant. -/
def execPersistentRequest (die core sector : Nat) (wr : Bool) (s : State) : Host.Outcome State Fault Refusal :=
  if die ≥ 8 ∨ core ≥ 48 then .next s
  else
    let d := s.sec die sector
    let s0 := s
    let s := if d.persist.contains (core, wr) then s else s.setSec die sector { d with persist := d.persist ++ [(core, wr)] }
    let s := if dieAllows (s.sec die sector) wr then s else portAsk s die sector wr
    .next (afterMsg s0 (servePersist die sector 48 s))

/-- TOKENS_BACK_AT_PORT (R329, R332, R333): the die gives the sector up, unless a write-through or a request of it is still open. -/
def execTokensBackAtPort (die sector : Nat) (s : State) : Host.Outcome State Fault Refusal :=
  let d := s.sec die sector
  if d.st = .i ∨ !d.home ∨ !d.persist.isEmpty ∨ !secReady s die sector then .next s else .next (afterMsg s (dieNotice s die sector))

/-! ## At a home -/

/-- A message reaches the home of its sector. -/
def execHome (e : Event) (s : State) : Host.Outcome State Fault Refusal := .next (afterMsg s (homeRecv e s))
/-- EXACT_READ (R332, R331). -/
def execExactRead (m : MsgHdr) (sector : Nat) (s : State) := execHome (.exactRead m sector) s
/-- SUBSCRIBED_READ (R332). -/
def execSubscribedRead (m : MsgHdr) (sector : Nat) (s : State) := execHome (.subscribedRead m sector) s
/-- WRITE_PERMISSION (R332, R331). -/
def execWritePermission (m : MsgHdr) (sector : Nat) (s : State) := execHome (.writePermission m sector) s
/-- WRITE_THROUGH (R334). -/
def execWriteThrough (m : MsgHdr) (sector : Nat) (bytes : List Host.Cell) (cond : Bool) (s : State) := execHome (.writeThrough m sector bytes cond) s
/-- NOTICE (R332, R333). -/
def execNotice (m : MsgHdr) (sector : Nat) (dirty : List Host.Cell) (s : State) := execHome (.notice m sector dirty) s
/-- WRITE_BACK (R332). -/
def execWriteBack (m : MsgHdr) (sector : Nat) (dirty : List Host.Cell) (s : State) := execHome (.writeBack m sector dirty) s
/-- ACKNOWLEDGEMENT (R332, R333). -/
def execAcknowledgement (m : MsgHdr) (sector : Nat) (absent : Bool) (dirty : List Host.Cell) (s : State) := execHome (.acknowledgement m sector absent dirty) s
/-- SUBSCRIPTION_REQUEST (R336, R331). -/
def execSubscriptionRequest (m : MsgHdr) (line fmt : Nat) (inv sfm : Bool) (s : State) := execHome (.subscriptionRequest m line fmt inv sfm) s
/-- UPGRADE_REQUEST (R337). -/
def execUpgradeRequest (m : MsgHdr) (line : Nat) (s : State) := execHome (.upgradeRequest m line) s
/-- UNSUBSCRIBE_REQUEST (R337). -/
def execUnsubscribeRequest (m : MsgHdr) (line : Nat) (s : State) := execHome (.unsubscribeRequest m line) s
/-- SM_WRITE_BACK (R338). -/
def execSmWriteBack (m : MsgHdr) (sector : Nat) (dirty : List Host.Cell) (s : State) := execHome (.smWriteBack m sector dirty) s

/-! ## At a die: messages of homes on other devices -/

/-- A message of a home on another device reaches a die of this one, under the die's epoch (R326); another is dropped. Homes of this
device tell its dies without a message (log entry 12). -/
def atDie (h : DieHdr) (sector : Nat) (f : State → State) (s : State) : Host.Outcome State Fault Refusal :=
  if h.die ≥ 8 ∨ isHome s sector ∨ h.epoch ≠ s.ownEpoch h.die then .next s else .next (afterMsg s (f { s with traffic := true }))
/-- The die acknowledges to the home of a sector (R332). -/
def dieAck (s : State) (die sector : Nat) (absent : Bool) (dirty : List Host.Cell) : State :=
  s.send (devOf (sector * 64)) (.acknowledgement (hdrOf s die) sector absent dirty)
/-- A copy given up, or an exact one kept, with its dirty bytes in this device's view of the memory and in the acknowledgement. -/
def ackWith (die sector : Nat) (r : State × List Host.Cell) : State := dieAck { r.1 with mem := r.1.mem.putAll r.2 } die sector false r.2

/-- INVALIDATION (R329, R333, R337; R331 for a demotion): the die collects its tokens and goes to I; a sector it does not
hold, or of a line whose subscription it is ending, is acknowledged "absent". -/
def execInvalidation (h : DieHdr) (sector : Nat) (demote : Bool) (s : State) : Host.Outcome State Fault Refusal :=
  atDie h sector (fun s =>
    let s' := if (s.sec h.die sector).st = .i ∨ leftLine s h.die (sector / 4) then dieAck s h.die sector true [] else ackWith h.die sector (dieGiveUp s h.die sector)
    if demote then dieEndSub s' h.die (sector / 4) else s') s
/-- RECALL (R329, Table 18-1): a die in M sends its dirty bytes and keeps an exact copy; in another state it gives its copy up. -/
def execRecall (h : DieHdr) (sector : Nat) (s : State) : Host.Outcome State Fault Refusal :=
  atDie h sector (fun s => match (s.sec h.die sector).st with
    | .i => dieAck s h.die sector true []
    | .m => ackWith h.die sector (dieRecalled s h.die sector)
    | _ => ackWith h.die sector (dieGiveUp s h.die sector)) s
/-- UPDATE (R329, R337): elements replaced while the port holds every token; never applied to an exact copy. -/
def execUpdate (h : DieHdr) (sector : Nat) (elems : List Host.Cell) (s : State) : Host.Outcome State Fault Refusal :=
  atDie h sector (fun s =>
    if (s.sec h.die sector).st = .u ∧ !leftLine s h.die (sector / 4) then
      dieAck (dieUpdate s h.die sector (elems.filter (fun c => c.1 / 64 == sector))) h.die sector false []
    else dieAck s h.die sector true []) s
/-- GRANT (R329, R207, R328, R336, R337): the answer to what the die asked. With no bytes and for the first sector of a line it is the
last answer to a request about that line. -/
def execGrant (h : DieHdr) (sector : Nat) (k : GrantKind) (data : List Host.Cell) (s : State) : Host.Outcome State Fault Refusal :=
  atDie h sector (fun s =>
    if data.isEmpty ∧ sector % 4 = 0 ∧ (lineAsk s h.die (sector / 4)).isSome then dieLineDone s h.die (sector / 4) (k == .rounded)
    else takeGrant s h.die sector k (data.filter (fun c => c.1 / 64 == sector))) s
/-- DONE1 (R334, R335). -/
def execDone1 (h : DieHdr) (sector : Nat) (s : State) := atDie h sector (fun s => gotDone1 s h.die sector) s
/-- DONE2 (R334, R335). -/
def execDone2 (h : DieHdr) (sector : Nat) (s : State) := atDie h sector (fun s => gotDone2 s h.die sector) s
/-- RETRY (R334). -/
def execRetry (h : DieHdr) (sector : Nat) (s : State) := atDie h sector (fun s => gotRetry s h.die sector) s

/-- Requests that nobody will answer are forgotten; a team that waits for an answer about a line counts it as an exact share. -/
def dropAsks (s : State) (p : Ask → Bool) : State :=
  let mine := s.asks.filter p
  mine.foldl (fun s a => countSub s a.owed false) { s with asks := s.asks.filter (fun a => !p a) }
/-- A die learns that it was declared dead (R339): it drops its copies, and the queues whose released stores or write-backs the homes dropped
are torn down: those noted, those with a write-through of the die still open, and those whose stores made bytes that were dirty in it. It
takes no permission until it is admitted. -/
def learnDeath (s : State) (die : Nat) : State :=
  let mine := s.secs.filter (fun x => x.1 / 2 ^ 42 == die)
  let open_ := (s.throughs.filter (fun x => x.die == die)).map (·.hnd)
  let qs := distinct id ((s.lost.filter (fun x => x.1 == die)).map (·.2) ++ (mine.filter (fun x => !x.2.dirty.isEmpty)).flatMap (fun x => x.2.qs) ++
    (s.teams.filter (fun t => open_.contains t.hnd)).map (s.qOf ·) ++ (s.ecmds.filter (fun e => open_.contains e.writer)).map (·.q))
  let s := mine.foldl (fun s x => (dieGiveUp s die (x.1 % 2 ^ 42)).1) s
  let s := dropAsks { s with subsc := s.subsc.filter (fun x => x.die != die) } (fun a => a.die == die)
  let s : State := { s with
    barred := sadd die s.barred
    lost := s.lost.filter (fun x => x.1 != die)
    throughs := s.throughs.filter (fun x => x.die != die) }
  (qs.filter (· < 64)).foldl teardown s
/-- STALE_EPOCH (R339): a home tells the die that its epoch has passed. -/
def execStaleEpoch (die : Nat) (s : State) : Host.Outcome State Fault Refusal :=
  if die ≥ 8 ∨ s.current die then .next s else .next (wakeAll (learnDeath s die))

end Sys2Proof.Machine
end

