-- ==== Sys2Proof/Machine/Control.lean ====
section
/-! DEFINITION. Group 1: structured control over the nesting counters (R43 to R46, Table 2-5), branches, calls and
returns (R155 to R161), `NOP` and `YIELD` (R162). -/

namespace Sys2Proof.Machine

/-- A nesting counter (R43). -/
abbrev Ctr := BitVec 8
/-- The depth of a counter. -/
def Ctr.depth (c : Ctr) : Nat := c.toNat % 128
/-- The depth one higher, the continue flag kept. -/
def Ctr.up (c : Ctr) : Ctr := c + 1
/-- The depth one lower, stopping at 0, the continue flag kept (R43). -/
def Ctr.down (c : Ctr) : Ctr := if Ctr.depth c = 0 then c else c - 1
/-- Live: not 0xFF (R43). -/
def Ctr.live (c : Ctr) : Bool := c != 0xff

/-- The counters of a team changed; exited strands are left alone (R44). -/
def Team.ctrs (t : Team) (f : Nat → Ctr → Ctr) : Team :=
  { t with strands := t.strands.mapIdx (fun k x => if x.exited then x else { x with ctr := f k x.ctr }) }
/-- An increase would raise some live strand's depth above 126 (R45). -/
def Team.tooDeep (t : Team) : Bool := t.strands.any (fun x => !x.exited && decide (Ctr.depth x.ctr + 1 > 126))
/-- No strand is enabled. -/
def Team.idle (t : Team) : Bool := t.strands.all (fun x => !x.enabled)

/-- The address 4 × off from the instruction (R155). -/
def targetOf (t : Team) (off : Word) : Int := (t.pc.toNat : Int) + 4 * off.toInt
/-- An address as a program counter. -/
def pcOf (x : Int) : BitVec 48 := BitVec.ofInt 48 x

/-- Control passes to a target, reached by a transfer. -/
def goTo (s : State) (pc : BitVec 48) : Done := { Done.seq s with jump := some pc, stepped := false, reads := some [] }
/-- Control passes in sequence; nothing but guards was read. -/
def stay (s : State) : Done := { Done.seq s with reads := some [] }

/-- After a counter update: to the target when no strand is enabled, else in sequence (R156, R157). -/
def skipIfIdle (c : Run) (t : Team) (off : Word) : Done :=
  if t.idle then goTo (c.put t) (pcOf (targetOf c.t off)) else stay (c.put t)

/-- IF (R156). -/
def execIf (a : Ctl) (s : State) :=
  runI (.ifI a) (fun c => (V.all (c.act.map (fun k => c.reg k a.va))).res (fun vs =>
    let yes := ((c.act.zip vs).filter (fun x => bitAt x.2.toNat 0)).map (·.1)
    let t := c.t.ctrs (fun k x => if x = 0 then (if yes.contains k then 0 else 1) else x.up)
    if c.t.tooDeep then .trap trapNest
    else .done { skipIfIdle c t a.off with reads := some (c.act.map (fun k => (k, a.va.toNat))) })) s
/-- ELSE (R156). -/
def execElse (a : Ctl) (s : State) :=
  runI (.elseI a) (fun c =>
    .done (skipIfIdle c (c.t.ctrs (fun _ x => if x = 0 then 1 else if x = 1 then 0 else x)) a.off)) s
/-- ENDIF (R156). -/
def execEndif (a : Ctl) (s : State) :=
  runI (.endif a) (fun c => .done (stay (c.put (c.t.ctrs (fun _ x => if x = 0 then x else x.down))))) s
/-- LOOP (R157). -/
def execLoop (a : Ctl) (s : State) :=
  runI (.loop a) (fun c =>
    let t := c.t.ctrs (fun _ x => if x = 0 then x else x.up)
    if c.t.tooDeep then .trap trapNest else .done (skipIfIdle c t a.off)) s
/-- BREAK (R158). -/
def execBreak (a : Ctl) (s : State) :=
  runI (.breakI a) (fun c => .done (stay (c.put (c.t.ctrs (fun k x => if c.act.contains k then BitVec.ofNat 8 (a.k.toNat + 1) else x))))) s
/-- CONT (R158). -/
def execCont (a : Ctl) (s : State) :=
  runI (.contI a) (fun c => .done (stay (c.put (c.t.ctrs (fun k x => if c.act.contains k then BitVec.ofNat 8 (128 + a.k.toNat + 1) else x))))) s
/-- ENDLOOP (R157). -/
def execEndloop (a : Ctl) (s : State) :=
  runI (.endloop a) (fun c =>
    let t := c.t.ctrs (fun _ x => if x = 0x81 then 0 else x)
    if t.idle then .done (stay (c.put (t.ctrs (fun _ x => if x = 0 then x else x.down))))
    else
      let x := targetOf c.t a.off
      if x % 64 ≠ 0 then .trap (trapAlign none (BitVec.ofInt 64 x)) else .done (goTo (c.put t) (pcOf x))) s

/-- The target tests of R159 and R160, in their order: alignment, then range. -/
def targetTest (x : Int) (align : Nat) : V (BitVec 48) :=
  if x % align ≠ 0 then .bad (trapAlign none (BitVec.ofInt 64 x))
  else if x < 0 ∨ x ≥ 281474976710656 then .bad (trapAddr none (BitVec.ofInt 64 x))
  else .ok (pcOf x)

/-- A team-uniform transfer taken by the leader (R159): `target` reads it, `link` names the link pair. -/
def uniform (c : Run) (target : Nat → V Int) (rd : Nat → List (Nat × Nat)) (link : Option RegField) : Res :=
  match c.lead with
  | none => .done (stay c.s)
  | some l => ((target l).bind (fun x => targetTest x 64)).res (fun pc =>
      let t := match link with
        | some vd => { c.t with strands := c.t.strands.map (fun x => x.setPair vd.toNat (BitVec.ofNat 64 (c.t.pc.toNat + 16)) 0) }
        | none => c.t
      .done { goTo (c.put t) pc with
        reads := some (rd l),
        writes := match link with | some vd => [(vd.toNat, c.t.all), (vd.toNat + 1, c.t.all)] | none => [] })

/-- The pair a `BRX` or `CALLX` reads its target from. -/
def pairTarget (c : Run) (va : RegField) (l : Nat) : V Int := (c.pair l va).map (fun x => (x.toNat : Int))
/-- The two registers of a pair in a strand. -/
def pairRead (va : RegField) (l : Nat) : List (Nat × Nat) := [(l, va.toNat), (l, va.toNat + 1)]

/-- BRA (R159). -/
def execBra (a : Ctl) (s : State) :=
  runI (.bra a) (fun c => uniform c (fun _ => .ok (targetOf c.t a.off)) (fun _ => []) none) s
/-- BRX (R159). -/
def execBrx (a : Ctl) (s : State) := runI (.brx a) (fun c => uniform c (pairTarget c a.va) (pairRead a.va) none) s
/-- CALL (R159). -/
def execCall (a : Ctl) (s : State) :=
  runI (.call a) (fun c => uniform c (fun _ => .ok (targetOf c.t a.off)) (fun _ => []) (some a.vd)) s
/-- CALLX (R159): the target is read before the link is written. -/
def execCallx (a : Ctl) (s : State) := runI (.callx a) (fun c => uniform c (pairTarget c a.va) (pairRead a.va) (some a.vd)) s
/-- RET (R160): the lowest strand that has not exited gives the target, whatever the guards. -/
def execRet (a : Ctl) (s : State) :=
  runI (.ret a) (fun c => match c.t.all.find? (fun k => !(c.t.strand k).exited) with
    | none => .done (stay c.s)
    | some l => ((pairTarget c a.va l).bind (fun x => targetTest x 4)).res (fun pc =>
        .done { goTo c.s pc with reads := some (pairRead a.va l) })) s
/-- EXIT (R161). -/
def execExit (a : Ctl) (s : State) :=
  runI (.exit a) (fun c => .done (stay (c.put (c.t.ctrs (fun k x => if c.act.contains k then 0xff else x))))) s
/-- NOP (R162). -/
def execNop (a : NopF) (s : State) := runI (.nop a) (fun c => .done (stay c.s)) s
/-- YIELD (R162): a yield point and nothing more. -/
def execYield (a : Alu) (s : State) := runI (.yieldI a) (fun c => .done (stay c.s)) s

end Sys2Proof.Machine
end

