-- ==== Sys2Proof/Machine/Integer.lean ====
section
/-! DEFINITION. Group 0: 32- and 64-bit integers, logic, shifts, bit fields, compares, selects and moves (R138 to R150).
-/

namespace Sys2Proof.Machine

/-! ## 32-bit results (Tables 8-1 and 8-3) -/

/-- An exact integer wrapped to 32 bits, no flag (R71). -/
def wrapW (v : Int) : Word × Flags := (word (wrap v 32), 0)
/-- An exact integer saturated as signed, `sat` when it was clamped (R71). -/
def satSW (v : Int) : Word × Flags := (word (wrap (satS v 32) 32), flIf (satS v 32 ≠ v) flSat)
/-- An exact integer saturated as unsigned (R71). -/
def satZW (v : Int) : Word × Flags := (word (wrap (satZ v 32) 32), flIf (satZ v 32 ≠ v) flSat)

/-- The results of R142: `signed`, and the quotient or the remainder. -/
def divRem (signed quot : Bool) (a b : Word) : Word × Flags :=
  let x : Int := if signed then a.toInt else a.toNat
  let y : Int := if signed then b.toInt else b.toNat
  if y = 0 then (if quot then 0xffffffff else a, flDz)
  else if signed ∧ x = -2147483648 ∧ y = -1 then (if quot then a else 0, flIf quot flSat)
  else
    let q : Int := x.sign * y.sign * (x.natAbs / y.natAbs : Nat)
    wrapW (if quot then q else x - q * y)

/-- `SHL` (Table 8-3). -/
def shlW (a : Word) (n : Nat) : Word := if n ≥ 32 then 0 else word (a.toNat * 2 ^ n)
/-- `SHR` (Table 8-3). -/
def shrW (a : Word) (n : Nat) : Word := if n ≥ 32 then 0 else word (a.toNat / 2 ^ n)
/-- `SAR` (Table 8-3). -/
def sarW (a : Word) (n : Nat) : Word := word (wrap (a.toInt / (2 ^ min n 31 : Nat)) 32)
/-- Number of 1 bits. -/
def popc (a : Nat) : Nat := ((List.range 32).filter (fun i => bitAt a i)).length
/-- Number of 0 bits above the highest 1 bit; 32 for 0. -/
def clz (a : Nat) : Nat := if a = 0 then 32 else 31 - Nat.log2 a
/-- Number of 0 bits below the lowest 1 bit; 32 for 0. -/
def ctz (a : Nat) : Nat := (firstFrom (fun i => bitAt a i) 0 32).getD 32
/-- The bits of a word in reverse. -/
def brev (a : Nat) : Nat := (List.range 32).foldl (fun r i => r + (if bitAt a i then 2 ^ (31 - i) else 0)) 0

/-- Position and width of a bit field (R144), cut at bit 31. -/
def fieldOf (pos : Word) : Nat × Nat :=
  let p := min (pos.toNat % 256) 32
  (p, min (pos.toNat / 256 % 256) (32 - p))
/-- `BFX` (R144). -/
def bfxW (sgn : Bool) (a pos : Word) : Word :=
  let (p, w) := fieldOf pos
  let fld := a.toNat / 2 ^ p % 2 ^ w
  if sgn then (if w = 0 then 0 else word (wrap (sint fld w) 32)) else word fld
/-- `BFI` (R144). -/
def bfiW (a b pos : Word) : Word :=
  let (p, w) := fieldOf pos
  let m := word ((2 ^ w - 1) * 2 ^ p)
  (a &&& ~~~m) ||| (word (b.toNat * 2 ^ p) &&& m)
/-- `PERMB` (R145). -/
def permbW (a b : Word) : Word :=
  word ((List.range 4).foldl (fun r i =>
    let e := bits b.toNat (4 * i) 4
    let x := bits a.toNat (8 * (e % 4)) 8
    let y := if bitAt e 2 then 0 else if bitAt e 3 then (if bitAt x 7 then 255 else 0) else x
    r + y * 2 ^ (8 * i)) 0)

/-- IADD (R141). -/
def execIadd (a : Alu) (s : State) := runI (.iadd a) (alu2 a (fun x y => (x + y, 0))) s
/-- ISUB (R141). -/
def execIsub (a : Alu) (s : State) := runI (.isub a) (alu2 a (fun x y => (x - y, 0))) s
/-- IADDS (R141): `.S` for `sub` 0, `.Z` for 1. -/
def execIadds (a : Alu) (s : State) :=
  runI (.iadds a) (alu2 a (fun x y => if subOf3 a.m = 0 then satSW (x.toInt + y.toInt) else satZW ((x.toNat : Int) + y.toNat))) s
/-- ISUBS (R141). -/
def execIsubs (a : Alu) (s : State) :=
  runI (.isubs a) (alu2 a (fun x y => if subOf3 a.m = 0 then satSW (x.toInt - y.toInt) else satZW ((x.toNat : Int) - y.toNat))) s
/-- INEG (R141). -/
def execIneg (a : Alu) (s : State) := runI (.ineg a) (alu1 a (fun x => wrapW (-x.toInt))) s
/-- IABS (R141). -/
def execIabs (a : Alu) (s : State) := runI (.iabs a) (alu1 a (fun x => satSW x.toInt.natAbs)) s
/-- IMIN (R141). -/
def execImin (a : Alu) (s : State) := runI (.imin a) (alu2 a (fun x y => (if x.toInt ≤ y.toInt then x else y, 0))) s
/-- IMAX (R141). -/
def execImax (a : Alu) (s : State) := runI (.imax a) (alu2 a (fun x y => (if x.toInt ≤ y.toInt then y else x, 0))) s
/-- UMIN (R141). -/
def execUmin (a : Alu) (s : State) := runI (.umin a) (alu2 a (fun x y => (if x.toNat ≤ y.toNat then x else y, 0))) s
/-- UMAX (R141). -/
def execUmax (a : Alu) (s : State) := runI (.umax a) (alu2 a (fun x y => (if x.toNat ≤ y.toNat then y else x, 0))) s
/-- IMUL (R141). -/
def execImul (a : Alu) (s : State) := runI (.imul a) (alu2 a (fun x y => wrapW (x.toInt * y.toInt))) s
/-- IMULHI (R141). -/
def execImulhi (a : Alu) (s : State) := runI (.imulhi a) (alu2 a (fun x y => wrapW (x.toInt * y.toInt / 4294967296))) s
/-- UMULHI (R141). -/
def execUmulhi (a : Alu) (s : State) := runI (.umulhi a) (alu2 a (fun x y => (word (x.toNat * y.toNat / 4294967296), 0))) s
/-- IMAD (R141). -/
def execImad (a : Ter) (s : State) := runI (.imad a) (alu3 a (fun x y z => wrapW (x.toInt * y.toInt + z.toInt))) s
/-- IDIV (R142). -/
def execIdiv (a : Alu) (s : State) := runI (.idiv a) (alu2 a (divRem true true)) s
/-- UDIV (R142). -/
def execUdiv (a : Alu) (s : State) := runI (.udiv a) (alu2 a (divRem false true)) s
/-- IREM (R142). -/
def execIrem (a : Alu) (s : State) := runI (.irem a) (alu2 a (divRem true false)) s
/-- UREM (R142). -/
def execUrem (a : Alu) (s : State) := runI (.urem a) (alu2 a (divRem false false)) s
/-- AND (R143). -/
def execAnd (a : Alu) (s : State) := runI (.andI a) (alu2 a (fun x y => (x &&& y, 0))) s
/-- OR (R143). -/
def execOr (a : Alu) (s : State) := runI (.orI a) (alu2 a (fun x y => (x ||| y, 0))) s
/-- XOR (R143). -/
def execXor (a : Alu) (s : State) := runI (.xorI a) (alu2 a (fun x y => (x ^^^ y, 0))) s
/-- ANDN (R143). -/
def execAndn (a : Alu) (s : State) := runI (.andn a) (alu2 a (fun x y => (x &&& ~~~y, 0))) s
/-- SHL (R143). -/
def execShl (a : Alu) (s : State) := runI (.shl a) (alu2 a (fun x y => (shlW x y.toNat, 0))) s
/-- SHR (R143). -/
def execShr (a : Alu) (s : State) := runI (.shr a) (alu2 a (fun x y => (shrW x y.toNat, 0))) s
/-- SAR (R143). -/
def execSar (a : Alu) (s : State) := runI (.sar a) (alu2 a (fun x y => (sarW x y.toNat, 0))) s
/-- ROL (R143). -/
def execRol (a : Alu) (s : State) := runI (.rol a) (alu2 a (fun x y => (x.rotateLeft (y.toNat % 32), 0))) s
/-- ROR (R143). -/
def execRor (a : Alu) (s : State) := runI (.ror a) (alu2 a (fun x y => (x.rotateRight (y.toNat % 32), 0))) s
/-- BFX (R144). -/
def execBfx (a : Ter) (s : State) :=
  runI (.bfx a) (fun c => lanesU c a.m (fun k => (V.both (c.reg k a.va) (c.reg k a.vb)).map (fun p =>
    Out.one a.vd (bfxW (subOf3 a.m == 1) p.1 p.2) 0))) s
/-- BFI (R144). -/
def execBfi (a : Ter) (s : State) := runI (.bfi a) (alu3 a (fun x y z => (bfiW x y z, 0))) s
/-- POPC (R143). -/
def execPopc (a : Alu) (s : State) := runI (.popc a) (alu1 a (fun x => (word (popc x.toNat), 0))) s
/-- CLZ (R143). -/
def execClz (a : Alu) (s : State) := runI (.clz a) (alu1 a (fun x => (word (clz x.toNat), 0))) s
/-- CTZ (R143). -/
def execCtz (a : Alu) (s : State) := runI (.ctz a) (alu1 a (fun x => (word (ctz x.toNat), 0))) s
/-- BREV (R143). -/
def execBrev (a : Alu) (s : State) := runI (.brev a) (alu1 a (fun x => (word (brev x.toNat), 0))) s
/-- PERMB (R145). -/
def execPermb (a : Alu) (s : State) := runI (.permb a) (alu2 a (fun x y => (permbW x y, 0))) s

/-- The signed order of two numbers. -/
def cmpInt (x y : Int) : Ordering := if x < y then .lt else if x = y then .eq else .gt

/-- ICMP (R146). -/
def execIcmp (a : Alu) (s : State) :=
  runI (.icmp a) (alu2 a (fun x y => (boolWord (intCond (subOf3 a.m) (cmpInt x.toInt y.toInt)), 0))) s
/-- UCMP (R146). -/
def execUcmp (a : Alu) (s : State) :=
  runI (.ucmp a) (alu2 a (fun x y => (boolWord (intCond (subOf3 a.m) (cmpInt x.toNat y.toNat)), 0))) s
/-- SEL (R147): all three sources are read, and the chosen one keeps its tag. -/
def execSel (a : Ter) (s : State) :=
  runI (.sel a) (fun c => lanesU c a.m (fun k => (V.both (c.regT k a.va) (V.both (c.regT k a.vb) (c.regT k a.vc))).map (fun p =>
    let x := if bitAt p.2.2.val.toNat 0 then p.1 else p.2.1
    Out.tagged a.vd x.val x.tag 0))) s
/-- MOV (R148). -/
def execMov (a : Alu) (s : State) :=
  runI (.mov a) (fun c => lanesU c a.m (fun k => (c.regT k a.va).map (fun x => Out.tagged a.vd x.val x.tag 0))) s
/-- MOVI (R148). -/
def execMovi (a : Alu) (s : State) :=
  runI (.movi a) (fun c => lanesU c a.m (fun k => (c.src k a.b).map (fun x => Out.one a.vd x 0))) s

/-- The indices `MOVR` or `MOVW` takes from a register, in each strand read (R149, R59): a register-bound fault at N or
above, a matrix hazard on a locked register (R221). -/
def indexIn (c : Run) (k : Nat) (r : RegField) : V Nat :=
  (c.reg k r).bind (fun x =>
    if x.toNat ≥ c.t.nreg then .bad (trapBound (some k))
    else if c.t.lock.contains x.toNat then .bad (trapHazard (some k))
    else .ok x.toNat)

/-- The strands `MOVR` or `MOVW` reads in (R149). -/
def Run.readers (c : Run) (m : BitVec 4) : List Nat := if topBit m then c.act.take 1 else c.act

/-- Some index names a register that a reply is still to be written to (R129). -/
def indexPends (c : Run) (m : BitVec 4) (r : RegField) : Bool :=
  (c.readers m).any (fun k => match indexIn c k r with | .ok i => c.t.pend.contains i | .bad _ => false)

/-- Marks the indexed registers as read (R129, R130). -/
def Res.readsAlso (r : Res) (xs : List (Nat × Nat)) : Res := match r with | .done d => .done { d with reads := some xs } | r => r

/-- MOVR (R149). -/
def execMovr (a : Alu) (s : State) :=
  runI (.movr a) (fun c =>
    if indexPends c a.m a.va then .hold c.s
    else
      (lanesU c a.m (fun k => (indexIn c k a.va).bind (fun i => (regV c.t k i).map (fun x => Out.tagged a.vd x.val x.tag 0)))).readsAlso
        ((c.readers a.m).flatMap (fun k => (k, a.va.toNat) :: (match indexIn c k a.va with | .ok i => [(k, i)] | .bad _ => [])))) s
/-- MOVW (R149): the index is source b, the value source a; a poisoned target is only cleared. -/
def execMovw (a : Alu) (s : State) :=
  runI (.movw a) (fun c =>
    if indexPends c a.m (srcField a.b) then .hold c.s
    else
      lanesU c a.m (fun k => (V.both (indexIn c k (srcField a.b)) (c.regT k a.va)).map (fun p => ⟨[(p.1, p.2.val, p.2.tag)], 0⟩))) s

/-- IADD64 (R150). -/
def execIadd64 (a : Alu) (s : State) := runI (.iadd64 a) (alu64 a (fun x y => (x + y) % 2 ^ 64)) s
/-- ISUB64 (R150). -/
def execIsub64 (a : Alu) (s : State) := runI (.isub64 a) (alu64 a (fun x y => wrap ((x : Int) - y) 64)) s
/-- IMUL64 (R150). -/
def execImul64 (a : Alu) (s : State) := runI (.imul64 a) (alu64 a (fun x y => x * y % 2 ^ 64)) s
/-- UMULW (R150). -/
def execUmulw (a : Alu) (s : State) := runI (.umulw a) (aluWide a (fun x y => x * y)) s
/-- IMULW (R150). -/
def execImulw (a : Alu) (s : State) := runI (.imulw a) (aluWide a (fun x y => wrap (sint x 32 * sint y 32) 64)) s
/-- SHL64 (R150). -/
def execShl64 (a : Alu) (s : State) := runI (.shl64 a) (aluShift64 a (fun x n => if n ≥ 64 then 0 else x * 2 ^ n % 2 ^ 64)) s
/-- SHR64 (R150). -/
def execShr64 (a : Alu) (s : State) := runI (.shr64 a) (aluShift64 a (fun x n => if n ≥ 64 then 0 else x / 2 ^ n)) s
/-- SAR64 (R150). -/
def execSar64 (a : Alu) (s : State) :=
  runI (.sar64 a) (aluShift64 a (fun x n => wrap (sint x 64 / (2 ^ min n 63 : Nat)) 64)) s
/-- ICMP64 (R150). -/
def execIcmp64 (a : Alu) (s : State) := runI (.icmp64 a) (aluCmp64 a (fun x y => cmpInt (sint x 64) (sint y 64))) s
/-- UCMP64 (R150). -/
def execUcmp64 (a : Alu) (s : State) := runI (.ucmp64 a) (aluCmp64 a (fun x y => cmpInt x y)) s
/-- MOVI64 (R148). -/
def execMovi64 (a : Wide) (s : State) :=
  runI (.movi64 a) (fun c => lanesU c a.m (fun _ => .ok (Out.pair a.vd a.imm.toNat 0))) s

end Sys2Proof.Machine
end

