-- ==== Sys2Proof/Machine/Pointer.lean ====
section
/-! DEFINITION. The pointer instructions of group 0: `LEA`, `PTR`, `PFIELD` (R151 to R154). -/

namespace Sys2Proof.Machine

/-- `LEA` on a pointer (R152): checked, its address field moved by the scaled index. -/
def leaPtr (k : Nat) (sub : Nat) (p : DWord) (b : Word) : V DWord :=
  let d : Int := if sub ≥ 4 then b.toNat else b.toInt
  match ptrAdd p (d * (2 ^ (sub % 4) : Nat)) with
  | some q => .ok q
  | none => .bad (trapAddr (some k) p)

/-- `PTR` on a raw address (R153): space code, address, rank or tower. -/
def mkPtr (k : Nat) (sp : Nat) (x : DWord) (b : Word) : V Nat :=
  if x.toNat ≥ 2 ^ spaceWidth sp then .bad (trapAddr (some k) x)
  else if sp = 0 then .ok x.toNat
  else if b.toNat ≥ (if sp = 1 then 12 else 4) then .bad (trapAddr (some k) x)
  else .ok (sp * 2 ^ 60 + b.toNat * 2 ^ 48 + x.toNat)

/-- `PFIELD` (R154). -/
def ptrPart (p : DWord) (b : Word) : Word :=
  match b.toNat % 4 with
  | 0 => word (bits p.toNat 60 4)
  | 1 => word (bits p.toNat 48 4)
  | 2 => word (bits p.toNat 0 32)
  | _ => word (bits p.toNat 32 16)

/-- LEA (R152). -/
def execLea (a : Alu) (s : State) :=
  runI (.lea a) (fun c => lanesU c a.m (fun k => (V.both (c.pair k a.va) (c.src k a.b)).bind (fun p =>
    (leaPtr k (subOf3 a.m) p.1 p.2).map (fun q => Out.pair a.vd q.toNat 0)))) s
/-- PTR (R153): `.GLB` names no source b. -/
def execPtr (a : Alu) (s : State) :=
  runI (.ptr a) (fun c => lanesU c a.m (fun k =>
    (V.both (c.pair k a.va) (if a.m.toNat % 4 = 0 then .ok 0 else c.src k a.b)).bind (fun p =>
      (mkPtr k (a.m.toNat % 4) p.1 p.2).map (fun q => Out.pair a.vd q 0)))) s
/-- PFIELD (R154). -/
def execPfield (a : Alu) (s : State) :=
  runI (.pfield a) (fun c => lanesU c a.m (fun k => (V.both (c.pair k a.va) (c.src k a.b)).map (fun p =>
    Out.one a.vd (ptrPart p.1 p.2) 0))) s

end Sys2Proof.Machine
end

