-- ==== Sys2Proof/Machine/Stake.lean ====
section
/-! DEFINITION. Stake channels (R209, R210). -/

namespace Sys2Proof.Machine

/-- The channel an instruction names on the team's pair. -/
def chanOf (c : Run) (a : Alu) : Nat := pairOf c.core * 4 + a.m.toNat % 4
/-- Channels 0 and 1 carry upward: the lower die pushes (R209). -/
def pushSide (c : Run) (a : Alu) : Bool := isLower c.core == decide (a.m.toNat % 4 < 2)
/-- The channel may be named by the team's context (R209). -/
def chanFree (c : Run) (a : Alu) : Bool := match (c.s.chan (chanOf c a)).owner with | none => true | some x => x == ctxId c.ctx

/-- The team names the channel: it becomes its context's, and its group is recorded (R209). -/
def nameChan (c : Run) (a : Alu) (s : State) : State :=
  let k := chanOf c a
  (s.setChan k (fun x => { x with owner := some (ctxId c.ctx), groups := sadd c.t.grp x.groups })).setGroup c.t.grp (fun g =>
    { g with chans := sadd k g.chans })

/-- The shared tests of push and pop: side and ownership, and at most 16 passes (R209, R210). -/
def chanTests (c : Run) (a : Alu) (side : Bool) : V Unit :=
  (V.both (V.test (side && chanFree c a) trapPriv) (V.test (decide (c.livePasses.length ≤ 16)) trapIllegal)).map (fun _ => ())

/-- SKPUSH (R210). -/
def execSkpush (a : Alu) (s : State) :=
  runI (.skpush a) (fun c => withActive c (fun _ =>
    (V.both (chanTests c a (pushSide c a)) (V.all (c.act.map (fun k => (c.regT k a.va).map (fun r => (k, r.val, r.tag)))))).res (fun x =>
      let ch := c.s.chan (chanOf c a)
      if ch.entries.length + c.livePasses.length > 16 then .hold c.s
      else
        let es := c.livePasses.map (fun p => (List.range 32).map (fun i =>
          match x.2.find? (fun y => y.1 == p * 32 + i) with
          | some y => y.2
          | none => ((0 : Word), (0 : BitVec 4))))
        .done (Done.seq ((nameChan c a c.s).setChan (chanOf c a) (fun ch => { ch with entries := ch.entries ++ es })))))) s
/-- SKPOP (R210). -/
def execSkpop (a : Alu) (s : State) :=
  runI (.skpop a) (fun c => withActive c (fun _ => (chanTests c a (!pushSide c a)).res (fun _ =>
    let ch := c.s.chan (chanOf c a)
    let n := c.livePasses.length
    if ch.entries.length < n then .hold c.s
    else
      let got := c.livePasses.zip ch.entries
      let os := c.act.map (fun k => match got.find? (fun e => e.1 == k / 32) with
        | some e => let y := nth ((0 : Word), (0 : BitVec 4)) e.2 (k % 32); Out.tagged a.vd y.1 y.2 0
        | none => ⟨[], 0⟩)
      let s := (nameChan c a c.s).setChan (chanOf c a) (fun ch => { ch with entries := ch.entries.drop n })
      .done { Done.seq (s.putTeam (writeOuts c.t c.act os)) with writes := wroteIn c.act os, reads := some [] }))) s
/-- SKFREE (R210): from either side. -/
def execSkfree (a : Alu) (s : State) :=
  runI (.skfree a) (fun c => withActive c (fun _ => (V.test (chanFree c a) trapPriv).res (fun _ =>
    let n := sampleOf c.s (16 - (c.s.chan (chanOf c a)).entries.length)
    .done { Done.seq ((nameChan c a c.s).putTeam ((c.t.sampled (3 + a.m.toNat % 4) n).writeAll c.t.all a.vd.toNat (word n) 0)) with
      writes := [(a.vd.toNat, c.t.all)], reads := some [] }))) s

end Sys2Proof.Machine
end

