-- ==== Sys2Proof/Machine/Check.lean ====
section
/-! DEFINITION. Issue of a team's next instruction (R55, R123), and checked execution: claims (R280 to R288), the end of
checked-only mode (R287) and the fault ring's waiting deliveries (R346). -/

namespace Sys2Proof.Machine

/-- Runs an instruction that a fetch can find; a step of the device is never found by one. -/
def runInstr (i : Instr) (s : State) : Host.Outcome State Fault Refusal :=
  match i with
  | .iadd a => execIadd a s
  | .isub a => execIsub a s
  | .iadds a => execIadds a s
  | .isubs a => execIsubs a s
  | .ineg a => execIneg a s
  | .iabs a => execIabs a s
  | .imin a => execImin a s
  | .imax a => execImax a s
  | .umin a => execUmin a s
  | .umax a => execUmax a s
  | .imul a => execImul a s
  | .imulhi a => execImulhi a s
  | .umulhi a => execUmulhi a s
  | .imad a => execImad a s
  | .idiv a => execIdiv a s
  | .udiv a => execUdiv a s
  | .irem a => execIrem a s
  | .urem a => execUrem a s
  | .andI a => execAnd a s
  | .orI a => execOr a s
  | .xorI a => execXor a s
  | .andn a => execAndn a s
  | .shl a => execShl a s
  | .shr a => execShr a s
  | .sar a => execSar a s
  | .rol a => execRol a s
  | .ror a => execRor a s
  | .bfx a => execBfx a s
  | .bfi a => execBfi a s
  | .popc a => execPopc a s
  | .clz a => execClz a s
  | .ctz a => execCtz a s
  | .brev a => execBrev a s
  | .permb a => execPermb a s
  | .icmp a => execIcmp a s
  | .ucmp a => execUcmp a s
  | .sel a => execSel a s
  | .mov a => execMov a s
  | .movi a => execMovi a s
  | .movr a => execMovr a s
  | .movw a => execMovw a s
  | .iadd64 a => execIadd64 a s
  | .isub64 a => execIsub64 a s
  | .imul64 a => execImul64 a s
  | .umulw a => execUmulw a s
  | .imulw a => execImulw a s
  | .shl64 a => execShl64 a s
  | .shr64 a => execShr64 a s
  | .sar64 a => execSar64 a s
  | .icmp64 a => execIcmp64 a s
  | .ucmp64 a => execUcmp64 a s
  | .movi64 a => execMovi64 a s
  | .lea a => execLea a s
  | .ptr a => execPtr a s
  | .pfield a => execPfield a s
  | .ifI a => execIf a s
  | .elseI a => execElse a s
  | .endif a => execEndif a s
  | .loop a => execLoop a s
  | .breakI a => execBreak a s
  | .contI a => execCont a s
  | .endloop a => execEndloop a s
  | .bra a => execBra a s
  | .brx a => execBrx a s
  | .call a => execCall a s
  | .callx a => execCallx a s
  | .ret a => execRet a s
  | .exit a => execExit a s
  | .nop a => execNop a s
  | .yieldI a => execYield a s
  | .fadd a => execFadd a s
  | .fsub a => execFsub a s
  | .fmul a => execFmul a s
  | .ffma a => execFfma a s
  | .fmin a => execFmin a s
  | .fmax a => execFmax a s
  | .fcmp a => execFcmp a s
  | .fclass a => execFclass a s
  | .frnd a => execFrnd a s
  | .fdiv a => execFdiv a s
  | .fsqrt a => execFsqrt a s
  | .frcp a => execFrcp a s
  | .frsq a => execFrsq a s
  | .fexp2 a => execFexp2 a s
  | .flog2 a => execFlog2 a s
  | .fsinpi a => execFsinpi a s
  | .fcospi a => execFcospi a s
  | .ftanh a => execFtanh a s
  | .fscale a => execFscale a s
  | .fcopys a => execFcopys a s
  | .dadd a => execDadd a s
  | .dsub a => execDsub a s
  | .dmul a => execDmul a s
  | .dfma a => execDfma a s
  | .dmin a => execDmin a s
  | .dmax a => execDmax a s
  | .dcmp a => execDcmp a s
  | .ddiv a => execDdiv a s
  | .dsqrt a => execDsqrt a s
  | .drnd a => execDrnd a s
  | .fcvti a => execFcvti a s
  | .icvtf a => execIcvtf a s
  | .dcvtf a => execDcvtf a s
  | .fcvtd a => execFcvtd a s
  | .dcvtl a => execDcvtl a s
  | .lcvtd a => execLcvtd a s
  | .padd a => execPadd a s
  | .psub a => execPsub a s
  | .pmul a => execPmul a s
  | .pfma a => execPfma a s
  | .pmin a => execPmin a s
  | .pmax a => execPmax a s
  | .pabs a => execPabs a s
  | .pcmp a => execPcmp a s
  | .psel a => execPsel a s
  | .pdot2 a => execPdot2 a s
  | .pdot4 a => execPdot4 a s
  | .pshrr a => execPshrr a s
  | .pclamp a => execPclamp a s
  | .cvt a => execCvt a s
  | .packh a => execPackh a s
  | .unpk a => execUnpk a s
  | .insrt a => execInsrt a s
  | .tagset a => execTagset a s
  | .tagget a => execTagget a s
  | .pbpack a => execPbpack a s
  | .pbpacks a => execPbpacks a s
  | .pbunpk a => execPbunpk a s
  | .shfl a => execShfl a s
  | .slideup a => execSlideup a s
  | .slidedn a => execSlidedn a s
  | .swz a => execSwz a s
  | .ballot a => execBallot a s
  | .vany a => execVany a s
  | .vall a => execVall a s
  | .first a => execFirst a s
  | .readl a => execReadl a s
  | .redadd a => execRedadd a s
  | .redmin a => execRedmin a s
  | .redmax a => execRedmax a s
  | .scan a => execScan a s
  | .mbcnt a => execMbcnt a s
  | .ld a => execLd a s
  | .ldx a => execLdx a s
  | .st a => execSt a s
  | .stx a => execStx a s
  | .lda a => execLda a s
  | .stl a => execStl a s
  | .atom a => execAtom a s
  | .atomcas a => execAtomcas a s
  | .red a => execRed a s
  | .fence a => execFence a s
  | .bar a => execBar a s
  | .arrive a => execArrive a s
  | .waitb a => execWaitb a s
  | .waitne a => execWaitne a s
  | .cwb a => execCwb a s
  | .cinv a => execCinv a s
  | .cwbi a => execCwbi a s
  | .cprf a => execCprf a s
  | .subs a => execSubs a s
  | .unsub a => execUnsub a s
  | .supg a => execSupg a s
  | .skpush a => execSkpush a s
  | .skpop a => execSkpop a s
  | .skfree a => execSkfree a s
  | .claim a => execClaim a s
  | .release a => execRelease a s
  | .mma a => execMma a s
  | .mmawait a => execMmawait a s
  | .opfence a => execOpfence a s
  | .oxmm a => execOxmm a s
  | .acccvt a => execAcccvt a s
  | .accset a => execAccset a s
  | .xcG2s a => execXcG2s a s
  | .xcS2g a => execXcS2g a s
  | .xcS2s a => execXcS2s a s
  | .xcG2o a => execXcG2o a s
  | .xcS2o a => execXcS2o a s
  | .xcC2d a => execXcC2d a s
  | .xcGath a => execXcGath a s
  | .xcRscat a => execXcRscat a s
  | .xcAgath a => execXcAgath a s
  | .xcAredu a => execXcAredu a s
  | .xcPut a => execXcPut a s
  | .xcGet a => execXcGet a s
  | .xcGstart a => execXcGstart a s
  | .xcGstat a => execXcGstat a s
  | .xcGcond a => execXcGcond a s
  | .fetchwork a => execFetchwork a s
  | .refill a => execRefill a s
  | .itemset a => execItemset a s
  | .movs a => execMovs a s
  | .movsw a => execMovsw a s
  | .trap a => execTrap a s
  | .eret a => execEret a s
  | .sigchk a => execSigchk a s
  | .chkreq a => execChkreq a s
  | .sleep a => execSleep a s
  | .evsend a => execEvsend a s
  | .tlbinv a => execTlbinv a s
  | .ctxsave a => execCtxsave a s
  | .ctxload a => execCtxload a s
  | .poisonclr a => execPoisonclr a s
  | .hostmsg a => execHostmsg a s
  | .rasrd a => execRasrd a s
  | .illegal a => execIllegal a s
  | .claimCheck _ _ => .next s
  | .checkedOnlyExit _ => .next s
  | .deliveryRingSpace _ => .next s
  | .mmaComplete _ _ => .next s
  | .oxmmComplete _ => .next s
  | .engineCommandComplete _ _ => .next s
  | .engineDelivery _ => .next s
  | .nodeEnd _ _ => .next s
  | .nodeLaunchTeam _ _ => .next s
  | .nodeCopy _ _ => .next s
  | .nodeCondition _ _ => .next s
  | .nodeWhile _ _ => .next s
  | .nodeJoin _ _ => .next s
  | .graphComplete _ => .next s
  | .workWithdrawn _ => .next s
  | .placementUnit _ => .next s
  | .groupStart _ => .next s
  | .teamRetire _ => .next s
  | .waitneWake _ => .next s
  | .sleepDeadline _ => .next s
  | .rangeOpComplete _ => .next s
  | .subscriptionAnswered _ => .next s
  | .missFill _ _ _ _ => .next s
  | .l1Eviction _ _ _ => .next s
  | .storeAccepted _ _ => .next s
  | .hwErrorContainment _ _ _ => .next s
  | .registerScrub _ _ _ => .next s
  | .refresh _ _ => .next s
  | .preemptionRequest _ => .next s
  | .yieldPointSave _ => .next s
  | .preemptionTimeout _ => .next s
  | .groupRestore _ => .next s
  | .watchdogExpired _ => .next s
  | .recoveryLimitExpired _ _ => .next s
  | .peerInRecovery _ => .next s
  | .peerRecovered _ => .next s
  | .deadTimeExpired _ => .next s
  | .tokenRequest _ => .next s
  | .tokenGrant => .next s
  | .tokenReturn _ => .next s
  | .powerEstimate _ => .next s
  | .budgetInterval => .next s
  | .rackPowerMessage _ _ _ => .next s
  | .rackBudgetExpiry => .next s
  | .railSwitchComplete _ => .next s
  | .gatePowerOff _ => .next s
  | .retentionEntry _ => .next s
  | .takeCommands _ => .next s
  | .launch _ _ => .next s
  | .graphLaunch _ _ _ _ => .next s
  | .copy _ _ _ _ => .next s
  | .signal _ _ _ => .next s
  | .wait _ _ _ => .next s
  | .powerRail _ _ _ => .next s
  | .powerGate _ _ _ => .next s
  | .retention _ _ _ => .next s
  | .matrixTokenPool _ _ => .next s
  | .memoryByteBudget _ _ _ => .next s
  | .powerFloor _ _ => .next s
  | .rampRate _ _ => .next s
  | .rackBudget _ _ => .next s
  | .queue _ _ _ => .next s
  | .context _ _ _ => .next s
  | .communicator _ _ _ _ _ => .next s
  | .preEmpt _ _ => .next s
  | .restore _ _ => .next s
  | .mapOutCorePair _ _ => .next s
  | .mapOutDramRow _ _ => .next s
  | .mapOutOsierLane _ _ => .next s
  | .identity _ _ => .next s
  | .setTime _ _ => .next s
  | .rasHeader _ _ => .next s
  | .rasClear _ => .next s
  | .queueReset _ _ => .next s
  | .ringBind _ _ _ _ _ _ _ => .next s
  | .attest _ _ _ => .next s
  | .setDeviceId _ _ _ => .next s
  | .declareDead _ _ => .next s
  | .admitAgent _ _ => .next s
  | .raiseSecurityVersion _ _ => .next s
  | .poisonPage _ _ => .next s
  | .hostEvent _ _ => .next s
  | .eventRingSpace _ _ => .next s
  | .reset => .next s
  | .bootDoorbell _ => .next s
  | .transientRequest _ _ _ _ _ => .next s
  | .persistentRequest _ _ _ _ => .next s
  | .tokensBackAtPort _ _ => .next s
  | .exactRead _ _ => .next s
  | .subscribedRead _ _ => .next s
  | .writePermission _ _ => .next s
  | .writeThrough _ _ _ _ => .next s
  | .notice _ _ _ => .next s
  | .writeBack _ _ _ => .next s
  | .subscriptionRequest _ _ _ _ _ => .next s
  | .upgradeRequest _ _ => .next s
  | .unsubscribeRequest _ _ => .next s
  | .acknowledgement _ _ _ _ => .next s
  | .invalidation _ _ _ => .next s
  | .recall _ _ => .next s
  | .update _ _ _ => .next s
  | .grant _ _ _ _ => .next s
  | .done1 _ _ => .next s
  | .done2 _ _ => .next s
  | .retry _ _ => .next s
  | .staleEpoch _ => .next s
  | .smWriteBack _ _ _ => .next s
  | .hoopCarve _ _ _ _ _ => .next s
  | .rdmaRequest _ _ _ _ _ => .next s

/-- A team issues: it fetches the instruction at its program counter and executes it, or takes the fetch's fault in its
enabled strands (R123, R349). -/
def issueTeam (h : Nat) (s : State) : Host.Outcome State Fault Refusal :=
  match s.team h with
  | none => .next s
  | some t =>
    if !canIssue s t then .next s
    else
      let f := fetchFill s t
      if !f.2 then .next f.1
      else match fetchAt f.1 t with
        | .instr i => runInstr i { f.1 with cur := h }
        | .bad tr => .next (takeTrap f.1 t tr t.enabled false (.illegal 0))

/-! ## Claims (R281, R282) -/

/-- The claim queue of a team's section (R281). -/
def claimKey (h : Nat) : Nat := hndCore h * 4 + hndSec h
/-- The claims of a section, oldest first. -/
def claimsOf (s : State) (h : Nat) : List Claim := (aget (claimKey h) s.claims).getD []
/-- The queue of a section is full: it issues nothing until an entry is checked (R281). -/
def claimsFull (s : State) (h : Nat) : Bool := decide ((claimsOf s h).length ≥ 128)
/-- The oldest claim of a team. -/
def firstClaim (s : State) (h : Nat) : Option Claim := (claimsOf s h).find? (fun c => c.hnd == h)

/-- The working copy of a team (R280). -/
def Team.working (t : Team) : Work := t.work.getD ⟨t.strands, t.pc, t.sigs, t.sigd⟩
/-- The working copy after an instruction the main core retired, as its claim has it (R280, R281). -/
def Work.after (w : Work) (c : Claim) : Work :=
  let put := fun (ss : List Strand) (x : Nat × Nat × Word × BitVec 4) => upd ss x.1 (fun y => { y with regs := y.regs.set x.2.1 ⟨x.2.2.1, x.2.2.2, false⟩ })
  let flag := fun (ss : List Strand) (x : Nat × BitVec 8) => upd ss x.1 (fun y => { y with nsr := y.nsr ||| x.2 })
  let ss := c.nsr.foldl flag (c.res.foldl put w.strands)
  { strands := if c.ctr.isEmpty then ss else (ss.zip c.ctr).map (fun x => { x.1 with ctr := x.2 }), pc := c.next,
    sigs := match decode c.word with
      | some (i, _) => if isControl i then 0 else sigsFold (if w.pc.toNat % 64 = 0 then 0 else w.sigs) (lowWord i)
      | none => w.sigs
    sigd := c.sigd }
/-- A main core retires an instruction: its claim joins the queue of the section (R281). It issues nothing for a team in checked-only
mode (R287), and nothing while the queue is full. -/
def execRetire (c : Claim) (s : State) : Host.Outcome State Fault Refusal :=
  match s.team c.hnd with
  | none => .next s
  | some t =>
    if t.chk.isSome || !canIssue s t || claimsFull s c.hnd then .next s
    else .next ({ s with claims := aset (claimKey c.hnd) (claimsOf s c.hnd ++ [c]) s.claims }.setTeam c.hnd (fun t =>
      { t with work := some (t.working.after c) }))

/-- The instruction at a team's program counter, as fetched. -/
def fetchedWord (s : State) (t : Team) : List Byte :=
  match transFor s (s.ctxOf t) (s.isSup t) Need.fetch t.pc.toNat, fetchAt s t with
  | .ok l, .instr i => (fetchBytes s t l t.pc.toNat).take (byteLength i)
  | _, _ => []
/-- The name a claim's instruction samples, among those whose last value is kept (R282). -/
def samplesName (i : Instr) : Option Nat :=
  match i with
  | .movs a => sampledName (srcField a.b).toNat
  | .skfree a => some (3 + a.m.toNat % 4)
  | _ => none
/-- Steps 1, 2 and 5 of R282, before the recomputation: the address and the word, the masks, every value and tag that was read, and a
sample that is not below the last one committed. -/
def claimMeets (s : State) (t : Team) (i : Instr) (c : Claim) : Bool :=
  let act := activeOf t (hdrF i)
  c.pc == t.pc && c.word == fetchedWord s t && c.amask == (List.range t.passes).map (passWord act) && c.sum == sumWord act t.passes &&
  c.src.all (fun x => let r := (t.strand x.1).reg x.2.1; r.val == x.2.2.1 && r.tag == x.2.2.2) &&
  (match samplesName i, c.samp with
    | some n, some v => decide ((aget n t.samps).getD 0 ≤ v)
    | none, some _ => false
    | _, none => true)

/-- The instruction's effective addresses come from a pointer and an offset. -/
def isMemForm (i : Instr) : Bool :=
  match i with
  | .ld _ => true
  | .ldx _ => true
  | .st _ => true
  | .stx _ => true
  | .lda _ => true
  | .stl _ => true
  | .atom _ => true
  | .atomcas _ => true
  | .red _ => true
  | .waitne _ => true
  | .cwb _ => true
  | .cinv _ => true
  | .cwbi _ => true
  | .cprf _ => true
  | _ => false
/-- Addresses that a strand's access may have: a memory operand's, else a pointer pair it reads. -/
def claimAddrs (t : Team) (i : Instr) (k : Nat) : List DWord :=
  if isMemForm i then [storeAddr t i k]
  else (srcRegs i).filterMap (fun r => match pairV t k r with | .ok p => some p | .bad _ => none)
/-- The load check of one access (R284): the bytes as the checker reads them. -/
def loadMeets (s : State) (t : Team) (i : Instr) (x : Nat × List Byte) : Bool :=
  (claimAddrs t i x.1).any (fun p => match locate s (s.ctxOf t) t.core (s.isSup t) Need.rd (some x.1) p x.2.length with
    | .ok ls => ls.map (readLoc s t.core (s.ctxOf t)) == x.2
    | .bad _ => false)
/-- The bytes a strand stores, where the instruction takes them from registers. -/
def storedBytes (t : Team) (i : Instr) (k n : Nat) : Option (List Byte) :=
  let from_ := fun r : RegField => match V.all ((List.range (max 1 (n / 4))).map (fun j => regV t k (r.toNat + j))) with
    | .ok rs => some ((rs.flatMap (fun x => leBytes 4 x.val.toNat)).take n)
    | .bad _ => none
  match i with
  | .st a => from_ a.vb
  | .stx a => from_ a.vb
  | .stl a => from_ a.vb
  | _ => none

/-- Registers whose value or tag the instruction changed are those its claim lists, with their new values (step 3 of R282). -/
def resMeets (t t' : Team) (c : Claim) : Bool :=
  c.res.all (fun x => (t'.strand x.1).reg x.2.1 == ⟨x.2.2.1, x.2.2.2, false⟩) &&
  t.all.all (fun k => (t.strand k).regs == (t'.strand k).regs ||
    (List.range t.nreg).all (fun r => (t.strand k).reg r == (t'.strand k).reg r || c.res.any (fun x => x.1 == k && x.2.1 == r)))
/-- The flags of every strand are those the claim lists, beside what was set before; a write of `%nsr` lists what it wrote. -/
def nsrMeets (t t' : Team) (i : Instr) (c : Claim) : Bool :=
  let writes := match i with | .movsw a => srcField a.b == 0x20 | _ => false
  t.all.all (fun k => match aget k c.nsr with
    | some f => (t'.strand k).nsr == (t.strand k).nsr ||| f || writes && (t'.strand k).nsr == f
    | none => (t'.strand k).nsr == (t.strand k).nsr)
/-- Steps 3, 4 and 6 of R282 after the recomputation: `t'` the team as the recomputation left it (none where a fault of the supervisor
ended its queue), `tr` the fault it found. -/
def claimAgrees (s' : State) (t : Team) (t' : Option Team) (i : Instr) (tr : Option Trap) (c : Claim) : Bool :=
  c.addr.all (fun x => (claimAddrs t i x.1).contains x.2) &&
  c.sdata.all (fun x => match storedBytes t i x.1 x.2.length with | some bs => bs == x.2 | none => true) &&
  c.trap == tr &&
  (match tr, t' with
    | none, some t' =>
      c.ldata.all (loadMeets s' t i) && resMeets t t' c && nsrMeets t t' i c &&
      c.ctr == (if isControl i then t'.strands.map (·.ctr) else []) && c.next == t'.pc && c.sigd == t'.sigd
    | some f, _ =>
      let soft := f.cause == 0x11
      c.res.isEmpty && c.nsr.isEmpty && c.next == (if soft then t.pc + BitVec.ofNat 48 (byteLength i) else t.pc) &&
      c.sigd == (if soft then sigdAfter i t t (activeOf t (hdrF i)) else t.sigd)
    | none, none => false)

/-- A mismatch of a team's claim (R286, R287): it and every later claim of the team are discarded. -/
def mismatchAt (s : State) (h : Nat) : State := dropClaims (s.setTeam h Team.mismatch) h
/-- The claim leaves its queue; with none left the working copy is the checked one. -/
def claimDone (s : State) (h : Nat) : State :=
  let qs := (claimsOf s h)
  let rest := dropFirst (fun c => c.hnd == h) qs
  let s : State := { s with claims := if rest.isEmpty then adel (claimKey h) s.claims else aset (claimKey h) rest s.claims, sample := none }
  if rest.any (fun c => c.hnd == h) then s else s.setTeam h (fun t => { t with work := none })

/-- The oldest claim of a team is checked (R282): the instruction is recomputed from the checked copy, with the claim's sample for what it
samples. Where all agrees, what the recomputation did stands; where it waits, the claim waits; else nothing is committed. -/
def checkClaim (s : State) (t : Team) (c : Claim) : State :=
  let i : Instr := match fetchAt s t with | .instr i => i | .bad _ => .illegal 0
  if !claimMeets s t i c then mismatchAt s t.hnd
  else match issueTeam t.hnd { s with sample := c.samp, told := none } with
    | .next s' =>
      let t' := s'.team t.hnd
      if (match t' with | some x => x.checks == t.checks | none => false) then { s' with sample := none }
      else if claimAgrees s' t t' i s'.told c then claimDone s' t.hnd
      else mismatchAt s t.hnd
    | _ => s

/-- CLAIM_CHECK (R282, R283, R286, R287): a claim that matches commits its instruction; one that differs commits nothing,
raises `%mism` and is replayed. An uncorrectable error in its entry is contained (R293). A team whose instruction has no claim in the
queue commits as one whose claim agrees (`ok`), or differs. In checked-only mode no claim stands: `ok` false is then a difference between
the two `%sigd` of the checker bank, a signature fault at the instruction (R288). -/
def execClaimCheck (h : Nat) (ok : Bool) (s : State) : Host.Outcome State Fault Refusal :=
  match s.team h with
  | none => .next s
  | some t =>
    if !canIssue s t then .next s
    else
      let f := fetchFill s t
      if !f.2 then .next f.1
      else match firstClaim f.1 h with
        | some c =>
          if c.ecc then
            let q := s.qOf t
            .next (wakePlacement (wakeOpen (teardown (rasWrite s 3 (rasLoc t.core (hndSec h)) q (s.ctxOf t) 0 0 (BitVec.ofNat 64 (2 ^ q))) q)))
          else if ok then .next (checkClaim f.1 t c) else .next (mismatchAt s h)
        | none =>
          if ok then issueTeam h s
          else if t.chk.isNone then .next (mismatchAt s h)
          else match fetchAt f.1 t with
            | .instr i => .next (takeTrap f.1 t trapSig (activeOf t (hdrF i)) false i)
            | .bad tr => .next (takeTrap f.1 t tr t.enabled false (.illegal 0))

/-- CHECKED_ONLY_EXIT (R287): after the last commit of the mode the team leaves it with an empty check sequence. -/
def execCheckedOnlyExit (h : Nat) (s : State) : Host.Outcome State Fault Refusal :=
  .next (s.setTeam h (fun t => if t.chk = some 0 then { t with chk := none, seq := [] } else t))

/-- The oldest waiting deliveries are written while the ring has room; at most n of them (R346). -/
def drainFaults : Nat → State → State
  | 0, s => s
  | n + 1, s =>
    match s.frWait with
    | [] => s
    | d :: rest =>
      if s.frWr - s.frRd ≥ 4096 then s
      else drainFaults n { devWrite { s with frWait := rest } (cellsAt (s.frBase + s.frWr % 4096 * 64) (deliveryBytes d)) with
        frWr := s.frWr + 1 }

/-- DELIVERY_RING_SPACE (R346): the supervisor has read n more records, and deliveries that waited are written. -/
def execDeliveryRingSpace (n : Nat) (s : State) : Host.Outcome State Fault Refusal :=
  let s := { s with frRd := min s.frWr (s.frRd + n) }
  .next (drainFaults s.frWait.length s)

end Sys2Proof.Machine
end

