-- ==== Sys2Proof/Machine/Power.lean ====
section
/-! DEFINITION. Power: matrix tokens (R224), byte budgets (R371), the estimate (R372, R373), rails, gates and retention
(R374 to R376), rack messages (R377), and the power commands (R370). -/

namespace Sys2Proof.Machine

/-! ## Matrix tokens -/

/-- Tokens held by cores. -/
def heldTokens (s : State) : Nat := (s.cores.filter (fun c => c.2.tok)).length
/-- A grant can be made now: a core waits, a token is free and none is withheld, as every grant is while the estimate rises too fast or
exceeds the rack budget (R224, R372, R373; log entry 54). -/
def mayGrant (s : State) : Bool := !s.power.queue.isEmpty && decide (heldTokens s < s.power.pool) && !s.power.hold && s.power.excess == 0
/-- The grant that can be made becomes due. -/
def wakeGrant (s : State) : State := if mayGrant s && !s.due.contains .tokenGrant then s.later .tokenGrant else s

/-- The instruction a team stands at is an `MMA`. -/
def nextIsMma (s : State) (t : Team) : Bool := match fetchAt s t with | .instr (.mma _) => true | _ => false

/-- TOKEN_REQUEST (R224): a core without a token asks for one when some team's next instruction is an `MMA`. -/
def execTokenRequest (core : Nat) (s : State) : Host.Outcome State Fault Refusal :=
  let k := s.core core
  if k.tok || k.want || !s.teams.any (fun t => t.core == core && nextIsMma s t) then .next s
  else
    let s := s.setCore core (fun k => { k with want := true })
    .next (wakeGrant { s with power := { s.power with queue := s.power.queue ++ [core] } })

/-- TOKEN_GRANT (R224): the oldest request is granted a free token. -/
def execTokenGrant (s : State) : Host.Outcome State Fault Refusal :=
  if !mayGrant s then .next s
  else match s.power.queue with
    | [] => .next s
    | c :: rest =>
      let s := s.setCore c (fun k => { k with tok := true, want := false, idle := s.now })
      .next (wakeGrant { s with power := { s.power with queue := rest } })

/-- TOKEN_RETURN (R224): after 2 µs without an `MMA` outstanding or issued. -/
def execTokenReturn (core : Nat) (s : State) : Host.Outcome State Fault Refusal :=
  let k := s.core core
  if !k.tok || s.teams.any (fun t => t.core == core && t.mat.any (fun m => !m.ox)) || decide (s.now < k.idle + 2000) then .next s
  else .next (wakeGrant (s.setCore core (fun k => { k with tok := false })))

/-! ## Budgets and the estimate -/

/-- An engine command of a queue that reserves memory bytes. -/
def reservedDue (s : State) (e : Event) : Bool :=
  match e with
  | .engineCommandComplete id _ => (match s.ecmd id with | some c => c.mbw s != 0 | none => false)
  | _ => false
/-- Requests that found no room ask again, those of queues with a reservation first (R371). -/
def wakeAdmitted (s : State) : State :=
  let first := s.teams.filter (fun t => t.held && t.status == .run && t.bwt.isNone && (s.recOf t).mbw != 0)
  let s := wakeAll s
  { s with agenda := s.agenda ++ first.map (fun t => .issue t.hnd),
           due := s.due.filter (reservedDue s) ++ s.due.filter (fun e => !reservedDue s e) }

/-- BUDGET_INTERVAL (R371): every budget and reservation has its full room again. -/
def execBudgetInterval (s : State) : Host.Outcome State Fault Refusal :=
  .next (wakeAdmitted { s with
    clusters := s.clusters.map (fun c => (c.1, { c.2 with left := c.2.budget })),
    queues := s.queues.map (fun q => (q.1, { q.2 with mused := 0 })),
    power := { s.power with us := s.now / 1000 } })

/-- The estimate or the rack budget has changed: what is withheld follows (R373), and what is withheld no more is asked for again. -/
def powerNow (s : State) (p : Power) : State :=
  let p := { p with excess := p.est - p.rack }
  let less := (s.power.hold && !p.hold) || decide (p.excess < s.power.excess)
  let s := { s with power := p }
  if less then wakeGrant (wakeAdmitted s) else s
/-- POWER_ESTIMATE (R372, R373): `w` is the estimate of this microsecond. Grants and admissions are delayed while it rises faster than the
ramp rate; while it exceeds the rack budget grants are withheld, and of every cluster's byte budget the same part; ballast runs while it
is below the floor or falls too fast. -/
def execPowerEstimate (w : Nat) (s : State) : Host.Outcome State Fault Refusal :=
  let p := s.power
  .next (powerNow s { p with est := w, hold := decide (1000 * w > 1000 * p.est + p.ramp), eus := s.now / 1000,
                             ballast := decide (w < p.floor) || decide (1000 * w + p.ramp < 1000 * p.est) })

/-- RACK_POWER_MESSAGE (R377). -/
def execRackPowerMessage (seq budget expiry : Nat) (s : State) : Host.Outcome State Fault Refusal :=
  let old := match s.power.lastSeq with | some l => decide (seq ≤ l) | none => false
  if old || decide (expiry ≤ s.now) then .next s
  else .next (powerNow s { s.power with rack := budget, expiry := some expiry, lastSeq := some seq })

/-- RACK_BUDGET_EXPIRY (R377): the safe budget applies once the budget in force has expired. -/
def execRackBudgetExpiry (s : State) : Host.Outcome State Fault Refusal :=
  match s.power.expiry with
  | some e => if s.now < e then .next s else .next (powerNow s { s.power with rack := s.power.safe, expiry := none })
  | none => .next s

/-! ## Rails, gates and retention -/

/-- Started commands of every queue whose step satisfies p. -/
def openCmds (s : State) (p : Event → Bool) : List CmdHdr :=
  s.queues.flatMap (fun q => (q.2.cmds.filter (fun c => c.started && p c.step)).map (·.hdr))
/-- Commands complete with a status. -/
def cmdsDone (s : State) (hs : List CmdHdr) (st : Nat) : State := hs.foldl (fun s h => cmdDone s h st 0 false) s
/-- An admin command that looks again each time its step comes up until it completes. -/
def runAdmin (e : Event) (h : CmdHdr) (f : State → State) (s : State) : Host.Outcome State Fault Refusal :=
  if isOpen s h e then .next (f s) else startAdmin e h f s

/-- RAIL_SWITCH_COMPLETE (R374): the cluster is on its new rail, and the commands for it complete. -/
def execRailSwitchComplete (cl : Nat) (s : State) : Host.Outcome State Fault Refusal :=
  match (s.cluster cl).sw with
  | none => .next s
  | some v =>
    let s := s.setCluster cl (fun c => { c with vhi := v, sw := none })
    .next (cmdsDone s (openCmds s (fun e => match e with | .powerRail _ x _ => x == cl | _ => false)) 0)

/-- Groups on the cores of a cluster that are not saved. -/
def groupsOn (s : State) (cl : Nat) : List Group := s.groups.filter (fun g => clusterOf g.core == cl && !isSaved g)
/-- Resident groups of a cluster. -/
def residentsOn (s : State) (cl : Nat) : List Group := s.groups.filter (fun g => clusterOf g.core == cl && g.res == .resident)
/-- Every block leaves the L1 of a core, dirty bytes going home (R111), every sector its checker cache and every line its instruction
cache. -/
def flushCore (s : State) (core : Nat) : State :=
  let s := (s.core core).blocks.foldl (fun s b => evictBlock s core b) s
  let s := (s.core core).ccache.foldl (fun s x => returnTokens s core x.sector) s
  s.setCore core (fun c => { c with icache := [] })
/-- Every core of a cluster is emptied so before power goes. -/
def flushCluster (s : State) (cl : Nat) : State := (List.range 12).foldl (fun s i => flushCore s (cl * 12 + i)) s
/-- The steps of started commands of every queue that satisfy p. -/
def openSteps (s : State) (p : Event → Bool) : List Event :=
  s.queues.flatMap (fun q => (q.2.cmds.filter (fun c => c.started && p c.step)).map (·.step))
/-- Open steps that satisfy p look again. -/
def wakeSteps (s : State) (p : Event → Bool) : State := (openSteps s p).foldl State.soon s

/-- GATE_POWER_OFF (R375): once every group of the cluster, and every group of a unit with one of them, is saved. -/
def execGatePowerOff (cl : Nat) (s : State) : Host.Outcome State Fault Refusal :=
  let mine := s.groups.filter (fun g => clusterOf g.core == cl)
  if !(s.cluster cl).gating || !mine.all (fun g => (unitOf s g).all isSaved) then .next s
  else
    let s := (flushCluster s cl).setCluster cl (fun c => { c with gated := true, gating := false })
    let s := cmdsDone s (openCmds s (fun e => match e with | .powerGate _ x 1 => x == cl | _ => false)) 0
    .next (wakeSteps s (fun e => match e with | .powerGate _ x 0 => x == cl | _ => false))

/-- A group's completions of R52 are made. -/
def groupQuiet (s : State) (g : Group) : Bool :=
  !s.ecmds.any (fun e => e.grp == g.id) && (teamsOf s g).all (fun t => nothingOut s t && t.status != .waiting)
/-- Writes the record of a resident group with full images (R376): where it lies in the context's save area. -/
def retainGroup (s : State) (g : Group) : State × Option (Nat × Nat × Nat) :=
  let bs := recordBytes s g (teamsOf s g) (fun t => (t.nreg, true))
  match recordPlace s g bs.length, s.ctx g.ctx with
  | some (s1, o), some c =>
    let s1 := s1.setGroup g.id (fun x => { x with sav := some o })
    ((ctxWrite s1 g.ctx (c.desc.sav + o) bs).getD s1, some (g.id, g.ctx, o))
  | _, _ => (s, none)
/-- Retention cannot be entered, or is left: places kept for records are free again, but for those of groups asked to leave (R357). -/
def dropPlaces (s : State) (gs : List Group) : State :=
  gs.foldl (fun s g => if g.pre.isSome then s else (freePlace s g.ctx g.sav).setGroup g.id (fun x => { x with sav := none })) s

/-- RETENTION_ENTRY (R376): the records are written once the completions of R52 are made; then the cluster is retained. Where the save
area cannot hold them after all, retention is refused (R357). -/
def execRetentionEntry (cl : Nat) (s : State) : Host.Outcome State Fault Refusal :=
  let gs := residentsOn s cl
  if !(s.cluster cl).retaining || !gs.all (groupQuiet s) then .next s
  else
    let mine := fun e : Event => match e with | .retention _ x 1 => x == cl | _ => false
    let r := gs.foldl (fun (r : State × List (Nat × Nat × Nat)) g =>
      let x := retainGroup r.1 g
      (x.1, r.2 ++ x.2.toList)) (flushCluster s cl, [])
    let s := if r.2.length < gs.length then
        let s := dropPlaces (refuseSave r.1 gs) (residentsOn r.1 cl)
        (openCmds s mine).foldl (fun s h => cmdDone s h 4 (bytesNeeded s gs) false) (s.setCluster cl (fun c => { c with retaining := false }))
      else
        let s := r.1.setCluster cl (fun c => { c with ret := true, retaining := false, recs := r.2 })
        cmdsDone s (openCmds s mine) 0
    .next (wakeSteps s (fun e => match e with | .retention _ x 0 => x == cl | _ => false))

/-- A group of a cold-reset cluster is as if it had been saved with the record written at retention entry, from which it returns (R376). -/
def coldReset (s : State) (x : Nat × Nat × Nat) : State :=
  match s.group x.1 with
  | none => s
  | some g =>
    let s := s.setCore g.core (fun k => { k with slots := k.slots.filter (fun y => y.2 != g.id) })
    let rest := (teamsOf s g).map Team.residue
    forgetTeams (s.setGroup g.id (fun y => { y with res := .saved x.2.2, kept := rest, sav := none, pre := some (y.pre.getD .gate) })) (fun t => t.grp == g.id)
/-- Exit from retention (R376): the images are discarded where the retained state is whole; else the cluster is reset and its
groups return from them before any new group is placed there. `%cycles` keeps its count over that reset: "no architectural state is
lost", though R64 counts from the last reset (log entry 55). -/
def retentionExit (s : State) (cl : Nat) : State :=
  let c := s.cluster cl
  let lost := Config.parityLost s.fresh
  let s := { s.setCluster cl (fun c => { c with ret := false, recs := [] }) with fresh := s.fresh + 1 }
  if lost then
    let s := c.recs.foldl coldReset s
    rasWrite s Config.retentionKind.toNat (rasLoc (cl * 12) 0) 255 65535 0 0 Config.retentionDetail
  else dropPlaces s (residentsOn s cl)

/-! ## Power commands (Table 23-4, Table 27-2) -/

/-- POWER_RAIL (R370, R374): 0 selects VLO, 1 VHI. -/
def execPowerRail (h : CmdHdr) (cl v : Nat) (s : State) :=
  startAdmin (.powerRail h cl v) h (fun s =>
    if cl ≥ 32 ∨ v > 1 then cmdDone s h 8 0 false
    else if (s.cluster cl).vhi = (v == 1) ∧ (s.cluster cl).sw = none then cmdDone s h 0 0 false
    else (s.setCluster cl (fun c => { c with sw := some (v == 1) })).later (.railSwitchComplete cl)) s

/-- The request of a gate: every group of the cluster and of their units is asked to leave (R375, R357). -/
def gateRequest (s : State) (h : CmdHdr) (cl : Nat) : State :=
  let ids := (groupsOn s cl).flatMap (fun g => (unitOf s g).map (·.id))
  let gs := s.groups.filter (fun g => ids.contains g.id && !isSaved g)
  match keepPlaces s gs with
  | none => cmdDone (refuseSave s gs) h 4 (bytesNeeded s gs) false
  | some s =>
    let s := s.setCluster cl (fun c => { c with gating := true })
    let s := { s with groups := s.groups.map (fun g => if clusterOf g.core = cl ∧ g.pre = some .sched then { g with pre := some .gate } else g) }
    let here := fun g : Group => clusterOf g.core == cl
    (askLeave (askLeave s (gs.filter here) .gate) (gs.filter (fun g => !here g)) .sched).later (.gatePowerOff cl)

/-- POWER_GATE (R375, R376): 0 powers the cluster on, 1 gates it. -/
def execPowerGate (h : CmdHdr) (cl v : Nat) (s : State) :=
  runAdmin (.powerGate h cl v) h (fun s =>
    let c := s.cluster cl
    if cl ≥ 32 ∨ v > 1 then cmdDone s h 8 0 false
    else if v = 1 then
      if c.gated then cmdDone s h 0 0 false
      else if c.ret || c.retaining then cmdDone s h 6 0 false
      else if c.gating then s
      else gateRequest s h cl
    else if c.gating then s
    else wakePlacement (cmdDone (s.setCluster cl (fun c => { c with gated := false })) h 0 0 false)) s

/-- RETENTION (R376): 1 puts the cluster in retention, 0 takes it out. -/
def execRetention (h : CmdHdr) (cl v : Nat) (s : State) :=
  runAdmin (.retention h cl v) h (fun s =>
    let c := s.cluster cl
    if cl ≥ 32 ∨ v > 1 then cmdDone s h 8 0 false
    else if v = 1 then
      if c.ret then cmdDone s h 0 0 false
      else if c.gated || c.gating then cmdDone s h 6 0 false
      else if c.retaining then s
      else
        let gs := residentsOn s cl
        match keepPlaces s gs with
        | none => cmdDone (refuseSave s gs) h 4 (bytesNeeded s gs) false
        | some s => (s.setCluster cl (fun c => { c with retaining := true })).later (.retentionEntry cl)
    else if c.retaining then s
    else wakePlacement (cmdDone (if c.ret then retentionExit s cl else s) h 0 0 false)) s

/-- MATRIX_TOKEN_POOL (R224, R370). -/
def execMatrixTokenPool (h : CmdHdr) (v : Nat) (s : State) :=
  startAdmin (.matrixTokenPool h v) h (fun s =>
    if v > 384 then cmdDone s h 8 0 false
    else wakeGrant (cmdDone { s with power := { s.power with pool := v } } h 0 0 false)) s
/-- MEMORY_BYTE_BUDGET (R370, R371): in force in the present interval, less what it has used. -/
def execMemoryByteBudget (h : CmdHdr) (cl v : Nat) (s : State) :=
  startAdmin (.memoryByteBudget h cl v) h (fun s =>
    if cl ≥ 32 ∨ v ≥ 2 ^ 32 then cmdDone s h 8 0 false
    else wakeAdmitted (cmdDone (s.setCluster cl (fun c => { c with budget := v, left := v - (c.budget - c.left) })) h 0 0 false)) s
/-- POWER_FLOOR (R370, R372). -/
def execPowerFloor (h : CmdHdr) (v : Nat) (s : State) :=
  startAdmin (.powerFloor h v) h (fun s =>
    if v > 2400 then cmdDone s h 8 0 false else cmdDone { s with power := { s.power with floor := v } } h 0 0 false) s
/-- RAMP_RATE (R370, R372). -/
def execRampRate (h : CmdHdr) (v : Nat) (s : State) :=
  startAdmin (.rampRate h v) h (fun s =>
    if v = 0 ∨ v > 100000 then cmdDone s h 8 0 false else cmdDone { s with power := { s.power with ramp := v } } h 0 0 false) s
/-- RACK_BUDGET (R370, R373, R377): in force until a rack message applies. -/
def execRackBudget (h : CmdHdr) (v : Nat) (s : State) :=
  startAdmin (.rackBudget h v) h (fun s =>
    if v > 2400 then cmdDone s h 8 0 false
    else cmdDone (powerNow s { s.power with rack := v, expiry := none }) h 0 0 false) s

end Sys2Proof.Machine
end

