-- ==== Sys2Proof/Machine/Igael.lean ====
section
/-! DEFINITION. Igael rings (R378), the commands as their bytes give them (Tables 27-1, 27-2, 27-5), launches (R29, R35),
copies, signals, waits, queue and context commands (R361, R362, R347), communicators (R390), pre-emption and restore. -/

namespace Sys2Proof.Machine

/-! ## Commands as bytes -/

/-- Codes of the admin commands (Table 27-2). -/
def isAdminCode (code : Nat) : Bool := decide (6 ≤ code) && decide (code ≤ 12)
/-- The step of a command that breaks the form of its code: it completes with status 0x08 when it starts, or with 0x09 for an
admin code on another port's ring (R381). -/
def badCmd (code : Nat) (h : CmdHdr) : Event := if isAdminCode code then .matrixTokenPool h (2 ^ 64) else .copy h 0 0 (2 ^ 64)
/-- The bytes of `arg` from an offset on. -/
def argNum (bs : List Byte) (o n : Nat) : Nat := leNat ((bs.drop o).take n)
/-- Every byte of `arg` outside the named operands is 0 (Table 27-1). -/
def argClean (bs : List Byte) (named : List (Nat × Nat)) : Bool :=
  (List.range 48).all (fun i => named.any (fun f => decide (f.1 ≤ 16 + i) && decide (16 + i < f.1 + f.2)) || bs.getD (16 + i) 0 == 0)
/-- A step with the operands that its bytes name, or none where another byte is not 0. -/
def withArgs (bs : List Byte) (named : List (Nat × Nat)) (e : Event) : Option Event := if argClean bs named then some e else none

/-- A power command by its control (Table 23-4). -/
def powerCmd (h : CmdHdr) (bs : List Byte) : Option Event :=
  let cl := argNum bs 17 1
  let v := argNum bs 24 8
  let named := [(16, 1), (17, 1), (24, 8)]
  if cl ≥ 32 then none
  else match argNum bs 16 1 with
    | 0 => withArgs bs named (.powerRail h cl v)
    | 1 => withArgs bs named (.powerGate h cl v)
    | 2 => withArgs bs named (.retention h cl v)
    | 3 => withArgs bs named (.matrixTokenPool h v)
    | 4 => withArgs bs named (.memoryByteBudget h cl v)
    | 5 => withArgs bs named (.powerFloor h v)
    | 6 => withArgs bs named (.rampRate h v)
    | 7 => withArgs bs named (.rackBudget h v)
    | _ => none

/-- A management command by its function (Table 27-5). -/
def manageCmd (h : CmdHdr) (bs : List Byte) : Option Event :=
  let x := argNum bs 24 8
  let y := argNum bs 32 8
  let one := [(16, 8), (24, 8)]
  let two := [(16, 8), (24, 16)]
  match argNum bs 16 8 with
  | 0 => withArgs bs one (.identity h x)
  | 1 => withArgs bs one (.setTime h (BitVec.ofNat 64 x))
  | 2 => withArgs bs one (.rasHeader h x)
  | 3 => withArgs bs [(16, 8)] (.rasClear h)
  | 4 => withArgs bs one (.queueReset h x)
  | 5 => let r := Config.ringBindArgs (bs.drop 24); some (.ringBind h r.1 r.2.1 r.2.2.1 r.2.2.2.1 r.2.2.2.2.1 r.2.2.2.2.2)
  | 6 => withArgs bs two (.attest h x y)
  | 7 => withArgs bs two (.setDeviceId h x y)
  | 8 => withArgs bs one (.declareDead h x)
  | 9 => withArgs bs one (.admitAgent h x)
  | 10 => withArgs bs one (.raiseSecurityVersion h x)
  | 11 => withArgs bs one (.poisonPage h x)
  | _ => none

/-- The step a command's code and operands name (Table 27-2). -/
def cmdStep (h : CmdHdr) (code : Nat) (bs : List Byte) : Option Event :=
  let x := argNum bs 16 8
  let y := argNum bs 24 8
  let z := argNum bs 32 8
  match code with
  | 1 => withArgs bs [(16, 8)] (.launch h x)
  | 2 => withArgs bs [(16, 24)] (.graphLaunch h x y z)
  | 3 => withArgs bs [(16, 24)] (.copy h x y z)
  | 4 => withArgs bs [(16, 16)] (.signal h x (BitVec.ofNat 64 y))
  | 5 => withArgs bs [(16, 16)] (.wait h x (BitVec.ofNat 64 y))
  | 6 => powerCmd h bs
  | 7 => withArgs bs [(16, 16)] (.queue h x y)
  | 8 => withArgs bs [(16, 16)] (.context h x y)
  | 9 => withArgs bs [(16, 16)] (.communicator h (argNum bs 16 2) (argNum bs 18 2) (argNum bs 20 4) y)
  | 10 =>
    if argNum bs 17 1 = 0 then withArgs bs [(16, 1)] (.preEmpt h (argNum bs 16 1))
    else if argNum bs 17 1 = 1 then withArgs bs [(16, 2)] (.restore h (argNum bs 16 1)) else none
  | 11 =>
    (match x with
      | 0 => withArgs bs [(16, 16)] (.mapOutCorePair h y)
      | 1 => withArgs bs [(16, 16)] (.mapOutDramRow h y)
      | 2 => withArgs bs [(16, 16)] (.mapOutOsierLane h y)
      | _ => none)
  | 12 => manageCmd h bs
  | _ => none

/-- The command in 64 bytes (Table 27-1), as entry `ix` of queue q's ring; a misplaced completion record is not written. -/
def readCmd (q ix : Nat) (bs : List Byte) : QCmd :=
  let code := argNum bs 0 1
  let crec := argNum bs 8 8
  let h : CmdHdr := ⟨q, ix, argNum bs 4 4, if crec % 16 = 0 then crec else 0, bitAt (argNum bs 1 1) 0⟩
  if argNum bs 1 1 > 1 ∨ argNum bs 2 2 ≠ 0 ∨ crec % 16 ≠ 0 then ⟨badCmd code h, h, false⟩
  else ⟨(cmdStep h code bs).getD (badCmd code h), h, false⟩

/-! ## Rings -/

/-- Where the host writes the tail of a queue's ring (R378). -/
def tailAt (r : Queue) : List Nat := physAt (r.base + 64 * r.entries) 4
/-- Where entry i lies. -/
def entryAt (r : Queue) (i : Nat) : List Nat := physAt (r.base + 64 * (i % r.entries)) 64
/-- The commands that a ring holds, from its head up to its tail. -/
def ringCount (r : Queue) (tail : Word) : Nat := (tail - r.head).toNat
/-- The device reads the tail word, an acquire at system scope, and then the entries from the head up to it (R378); none where another
agent must answer first. A tail too far ahead has no entries. -/
def ringTake (s : State) (q : Nat) : State × Option (Word × List (List Byte)) :=
  let r := s.queue q
  match devGet s (tailAt r) with
  | (s, none) => (s, none)
  | (s, some tb) =>
    let tail := word (leNat tb)
    let n := ringCount r tail
    if n > r.entries then (s, some (tail, []))
    else
      let ix := (List.range n).map (fun i => (r.head + word i).toNat)
      match devGet s (ix.flatMap (entryAt r)) with
      | (s, none) => (s, none)
      | (s, some bs) => (s, some (tail, (List.range n).map (fun i => (bs.drop (64 * i)).take 64)))
/-- The head moves and is written to the head word (R378). -/
def setHead (s : State) (q : Nat) (v : Word) : State :=
  let r := s.queue q
  devWrite (s.setQueue q (fun x => { x with head := v })) (cellsAt (r.base + 64 * r.entries + 4) (leBytes 4 v.toNat))

/-- TAKE_COMMANDS (R378, R381): every command up to the tail is taken in ring order; those of a torn-down queue complete with
0x07; a tail too far ahead tears the queue down. -/
def execTakeCommands (q : Nat) (s : State) : Host.Outcome State Fault Refusal :=
  let r := s.queue q
  if !r.bound then .next s
  else match ringTake s q with
    | (s, none) => .next s
    | (s, some (tail, es)) =>
      let n := ringCount r tail
      if n = 0 then .next s
      else if n > r.entries then .next (if r.torn then s else wakePlacement (wakeOpen (teardown s q)))
      else
        let new := es.mapIdx (fun i bs => readCmd q (r.head + word i).toNat bs)
        let s := setHead s q tail
        if r.torn then
          let s := s.setQueue q (fun x => { x with cmds := x.cmds ++ new.map (fun c => { c with started := true }) })
          .next (new.foldl (fun s c => completeCmd s c.hdr 7 0 false) s)
        else .next (wakeQueue (s.setQueue q (fun x => { x with cmds := x.cmds ++ new })) q)

/-! ## Launches -/

/-- The level descriptors of a launch record (Table 2-2). -/
def readLevel (g : Nat → Byte) (i : Nat) : Level :=
  let o := 0x80 + 16 * i
  ⟨numAt g o 4, bits (numAt g o 16) 36 3, bits (numAt g o 16) 32 3, bits (numAt g o 16) 40 8⟩
/-- A launch record (Table 2-1). -/
def readLaunch (g : Nat → Byte) : LaunchRec :=
  { entry := numAt g 0 8, nregs := numAt g 8 1 + 1, tsize := numAt g 9 1, tpg := numAt g 10 1, hash := bitAt (numAt g 12 2) 0,
    spill := bitAt (numAt g 12 2) 1, scr := numAt g 14 2, stagger := numAt g 16 4, tctl0 := word (numAt g 20 4),
    args := BitVec.ofNat 64 (numAt g 24 8), stack := if numAt g 32 4 = 0 then 1024 else numAt g 32 4,
    levels := (List.range (min 8 (numAt g 11 1))).map (readLevel g) }

/-- The levels keep R32, their scopes R31 and R34. -/
def levelsOk (lr : LaunchRec) : Bool :=
  let ls := lr.levels
  (List.range ls.length).all (fun i => match ls[i]? with
    | none => true
    | some l => decide (1 ≤ l.extent) && decide (l.domain ≤ 5) && decide (l.scope ≤ 6) && decide (min (l.domain + 1) 5 ≤ l.scope) &&
      (match ls[i + 1]? with | some m => decide (l.domain ≤ m.domain) | none => true)) &&
  ls.any (fun l => l.domain == 0) && decide (extents (ls.filter (fun l => l.domain == 0)) = lr.strands) &&
  decide (extents (ls.filter (fun l => l.domain == 1)) = lr.tpg) && decide (lr.groups ≤ 2 ^ 32 - 1)
/-- The tile keys keep R39: only the placement level of hash mode has one, and it selects levels above group. -/
def keysOk (lr : LaunchRec) : Bool :=
  let place := lr.levels.findIdx? (fun l => decide (2 ≤ l.domain) && decide (l.domain ≤ 4))
  (!lr.hash || place.isSome) &&
  (List.range lr.levels.length).all (fun i => match lr.levels[i]? with
    | none => true
    | some l => if lr.hash && place == some i then l.keysel != 0 && (List.range 8).all (fun j => !bitAt l.keysel j ||
        (match lr.levels[j]? with | some m => decide (2 ≤ m.domain) | none => false)) else l.keysel == 0)
/-- A launch record is valid (R35). `stkr`: the context's share in KiB. -/
def launchOk (g : Nat → Byte) (stkr : Nat) : Bool :=
  let lr := readLaunch g
  let nlev := numAt g 11 1
  decide (1 ≤ nlev) && decide (nlev ≤ 8) && decide (1 ≤ lr.tsize) && decide (lr.tsize ≤ 32) && decide (1 ≤ lr.tpg) && decide (lr.tpg ≤ 16) &&
  decide (numAt g 12 2 < 4) && decide (lr.scr ≤ 2048) && decide (lr.entry % 64 = 0) && decide (lr.entry < 2 ^ 48) &&
  decide (lr.tctl0.toNat < 64) && decide (lr.stack % 4 = 0) && decide (lr.stack + 4 ≤ stkr) &&
  decide (lr.strands * allocRegs lr.nregs ≤ 65536) && decide (numAt g 36 92 = 0) &&
  (List.range 8).all (fun i => let v := numAt g (0x80 + 16 * i) 16
    if i < nlev then bits v 48 80 == 0 && bits v 39 1 == 0 && bits v 35 1 == 0 else v == 0) &&
  levelsOk lr && keysOk lr

/-- Accepts a launch (R29, R361): it takes the queue record in force and the number of the moment. -/
def acceptLaunch (s : State) (h : CmdHdr) (lr : LaunchRec) (img : Option (Nat × Nat)) : State :=
  let q := s.queue h.q
  let l : Launch := { id := s.names, q := h.q, ctx := q.cfg.ctx, lr := lr, qr := q.cfg, cmd := h, acc := s.now, dl := q.cfg.dl, next := 0,
                      retired := [], ended := false, lastStart := [], instDone := [], img := img }
  wakePlacement { s with names := s.names + 1, launches := s.launches ++ [l] }
/-- The pages of a range allow the device to read it. -/
def ctxCan (s : State) (ctx va n : Nat) : Bool :=
  match locate s ctx 0 true Need.rd none (BitVec.ofNat 64 va) n with | .ok _ => true | .bad _ => false
/-- Judges the record of a launch as read: status 0x0B where it could not be read, 0x01 where it is invalid (R29, R35). -/
def startLaunch (h : CmdHdr) (rec : Nat) (img : Option (Nat × Nat)) (s : State) (got : Option (List Byte)) : State :=
  let ctx := (s.queue h.q).cfg.ctx
  if rec % 256 ≠ 0 then cmdDone s h 8 0 false
  else match got, s.ctx ctx with
    | some bs, some c =>
      let g := fun i => nth 0 bs i
      if !launchOk g c.desc.stkr then cmdDone s h 1 0 false
      else
        let lr := readLaunch g
        (match img with
          | none => acceptLaunch s h lr none
          | some (p, n) =>
            if n > 256 * lr.scr then cmdDone s h 8 0 false
            else if !ctxCan s ctx p n then cmdDone s h 0x0b 0 false
            else acceptLaunch s h lr img)
    | _, _ => cmdDone s h 0x0b 0 false
/-- LAUNCH (R29, R35, R379). The record is read when the launch starts, after every earlier wait or fence, and not when the command is
taken from its ring; R29 gives one reading and no moment (log entry 56). -/
def execLaunch (h : CmdHdr) (rec : Nat) (s : State) := startGet (.launch h rec) h (cmdGet h rec 256) (startLaunch h rec none) s
/-- GRAPH_LAUNCH (Table 27-2, R238). -/
def execGraphLaunch (h : CmdHdr) (rec img n : Nat) (s : State) :=
  startGet (.graphLaunch h rec img n) h (cmdGet h rec 256) (startLaunch h rec (some (img, n))) s

/-! ## Copies, signals and waits -/

/-- COPY (Table 27-2, R233): the bytes move as an engine moves them. -/
def execCopy (h : CmdHdr) (dst src n : Nat) (s : State) :=
  startCmd (.copy h dst src n) h (fun s =>
    if n > 2 ^ 40 then cmdDone s h 8 0 false
    else
      let e : ECmd := { id := s.names, op := .move [(.glob src, .glob dst, n)] false, issuer := .host h, grp := 2 ^ 64, q := h.q,
                        ctx := (s.queue h.q).cfg.ctx, core := 512, pc := Config.noIssuerPc, sup := s.supq == some h.q, rep := none, rd := [],
                        wr := [], moved := 0, wait := none, tries := 0, sent := false, peer := none, fin := none }
      { s with names := s.names + 1, ecmds := s.ecmds ++ [e] }.later (.engineCommandComplete e.id noAnswer)) s
/-- SIGNAL (R379): an 8-byte release store. -/
def execSignal (h : CmdHdr) (addr : Nat) (v : DWord) (s : State) :=
  startCmd (.signal h addr v) h (fun s =>
    if addr % 8 ≠ 0 then cmdDone s h 8 0 false
    else match ctxWrite s (s.queue h.q).cfg.ctx addr (leBytes 8 v.toNat) with
      | some s => cmdDone s h 0 0 false
      | none => cmdDone s h 8 0 false) s
/-- One read of a wait, an acquire at system scope (R379): done once the word is not below the value. -/
def waitRead (s : State) (h : CmdHdr) (addr : Nat) (v : DWord) : State :=
  if addr % 8 ≠ 0 then cmdDone s h 8 0 false
  else match cmdGet h addr 8 s with
    | (s, .bytes bs) => if leNat bs ≥ v.toNat then cmdDone s h 0 0 false else s
    | (s, .bad) => cmdDone s h 8 0 false
    | (s, .wait) => s
/-- WAIT (R379). -/
def execWait (h : CmdHdr) (addr : Nat) (v : DWord) (s : State) : Host.Outcome State Fault Refusal :=
  if isOpen s h (.wait h addr v) then .next (waitRead s h addr v)
  else startCmd (.wait h addr v) h (fun s => waitRead s h addr v) s

/-! ## Queues and contexts -/

/-- A queue record (Table 23-1). -/
def readQueue (g : Nat → Byte) : QRec :=
  { cores := bitSet (numAt g 0x30 48) 384, pto := numAt g 0x2c 4, rlim := numAt g 0x28 4, wdog := numAt g 0x24 4, dl := numAt g 0x20 4,
    mbw := numAt g 0x18 4, hways := numAt g 9 1, vlm := numAt g 8 1, ctx := numAt g 2 2, lcrit := bitAt (numAt g 1 1) 0,
    fchk := bitAt (numAt g 1 1) 1, prio := numAt g 0 1 % 8 }
/-- A record keeps its own ranges (R362). -/
def queueRanges (g : Nat → Byte) : Bool :=
  let r := readQueue g
  let zeroOr := fun v lo hi : Nat => v == 0 || (decide (lo ≤ v) && decide (v ≤ hi))
  numAt g 0x60 32 == 0 && numAt g 0x1c 4 == 0 && numAt g 0x0a 14 == 0 && numAt g 4 4 == 0 && decide (numAt g 1 1 < 4) && decide (numAt g 0 1 < 8) &&
  zeroOr r.pto 10 100000 && zeroOr r.rlim 1 60000 && zeroOr r.wdog 1 600000 && decide (r.hways ≤ 12)
/-- The device can keep a record's reservations beside those of the other queues (R362). -/
def queueFits (s : State) (q : Nat) (r : QRec) : Bool :=
  let others := (s.queues.filter (fun x => x.1 != q)).map (·.2.cfg)
  let sum := fun f : QRec → Nat => (others.map f).foldl (· + ·) 0
  r.cores.all (fun c => enabledCore s c && !others.any (fun o => o.cores.contains c)) && decide (sum (·.hways) + r.hways ≤ 12) &&
  decide (sum (·.mbw) + r.mbw ≤ 18000000) && r.vlm % 2 == 0 && others.all (fun o => o.vlm &&& r.vlm == 0) &&
  (!r.lcrit || decide ((others.filter (·.lcrit)).length < 4))
/-- QUEUE (R361, R362). -/
def execQueue (h : CmdHdr) (q rec : Nat) (s : State) :=
  startAdminGet (.queue h q rec) h (cmdGet h rec 128) (fun s got =>
    if q ≥ 64 then cmdDone s h 8 0 false
    else match got with
      | none => cmdDone s h 8 0 false
      | some bs =>
        let g := fun i => nth 0 bs i
        let r := readQueue g
        if !queueRanges g || !queueFits s q r then cmdDone s h 3 0 false
        else wakePlacement (cmdDone (s.setQueue q (fun x => { x with cfg := r })) h 0 0 false)) s

/-- A context descriptor (Table 21-4). -/
def readDesc (g : Nat → Byte) : CtxDesc :=
  ⟨numAt g 0 8, numAt g 8 8, numAt g 0x10 8, numAt g 0x18 8, numAt g 0x20 8, numAt g 0x28 4, numAt g 0x2c 4⟩
/-- A descriptor keeps its ranges. -/
def descOk (g : Nat → Byte) : Bool :=
  let d := readDesc g
  numAt g 0x30 16 == 0 && d.ptroot % 4096 == 0 && decide (d.ptroot < 2 ^ 48) && d.uhnd % 64 == 0 && decide (d.uhnd < 2 ^ 48) &&
  d.sav % 256 == 0 && decide (d.sav < 2 ^ 48) && d.stkb % 4096 == 0 && decide (d.stkb < 2 ^ 48) && d.stkr % 4 == 0 && decide (8 ≤ d.stkr)
/-- A new descriptor (R347): teams placed already keep the old one, under a version of its own, until their next restore, with the leaves
walked from it; a leaf of a version that nobody uses is dropped. -/
def newDesc (s : State) (c : Nat) (d : CtxDesc) : State :=
  match aget c s.ctxs with
  | none => { s with ctxs := aset c ⟨d, [], [], [], []⟩ s.ctxs }
  | some x =>
    let live := fun g : Group => ctxId g.ctx == c && !isSaved g
    let mine := fun e : ECmd => ctxId e.ctx == c && (match e.issuer with | .host _ => false | _ => true)
    let used := ((s.groups.filter live).map (·.ctx) ++ (s.teams.filterMap (·.newer)).filter (fun n => ctxId n == c) ++
      (s.ecmds.filter mine).map (·.ctx)).map (· / 65536)
    let v := x.old.foldl (fun m o => max m o.1) 0 + 1
    let old := (x.old ++ [(v, x.desc)]).filter (fun o => o.1 == v && used.contains 0 || used.contains o.1)
    let f := fun n : Nat => if n = c then c + 65536 * v else n
    let tlb := s.tlb.map (fun t => { t with ctx := f t.ctx })
    { s with ctxs := aset c { x with desc := d, old := old } s.ctxs,
             groups := s.groups.map (fun g => if live g then { g with ctx := f g.ctx } else g),
             teams := s.teams.map (fun t => { t with newer := t.newer.map f }),
             ecmds := s.ecmds.map (fun e => if mine e then { e with ctx := f e.ctx } else e),
             tlb := tlb.filter (fun t => ctxId t.ctx != c || old.any (fun o => o.1 == t.ctx / 65536)) }
/-- CONTEXT (R347). -/
def execContext (h : CmdHdr) (c ptr : Nat) (s : State) :=
  startAdminGet (.context h c ptr) h (cmdGet h ptr 64) (fun s got =>
    if c ≥ 65536 then cmdDone s h 8 0 false
    else match got with
      | none => cmdDone s h 8 0 false
      | some bs =>
        let g := fun i => nth 0 bs i
        if !descOk g then cmdDone s h 8 0 false
        else wakePlacement (cmdDone (newDesc s c (readDesc g)) h 0 0 false)) s

/-- A rank entry of a communicator (R390). -/
def readRank (g : Nat → Byte) (i : Nat) : Nat × Nat × Nat × Nat :=
  let o := 32 * i
  (numAt g o 2, numAt g (o + 2) 2, numAt g (o + 4) 1, numAt g (o + 16) 16)
/-- COMMUNICATOR (R390). -/
def execCommunicator (h : CmdHdr) (hd n rank ptr : Nat) (s : State) :=
  startAdminGet (.communicator h hd n rank ptr) h (cmdGet h ptr (if n > 65535 then 0 else 32 * n)) (fun s got =>
    if hd ≥ 65536 ∨ n = 0 ∨ n > 65535 ∨ rank ≥ n then cmdDone s h 8 0 false
    else match got with
      | none => cmdDone s h 8 0 false
      | some bs =>
        let g := fun i => nth 0 bs i
        let ok := (List.range n).all (fun i => decide ((readRank g i).1 < 512) && decide ((readRank g i).2.2.1 < 4) && numAt g (32 * i + 5) 11 == 0)
        if !ok then cmdDone s h 8 0 false
        else cmdDone { s with comms := aset hd ⟨rank, (List.range n).map (readRank g)⟩ s.comms } h 0 0 false) s

/-! ## Pre-emption and restore by the host -/

/-- PRE_EMPT (R354, R357): every group of the queue leaves and stays away until the host restores it. -/
def execPreEmpt (h : CmdHdr) (q : Nat) (s : State) :=
  runAdmin (.preEmpt h q) h (fun s =>
    let gs := s.groups.filter (fun g => g.q == q)
    let away := gs.filter (fun g => !isSaved g)
    let mark := fun s : State => { s with groups := s.groups.map (fun g => if g.q = q ∧ isSaved g then { g with pre := some .host } else g) }
    if q ≥ 64 then cmdDone s h 8 0 false
    else if away.isEmpty then
      let s := mark s
      cmdDone (if gs.isEmpty then s else s.setQueue q (fun x => { x with hostPre := true })) h 0 0 false
    else
      let new := away.filter (fun g => g.pre.isNone)
      match keepPlaces s new with
      | none => cmdDone (refuseSave s new) h 4 (bytesNeeded s new) false
      | some s =>
        let s := { mark s with groups := (mark s).groups.map (fun g => if g.q = q ∧ g.pre = some .sched then { g with pre := some .host } else g) }
        askLeave s new .host) s
/-- RESTORE (R54, R357): every saved group of the queue returns. -/
def execRestore (h : CmdHdr) (q : Nat) (s : State) :=
  runAdmin (.restore h q) h (fun s =>
    let gs := s.groups.filter (fun g => g.q == q && isSaved g)
    if q ≥ 64 then cmdDone s h 8 0 false
    else if gs.isEmpty then cmdDone (s.setQueue q (fun x => { x with hostPre := false })) h 0 0 false
    else
      let s := { s with groups := s.groups.map (fun g => if g.q = q ∧ isSaved g ∧ g.pre = some .host then { g with pre := some .sched } else g) }
      wakePlacement s) s

end Sys2Proof.Machine
end

