-- ==== Sys2Proof/Machine/Manage.lean ====
section
/-! DEFINITION. Map-outs (R11, R119, R386), the management functions (Tables 27-5 and 27-6, R381, R384, R385), device events
(R382), reset and boot (R383, R384). -/

namespace Sys2Proof.Machine

/-! ## Map-outs -/

/-- The two cores of a pair (R11). An index of the map-out command is taken as tower × 48 + logical core, 0 to 191; Table 27-2 says only
`index` (log entry 57). -/
def pairCores (ix : Nat) : List Nat := [ix / 48 * 96 + ix % 48, ix / 48 * 96 + 48 + ix % 48]
/-- Groups on a pair that are not saved. -/
def pairBusy (s : State) (ix : Nat) : Bool := s.groups.any (fun g => (pairCores ix).contains g.core && !isSaved g)
/-- The pair's number goes to a spare site of its tower, whose cores are as after reset, or is left without cores (R11). -/
def movePair (s : State) (ix : Nat) : State :=
  let tower := ix / 48
  let s := (pairCores ix).foldl (fun s c =>
    let s := flushCore s c
    let s := s.setCore c (fun k => { Core.reset with tok := k.tok, want := k.want, idle := k.idle })
    { s with scrPsn := s.scrPsn.filter (fun w => w / 65536 ≠ c),
             scrUnd := undAdd s.scrUnd (c * 2 ^ 19) ((c + 1) * 2 ^ 19) s.fresh,
             slotUnd := undAdd s.slotUnd (c * 128 * 2304) ((c + 1) * 128 * 2304) s.fresh, fresh := s.fresh + 1 }) s
  if (s.spares.filter (fun x => x.1 == tower)).length < 2 then
    { s with spares := s.spares ++ [(tower, ix)], offCores := (pairCores ix).foldl (fun l c => sdel c l) s.offCores }
  else s
/-- MAP_OUT_CORE_PAIR (R11, R10): new groups stay away at once, and the pair is out of use when none is left on it. -/
def execMapOutCorePair (h : CmdHdr) (ix : Nat) (s : State) :=
  runAdmin (.mapOutCorePair h ix) h (fun s =>
    if ix ≥ 192 then cmdDone s h 8 0 false
    else
      let gone := (pairCores ix).all (fun c => s.offCores.contains c) &&
        decide ((openCmds s (fun e => match e with | .mapOutCorePair _ x => x == ix | _ => false)).length = 1) &&
        decide ((s.spares.filter (fun x => x.1 == ix / 48)).length ≥ 2) && !pairBusy s ix
      if gone then cmdDone s h 0 0 false
      else
        let s := { s with offCores := (pairCores ix).foldl (fun l c => sadd c l) s.offCores }
        if pairBusy s ix then s else wakePlacement (cmdDone (movePair s ix) h 0 0 false)) s
/-- MAP_OUT_DRAM_ROW (R119): the controller copies the row to a spare one; programs see nothing of it. -/
def execMapOutDramRow (h : CmdHdr) (ix : Nat) (s : State) :=
  startAdmin (.mapOutDramRow h ix) h (fun s =>
    cmdDone (rasWrite { s with rowsOff := sadd ix s.rowsOff } 7 65535 255 65535 0 0 (BitVec.ofNat 64 ix)) h 0 0 false) s
/-- MAP_OUT_OSIER_LANE (R386): 16 ports of eight lanes (Table 1-5). -/
def execMapOutOsierLane (h : CmdHdr) (ix : Nat) (s : State) :=
  startAdmin (.mapOutOsierLane h ix) h (fun s =>
    if ix ≥ 128 then cmdDone s h 8 0 false else cmdDone { s with lanesOff := sadd ix s.lanesOff } h 0 0 false) s

/-! ## Management functions -/

/-- Writes a result at a pointer of a command and completes it; an address that cannot be written is out of range. -/
def giveResult (s : State) (h : CmdHdr) (ptr : Nat) (bs : List Byte) : State :=
  match ctxWrite s (s.queue h.q).cfg.ctx ptr bs with
  | some s => cmdDone s h 0 0 false
  | none => cmdDone s h 8 0 false
/-- The identity block (Table 27-6). -/
def identityBytes (s : State) : List Byte :=
  [1, Config.partNumber] ++ leBytes 2 s.devid ++ leBytes 1 s.boot.boot ++ List.replicate 3 0 ++ leBytes 8 Config.serialNumber.toNat ++
  leBytes 4 s.boot.svn ++ List.replicate 44 0
/-- IDENTITY (Table 27-5, function 0). -/
def execIdentity (h : CmdHdr) (ptr : Nat) (s : State) :=
  startAdmin (.identity h ptr) h (fun s => giveResult s h ptr (identityBytes s)) s
/-- SET_TIME (function 1, R64). -/
def execSetTime (h : CmdHdr) (v : DWord) (s : State) :=
  startAdmin (.setTime h v) h (fun s =>
    if v.toNat < s.time.toNat then cmdDone s h 8 0 false else cmdDone { s with time := v } h 0 0 false) s
/-- RAS_HEADER (function 2, R360). -/
def execRasHeader (h : CmdHdr) (ptr : Nat) (s : State) :=
  startAdmin (.rasHeader h ptr) h (fun s => giveResult s h ptr (Config.rasHeaderBytes s.ras.length s.rasLost s.rasSeq)) s
/-- RAS_CLEAR (function 3). -/
def execRasClear (h : CmdHdr) (s : State) :=
  startAdmin (.rasClear h) h (fun s => cmdDone { s with ras := [] } h 0 0 false) s
/-- QUEUE_RESET (function 4, R381): the commands up to the tail are discarded. -/
def execQueueReset (h : CmdHdr) (q : Nat) (s : State) :=
  startAdminGet (.queueReset h q) h (fun s => if q < 64 && (s.queue q).bound then physGet (tailAt (s.queue q)) s else (s, .bad)) (fun s got =>
    if q ≥ 64 then cmdDone s h 8 0 false
    else
      let s := match got with | some bs => setHead s q (word (leNat bs)) | none => s
      cmdDone (s.setQueue q (fun x => { x with torn := false })) h 0 0 false) s
/-- The queue holds work: commands or launches not complete. -/
def holdsWork (s : State) (q : Nat) : Bool := !(s.queue q).cmds.isEmpty || s.launches.any (fun l => l.q == q)
/-- RING_BIND (function 5, R378, R382). -/
def execRingBind (h : CmdHdr) (q base n port evb evn : Nat) (s : State) :=
  startAdmin (.ringBind h q base n port evb evn) h (fun s =>
    let pow2 := (List.range 11).any (fun i => n == 2 ^ (6 + i))
    if q ≥ 64 ∨ !pow2 ∨ port < 8 ∨ port > 11 ∨ evn = 0 ∨ holdsWork s q then cmdDone s h 8 0 false
    else
      let s := s.setQueue q (fun x => { x with bound := true, base := base, entries := n, owner := port, head := 0 })
      let s := { s with events := aset port { s.evring port with bound := true, base := evb, entries := evn, wr := 0 } s.events }
      cmdDone s h 0 0 false) s

/-- The seed of the identity key of this boot (R385). -/
def identitySeed (s : State) : List Byte := leBytes 32 (Config.identitySecret s.boot.count).toNat
/-- The attestation report (Table 27-8). -/
def attestBytes (s : State) (nonce : List Byte) : List Byte :=
  let seed := identitySeed s
  let body := List.replicate 10 0 ++ leBytes 2 s.devid ++ leBytes 4 s.boot.svn ++ leBytes 8 Config.serialNumber.toNat ++ leBytes 8 s.now ++
    nonce ++ padTo 64 s.boot.image ++ edPublic seed
  body ++ edSign seed (sha512 body) ++ List.replicate 32 0
/-- ATTEST (function 6, R385). -/
def execAttest (h : CmdHdr) (nonce ptr : Nat) (s : State) :=
  startAdminGet (.attest h nonce ptr) h (cmdGet h nonce 32) (fun s got => match got with
    | some bs => giveResult s h ptr (attestBytes s bs)
    | none => cmdDone s h 8 0 false) s

/-- A physical address of this device under another device ID. -/
def rehome (old new a : Nat) : Nat := if devOf a = old then new * 2 ^ 39 + a % 2 ^ 39 else a
/-- An agent of this device under another device ID (R326). -/
def reagent (old new a : Nat) : Nat := if a / 16 = old then new * 16 + a % 16 else a
/-- A directory entry whose agents take the device's new ID with it (R326, R331). -/
def DirEntry.reid (e : DirEntry) (old new g : Nat) : DirEntry :=
  { e with slots := e.slots.map (fun p => p.map (fun x => { x with agent := reagent old new x.agent }))
           held := e.held.map (fun x => (reagent old new x.1, x.2))
           coarse := e.coarse.map (fun l => distinct id (l.map (fun x => if g ≥ 4 then new * 16 / 2 ^ g else reagent old new (x * 2 ^ g) / 2 ^ g))) }
/-- The device takes an ID (R386): its own memory is found under the new one, and so is what its agents hold of it. -/
def takeId (s : State) (id : Nat) : State :=
  let f := rehome s.devid id
  let mem := s.mem.foldl (fun m c => Memory.put m (f c.1) c.2) []
  let cells := fun l : List Host.Cell => l.map (fun c => (f c.1, c.2))
  { s with devid := id, mem := mem, memPsn := s.memPsn.foldl (fun l p => sadd (f (p * 4096) / 4096) l) [],
           dir := s.dir.map (fun e => (f (e.1 * 256) / 256, e.2.reid s.devid id s.coarseG))
           secs := s.secs.map (fun x => (x.1 / 2 ^ 42 * 2 ^ 42 + f (x.1 % 2 ^ 42 * 64) / 64, { x.2 with dirty := cells x.2.dirty, rnd := cells x.2.rnd, peek := cells x.2.peek }))
           epochs := s.epochs.map (fun x => (reagent s.devid id x.1, x.2)), dead := s.dead.map (reagent s.devid id)
           flaws := s.flaws.map (fun x => if x.1 = 0 then (0, f x.2) else x), due := s.due.map (fun e => match e with | .tokensBackAtPort d x => .tokensBackAtPort d (f (x * 64) / 64) | e => e)
           queues := s.queues.map (fun q => (q.1, { q.2 with base := f q.2.base })),
           events := s.events.map (fun e => (e.1, { e.2 with base := f e.2.base })), frBase := f s.frBase }
/-- No message of the coherence protocol is on its way. -/
def quiet (s : State) : Bool := s.asks.isEmpty && s.txns.isEmpty && s.behind.isEmpty && s.throughs.isEmpty && s.dwq.isEmpty
/-- SET_DEVICE_ID (function 7, R386); the device's own accesses come to their end first. -/
def execSetDeviceId (h : CmdHdr) (id dead : Nat) (s : State) :=
  startAdminGet (.setDeviceId h id dead) h (fun s => if quiet s then (s, .bad) else (s, .wait)) (fun s _ =>
    if id ≥ 512 ∨ dead < 10 ∨ dead > 10000 ∨ s.traffic then cmdDone s h 8 0 false
    else cmdDone { takeId s id with deadMs := dead } h 0 0 false) s
/-- RAISE_SECURITY_VERSION (function 10, R384). -/
def execRaiseSecurityVersion (h : CmdHdr) (v : Nat) (s : State) :=
  startAdmin (.raiseSecurityVersion h v) h (fun s =>
    if v ≤ s.boot.svn ∨ v ≥ 2 ^ 32 then cmdDone s h 8 0 false else cmdDone { s with boot := { s.boot with svn := v } } h 0 0 false) s
/-- POISON_PAGE (function 11, R117, R352). -/
def execPoisonPage (h : CmdHdr) (pa : Nat) (s : State) :=
  startAdmin (.poisonPage h pa) h (fun s =>
    if pa % 4096 ≠ 0 ∨ devOf pa ≠ s.devid ∨ pa % 2 ^ 39 ≥ devBytes then cmdDone s h 8 0 false
    else cmdDone { s with memPsn := sadd (pa / 4096) s.memPsn } h 0 0 false) s

/-! ## Events to the host -/

/-- HOST_EVENT (R382): written when the ring has room and no earlier event waits; else it waits. -/
def execHostEvent (port : Nat) (e : HostEvt) (s : State) : Host.Outcome State Fault Refusal :=
  let r := s.evring port
  let bs := eventBytes s e
  if !r.bound || !r.waiting.isEmpty then .next (postEvent s port bs)
  else match ringGet s r with
    | (s, some rd) => .next (if r.fullAt rd then postEvent s port bs else ringPush s port bs)
    | (s, none) => .next (postEvent s port bs)
/-- Waiting events are written while the ring has room beyond the host's read index; at most n of them. -/
def drainEvents (port : Nat) (rd : Word) : Nat → State → State
  | 0, s => s
  | n + 1, s =>
    let r := s.evring port
    match r.waiting with
    | [] => s
    | bs :: rest =>
      if !r.bound || r.fullAt rd then s
      else drainEvents port rd n (ringPush { s with events := aset port { r with waiting := rest } s.events } port bs)
/-- EVENT_RING_SPACE (R382): the host has read n more events, which its read index says then, and waiting ones are written. -/
def execEventRingSpace (port n : Nat) (s : State) : Host.Outcome State Fault Refusal :=
  let r := s.evring port
  if !r.bound then .next s
  else
    let old := word (leNat ((readIndexAt r).map (cohByte s)))
    let s := if n = 0 then s else devWrite s (cellsAt (r.base + 64 * r.entries) (leBytes 4 (old + word (min n (r.wr - old).toNat)).toNat))
    match ringGet s r with
    | (s, some rd) => .next (drainEvents port rd r.waiting.length s)
    | (s, none) => .next s

/-! ## Reset and boot -/

/-- RESET (R383): no core runs and the device awaits an image. Fuses, what was mapped out and the memory stay; `%time` does not
run backwards (R64). -/
def execReset (s : State) : Host.Outcome State Fault Refusal :=
  let t := takeId s 0
  .next { State.reset with
    mem := t.mem, memPsn := t.memPsn, rowsOff := s.rowsOff, lanesOff := s.lanesOff, offCores := s.offCores, spares := s.spares,
    fresh := s.fresh, names := s.names, time := s.time, boot := ⟨1, none, [], s.boot.svn, s.boot.count + 1⟩ }

/-- The image in the boot window: its bytes, when its header names a length that the window holds (Table 27-7); nothing yet where another
agent must give them first. -/
def bootImage (s : State) : State × Option (Option (List Byte)) :=
  let base := s.devid * 2 ^ 39
  match devGet s (physAt base 256) with
  | (s, none) => (s, none)
  | (s, some hd) =>
    let len := argNum hd 8 8
    if argNum hd 0 4 ≠ 0x4b31494d ∨ argNum hd 128 128 ≠ 0 ∨ len + 256 > 2 ^ 28 then (s, some none)
    else match devGet s (physAt (base + 256) len) with
      | (s, none) => (s, none)
      | (s, some bs) => (s, some (some (hd ++ bs)))
/-- An image is accepted (R384). -/
def imageOk (s : State) (im : List Byte) : Bool :=
  let key := (im.drop 32).take 32
  leNat (sha512 key) == Config.fusedKeyDigest.toNat &&
  edVerify key (sha512 (im.take 64 ++ im.drop 256)) ((im.drop 64).take 64) && decide (s.boot.svn ≤ argNum im 4 4)
/-- BOOT_DOORBELL (R381, R383, R384): the first port to ring it is the admin port; a device that runs already does nothing. -/
def execBootDoorbell (port : Nat) (s : State) : Host.Outcome State Fault Refusal :=
  if s.boot.boot = 0 ∨ port < 8 ∨ port > 11 then .next s
  else
    let admin := s.boot.admin.getD port
    match bootImage s with
    | (s, none) => .next { s.later (.bootDoorbell port) with boot := { s.boot with admin := some admin } }
    | (s, some none) => .next { s with boot := { s.boot with boot := 2, admin := some admin } }
    | (s, some (some im)) =>
      if !imageOk s im then .next { s with boot := { s.boot with boot := 2, admin := some admin } }
      else
        let s := { s with boot := { s.boot with boot := 0, admin := some admin, image := sha512 im }, supq := some Config.supervisorQueue.toNat,
                          frBase := Config.faultRing, power := { s.power with safe := Config.safeBudget, rack := Config.safeBudget } }
        let s := s.setQueue 0 (fun x => { x with bound := true, base := argNum im 16 8, entries := 1024, owner := admin, head := 0 })
        .next { s with events := aset admin { s.evring admin with bound := true, base := argNum im 24 8, entries := 256, wr := 0 } s.events }

end Sys2Proof.Machine
end

