-- ==== Sys2Proof/Machine/Fabric.lean ====
section
/-! DEFINITION. Peers of the Osier domain: recovery, death and admission (R339, R359, R387), the watchdog (R358), hoop carves
(R98), and RDMA requests (R389). -/

namespace Sys2Proof.Machine

/-! ## Waiting on a peer -/

/-- The detail of an event about a peer device. -/
def peerDetail (dev : Nat) : List Byte := leBytes 2 dev
/-- PEER_IN_RECOVERY (R387): every path to the peer is retrying; the host is told. -/
def execPeerInRecovery (dev : Nat) (s : State) : Host.Outcome State Fault Refusal :=
  if dev = s.devid ∨ (aget dev s.recovery).isSome then .next s
  else .next (tellHost { s with recovery := aset dev (s.now, false) s.recovery } 3 255 65535 (peerDetail dev))
/-- PEER_RECOVERED (R387). -/
def execPeerRecovered (dev : Nat) (s : State) : Host.Outcome State Fault Refusal :=
  if (aget dev s.recovery).isNone then .next s
  else .next (tellHost { s with recovery := adel dev s.recovery } 4 255 65535 (peerDetail dev))
/-- DEAD_TIME_EXPIRED (R387): the admin port is told once. -/
def execDeadTimeExpired (dev : Nat) (s : State) : Host.Outcome State Fault Refusal :=
  match aget dev s.recovery with
  | some (t, false) =>
    if s.deadMs = 0 ∨ s.now < t + s.deadMs * 1000000 then .next s
    else .next (tellHost { s with recovery := aset dev (t, true) s.recovery } Config.deadReportKind.toNat 255 65535 (peerDetail dev))
  | _ => .next s

/-- The first sector an open request is about. -/
def Ask.sector (a : Ask) : Nat :=
  match a.kind with
  | .sub => a.pos * 4
  | .upg => a.pos * 4
  | .unsub => a.pos * 4
  | _ => a.pos
/-- The device whose home an open request waits for. -/
def Ask.dev (a : Ask) : Nat := devOf (a.sector * 64)
/-- The space 0 ranges of a command: address and bytes. -/
def cmdGlobs (e : ECmd) : List (Nat × Nat) :=
  let at_ := fun (l : ELoc) (n : Nat) => match l with | .glob va => [(va, n)] | _ => []
  match e.op with
  | .move ps _ => ps.flatMap (fun p => at_ p.1 p.2.2 ++ at_ p.2.1 p.2.2)
  | .gather _ _ cnt es dst => at_ dst (cnt * es)
  | .coll _ _ _ _ dt count send recv => at_ send (count * collBytes dt) ++ at_ recv (count * collBytes dt)
  | .xfer _ _ _ _ loc n _ _ => at_ loc n
  | _ => []
/-- A command waits for a sector of a range of its own that a home on a device has to give, or for a write of its own there to perform. -/
def cmdAsks (s : State) (dev : Nat) (e : ECmd) : Bool :=
  let die := if e.core < 384 then dieOf e.core else devDie s
  let secs := (s.asks.filter (fun a => a.die == die && a.dev == dev)).map (·.sector)
  s.throughs.any (fun x => x.hnd == e.writer && devOf (x.sector * 64) == dev) ||
  (!secs.isEmpty && (cmdGlobs e).any (fun r => (List.range (r.2 / 64 + 1)).any (fun j =>
    match transFor s e.ctx e.sup Need.rd (r.1 + 64 * j) with
    | .ok l => secs.contains ((l.pa + (r.1 + 64 * j - l.va)) / 64)
    | .error _ => false)))
/-- A command waits on a device: for a rank of it (R236, R237), or for memory of it (R233). -/
def cmdWaitsOn (s : State) (dev : Nat) (e : ECmd) : Bool :=
  e.wait.isNone && (cmdAsks s dev e || (match e.op with
    | .xfer _ comm peer _ _ _ _ _ => (match rankAt s comm peer with | some r => r.1 == dev | none => false)
    | .coll _ comm _ _ _ _ _ _ => (match aget comm s.comms with | some c => c.ranks.any (fun r => r.1 == dev) | none => false)
    | _ => false))
/-- Sectors that an access of the team waits for and a home on a device has to give: those it was found to need (R55, R116), or the sector of
a read-modify-write's write-through (R334). -/
def waitSecs (s : State) (dev : Nat) (t : Team) : List Nat :=
  let of := fun secs : List Nat => secs.filter (fun x => devOf (x * 64) == dev && !servedAt s t.core x)
  match t.status, t.rmw with
  | .fabric secs, _ => of secs
  | .parked secs, _ => of secs
  | _, some r => (match r.sent with
    | some (i, _, _) => (s.throughs.filter (fun x => x.id == i && devOf (x.sector * 64) == dev)).map (·.sector)
    | none => [])
  | _, none => []
/-- An access of the team waits for a home on a device. -/
def teamWaitsOn (s : State) (dev : Nat) (t : Team) : Bool := !(waitSecs s dev t).isEmpty
/-- Where a waiting instruction meets a home on a device: the lowest strand and address. -/
def waitAddr (s : State) (dev : Nat) (t : Team) (i : Instr) (act : List Nat) : Nat × DWord :=
  let secs := waitSecs s dev t
  let at_ := fun (k : Nat) => (List.range 16).findSome? (fun (j : Nat) =>
    match ptrAdd (storeAddr t i k) (j : Int) with
    | none => none
    | some p => match transFor s (s.ctxOf t) (s.isSup t) Need.rd (ptrField p) with
      | .ok l => if ptrSpace p = 0 ∧ secs.contains (sectorOf (l.pa + (ptrField p - l.va))) then some (k, p) else none
      | .error _ => none)
  (act.findSome? at_).getD (act.headD 0, storeAddr t i (act.headD 0))
/-- The line of the instruction at pc has still to come. -/
def waitsFetch (s : State) (t : Team) : Bool :=
  match transFor s (s.ctxOf t) (s.isSup t) Need.fetch t.pc.toNat with
  | .ok l => (icLine s t (l.pa + (t.pc.toNat - l.va))).isNone
  | .error _ => false
/-- A load, store or atomic to memory of an unreachable peer raises cause 0x08 at its instruction, with a RAS record (R359); so does a fetch, at
the program counter. -/
def failAccess (dev : Nat) (s : State) (h : Nat) : State :=
  match s.team h with
  | none => s
  | some t =>
    let s := rasWrite s 0x0b (rasLoc t.core (hndSec h)) (s.qOf t) (s.ctxOf t) 0 0 (BitVec.ofNat 64 dev)
    let t1 := { t with status := .run, rmw := none }
    if waitsFetch s t then takeTrap (s.putTeam t1) t1 (trapPoison none (BitVec.ofNat 64 t.pc.toNat)) t.enabled false (.illegal 0)
    else match fetchAt s t with
    | .instr i =>
      let act := activeOf t (hdrF i)
      let w := waitAddr s dev t i act
      takeTrap (s.putTeam t1) t1 (trapPoison (some w.1) w.2) act false i
    | .bad tr => takeTrap (s.putTeam t1) t1 tr t.enabled false (.illegal 0)
/-- A team has released a store that a home on a device has not taken: bytes of it have not performed, or a write-through is open (R335, R359).
-/
def storeStuck (s : State) (dev : Nat) (t : Team) : Bool :=
  t.rel.any (fun r => !r.cells.isEmpty && r.pas.any (fun a => devOf a == dev)) ||
  (throughsOf s t.hnd).any (fun x => !x.cond && devOf (x.sector * 64) == dev)
/-- What waits on a device ends (R359): engine commands with a status, accesses with cause 0x08, and a queue one of whose stores
was released already is contained (R293). -/
def endWaits (s : State) (dev st : Nat) (mine : Nat → Bool) : State :=
  let s := (s.ecmds.filter (fun e => mine e.q && cmdWaitsOn s dev e)).foldl (fun s e => endCmd s e st e.moved) s
  let hs := (s.teams.filter (fun t => mine (s.qOf t) && teamWaitsOn s dev t)).map (·.hnd)
  let qs := distinct id ((s.teams.filter (fun t => mine (s.qOf t) && storeStuck s dev t)).map (s.qOf ·))
  let s := hs.foldl (fun s h => failAccess dev s h) s
  wakeAll (qs.foldl (fun s q => teardown (rasWrite s 3 65535 q 65535 0 0 (BitVec.ofNat 64 (2 ^ q))) q) s)

/-- The recovery limit of a queue in ns (R359, Table 23-1). -/
def recLimit (s : State) (q : Nat) : Nat := (if (s.queue q).cfg.rlim = 0 then 1000 else (s.queue q).cfg.rlim) * 1000000
/-- RECOVERY_LIMIT_EXPIRED (R359): counted from the report of recovery. -/
def execRecoveryLimitExpired (q dev : Nat) (s : State) : Host.Outcome State Fault Refusal :=
  match aget dev s.recovery with
  | none => .next s
  | some (t, _) => if s.now < t + recLimit s q then .next s else .next (endWaits s dev 5 (· == q))

/-! ## Watchdog -/

/-- An instruction that waits for what its team has released (R303). -/
def isReleaseForm (i : Instr) : Bool :=
  match i with
  | .stl _ => true
  | .atom _ => true
  | .atomcas _ => true
  | .red _ => true
  | .fence _ => true
  | .bar _ => true
  | .arrive _ => true
  | .hostmsg _ => true
  | .tlbinv _ => true
  | _ => false
/-- The instruction at pc waits for a command of the team: it names the reply register (R129), or is a matrix instruction behind an `OPFENCE`
(R223). -/
def waitsCmd (t : Team) (i : Instr) (e : ECmd) : Bool :=
  e.issuer == .team t.hnd && ((match e.rep with | some r => (namedRegs i).contains r | none => false) ||
    ((match i with | .mma _ => true | .oxmm _ => true | _ => false) && t.opf.contains e.id))
/-- The team stands waiting on a fabric operation to a device (R358). -/
def waitsFabric (s : State) (dev : Nat) (t : Team) : Bool :=
  teamWaitsOn s dev t ||
  (t.done && (storeStuck s dev t || s.ecmds.any (fun e => e.issuer == .team t.hnd && cmdWaitsOn s dev e))) ||
  (t.held && t.bwt.isNone && (match fetchAt s t with
    | .instr i => (isReleaseForm i && storeStuck s dev t) || s.ecmds.any (fun e => waitsCmd t i e && cmdWaitsOn s dev e)
    | .bad _ => false))
/-- A team waits on a peer in recovery, or sleeps before its deadline (R358). -/
def excused (s : State) (t : Team) : Bool :=
  (match t.status with | .slept d => decide (s.now < d) | _ => false) || s.recovery.any (fun r => waitsFabric s r.1 t)
/-- The watchdog of a queue counts now (R358). -/
def wdCounts (s : State) (q : Nat) : Bool :=
  let ts := s.teams.filter (fun t => s.qOf t == q)
  !(s.queue q).cmds.isEmpty && !(!ts.isEmpty && ts.all (excused s)) && !(ts.isEmpty && (s.queue q).hostPre)
/-- The watchdog limit of a queue in ns. -/
def wdLimit (s : State) (q : Nat) : Nat := (if (s.queue q).cfg.wdog = 0 then 2000 else (s.queue q).cfg.wdog) * 1000000
/-- A launch command. -/
def isLaunchStep (e : Event) : Bool := match e with | .launch _ _ => true | .graphLaunch _ _ _ _ => true | _ => false
/-- WATCHDOG_EXPIRED (R358): launches complete with 0x05, and the queue is torn down. -/
def execWatchdogExpired (q : Nat) (s : State) : Host.Outcome State Fault Refusal :=
  let x := s.queue q
  if x.cmds.isEmpty ∨ x.wd < wdLimit s q then .next s
  else
    let s := rasWrite s 0x0a 65535 q x.cfg.ctx 0 0 (BitVec.ofNat 64 x.wd)
    let s := (x.cmds.filter (fun c => c.started && isLaunchStep c.step)).foldl (fun s c => completeCmd s c.hdr 5 0 (cmdLate s c.hdr)) s
    .next (wakePlacement (wakeOpen (teardown s q)))

/-! ## Death and admission -/

/-- Takes an agent out of a line's entry: its slot and holds; a sector it held in M becomes I and its page is poisoned (R339). A coarse entry has
no M owner, and keeps its bits. -/
def scrubLine (a : Nat) (s : State) (line : Nat) : State :=
  let e := s.dirE line
  match e.coarse, e.slotOf a with
  | some _, _ => s.setDir line ((List.range 4).foldl (fun e q => e.drop a q) e)
  | none, none => s
  | none, some k =>
    let lost := (List.range 4).filter (fun q => mOwner s (line * 4 + q) == some a)
    let e := lost.foldl (fun e q => e.setField q (fun f => { f with st := 0 })) e
    let e : DirEntry := { e with
      slots := upd e.slots k (fun _ => none)
      sec := e.sec.map (fun f => { f with hold := upd f.hold k (fun _ => false) }) }
    let s := s.setDir line e.tidy
    if lost.isEmpty then s else { s with memPsn := sadd (line / 16) s.memPsn }
/-- Every home of the device acts on an agent's death (R339): its epoch goes on, its requests are forgotten, entries are scrubbed, and what waits
for it counts it as "absent". -/
def scrubAgent (s : State) (a : Nat) : State :=
  let s := { s with epochs := aset a (s.epochOf a + 1) s.epochs
                    dead := sadd a s.dead
                    behind := s.behind.filter (fun e => match msgOf e with | some (m, _) => m.agent != a | none => true)
                    late := s.late.filter (fun x => x.1 != a) }
  let s := (s.dir.map (·.1)).foldl (scrubLine a) s
  let ws := (s.txns.flatMap (fun t => t.acks ++ t.later)).filter (fun w => w.agent == a)
  let s := ws.foldl (fun s w => homeAck s a w.sector true []) s
  serveBehind (s.behind.length + 1) s
/-- What this device's dies had under way with the homes of a dead device is over: requests are forgotten, write-throughs are lost. -/
def forgetDev (s : State) (dev : Nat) : State :=
  let gone := s.throughs.filter (fun x => devOf (x.sector * 64) == dev)
  let s := gone.foldl (fun s x => (dieGiveUp s x.die x.sector).1) { s with throughs := s.throughs.filter (fun x => devOf (x.sector * 64) != dev) }
  dropAsks s (fun a => a.dev == dev)
/-- An agent ID of R326: one of eight dies or four host ports of a device. -/
def agentOk (a : Nat) : Bool := decide (a < 8192) && decide (a % 16 < 12)
/-- DECLARE_DEAD (R339, R359, R387). -/
def execDeclareDead (h : CmdHdr) (a : Nat) (s : State) :=
  startAdmin (.declareDead h a) h (fun s =>
    if !agentOk a then cmdDone s h 8 0 false
    else
      let s := scrubAgent s a
      let s := if a / 16 = s.devid ∨ a % 16 ≥ 8 then s else forgetDev (endWaits s (a / 16) 4 (fun _ => true)) (a / 16)
      wakeAll (cmdDone s h 0 0 false)) s
/-- ADMIT (R339, R387): the agent may take permission again under the epoch that its last declaration set; a die of this device that has not heard
of its death hears now. -/
def execAdmit (h : CmdHdr) (a : Nat) (s : State) :=
  startAdmin (.admitAgent h a) h (fun s =>
    if !agentOk a then cmdDone s h 8 0 false
    else
      let s := match localDie s a with
        | some d =>
          let s := if s.current d || s.barred.contains d then s else learnDeath s d
          { s with dieEp := aset d (s.epochOf a) s.dieEp, barred := sdel d s.barred }
        | none => s
      wakeAll (cmdDone { s with dead := sdel a s.dead } h 0 0 false)) s

/-! ## Hoop carve and RDMA -/

/-- Bytes of a slice (R98). -/
def sliceBytes : Nat := 7 * 2 ^ 20
/-- HOOP_CARVE (R98): the host sets a tower's carved slices and grants a context the window [base, limit) of it, or none when
it is empty. Bytes carved, released or regranted lose their content. -/
def execHoopCarve (tower slices ctx base limit : Nat) (s : State) : Host.Outcome State Fault Refusal :=
  if tower ≥ 4 ∨ slices > 32 ∨ limit > slices * sliceBytes ∨ base > limit then .next s
  else
    let old := (aget tower s.slices).getD 0 * sliceBytes
    let new := slices * sliceBytes
    let o := tower * 2 ^ 34
    let clip := fun ws : List (Nat × Nat × Nat) => (ws.map (fun w => if w.1 = tower then (w.1, w.2.1, min w.2.2 new) else w)).filter (fun w => decide (w.2.1 < w.2.2))
    let mine : List (Nat × Nat × Nat) := match s.ctx ctx with | some c => c.wins.filter (fun w => w.1 == tower) | none => []
    let same := mine == (if base < limit then [(tower, base, limit)] else [])
    let changed : List (Nat × Nat) := (if old = new then [] else [(min old new, max old new)]) ++
      (if same then [] else mine.map (fun w => (w.2.1, w.2.2)) ++ (if base < limit then [(base, limit)] else []))
    let s : State := { s with
                      slices := aset tower slices s.slices
                      fresh := s.fresh + 1
                      crvUnd := changed.foldl (fun u r => undAdd u (o + r.1) (o + r.2) s.fresh) s.crvUnd
                      ctxs := s.ctxs.map (fun c => (c.1, { c.2 with wins := clip c.2.wins })) }
    .next (s.setCtx ctx (fun c => { c with wins := c.wins.filter (fun w => w.1 != tower) ++ (if base < limit then [(tower, base, limit)] else []) }))

/-- RDMA_REQUEST (R389): a write of a peer is performed on the memory of a context; a read leaves this device as it is, and a
request the page tables do not allow is refused. -/
def execRdmaRequest (k : RdmaKind) (ctx addr : Nat) (bytes : List Byte) (_imm : Word) (s : State) : Host.Outcome State Fault Refusal :=
  match k with
  | .read => .next s
  | .write => .next ((ctxWrite s ctx addr bytes).getD s)
  | .writeImm => .next ((ctxWrite s ctx addr bytes).getD s)

end Sys2Proof.Machine
end

