-- ==== Sys2Proof/Machine/Events.lean ====
section
/-! DEFINITION. A step of the device by its name: the meanings of the device steps, as `exec` gives them. -/

namespace Sys2Proof.Machine

/-- Runs a step of the device. -/
def runEvent (e : Event) (s : State) : Host.Outcome State Fault Refusal :=
  match e with
  | .claimCheck t ok => execClaimCheck t ok s
  | .checkedOnlyExit t => execCheckedOnlyExit t s
  | .deliveryRingSpace n => execDeliveryRingSpace n s
  | .mmaComplete t diff => execMmaComplete t diff s
  | .oxmmComplete t => execOxmmComplete t s
  | .engineCommandComplete id peer => execEngineCommandComplete id peer s
  | .engineDelivery id => execEngineDelivery id s
  | .nodeEnd core walk => execNodeEnd core walk s
  | .nodeLaunchTeam core walk => execNodeLaunchTeam core walk s
  | .nodeCopy core walk => execNodeCopy core walk s
  | .nodeCondition core walk => execNodeCondition core walk s
  | .nodeWhile core walk => execNodeWhile core walk s
  | .nodeJoin core walk => execNodeJoin core walk s
  | .graphComplete core => execGraphComplete core s
  | .workWithdrawn id => execWorkWithdrawn id s
  | .placementUnit q => execPlacementUnit q s
  | .groupStart g => execGroupStart g s
  | .teamRetire t => execTeamRetire t s
  | .waitneWake t => execWaitneWake t s
  | .sleepDeadline t => execSleepDeadline t s
  | .rangeOpComplete t => execRangeOpComplete t s
  | .subscriptionAnswered t => execSubscriptionAnswered t s
  | .missFill core frame words data => execMissFill core frame words data s
  | .l1Eviction core frame lo => execL1Eviction core frame lo s
  | .storeAccepted t err => execStoreAccepted t err s
  | .hwErrorContainment core sec q => execHwErrorContainment core sec q s
  | .registerScrub core sec errs => execRegisterScrub core sec errs s
  | .refresh pa bad => execRefresh pa bad s
  | .preemptionRequest g => execPreemptionRequest g s
  | .yieldPointSave t => execYieldPointSave t s
  | .preemptionTimeout t => execPreemptionTimeout t s
  | .groupRestore g => execGroupRestore g s
  | .watchdogExpired q => execWatchdogExpired q s
  | .recoveryLimitExpired q dev => execRecoveryLimitExpired q dev s
  | .peerInRecovery dev => execPeerInRecovery dev s
  | .peerRecovered dev => execPeerRecovered dev s
  | .deadTimeExpired dev => execDeadTimeExpired dev s
  | .tokenRequest core => execTokenRequest core s
  | .tokenGrant => execTokenGrant s
  | .tokenReturn core => execTokenReturn core s
  | .powerEstimate watts => execPowerEstimate watts s
  | .budgetInterval => execBudgetInterval s
  | .rackPowerMessage seq budget expiry => execRackPowerMessage seq budget expiry s
  | .rackBudgetExpiry => execRackBudgetExpiry s
  | .railSwitchComplete cl => execRailSwitchComplete cl s
  | .gatePowerOff cl => execGatePowerOff cl s
  | .retentionEntry cl => execRetentionEntry cl s
  | .takeCommands q => execTakeCommands q s
  | .launch c rec => execLaunch c rec s
  | .graphLaunch c rec img bytes => execGraphLaunch c rec img bytes s
  | .copy c dst src n => execCopy c dst src n s
  | .signal c addr v => execSignal c addr v s
  | .wait c addr v => execWait c addr v s
  | .powerRail c cl v => execPowerRail c cl v s
  | .powerGate c cl v => execPowerGate c cl v s
  | .retention c cl v => execRetention c cl v s
  | .matrixTokenPool c v => execMatrixTokenPool c v s
  | .memoryByteBudget c cl v => execMemoryByteBudget c cl v s
  | .powerFloor c v => execPowerFloor c v s
  | .rampRate c v => execRampRate c v s
  | .rackBudget c v => execRackBudget c v s
  | .queue c q rec => execQueue c q rec s
  | .context c ctx desc => execContext c ctx desc s
  | .communicator c hd n rank ptr => execCommunicator c hd n rank ptr s
  | .preEmpt c q => execPreEmpt c q s
  | .restore c q => execRestore c q s
  | .mapOutCorePair c ix => execMapOutCorePair c ix s
  | .mapOutDramRow c ix => execMapOutDramRow c ix s
  | .mapOutOsierLane c ix => execMapOutOsierLane c ix s
  | .identity c ptr => execIdentity c ptr s
  | .setTime c v => execSetTime c v s
  | .rasHeader c ptr => execRasHeader c ptr s
  | .rasClear c => execRasClear c s
  | .queueReset c q => execQueueReset c q s
  | .ringBind c q base n port evb evn => execRingBind c q base n port evb evn s
  | .attest c nonce ptr => execAttest c nonce ptr s
  | .setDeviceId c id dead => execSetDeviceId c id dead s
  | .declareDead c a => execDeclareDead c a s
  | .admitAgent c a => execAdmit c a s
  | .raiseSecurityVersion c v => execRaiseSecurityVersion c v s
  | .poisonPage c pa => execPoisonPage c pa s
  | .hostEvent port e => execHostEvent port e s
  | .eventRingSpace port n => execEventRingSpace port n s
  | .reset => execReset s
  | .bootDoorbell port => execBootDoorbell port s
  | .transientRequest die core sector wr fail => execTransientRequest die core sector wr fail s
  | .persistentRequest die core sector wr => execPersistentRequest die core sector wr s
  | .tokensBackAtPort die sector => execTokensBackAtPort die sector s
  | .exactRead m sector => execExactRead m sector s
  | .subscribedRead m sector => execSubscribedRead m sector s
  | .writePermission m sector => execWritePermission m sector s
  | .writeThrough m sector bytes cond => execWriteThrough m sector bytes cond s
  | .notice m sector dirty => execNotice m sector dirty s
  | .writeBack m sector dirty => execWriteBack m sector dirty s
  | .subscriptionRequest m line fmt inv sfm => execSubscriptionRequest m line fmt inv sfm s
  | .upgradeRequest m line => execUpgradeRequest m line s
  | .unsubscribeRequest m line => execUnsubscribeRequest m line s
  | .acknowledgement m sector absent dirty => execAcknowledgement m sector absent dirty s
  | .invalidation h sector demote => execInvalidation h sector demote s
  | .recall h sector => execRecall h sector s
  | .update h sector elems => execUpdate h sector elems s
  | .grant h sector k data => execGrant h sector k data s
  | .done1 h sector => execDone1 h sector s
  | .done2 h sector => execDone2 h sector s
  | .retry h sector => execRetry h sector s
  | .staleEpoch die => execStaleEpoch die s
  | .smWriteBack m sector dirty => execSmWriteBack m sector dirty s
  | .hoopCarve tower slices ctx base limit => execHoopCarve tower slices ctx base limit s
  | .rdmaRequest k ctx addr bytes imm => execRdmaRequest k ctx addr bytes imm s

end Sys2Proof.Machine
end

