-- ==== Sys2Proof/Machine/Dispatch.lean ====
section
/-! DEFINITION. The meaning of every instruction and of every step of the device, one arm for each. -/

namespace Sys2Proof.Machine

/-- Executes an instruction of the current team, or a step of the device. -/
def exec (i : Instr) (s : State) : Host.Outcome State Fault Refusal :=
  match i with
  | .iadd a => Sys2Proof.Machine.execIadd a s
  | .isub a => Sys2Proof.Machine.execIsub a s
  | .iadds a => Sys2Proof.Machine.execIadds a s
  | .isubs a => Sys2Proof.Machine.execIsubs a s
  | .ineg a => Sys2Proof.Machine.execIneg a s
  | .iabs a => Sys2Proof.Machine.execIabs a s
  | .imin a => Sys2Proof.Machine.execImin a s
  | .imax a => Sys2Proof.Machine.execImax a s
  | .umin a => Sys2Proof.Machine.execUmin a s
  | .umax a => Sys2Proof.Machine.execUmax a s
  | .imul a => Sys2Proof.Machine.execImul a s
  | .imulhi a => Sys2Proof.Machine.execImulhi a s
  | .umulhi a => Sys2Proof.Machine.execUmulhi a s
  | .imad a => Sys2Proof.Machine.execImad a s
  | .idiv a => Sys2Proof.Machine.execIdiv a s
  | .udiv a => Sys2Proof.Machine.execUdiv a s
  | .irem a => Sys2Proof.Machine.execIrem a s
  | .urem a => Sys2Proof.Machine.execUrem a s
  | .andI a => Sys2Proof.Machine.execAnd a s
  | .orI a => Sys2Proof.Machine.execOr a s
  | .xorI a => Sys2Proof.Machine.execXor a s
  | .andn a => Sys2Proof.Machine.execAndn a s
  | .shl a => Sys2Proof.Machine.execShl a s
  | .shr a => Sys2Proof.Machine.execShr a s
  | .sar a => Sys2Proof.Machine.execSar a s
  | .rol a => Sys2Proof.Machine.execRol a s
  | .ror a => Sys2Proof.Machine.execRor a s
  | .bfx a => Sys2Proof.Machine.execBfx a s
  | .bfi a => Sys2Proof.Machine.execBfi a s
  | .popc a => Sys2Proof.Machine.execPopc a s
  | .clz a => Sys2Proof.Machine.execClz a s
  | .ctz a => Sys2Proof.Machine.execCtz a s
  | .brev a => Sys2Proof.Machine.execBrev a s
  | .permb a => Sys2Proof.Machine.execPermb a s
  | .icmp a => Sys2Proof.Machine.execIcmp a s
  | .ucmp a => Sys2Proof.Machine.execUcmp a s
  | .sel a => Sys2Proof.Machine.execSel a s
  | .mov a => Sys2Proof.Machine.execMov a s
  | .movi a => Sys2Proof.Machine.execMovi a s
  | .movr a => Sys2Proof.Machine.execMovr a s
  | .movw a => Sys2Proof.Machine.execMovw a s
  | .iadd64 a => Sys2Proof.Machine.execIadd64 a s
  | .isub64 a => Sys2Proof.Machine.execIsub64 a s
  | .imul64 a => Sys2Proof.Machine.execImul64 a s
  | .umulw a => Sys2Proof.Machine.execUmulw a s
  | .imulw a => Sys2Proof.Machine.execImulw a s
  | .shl64 a => Sys2Proof.Machine.execShl64 a s
  | .shr64 a => Sys2Proof.Machine.execShr64 a s
  | .sar64 a => Sys2Proof.Machine.execSar64 a s
  | .icmp64 a => Sys2Proof.Machine.execIcmp64 a s
  | .ucmp64 a => Sys2Proof.Machine.execUcmp64 a s
  | .movi64 a => Sys2Proof.Machine.execMovi64 a s
  | .lea a => Sys2Proof.Machine.execLea a s
  | .ptr a => Sys2Proof.Machine.execPtr a s
  | .pfield a => Sys2Proof.Machine.execPfield a s
  | .ifI a => Sys2Proof.Machine.execIf a s
  | .elseI a => Sys2Proof.Machine.execElse a s
  | .endif a => Sys2Proof.Machine.execEndif a s
  | .loop a => Sys2Proof.Machine.execLoop a s
  | .breakI a => Sys2Proof.Machine.execBreak a s
  | .contI a => Sys2Proof.Machine.execCont a s
  | .endloop a => Sys2Proof.Machine.execEndloop a s
  | .bra a => Sys2Proof.Machine.execBra a s
  | .brx a => Sys2Proof.Machine.execBrx a s
  | .call a => Sys2Proof.Machine.execCall a s
  | .callx a => Sys2Proof.Machine.execCallx a s
  | .ret a => Sys2Proof.Machine.execRet a s
  | .exit a => Sys2Proof.Machine.execExit a s
  | .nop a => Sys2Proof.Machine.execNop a s
  | .yieldI a => Sys2Proof.Machine.execYield a s
  | .fadd a => Sys2Proof.Machine.execFadd a s
  | .fsub a => Sys2Proof.Machine.execFsub a s
  | .fmul a => Sys2Proof.Machine.execFmul a s
  | .ffma a => Sys2Proof.Machine.execFfma a s
  | .fmin a => Sys2Proof.Machine.execFmin a s
  | .fmax a => Sys2Proof.Machine.execFmax a s
  | .fcmp a => Sys2Proof.Machine.execFcmp a s
  | .fclass a => Sys2Proof.Machine.execFclass a s
  | .frnd a => Sys2Proof.Machine.execFrnd a s
  | .fdiv a => Sys2Proof.Machine.execFdiv a s
  | .fsqrt a => Sys2Proof.Machine.execFsqrt a s
  | .frcp a => Sys2Proof.Machine.execFrcp a s
  | .frsq a => Sys2Proof.Machine.execFrsq a s
  | .fexp2 a => Sys2Proof.Machine.execFexp2 a s
  | .flog2 a => Sys2Proof.Machine.execFlog2 a s
  | .fsinpi a => Sys2Proof.Machine.execFsinpi a s
  | .fcospi a => Sys2Proof.Machine.execFcospi a s
  | .ftanh a => Sys2Proof.Machine.execFtanh a s
  | .fscale a => Sys2Proof.Machine.execFscale a s
  | .fcopys a => Sys2Proof.Machine.execFcopys a s
  | .dadd a => Sys2Proof.Machine.execDadd a s
  | .dsub a => Sys2Proof.Machine.execDsub a s
  | .dmul a => Sys2Proof.Machine.execDmul a s
  | .dfma a => Sys2Proof.Machine.execDfma a s
  | .dmin a => Sys2Proof.Machine.execDmin a s
  | .dmax a => Sys2Proof.Machine.execDmax a s
  | .dcmp a => Sys2Proof.Machine.execDcmp a s
  | .ddiv a => Sys2Proof.Machine.execDdiv a s
  | .dsqrt a => Sys2Proof.Machine.execDsqrt a s
  | .drnd a => Sys2Proof.Machine.execDrnd a s
  | .fcvti a => Sys2Proof.Machine.execFcvti a s
  | .icvtf a => Sys2Proof.Machine.execIcvtf a s
  | .dcvtf a => Sys2Proof.Machine.execDcvtf a s
  | .fcvtd a => Sys2Proof.Machine.execFcvtd a s
  | .dcvtl a => Sys2Proof.Machine.execDcvtl a s
  | .lcvtd a => Sys2Proof.Machine.execLcvtd a s
  | .padd a => Sys2Proof.Machine.execPadd a s
  | .psub a => Sys2Proof.Machine.execPsub a s
  | .pmul a => Sys2Proof.Machine.execPmul a s
  | .pfma a => Sys2Proof.Machine.execPfma a s
  | .pmin a => Sys2Proof.Machine.execPmin a s
  | .pmax a => Sys2Proof.Machine.execPmax a s
  | .pabs a => Sys2Proof.Machine.execPabs a s
  | .pcmp a => Sys2Proof.Machine.execPcmp a s
  | .psel a => Sys2Proof.Machine.execPsel a s
  | .pdot2 a => Sys2Proof.Machine.execPdot2 a s
  | .pdot4 a => Sys2Proof.Machine.execPdot4 a s
  | .pshrr a => Sys2Proof.Machine.execPshrr a s
  | .pclamp a => Sys2Proof.Machine.execPclamp a s
  | .cvt a => Sys2Proof.Machine.execCvt a s
  | .packh a => Sys2Proof.Machine.execPackh a s
  | .unpk a => Sys2Proof.Machine.execUnpk a s
  | .insrt a => Sys2Proof.Machine.execInsrt a s
  | .tagset a => Sys2Proof.Machine.execTagset a s
  | .tagget a => Sys2Proof.Machine.execTagget a s
  | .pbpack a => Sys2Proof.Machine.execPbpack a s
  | .pbpacks a => Sys2Proof.Machine.execPbpacks a s
  | .pbunpk a => Sys2Proof.Machine.execPbunpk a s
  | .shfl a => Sys2Proof.Machine.execShfl a s
  | .slideup a => Sys2Proof.Machine.execSlideup a s
  | .slidedn a => Sys2Proof.Machine.execSlidedn a s
  | .swz a => Sys2Proof.Machine.execSwz a s
  | .ballot a => Sys2Proof.Machine.execBallot a s
  | .vany a => Sys2Proof.Machine.execVany a s
  | .vall a => Sys2Proof.Machine.execVall a s
  | .first a => Sys2Proof.Machine.execFirst a s
  | .readl a => Sys2Proof.Machine.execReadl a s
  | .redadd a => Sys2Proof.Machine.execRedadd a s
  | .redmin a => Sys2Proof.Machine.execRedmin a s
  | .redmax a => Sys2Proof.Machine.execRedmax a s
  | .scan a => Sys2Proof.Machine.execScan a s
  | .mbcnt a => Sys2Proof.Machine.execMbcnt a s
  | .ld a => Sys2Proof.Machine.execLd a s
  | .ldx a => Sys2Proof.Machine.execLdx a s
  | .st a => Sys2Proof.Machine.execSt a s
  | .stx a => Sys2Proof.Machine.execStx a s
  | .lda a => Sys2Proof.Machine.execLda a s
  | .stl a => Sys2Proof.Machine.execStl a s
  | .atom a => Sys2Proof.Machine.execAtom a s
  | .atomcas a => Sys2Proof.Machine.execAtomcas a s
  | .red a => Sys2Proof.Machine.execRed a s
  | .fence a => Sys2Proof.Machine.execFence a s
  | .bar a => Sys2Proof.Machine.execBar a s
  | .arrive a => Sys2Proof.Machine.execArrive a s
  | .waitb a => Sys2Proof.Machine.execWaitb a s
  | .waitne a => Sys2Proof.Machine.execWaitne a s
  | .cwb a => Sys2Proof.Machine.execCwb a s
  | .cinv a => Sys2Proof.Machine.execCinv a s
  | .cwbi a => Sys2Proof.Machine.execCwbi a s
  | .cprf a => Sys2Proof.Machine.execCprf a s
  | .subs a => Sys2Proof.Machine.execSubs a s
  | .unsub a => Sys2Proof.Machine.execUnsub a s
  | .supg a => Sys2Proof.Machine.execSupg a s
  | .skpush a => Sys2Proof.Machine.execSkpush a s
  | .skpop a => Sys2Proof.Machine.execSkpop a s
  | .skfree a => Sys2Proof.Machine.execSkfree a s
  | .claim a => Sys2Proof.Machine.execClaim a s
  | .release a => Sys2Proof.Machine.execRelease a s
  | .mma a => Sys2Proof.Machine.execMma a s
  | .mmawait a => Sys2Proof.Machine.execMmawait a s
  | .opfence a => Sys2Proof.Machine.execOpfence a s
  | .oxmm a => Sys2Proof.Machine.execOxmm a s
  | .acccvt a => Sys2Proof.Machine.execAcccvt a s
  | .accset a => Sys2Proof.Machine.execAccset a s
  | .xcG2s a => Sys2Proof.Machine.execXcG2s a s
  | .xcS2g a => Sys2Proof.Machine.execXcS2g a s
  | .xcS2s a => Sys2Proof.Machine.execXcS2s a s
  | .xcG2o a => Sys2Proof.Machine.execXcG2o a s
  | .xcS2o a => Sys2Proof.Machine.execXcS2o a s
  | .xcC2d a => Sys2Proof.Machine.execXcC2d a s
  | .xcGath a => Sys2Proof.Machine.execXcGath a s
  | .xcRscat a => Sys2Proof.Machine.execXcRscat a s
  | .xcAgath a => Sys2Proof.Machine.execXcAgath a s
  | .xcAredu a => Sys2Proof.Machine.execXcAredu a s
  | .xcPut a => Sys2Proof.Machine.execXcPut a s
  | .xcGet a => Sys2Proof.Machine.execXcGet a s
  | .xcGstart a => Sys2Proof.Machine.execXcGstart a s
  | .xcGstat a => Sys2Proof.Machine.execXcGstat a s
  | .xcGcond a => Sys2Proof.Machine.execXcGcond a s
  | .fetchwork a => Sys2Proof.Machine.execFetchwork a s
  | .refill a => Sys2Proof.Machine.execRefill a s
  | .itemset a => Sys2Proof.Machine.execItemset a s
  | .movs a => Sys2Proof.Machine.execMovs a s
  | .movsw a => Sys2Proof.Machine.execMovsw a s
  | .trap a => Sys2Proof.Machine.execTrap a s
  | .eret a => Sys2Proof.Machine.execEret a s
  | .sigchk a => Sys2Proof.Machine.execSigchk a s
  | .chkreq a => Sys2Proof.Machine.execChkreq a s
  | .sleep a => Sys2Proof.Machine.execSleep a s
  | .evsend a => Sys2Proof.Machine.execEvsend a s
  | .tlbinv a => Sys2Proof.Machine.execTlbinv a s
  | .ctxsave a => Sys2Proof.Machine.execCtxsave a s
  | .ctxload a => Sys2Proof.Machine.execCtxload a s
  | .poisonclr a => Sys2Proof.Machine.execPoisonclr a s
  | .hostmsg a => Sys2Proof.Machine.execHostmsg a s
  | .rasrd a => Sys2Proof.Machine.execRasrd a s
  | .illegal a => Sys2Proof.Machine.execIllegal a s
  | .claimCheck t ok => Sys2Proof.Machine.execClaimCheck t ok s
  | .checkedOnlyExit t => Sys2Proof.Machine.execCheckedOnlyExit t s
  | .deliveryRingSpace n => Sys2Proof.Machine.execDeliveryRingSpace n s
  | .mmaComplete t diff => Sys2Proof.Machine.execMmaComplete t diff s
  | .oxmmComplete t => Sys2Proof.Machine.execOxmmComplete t s
  | .engineCommandComplete id peer => Sys2Proof.Machine.execEngineCommandComplete id peer s
  | .engineDelivery id => Sys2Proof.Machine.execEngineDelivery id s
  | .nodeEnd core walk => Sys2Proof.Machine.execNodeEnd core walk s
  | .nodeLaunchTeam core walk => Sys2Proof.Machine.execNodeLaunchTeam core walk s
  | .nodeCopy core walk => Sys2Proof.Machine.execNodeCopy core walk s
  | .nodeCondition core walk => Sys2Proof.Machine.execNodeCondition core walk s
  | .nodeWhile core walk => Sys2Proof.Machine.execNodeWhile core walk s
  | .nodeJoin core walk => Sys2Proof.Machine.execNodeJoin core walk s
  | .graphComplete core => Sys2Proof.Machine.execGraphComplete core s
  | .workWithdrawn id => Sys2Proof.Machine.execWorkWithdrawn id s
  | .placementUnit q => Sys2Proof.Machine.execPlacementUnit q s
  | .groupStart g => Sys2Proof.Machine.execGroupStart g s
  | .teamRetire t => Sys2Proof.Machine.execTeamRetire t s
  | .waitneWake t => Sys2Proof.Machine.execWaitneWake t s
  | .sleepDeadline t => Sys2Proof.Machine.execSleepDeadline t s
  | .rangeOpComplete t => Sys2Proof.Machine.execRangeOpComplete t s
  | .subscriptionAnswered t => Sys2Proof.Machine.execSubscriptionAnswered t s
  | .missFill core frame words data => Sys2Proof.Machine.execMissFill core frame words data s
  | .l1Eviction core frame lo => Sys2Proof.Machine.execL1Eviction core frame lo s
  | .storeAccepted t err => Sys2Proof.Machine.execStoreAccepted t err s
  | .hwErrorContainment core sec q => Sys2Proof.Machine.execHwErrorContainment core sec q s
  | .registerScrub core sec errs => Sys2Proof.Machine.execRegisterScrub core sec errs s
  | .refresh pa bad => Sys2Proof.Machine.execRefresh pa bad s
  | .preemptionRequest g => Sys2Proof.Machine.execPreemptionRequest g s
  | .yieldPointSave t => Sys2Proof.Machine.execYieldPointSave t s
  | .preemptionTimeout t => Sys2Proof.Machine.execPreemptionTimeout t s
  | .groupRestore g => Sys2Proof.Machine.execGroupRestore g s
  | .watchdogExpired q => Sys2Proof.Machine.execWatchdogExpired q s
  | .recoveryLimitExpired q dev => Sys2Proof.Machine.execRecoveryLimitExpired q dev s
  | .peerInRecovery dev => Sys2Proof.Machine.execPeerInRecovery dev s
  | .peerRecovered dev => Sys2Proof.Machine.execPeerRecovered dev s
  | .deadTimeExpired dev => Sys2Proof.Machine.execDeadTimeExpired dev s
  | .tokenRequest core => Sys2Proof.Machine.execTokenRequest core s
  | .tokenGrant => Sys2Proof.Machine.execTokenGrant s
  | .tokenReturn core => Sys2Proof.Machine.execTokenReturn core s
  | .powerEstimate watts => Sys2Proof.Machine.execPowerEstimate watts s
  | .budgetInterval => Sys2Proof.Machine.execBudgetInterval s
  | .rackPowerMessage seq budget expiry => Sys2Proof.Machine.execRackPowerMessage seq budget expiry s
  | .rackBudgetExpiry => Sys2Proof.Machine.execRackBudgetExpiry s
  | .railSwitchComplete cl => Sys2Proof.Machine.execRailSwitchComplete cl s
  | .gatePowerOff cl => Sys2Proof.Machine.execGatePowerOff cl s
  | .retentionEntry cl => Sys2Proof.Machine.execRetentionEntry cl s
  | .takeCommands q => Sys2Proof.Machine.execTakeCommands q s
  | .launch c rec => Sys2Proof.Machine.execLaunch c rec s
  | .graphLaunch c rec img bytes => Sys2Proof.Machine.execGraphLaunch c rec img bytes s
  | .copy c dst src n => Sys2Proof.Machine.execCopy c dst src n s
  | .signal c addr v => Sys2Proof.Machine.execSignal c addr v s
  | .wait c addr v => Sys2Proof.Machine.execWait c addr v s
  | .powerRail c cl v => Sys2Proof.Machine.execPowerRail c cl v s
  | .powerGate c cl v => Sys2Proof.Machine.execPowerGate c cl v s
  | .retention c cl v => Sys2Proof.Machine.execRetention c cl v s
  | .matrixTokenPool c v => Sys2Proof.Machine.execMatrixTokenPool c v s
  | .memoryByteBudget c cl v => Sys2Proof.Machine.execMemoryByteBudget c cl v s
  | .powerFloor c v => Sys2Proof.Machine.execPowerFloor c v s
  | .rampRate c v => Sys2Proof.Machine.execRampRate c v s
  | .rackBudget c v => Sys2Proof.Machine.execRackBudget c v s
  | .queue c q rec => Sys2Proof.Machine.execQueue c q rec s
  | .context c ctx desc => Sys2Proof.Machine.execContext c ctx desc s
  | .communicator c hd n rank ptr => Sys2Proof.Machine.execCommunicator c hd n rank ptr s
  | .preEmpt c q => Sys2Proof.Machine.execPreEmpt c q s
  | .restore c q => Sys2Proof.Machine.execRestore c q s
  | .mapOutCorePair c ix => Sys2Proof.Machine.execMapOutCorePair c ix s
  | .mapOutDramRow c ix => Sys2Proof.Machine.execMapOutDramRow c ix s
  | .mapOutOsierLane c ix => Sys2Proof.Machine.execMapOutOsierLane c ix s
  | .identity c ptr => Sys2Proof.Machine.execIdentity c ptr s
  | .setTime c v => Sys2Proof.Machine.execSetTime c v s
  | .rasHeader c ptr => Sys2Proof.Machine.execRasHeader c ptr s
  | .rasClear c => Sys2Proof.Machine.execRasClear c s
  | .queueReset c q => Sys2Proof.Machine.execQueueReset c q s
  | .ringBind c q base n port evb evn => Sys2Proof.Machine.execRingBind c q base n port evb evn s
  | .attest c nonce ptr => Sys2Proof.Machine.execAttest c nonce ptr s
  | .setDeviceId c id dead => Sys2Proof.Machine.execSetDeviceId c id dead s
  | .declareDead c a => Sys2Proof.Machine.execDeclareDead c a s
  | .admitAgent c a => Sys2Proof.Machine.execAdmit c a s
  | .raiseSecurityVersion c v => Sys2Proof.Machine.execRaiseSecurityVersion c v s
  | .poisonPage c pa => Sys2Proof.Machine.execPoisonPage c pa s
  | .hostEvent port e => Sys2Proof.Machine.execHostEvent port e s
  | .eventRingSpace port n => Sys2Proof.Machine.execEventRingSpace port n s
  | .reset => Sys2Proof.Machine.execReset s
  | .bootDoorbell port => Sys2Proof.Machine.execBootDoorbell port s
  | .transientRequest die core sector wr fail => Sys2Proof.Machine.execTransientRequest die core sector wr fail s
  | .persistentRequest die core sector wr => Sys2Proof.Machine.execPersistentRequest die core sector wr s
  | .tokensBackAtPort die sector => Sys2Proof.Machine.execTokensBackAtPort die sector s
  | .exactRead m sector => Sys2Proof.Machine.execExactRead m sector s
  | .subscribedRead m sector => Sys2Proof.Machine.execSubscribedRead m sector s
  | .writePermission m sector => Sys2Proof.Machine.execWritePermission m sector s
  | .writeThrough m sector bytes cond => Sys2Proof.Machine.execWriteThrough m sector bytes cond s
  | .notice m sector dirty => Sys2Proof.Machine.execNotice m sector dirty s
  | .writeBack m sector dirty => Sys2Proof.Machine.execWriteBack m sector dirty s
  | .subscriptionRequest m line fmt inv sfm => Sys2Proof.Machine.execSubscriptionRequest m line fmt inv sfm s
  | .upgradeRequest m line => Sys2Proof.Machine.execUpgradeRequest m line s
  | .unsubscribeRequest m line => Sys2Proof.Machine.execUnsubscribeRequest m line s
  | .acknowledgement m sector absent dirty => Sys2Proof.Machine.execAcknowledgement m sector absent dirty s
  | .invalidation h sector demote => Sys2Proof.Machine.execInvalidation h sector demote s
  | .recall h sector => Sys2Proof.Machine.execRecall h sector s
  | .update h sector elems => Sys2Proof.Machine.execUpdate h sector elems s
  | .grant h sector k data => Sys2Proof.Machine.execGrant h sector k data s
  | .done1 h sector => Sys2Proof.Machine.execDone1 h sector s
  | .done2 h sector => Sys2Proof.Machine.execDone2 h sector s
  | .retry h sector => Sys2Proof.Machine.execRetry h sector s
  | .staleEpoch die => Sys2Proof.Machine.execStaleEpoch die s
  | .smWriteBack m sector dirty => Sys2Proof.Machine.execSmWriteBack m sector dirty s
  | .hoopCarve tower slices ctx base limit => Sys2Proof.Machine.execHoopCarve tower slices ctx base limit s
  | .rdmaRequest k ctx addr bytes imm => Sys2Proof.Machine.execRdmaRequest k ctx addr bytes imm s

end Sys2Proof.Machine
end

