-- ==== Sys2Proof/Machine/Schedule.lean ====
section
/-! DEFINITION. Which turn comes next, and the passing of time. The spec orders neither the teams of different sections nor the
steps of the device beyond its rules (log entry 12): a turn set for now goes first, then a step that has become due, then steps
whose condition holds and teams by turns. Also, where an instruction is placed to be the next one fetched. -/

namespace Sys2Proof.Machine

/-! ## Steps whose condition holds now -/

/-- A reading has requests that have still to go out. -/
def asksMore (s t : State) : Bool := decide (s.asks.length < t.asks.length)
/-- A condition as a step. -/
def evIf (c : Bool) (e : Event) : Option Event := if c then some e else none
/-- Steps of teams: retirement (R47), the pre-emption timeout (R53), a save that can be made (R54), a wake (R251). -/
def teamDue (s : State) : Option Event :=
  s.teams.findSome? (fun t =>
    if t.done && nothingOut s t then some (.teamRetire t.hnd)
    else match t.preq, t.yielded with
      | some t0, none => evIf (decide (s.now ≥ t0 + preTimeout s t) && t.rmw.isNone) (.preemptionTimeout t.hnd)
      | some _, some _ => (match s.grpOf t with | some g => evIf (g.pre.isSome && unitReady s (hereOf s g)) (.yieldPointSave t.hnd) | none => none)
      | none, _ => (match t.status with | .slept d => evIf (t.held && decide (s.now ≥ d)) (.sleepDeadline t.hnd) | _ => none))
/-- Groups that may start now (R42). -/
def groupDue (s : State) : Option Event :=
  s.groups.findSome? (fun g => match g.res, s.launch g.launch with
    | .placed, some l => evIf (clusterRuns s g.core && (match aget (dieOf g.core) l.lastStart with | some t => decide (t + l.lr.stagger ≤ s.now) | none => true) &&
        (let r := putImage s g l; r.2 || asksMore s r.1)) (.groupStart g.id)
    | _, _ => none)
/-- Launch-team nodes that find an index, a place and a stack slot (R240). -/
def nodeDue (s : State) : Option Event :=
  s.cores.findSome? (fun c => match c.2.weaver.run.bind (fun r => s.group r.1) with
    | none => none
    | some g => (c.2.weaver.walks.find? (fun y => y.st == .ready && nodeKind y.word == 1 && (nextIndex s g).isSome &&
        (openSeat s c.1 (32 * bits y.word 112 8) (bits y.word 120 8 + 1)).isSome && (freeStk s (ctxId g.ctx)).isSome)).map (fun y => .nodeLaunchTeam c.1 y.id))
/-- Open commands that can complete, rings with new commands, queues whose watchdog has run out (R358, R378, R379). -/
def queueDue (s : State) : Option Event :=
  s.queues.findSome? (fun q =>
    let ring := q.2.bound && (match ringTake s q.1 with
      | (t, none) => asksMore s t
      | (_, some x) => let n := ringCount q.2 x.1; n != 0 && !(q.2.torn && decide (n > q.2.entries)))
    if ring then some (.takeCommands q.1)
    else if !q.2.cmds.isEmpty && decide (q.2.wd ≥ wdLimit s q.1) then some (.watchdogExpired q.1)
    else ((q.2.cmds.find? (fun c => c.started && (match c.step with
      | .wait h a v => (match cmdGet h a 8 s with | (_, .bytes bs) => decide (leNat bs ≥ v.toNat) | (t, .wait) => asksMore s t | (_, .bad) => true)
      | .mapOutCorePair _ ix => !pairBusy s ix
      | _ => false))).map (·.step)))
/-- Limits of peers in recovery (R359, R387). -/
def peerDue (s : State) : Option Event :=
  s.recovery.findSome? (fun r =>
    if !r.2.2 && s.deadMs != 0 && decide (s.now ≥ r.2.1 + s.deadMs * 1000000) then some (.deadTimeExpired r.1)
    else (s.queues.find? (fun q => decide (s.now ≥ r.2.1 + recLimit s q.1) &&
      (s.ecmds.any (fun e => e.q == q.1 && cmdWaitsOn s r.1 e) ||
       s.teams.any (fun t => s.qOf t == q.1 && (teamWaitsOn s r.1 t || storeStuck s r.1 t))))).map (fun q => .recoveryLimitExpired q.1 r.1))
/-- Steps of the power controls (R224, R371 to R377). -/
def powerDue (s : State) : Option Event :=
  [evIf (s.now / 1000 != s.power.us) .budgetInterval, evIf (s.now / 1000 != s.power.eus) (.powerEstimate (Config.watts s.fresh)),
   evIf (mayGrant s) .tokenGrant,
   (s.cores.find? (fun c => c.2.tok && !s.teams.any (fun t => t.core == c.1 && t.mat.any (fun m => !m.ox)) && decide (s.now ≥ c.2.idle + 2000))).map (fun c => .tokenReturn c.1),
   evIf (match s.power.expiry with | some e => decide (e ≤ s.now) | none => false) .rackBudgetExpiry,
   s.clusters.findSome? (fun c =>
     if c.2.gating && (s.groups.filter (fun g => clusterOf g.core == c.1)).all (fun g => (unitOf s g).all isSaved) then some (.gatePowerOff c.1)
     else evIf (c.2.retaining && (residentsOn s c.1).all (groupQuiet s)) (.retentionEntry c.1))].findSome? id
/-- Rings that have room for what waits (R346, R382). -/
def ringDue (s : State) : Option Event :=
  [evIf (!s.frWait.isEmpty && decide (s.frWr - s.frRd < 4096)) (.deliveryRingSpace 0),
   (s.events.find? (fun p => p.2.bound && !p.2.waiting.isEmpty && (match ringGet s p.2 with
      | (_, some rd) => !p.2.fullAt rd
      | (t, none) => asksMore s t))).map (fun p => .eventRingSpace p.1 0)].findSome? id
/-- Some step of the device whose condition holds now. -/
def timed (s : State) : Option Event :=
  [powerDue, teamDue, groupDue, nodeDue, queueDue, peerDue, ringDue].findSome? (fun f => f s)

/-! ## Teams by turns -/

/-- A team can be given a turn (R55): it stands nowhere waiting, or it is asked to leave and may stand at a yield point; in a section whose claim
queue is full only what has a claim to check (R281). -/
def mayTurn (s : State) (t : Team) : Bool :=
  canIssue s t && (!claimsFull s t.hnd || (firstClaim s t.hnd).isSome) && (match t.status with
    | .run => true
    | .accepted => true
    | .slept d => t.evf || t.preq.isSome || decide (s.now ≥ d)
    | .parked secs => t.preq.isSome || secs.all (servedAt s t.core)
    | .fabric secs => t.preq.isSome || secs.all (servedAt s t.core)
    | _ => false)

/-- The opcode class of an instruction (Table 7-12). -/
def classOf (i : Instr) : Nat := match desc i with | some d => d.cls | none => 0
/-- The opcode class of a team's next instruction. -/
def nextClass (s : State) (t : Team) : Nat := match fetchAt s t with | .instr i => classOf i | .bad _ => 0
/-- The window class of a core now: the slowest class in its execute stages, which an instruction leaves after four cycles (R366), two to a
nanosecond (log entry 59). -/
def classNow (s : State) (core : Nat) : Nat := ((s.core core).exec_.filter (fun x => decide (s.now ≤ x.1 + 2))).foldl (fun m x => max m x.2) 0
/-- The class that the section of a team fixed at the start of the window of eight cycles (R367). -/
def winClass (s : State) (h : Nat) : Nat :=
  match aget (hndSec h) (s.core (hndCore h)).wins with
  | some w => if w.1 = s.now / 4 then w.2 else classNow s (hndCore h)
  | none => classNow s (hndCore h)
/-- The team that has been ready longest; the first of a list among equals. -/
def oldestTeam (ts : List Team) : Option Team :=
  ts.foldl (fun o t => match o with | some m => if t.since < m.since then some t else some m | none => some t) none
/-- The choice of a section among its ready teams (R367): one that has waited 256 cycles, else one whose class is that of the window, else any; of
these the one that has waited longest. -/
def pickTeam (s : State) (ts : List Team) : Option Team :=
  match oldestTeam (ts.filter (fun t => decide (t.since + 128 ≤ s.now))) with
  | some t => some t
  | none => match oldestTeam (ts.filter (fun t => nextClass s t == winClass s t.hnd)) with
    | some t => some t
    | none => oldestTeam ts
/-- The next team to be given a turn: the sections take turns, after the one that had the last, and each chooses as R367 says. -/
def nextTeam (s : State) : Option Nat :=
  let i := (s.teams.findIdx (fun t => t.hnd == s.cur)) + 1
  let ts := (s.teams.drop i ++ s.teams.take i).filter (mayTurn s)
  let keys := distinct (fun t => t) (ts.map (fun t => claimKey t.hnd))
  let key := match keys.find? (fun k => decide (claimKey s.cur < k)) with | some k => some k | none => keys.head?
  (key.bind (fun k => pickTeam s (ts.filter (fun t => claimKey t.hnd == k)))).map (·.hnd)
/-- An instruction that a team has issued is in the execute stages of its core, and its section's window class is fixed (R366, R367). `s0`: before
the turn. -/
def noteIssue (s0 : State) (h : Nat) (s : State) : State :=
  match s0.team h with
  | none => s
  | some t =>
    if (match s.team h with | some x => x.held | none => false) then s
    else s.setCore t.core (fun k => { k with
      exec_ := k.exec_.filter (fun x => decide (s0.now ≤ x.1 + 2)) ++ [(s0.now, nextClass s0 t)]
      wins := aset (hndSec h) (s0.now / 4, winClass s0 h) k.wins })

/-- The next turn and the state without it: device and teams alternate where both could go on. -/
def nextTurn (s : State) : Option Turn × State :=
  match s.agenda with
  | t :: rest => (some t, { s with agenda := rest })
  | [] => match s.due with
    | e :: rest => (some (.dev e), { s with due := rest })
    | [] =>
      if s.fresh % 2 = 0 then
        (match timed s with
          | some e => (some (.dev e), s)
          | none => ((nextTeam s).map .issue, s))
      else (match nextTeam s with
          | some h => (some (.issue h), s)
          | none => ((timed s).map .dev, s))

/-- An outcome's next state changed. -/
def onNext (f : State → State) (o : Host.Outcome State Fault Refusal) : Host.Outcome State Fault Refusal :=
  match o with
  | .next s => .next (f s)
  | .fault x => .fault x
  | .refused x => .refused x
/-- A turn is taken, a team's by checking its oldest claim, or, where its main core has none waiting, by executing its instruction as one whose
claim agrees (R282); with none, nothing but time passes. -/
def runTurn (t : Option Turn) (s : State) : Host.Outcome State Fault Refusal :=
  match t with
  | some (.issue h) => onNext (noteIssue s h) (execClaimCheck h true s)
  | some (.dev e) => runEvent e s
  | some (.retire c) => execRetire c s
  | none => .next s

/-- The watchdogs of the queues that hold work count on by d ns (R358). -/
def countWatchdogs (s : State) (d : Nat) : State :=
  { s with queues := s.queues.map (fun q => (q.1, if wdCounts s q.1 then { q.2 with wd := q.2.wd + d } else q.2)) }
/-- An error arises somewhere in memory, or none (R117, R118; log entry 43). -/
def withFlaw (s : State) (f : Option (Nat × Nat)) : State :=
  { s with flaws := match f with
      | some x => if decide (2 < x.1) || s.flaws.contains x then s.flaws else s.flaws ++ [x]
      | none => s.flaws }
/-- Time passes at the end of a step (R64). -/
def tick (s : State) : State :=
  let d := Config.elapsedNs s.fresh
  { countWatchdogs (withFlaw s (Config.newFlaw s.fresh)) d.toNat with time := s.time + d.zeroExtend 64, fresh := s.fresh + 1 }

/-! ## Placing an instruction -/

/-- A team that can be given a turn now at an executable page of this device. -/
def readyTeam (s : State) : Option (Team × Tlb) :=
  match s.team s.cur with
  | none => none
  | some t =>
    if !canIssue s t then none
    else match transFor s (s.ctxOf t) (s.isSup t) Need.fetch t.pc.toNat with
      | .ok l => if devOf (l.pa + (t.pc.toNat - l.va)) = s.devid then some (t, l) else none
      | .error _ => none
/-- Bytes stand in the memory behind an address as the instruction fetch of a team reads it: no cache holds them, nothing about their sectors is
under way, and the team's die may read them. -/
def placeBytes (s : State) (h pa : Nat) (bs : List Byte) : State :=
  let far := fun x : Nat => decide (x ≠ pa / 64) && decide (x ≠ (pa + 15) / 64)
  let s := dropClaims s h
  { s with mem := s.mem.putAll (cellsAt pa bs), secs := s.secs.filter (fun x => far (x.1 % 2 ^ 42))
           cores := s.cores.map (fun c => (c.1, { c.2 with icache := c.2.icache.filter (fun x => far x.line) }))
           asks := s.asks.filter (fun a => far a.sector && decide (a.sector / 4 ≠ pa / 256)), behind := s.behind.filter (fun e => (concerns s e).all far)
           dir := s.dir.filter (fun e => decide (e.1 ≠ pa / 256) && decide (e.1 ≠ (pa + 15) / 256))
           barred := sdel (dieOf (hndCore h)) s.barred, dead := sdel (agentOf s (dieOf (hndCore h))) s.dead }
/-- One team of 32 strands and 256 registers on core 0, at address 0 of context 0, whose page lies at `pa` (log entry 25). -/
def withTeam (s : State) (pa : Nat) : State :=
  let lr : LaunchRec := ⟨0, 256, 1, 1, false, false, 0, 0, 0, 0, 4, [⟨32, 1, 0, 0⟩]⟩
  let d : CtxDesc := ⟨0, 0, 0, 0, 0, 1, 8⟩
  let g : Group := { id := s.names, launch := s.names, gid := 0, q := 1, ctx := 0, core := 0, sbase := 0, sbytes := 0, used := 1, live := [0], sav := none,
                     bars := List.replicate 16 Barrier.fresh, iqn := 0, iqc := 0, chans := [], res := .resident, kept := [], pre := none, started := true, born := 0 }
  let l : Launch := ⟨s.names, 1, 0, lr, QRec.zero, ⟨1, 0, 0, 0, false⟩, s.now, 0, 1, [], false, [], [], none⟩
  { s with
    names := s.names + 1
    cur := 0
    teams := startTeam 0 s.names 0 256 32 0 0 0 d 0 0 0 false :: s.teams.filter (fun t => t.hnd != 0)
    groups := g :: s.groups
    launches := l :: s.launches
    ctxs := aset 0 ⟨d, [], [], [], [0]⟩ s.ctxs
    tlb := ⟨0, 0, 4096, pa, true, true, false, 0, 0⟩ :: s.tlb
    clusters := s.clusters.filter (fun c => c.1 != 0) }

end Sys2Proof.Machine
end

