-- ==== Sys2Proof/Machine/Step.lean ====
section
/-! DEFINITION. One step of the machine, and the state in which a given instruction is the next one fetched. -/

namespace Sys2Proof.Machine

/-- One step: the next turn is taken, and time passes. -/
def step (s : State) : Host.Outcome State Fault Refusal :=
  let t := nextTurn s
  onNext tick (runTurn t.1 t.2)

/-- The state in which the instruction of nbits bits w, zeros above them, is the next one fetched: at the program counter of the
current team, or of a team placed for it, whose turn is set for now. -/
def State.withFetchWord (s : State) (nbits w : Nat) : State :=
  let bs := leBytes 16 (w % 2 ^ nbits)
  match readyTeam s with
  | some (t, l) => { placeBytes s t.hnd (l.pa + (t.pc.toNat - l.va)) bs with agenda := .issue t.hnd :: s.agenda }
  | none =>
    let pa := s.devid * 2 ^ 39 + 2 ^ 30
    { placeBytes (withTeam s pa) 0 pa bs with agenda := .issue 0 :: s.agenda }

end Sys2Proof.Machine
end

