-- ==== Sys2Proof/Machine/Order.lean ====
section
/-! DEFINITION. The memory consistency model as relations over memory events (R294 to R309, R318 to R324, R392): which outcomes are
allowed. The machine's steps perform accesses; these definitions say what any order of performing them must respect. -/

namespace Sys2Proof.Machine

/-! ## Agents and scopes -/

/-- Who makes an event: a strand of a team, or the team as a whole for its `FENCE` and other instructions of the team; a host port
(R294, R301). Devices, cores and groups by number. -/
inductive Party where
  | strands (dev core group team : Nat) (k : Option Nat)
  | port (dev n : Nat)
  deriving DecidableEq, Repr

/-- Events of one team, or of one port, are in one team order (R295; a port's are in the order it makes them: log entry 61). -/
def Party.sameTeam : Party → Party → Bool
  | .strands d _ g t _, .strands d' _ g' t' _ => d == d' && g == g' && t == t'
  | a, b => a == b

/-- The core a party runs on: device and core; none for a port. -/
def Party.coreOf : Party → Option (Nat × Nat)
  | .strands d c _ _ _ => some (d, c)
  | .port _ _ => none
/-- The die a party is on, a port counting as a die of its own (R306). -/
def Party.sameDie : Party → Party → Bool
  | .strands d c _ _ _, .strands d' c' _ _ _ => d == d' && dieOf c == dieOf c'
  | a, b => a == b

/-- b lies in a's instance of a scope (Table 16-2, R301). -/
def Party.instanceHas (a : Party) (scope : Nat) (b : Party) : Bool :=
  match a, b with
  | .strands d c _ _ k, .strands d' c' _ _ _ => match scope with
    | 0 => a == b && k.isSome
    | 1 => a.sameTeam b
    | 2 => match a, b with
      | .strands _ _ g _ _, .strands _ _ g' _ _ => d == d' && g == g'
      | _, _ => false
    | 3 => d == d' && clusterOf c == clusterOf c'
    | 4 => d == d' && dieOf c == dieOf c'
    | 5 => d == d'
    | _ => true
  | _, _ => decide (6 ≤ scope) || a == b

/-- Two operations are scope-matched (R302). -/
def scopeMatched (a : Party) (sa : Nat) (b : Party) (sb : Nat) : Bool := a.instanceHas sa b && b.instanceHas sb a

/-! ## Events -/

/-- A location: a byte of physical memory, of a scratchpad or carve of a device, or of its operand slots (R294, R322). -/
inductive Spot where
  | mem (pa : Nat)
  | scr (dev k : Nat)
  | crv (dev k : Nat)
  | slot (dev k : Nat)
  deriving DecidableEq, Repr

/-- The location lies on a device, not in space 0. -/
def Spot.isLocal : Spot → Bool
  | .mem _ => false
  | _ => true
/-- The address of the byte within its space. -/
def Spot.addr : Spot → Nat
  | .mem a => a
  | .scr _ k => k
  | .crv _ k => k
  | .slot _ k => k

/-- What an event is. Commands and channel entries by number; commands of one core in commit order. -/
inductive EventKind where
  /-- An access of an instruction of the team, or of a host port. -/
  | access
  /-- An access of an engine command or weaver node. -/
  | engine (cmd : Nat)
  /-- A read of an `MMA` or `OXMM`; of its outlier list or not (R322). -/
  | matrix (list : Bool)
  | fence
  | opfence
  | range
  /-- The issue of a command, and an instruction that reads its reply (R319, R320). -/
  | issue (cmd : Nat)
  | reply (cmd : Nat)
  /-- A push and the pop of the same entry (R309). -/
  | push (entry : Nat)
  | pop (entry : Nat)
  /-- A barrier's arrival or wait, an event flag, a completion, a team's first instruction, a weaver's point (Tables 16-3, 16-5). -/
  | point
  deriving DecidableEq, Repr

/-- What one point hands to another: a pair of Table 16-3, which its scope must match, or an edge of Table 16-5. -/
inductive Signal where
  | barrier (inst num phase : Nat)
  | flag (n : Nat)
  | level (n : Nat)
  | launchDone (n : Nat)
  | launchRecord (n : Nat)
  | weaver (n : Nat)
  deriving DecidableEq, Repr

/-- The edge needs no scope (Table 16-5). -/
def Signal.unscoped : Signal → Bool
  | .weaver _ => true
  | _ => false

/-- A memory event (R294): the bytes it reads and writes (a range event's bytes are in `rd`), its order and scope codes, whether it is
strong, its page's ordering code and whether that is software-managed (R300: one page an event), a subscribed read's
storage and directory format (its bytes are those of every element it touches, R314), an outlier append, the collective an issue or reply belongs to, and what it hands on and takes. -/
structure MemEvent where
  who : Party
  kind : EventKind
  rd : List Spot
  wr : List Spot
  ord : Nat
  scope : Nat
  strong : Bool
  page : Nat
  sm : Bool
  sub : Option (Nat × Nat)
  append : Bool
  coll : Option Nat
  gives : List Signal
  takes : List Signal
  deriving DecidableEq, Repr

/-- An access of an instruction. -/
def MemEvent.isAccess (e : MemEvent) : Bool := e.kind == .access
/-- An access by an instruction, an engine or a matrix instruction. -/
def MemEvent.accesses (e : MemEvent) : Bool := match e.kind with | .access => true | .engine _ => true | .matrix _ => true | _ => false
/-- The event reads a byte, or writes it. -/
def MemEvent.reads (e : MemEvent) (x : Spot) : Bool := e.accesses && e.rd.contains x
def MemEvent.writes (e : MemEvent) (x : Spot) : Bool := e.accesses && e.wr.contains x
/-- An event that reads and then writes (R294). -/
def MemEvent.isRmw (e : MemEvent) : Bool := e.accesses && e.strong && !e.rd.isEmpty && !e.wr.isEmpty
/-- Two events touch a byte both. -/
def MemEvent.overlaps (a b : MemEvent) : Bool := (a.rd ++ a.wr).any (fun x => (b.rd ++ b.wr).contains x)
/-- An acquire read and a release write of a team (Table 16-1). -/
def MemEvent.acquireRead (e : MemEvent) : Bool := e.isAccess && isAcquire e.ord && !e.rd.isEmpty
def MemEvent.releaseWrite (e : MemEvent) : Bool := e.isAccess && isRelease e.ord && !e.wr.isEmpty
/-- An sc access (R318). -/
def MemEvent.scAccess (e : MemEvent) : Bool := e.isAccess && e.strong && e.ord == 4
/-- An sc event (R318). -/
def MemEvent.isSc (e : MemEvent) : Bool := e.scAccess || (e.kind == .fence && e.ord == 4)
/-- A `FENCE` or point at release, or at acquire. -/
def MemEvent.isPoint (e : MemEvent) : Bool := e.kind == .fence || e.kind == .point
/-- A release of a team: a release write or a release point (R205). -/
def MemEvent.releases (e : MemEvent) : Bool := e.releaseWrite || (e.isPoint && isRelease e.ord)
/-- An acquire of a team (R205). -/
def MemEvent.acquires (e : MemEvent) : Bool := e.acquireRead || (e.isPoint && isAcquire e.ord)
/-- The event stands in team order for Table 16-1: not an engine's (R319, R320), a matrix instruction's only on an RC page (R322). -/
def MemEvent.inTable (e : MemEvent) : Bool := match e.kind with | .engine _ => false | .matrix _ => e.page == 0 | _ => true
/-- An event of an instruction that is no matrix read. -/
def MemEvent.plain (e : MemEvent) : Bool := match e.kind with | .engine _ => false | .matrix _ => false | _ => true

/-! ## Events of instructions -/

/-- Where a byte of an access lies. -/
def Loc.spot (dev : Nat) : Loc → Spot
  | .mem pa _ => .mem pa
  | .scr k => .scr dev k
  | .crv k => .crv dev k
/-- The frame a byte lies in: bytes of one frame are one part of an access (R103). -/
def Loc.part : Loc → Nat
  | .mem pa _ => 1 + pa / 256
  | _ => 0
/-- The ordering and coherence codes of a byte's page (Table 6-4); scratchpad and carve are RC and coherent (R101). -/
def Loc.codes : Loc → Nat × Nat
  | .mem _ t => (t.ord, t.coh)
  | _ => (0, 0)

/-- What a memory instruction accesses: operand, bytes, whether it reads, writes, is strong; the leader alone, and an indexed form's
index register. -/
structure MemForm where
  a : Mem
  n : Nat
  rd : Bool
  wr : Bool
  strong : Bool
  lead : Bool
  ix : Option RegField

/-- The access of a memory instruction of group 5. -/
def memForm : Instr → Option MemForm
  | .ld a => some ⟨a, widthBytes (subOf3 a.m), true, false, false, false, none⟩
  | .ldx a => some ⟨a, widthBytes (subOf3 a.m), true, false, false, false, some a.vb⟩
  | .st a => some ⟨a, widthBytes (subOf3 a.m), false, true, false, false, none⟩
  | .stx a => some ⟨a, widthBytes (subOf3 a.m), false, true, false, false, some (memVc a)⟩
  | .lda a => some ⟨a, strongBytes a, true, false, true, false, none⟩
  | .stl a => some ⟨a, strongBytes a, false, true, true, false, none⟩
  | .atom a => some ⟨a, strongBytes a, true, true, true, false, none⟩
  | .atomcas a => some ⟨a, strongBytes a, true, true, true, false, none⟩
  | .red a => some ⟨a, strongBytes a, true, true, true, false, none⟩
  | .waitne a => some ⟨a, 4, true, false, true, true, none⟩
  | _ => none

/-- The address strand k accesses, and where its bytes lie. -/
def MemForm.spots (c : Run) (f : MemForm) (k : Nat) : List Loc :=
  let p := match f.ix, c.lead with
    | some r, some l => indexed c f.a r f.n l k
    | _, _ => c.ea k f.a.va (memOff f.a)
  match p.bind (fun q => c.places k ⟨false, false, false, false, false⟩ q f.n) with
  | .ok ls => ls
  | .bad _ => []

/-- The team's party. -/
def Run.party (c : Run) (k : Option Nat) : Party := .strands c.s.devid c.t.core c.t.grp c.t.idx k

/-- The events of an instruction at pc, in team order (R294, R295, R300, R103): of an access one for each active strand and part; of
`FENCE` and of a range operation one. -/
def eventsOf (c : Run) : List MemEvent :=
  let point := fun (k : EventKind) (a : Mem) (ls : List Spot) =>
    (⟨c.party none, k, ls, [], memOrd a, memScope a, false, 0, false, none, false, none, [], []⟩ : MemEvent)
  let range := fun (a : Mem) => match c.lead with
    | none => []
    | some l => match (rangeArgs c a l).bind (fun x => rangeLeaves c l false (pagesOf x.1 x.2)) with
      | .ok ps => [point .range a (ps.flatMap (fun p => (List.range p.2.1).map (fun j => .mem (p.2.2.pa + (p.1 - p.2.2.va) + j))))]
      | .bad _ => []
  match memForm c.i with
  | some f => (if f.lead then c.act.take 1 else c.act).flatMap (fun k =>
      let ls := f.spots c k
      (distinct id (ls.map Loc.part)).map (fun p =>
        let part := ls.filter (fun l => l.part == p)
        let bs := part.map (Loc.spot c.s.devid)
        let at_ := match part with | l :: _ => l.codes | [] => (0, 0)
        ⟨c.party (some k), .access, if f.rd then bs else [], if f.wr then bs else [], if f.strong then memOrd f.a else 0,
          if f.strong then memScope f.a else 0, f.strong, at_.1, at_.2 != 0, none, false, none, [], []⟩))
  | none => match c.i with
    | .fence a => if c.lead.isNone then [] else [point .fence a []]
    | .cwb a => range a
    | .cinv a => range a
    | .cwbi a => range a
    | .cprf a => range a
    | _ => []

/-! ## Ordered-before -/

/-- The events of an execution; those of one team stand in team order. -/
abbrev Execution := List MemEvent

/-- Two events of an execution are related. -/
def Execution.pair (x : Execution) (i j : Nat) (f : MemEvent → MemEvent → Bool) : Bool :=
  match x[i]?, x[j]? with
  | some a, some b => f a b
  | _, _ => false
/-- Event i precedes event j in one team's order. -/
def Execution.teamOrder (x : Execution) (i j : Nat) : Bool := decide (i < j) && x.pair i j (fun a b => a.who.sameTeam b.who)
/-- An event of the team with a property lies between two of its events. -/
def Execution.between (x : Execution) (i j : Nat) (p : MemEvent → Bool) : Bool :=
  (List.range j).any (fun k => x.teamOrder i k && x.teamOrder k j && (match x[k]? with | some e => p e | none => false))
/-- A `FENCE` of the team with such an order lies between. -/
def Execution.fenced (x : Execution) (i j : Nat) (p : Nat → Bool) : Bool := x.between i j (fun e => e.kind == .fence && p e.ord)

/-- The rows of Table 16-1 (R297), with R298 for UO pages. -/
def Execution.tableRow (x : Execution) (i j : Nat) (a b : MemEvent) : Bool :=
  let both := a.isAccess && b.isAccess
  (both && a.overlaps b && ((a.page != 2 && b.page != 2) || (a.strong && b.strong) || x.fenced i j (fun _ => true))) ||
  (both && a.page == 1 && b.page == 1) ||
  (a.acquireRead && b.inTable) ||
  (a.inTable && b.releaseWrite) ||
  (both && !a.rd.isEmpty && x.fenced i j isAcquire) ||
  (both && !b.wr.isEmpty && x.fenced i j isRelease) ||
  (both && (x.fenced i j (· == 4) || (a.scAccess && b.scAccess))) ||
  (a.isAccess && b.kind == .range && (x.between i j MemEvent.releases || a.overlaps b)) ||
  (a.kind == .range && b.releases) ||
  (a.acquires && b.kind == .range) ||
  (a.kind == .range && b.isAccess && a.overlaps b)

/-- What stands before a release point is ordered before it, and what stands behind an acquire point after it, so that the points'
synchronisation carries what Table 16-1 orders across them (DEDUCED: log entry 60). -/
def MemEvent.pointRow (a b : MemEvent) : Bool :=
  (a.plain && b.isPoint && isRelease b.ord) || (a.isPoint && isAcquire a.ord && b.plain) ||
  (a.isPoint && isRelease a.ord && b.isAccess && !b.wr.isEmpty) || (a.isAccess && !a.rd.isEmpty && b.isPoint && isAcquire b.ord)

/-- One edge of ordered-before. -/
def Execution.orderEdge (x : Execution) (i j : Nat) : Bool :=
  x.teamOrder i j && x.pair i j (fun a b => x.tableRow i j a b || a.pointRow b)
/-- Ordered-before (R297): transitive within the team. -/
def Execution.Ordered (x : Execution) : Nat → Nat → Prop := Relation.TransGen (fun i j => x.orderEdge i j = true)

/-! ## Engine and weaver edges -/

/-- The command's issue stands at k, in the order of event i's team. -/
def Execution.issuedAt (x : Execution) (i k cmd : Nat) : Bool := x.pair i k (fun a b => a.who.sameTeam b.who && b.kind == .issue cmd)
/-- A command writes a slot or scratchpad byte (R322). -/
def Execution.writesLocal (x : Execution) (cmd : Nat) : Bool := x.any (fun e => e.kind == .engine cmd && e.wr.any Spot.isLocal)
/-- The local bytes a command reads, and writes (R234). -/
def Execution.localReads (x : Execution) (cmd : Nat) : List Spot := (x.filter (fun e => e.kind == .engine cmd)).flatMap (fun e => e.rd.filter Spot.isLocal)
def Execution.localWrites (x : Execution) (cmd : Nat) : List Spot := (x.filter (fun e => e.kind == .engine cmd)).flatMap (fun e => e.wr.filter Spot.isLocal)
/-- The range-overlap rule holds between an earlier and a later command (R234). -/
def Execution.rangesMeet (x : Execution) (c d : Nat) : Bool :=
  (x.localWrites c).any (fun s => (x.localReads d).contains s || (x.localWrites d).contains s) ||
  (x.localReads c).any (fun s => (x.localWrites d).contains s)

/-- The edges of R319 to R323 and Table 16-5 between two events. -/
def Execution.engineEdge (x : Execution) (i j : Nat) : Bool :=
  let ks := List.range x.length
  x.pair i j (fun a b =>
    -- R319: what precedes the issue, before every access of the command
    (match a.kind, b.kind with
      | .engine _, _ => false
      | _, .engine c => ks.any (fun k => (i == k || x.teamOrder i k) && x.issuedAt j k c)
      | _, _ => false) ||
    -- R320: every access of the command, before the read of its reply and what follows it
    (match a.kind, b.kind with
      | .engine _, .engine _ => false
      | .engine c, _ => ks.any (fun k => (k == j || x.teamOrder k j) && x.pair i k (fun a r => a.who.sameTeam r.who && r.kind == .reply c))
      | _, _ => false) ||
    -- R321: commands of one core whose local ranges meet
    (match a.kind, b.kind with
      | .engine c, .engine d => decide (c < d) && a.who.coreOf == b.who.coreOf && x.rangesMeet c d &&
          (a.rd ++ a.wr).any (fun s => s.isLocal && (b.rd ++ b.wr).contains s)
      | _, _ => false) ||
    -- R322: OPFENCE before matrix reads, and appends before the list's reads
    (match b.kind with
      | .matrix list => (list && a.append && x.teamOrder i j) || ks.any (fun k => x.teamOrder k j &&
          (match x[k]? with | some e => e.kind == .opfence | none => false) &&
          (match a.kind with
            | .engine c => x.writesLocal c && ks.any (fun m => x.issuedAt i m c && x.teamOrder m k)
            | .access => !a.wr.isEmpty && x.teamOrder i k
            | _ => false))
      | _ => false) ||
    -- R323: the issue of a collective on every rank, before its reply on every rank
    (match a.kind, b.kind with
      | .issue _, .reply _ => a.coll.isSome && a.coll == b.coll
      | _, _ => false) ||
    -- R324
    a.gives.any (fun g => g.unscoped && b.takes.contains g))

/-! ## An outcome, and what makes it allowed -/

/-- The values an execution reads and writes, by event and byte, and the bytes at its start. -/
structure MemValues where
  init : Spot → Byte
  got : Nat → Spot → Byte
  put : Nat → Spot → Byte

/-- The choice that may allow an outcome (R294): each read byte's source (none: the initial value), each byte's coherence order as a
rank of its writes, the sc order, and the instants at which reads perform and at which writes do, on the writer's die and
elsewhere (R306). -/
structure OrderChoice where
  src : Nat → Spot → Option Nat
  rank : Spot → Nat → Nat
  sc : Nat → Nat
  read : Nat → Nat
  near : Nat → Nat
  far : Nat → Nat

/-- One write, or the initial value, precedes another in a byte's coherence order (R305). -/
def OrderChoice.before (c : OrderChoice) (s : Spot) : Option Nat → Option Nat → Prop
  | none, some _ => True
  | some w, some v => c.rank s w < c.rank s v
  | _, none => False

/-- Event i has such a property. -/
def Execution.Has (x : Execution) (i : Nat) (p : MemEvent → Bool) : Prop := (match x[i]? with | some e => p e | none => false) = true
/-- Event i writes, or reads, a byte. -/
def Execution.Writes (x : Execution) (i : Nat) (s : Spot) : Prop := x.Has i (fun e => e.writes s)
def Execution.Reads (x : Execution) (i : Nat) (s : Spot) : Prop := x.Has i (fun e => e.reads s)

/-- A write immediately precedes another in coherence order. -/
def Execution.Next (x : Execution) (c : OrderChoice) (s : Spot) (w : Option Nat) (v : Nat) : Prop :=
  c.before s w (some v) ∧ ∀ u, x.Writes u s → ¬(c.before s w (some u) ∧ c.before s (some u) (some v))

/-- The release sequence of a write at a byte (R303). -/
inductive Execution.InSequence (x : Execution) (c : OrderChoice) (s : Spot) (w : Nat) : Nat → Prop where
  | self : x.InSequence c s w w
  | next {v u : Nat} : x.InSequence c s w v → x.Has u (fun e => e.isRmw && e.writes s) → x.Next c s (some v) u → x.InSequence c s w u

/-- Event p is a release point of write w, at a scope (R303, R323, R238): the write itself, a release `FENCE` before it, or, for a
transfer's write to space 0, the issue of its command. -/
def Execution.releasePoint (x : Execution) (w p scope : Nat) : Bool :=
  x.pair w p (fun a b =>
    (w == p && a.releaseWrite && scope == a.scope) ||
    (x.teamOrder p w && a.isAccess && !a.wr.isEmpty && b.kind == .fence && isRelease b.ord && scope == b.scope) ||
    (match a.kind with
      | .engine c => isRelease a.ord && !a.wr.isEmpty && scope == a.scope &&
          (if a.scope == 6 then a.wr.all (fun s => !s.isLocal) && x.issuedAt w p c else w == p)
      | _ => false))
/-- Event p is an acquire point of read r, at a scope (R303, R324). -/
def Execution.acquirePoint (x : Execution) (r p scope : Nat) : Bool :=
  x.pair r p (fun a b =>
    (r == p && a.accesses && isAcquire a.ord && !a.rd.isEmpty && scope == a.scope) ||
    (x.teamOrder r p && a.isAccess && !a.rd.isEmpty && b.kind == .fence && isAcquire b.ord && scope == b.scope))

/-- The fences around a push and the pop of its entry (R309). -/
def Execution.stakeEdge (x : Execution) (i j : Nat) : Bool :=
  let ks := List.range x.length
  x.pair i j (fun a b => a.kind == .fence && isRelease a.ord && decide (5 ≤ a.scope) && b.kind == .fence && isAcquire b.ord && decide (5 ≤ b.scope) &&
    ks.any (fun k => x.teamOrder i k && ks.any (fun m => x.teamOrder m j && x.pair k m (fun p q =>
      match p.kind, q.kind with | .push e, .pop f => e == f | _, _ => false))))
/-- The pairs of Table 16-3: the points' scopes match. -/
def Execution.signalEdge (x : Execution) (i j : Nat) : Bool :=
  x.pair i j (fun a b => a.gives.any (fun g => !g.unscoped && b.takes.contains g) && scopeMatched a.who a.scope b.who b.scope)

/-- Synchronises-with (R303, R309, Table 16-3). -/
def Execution.Sync (x : Execution) (c : OrderChoice) (i j : Nat) : Prop :=
  (∃ w v r s sa sb, x.Writes w s ∧ x.Reads r s ∧ c.src r s = some v ∧ x.InSequence c s w v ∧
    x.releasePoint w i sa = true ∧ x.acquirePoint r j sb = true ∧
    x.pair i j (fun a b => scopeMatched a.who sa b.who sb && !a.sm && !b.sm) = true) ∨
  x.signalEdge i j = true ∨ x.stakeEdge i j = true

/-- Happens-before (R304). -/
def Execution.Before (x : Execution) (c : OrderChoice) : Nat → Nat → Prop :=
  Relation.TransGen (fun i j => x.orderEdge i j = true ∨ x.Sync c i j ∨ x.engineEdge i j = true)

/-- R305 holds between two events: neither on a software-managed page, or both of one core (R316). -/
def MemEvent.shares (a b : MemEvent) : Bool := (!a.sm && !b.sm) || (a.who.coreOf.isSome && a.who.coreOf == b.who.coreOf)

/-- The bytes that one event's access takes in one piece with a byte (R104). -/
def MemEvent.unit (e : MemEvent) (s : Spot) : List Spot :=
  let bs := if e.wr.isEmpty then e.rd else e.wr
  let n := bs.length
  let lo := bs.foldl (fun m b => min m b.addr) s.addr
  if !e.isAccess || lo % n ≠ 0 then [s]
  else if n = 1 ∨ n = 2 ∨ n = 4 ∨ n = 8 then bs
  else if n = 16 then bs.filter (fun b => b.addr / 8 == s.addr / 8)
  else [s]

/-- Table 16-4: a write performs to a reader of another team at its one instant, at the later one, or under no promise. -/
inductive Promise where
  | once
  | later
  | open_
  deriving DecidableEq, Repr

/-- The promise of a write to a reader (Table 16-4, R315, R316). -/
def MemEvent.promise (w r : MemEvent) : Promise :=
  if w.wr.any Spot.isLocal then .once
  else if w.who.sameTeam r.who || r.sub.isSome || w.sm || r.sm then .open_
  else if w.page == 1 then .once
  else if w.strong && decide (4 ≤ w.scope) then (if w.who.instanceHas w.scope r.who then .once else .open_)
  else if w.who.sameDie r.who then .once else .later

/-- At an instant a write performs to a reader: earlier reads do not see it, later ones see it or a later write (R306). -/
def Execution.PerformsAt (x : Execution) (c : OrderChoice) (w r t : Nat) : Prop :=
  ∀ s, x.Writes w s → x.Reads r s →
    (c.read r < t → c.before s (c.src r s) (some w)) ∧ (t ≤ c.read r → ¬c.before s (c.src r s) (some w))

/-- The value of the byte's source (R305). -/
def OrderChoice.value (c : OrderChoice) (v : MemValues) (r : Nat) (s : Spot) : Byte :=
  match c.src r s with
  | some w => v.put w s
  | none => v.init s

/-- The events with a property, of two events. -/
def Execution.Both (x : Execution) (i j : Nat) (f : MemEvent → MemEvent → Bool) : Prop := x.pair i j f = true

/-- Every rule of the chapter holds under a choice (R294). -/
structure Execution.Consistent (x : Execution) (v : MemValues) (c : OrderChoice) : Prop where
  /-- Each read byte comes from a write of it, or is the initial value (R305). -/
  source : ∀ r s, x.Reads r s → ∀ w, c.src r s = some w → x.Writes w s
  /-- The value read is its source's (R305); a subscribed read returns each element of it rounded and widened (R314). -/
  value : ∀ r s, x.Reads r s → x.Has r (fun e => e.sub.isNone) → v.got r s = c.value v r s
  rounded : ∀ r f a, x.Has r (fun e => e.sub == some f) → a % stoBytes f.1 = 0 → x.Reads r (.mem a) →
    leNat ((List.range (stoBytes f.1)).map (fun i => v.got r (.mem (a + i)))) =
      roundedView f.1 f.2 (leNat ((List.range (stoBytes f.1)).map (fun i => c.value v r (.mem (a + i)))))
  /-- Coherence order is total (R305). -/
  total : ∀ s w u, x.Writes w s → x.Writes u s → c.rank s w = c.rank s u → w = u
  /-- R304. -/
  acyclic : ∀ i, ¬x.Before c i i
  /-- R305, rules 1 to 5. -/
  writeWrite : ∀ s w u, x.Writes w s → x.Writes u s → x.Both w u MemEvent.shares → x.Before c w u → c.before s (some w) (some u)
  readNotLater : ∀ s r w, x.Reads r s → c.src r s = some w → x.Both r w MemEvent.shares → ¬x.Before c r w
  readNotOlder : ∀ s r w, x.Reads r s → x.Writes w s → x.Both w r MemEvent.shares → x.Before c w r → ¬c.before s (c.src r s) (some w)
  readRead : ∀ s r q, x.Reads r s → x.Reads q s → x.Both r q MemEvent.shares → x.Before c r q → ¬c.before s (c.src q s) (c.src r s)
  readWrite : ∀ s r w, x.Reads r s → x.Writes w s → x.Both r w MemEvent.shares → x.Before c r w → c.before s (c.src r s) (some w)
  update : ∀ s u, x.Has u (fun e => e.isRmw && e.reads s && e.writes s) → x.Next c s (c.src u s) u
  /-- R104: a read sees all of a store's bytes that both take in one piece, or none. -/
  whole : ∀ r w s s', x.Reads r s → x.Reads r s' → x.Writes w s → x.Writes w s' →
    x.Both r w (fun a b => (a.unit s).contains s' && (b.unit s).contains s') →
    c.before s (c.src r s) (some w) → c.before s' (c.src r s') (some w)
  /-- R306, Table 16-4. -/
  instants : ∀ w, c.near w ≤ c.far w
  readsInOrder : ∀ r q s s', x.Reads r s → x.Reads q s' → x.Before c r q → c.read r ≤ c.read q
  once : ∀ w r, x.Both w r (fun a b => a.promise b == .once) → x.PerformsAt c w r (c.near w)
  later : ∀ w r, x.Both w r (fun a b => a.promise b == .later) → x.PerformsAt c w r (c.far w)
  /-- R392: a release write to scratchpad or carve performs once what Table 16-1 orders before it has, to every observer. -/
  localRelease : ∀ i w, x.Has w (fun e => e.isAccess && e.wr.any Spot.isLocal) → x.Ordered i w →
    (x.Has w MemEvent.releaseWrite ∨ x.fenced i w isRelease = true) →
    (x.Has i (fun e => e.isAccess && !e.wr.isEmpty) → c.far i ≤ c.near w) ∧ (x.Has i (fun e => e.isAccess && !e.rd.isEmpty) → c.read i ≤ c.near w)
  /-- R318. -/
  scTotal : ∀ i j, x.Has i MemEvent.isSc → x.Has j MemEvent.isSc → c.sc i = c.sc j → i = j
  scBefore : ∀ i j, x.Both i j (fun a b => a.isSc && b.isSc && scopeMatched a.who a.scope b.who b.scope) → x.Before c i j → c.sc i < c.sc j
  scReads : ∀ i j w r s, x.Both i j (fun a b => a.isSc && b.isSc && scopeMatched a.who a.scope b.who b.scope) → c.sc i < c.sc j →
    (w = i ∨ x.Ordered w i) → (r = j ∨ x.Ordered j r) → x.Writes w s → x.Reads r s → ¬c.before s (c.src r s) (some w)
  scWrites : ∀ i j s, x.Both i j (fun a b => a.scAccess && b.scAccess && scopeMatched a.who a.scope b.who b.scope) → c.sc i < c.sc j →
    x.Writes i s → x.Writes j s → c.before s (some i) (some j)
  scReadWrite : ∀ i j s, x.Both i j (fun a b => a.scAccess && b.scAccess && scopeMatched a.who a.scope b.who b.scope) → c.sc i < c.sc j →
    x.Reads i s → x.Writes j s → c.before s (c.src i s) (some j)

/-- The outcome is allowed: some choice meets every rule of the chapter (R294). -/
def Execution.Allowed (x : Execution) (v : MemValues) : Prop := ∃ c, x.Consistent v c

end Sys2Proof.Machine
end

