-- ==== Sys2Proof/Safety.lean ====
section
/-! DEFINITION. What counts as a safe step, and the words in which statements are made about the machine: when nothing but its
operands stands between an instruction and its effect, what its retirement leaves, and what the registers of a strand read. -/

namespace Sys2Proof.Machine

/-- A step of the machine ends in a next state. -/
def Safe (s : State) : Prop := ∃ t, step s = .next t

/-! ## What registers read -/

/-- The value of register `r` of strand `k`. -/
def Team.val (t : Team) (k r : Nat) : Word := ((t.strand k).reg r).val
/-- The format tag of register `r` of strand `k`. -/
def Team.tag (t : Team) (k r : Nat) : BitVec 4 := ((t.strand k).reg r).tag
/-- The pair at `r` of strand `k`, low word at `r` (R58). -/
def Team.pair (t : Team) (k r : Nat) : DWord := t.val k (r + 1) ++ t.val k r
/-- Source b in strand `k`: a register or the immediate (R138). -/
def Team.srcB (t : Team) (k : Nat) (b : Src) : Word := match b with | .reg r => t.val k r.toNat | .imm w => w
/-- Register `r` of strand `k` is free of a poison mark (R61). -/
def Team.clean (t : Team) (k r : Nat) : Prop := ((t.strand k).reg r).psn = false
/-- The strands active for an instruction (R22). -/
def Team.active (t : Team) (i : Instr) : List Nat := activeOf t (hdrF i)

/-- Only the leader's sources are read: the `.U` forms (R140), the transfers taken by the leader (R159), and the
instructions of groups 5 to 7 that the leader executes (R190, R212, R244). -/
def leaderReads (i : Instr) : Bool :=
  match i with
  | .movsw a => decide ((srcField a.b).toNat ≠ 0x20)
  | _ => match toRaw i with
    | some r => (decide (r.opc.toNat < 0x200) && topBit r.m) || decide (r.opc.toNat ∈ [0x88, 0x8a]) ||
        (decide (0x28a ≤ r.opc.toNat) && !decide (r.opc.toNat ∈ [0x2a0, 0x2a1, 0x2a2, 0x306, 0x307, 0x319]))
    | none => false
/-- `RET`, the instructions that read other strands (R184, R185), the conversions with a list or a block (R179, R183) and the
indexed accesses (R192) choose the strands they read a register in by rules of their own. -/
def ownReads (i : Instr) : Bool := decide (opcOf i ∈ [0x8b, 0x190, 0x1a0, 0x1a1, 0x1a2, 0x200, 0x201, 0x202, 0x203, 0x208, 0x281, 0x283])
/-- The strands an instruction reads every one of its sources in. -/
def Team.reads (t : Team) (i : Instr) : List Nat :=
  if ownReads i then [] else if leaderReads i then (t.active i).take 1 else t.active i
/-- Source b of strand `k`, where it is a register, is free of a poison mark. -/
def Team.cleanB (t : Team) (k : Nat) (b : Src) : Prop := ∀ r, b = .reg r → t.clean k r.toNat

/-! ## An instruction that runs, and its retirement -/

/-- `t` is the team whose turn it is, and nothing but the values of its operands stands between it and the effect of `i`: the
words are well-formed (R136), the level permits it (R244), no signature differs (R134), every register it names is below N, not
locked, but for `MMAWAIT`, and no reply is owed to it (R58, R221, R129), no guard register of an enabled strand and no source of a
strand it reads is poisoned (R61), no producer is too near where stall counts are tested (R130), and no part of the instruction has
acted already (R334). -/
structure Ready (i : Instr) (s : State) (t : Team) : Prop where
  team : s.team s.cur = some t
  issues : canIssue s t = true
  wf : i.WellFormed = true
  level : isPriv i = true → s.isSup t = true
  sig : sigDiffers t i = false
  fresh : t.rmw = none
  named : ∀ r ∈ namedRegs i, r < t.nreg ∧ (r ∉ t.lock ∨ ∃ h, i = .mmawait h) ∧ r ∉ t.pend
  guard : ∀ k ∈ t.enabled, ∀ r ∈ guardRegs (hdrF i), t.clean k r
  clean : ∀ k ∈ t.reads i, ∀ r ∈ srcRegs i, t.clean k r
  stall : bitAt t.tctl.toNat 3 = true → t.prod = []

/-- How `i` retires from the effect `u` it has on its team `t` and `s1` on the rest of the machine: control passes to `pc`, the
signature halves become `sigs` and `sigd`, one matching check enters the team's sequence (R287), a yield point with a request
pending is taken (R51), the queue's watchdog count starts again (R358), the team's age as a ready team starts (R55), and its group has
started (R42). Nothing else differs from `u` and `s1`, but for the team's record of recent producers and for steps of the device that
become due. -/
def RetiresTo (i : Instr) (t u : Team) (s1 s' : State) (pc : BitVec 48) (sigs sigd : BitVec 16) (stepped : Bool) : Prop :=
  ∃ (ps : List Producer) (ev : List Event), s' = noteStart { s1 with
    teams := s1.teams.map (fun x => if x.hnd = t.hnd then
      { u.matched with
        pc := pc, sigs := sigs, sigd := sigd, stepped := stepped, held := false, status := .run, prod := ps, since := s1.now,
        yielded := if (hdrF i).y && t.preq.isSome then some (liveCount t (hdrF i), false) else t.yielded } else x),
    queues := (s1.setQueue (s1.qOf t) (fun q => { q with wd := 0 })).queues,
    due := s1.due ++ ev } t

/-- `i` retires and control passes in sequence; both signature halves fold it in (R134, R291). -/
def Retires (i : Instr) (t u : Team) (s1 s' : State) : Prop :=
  RetiresTo i t u s1 s' (t.pc + BitVec.ofNat 48 (byteLength i)) (sigsFold (sigsAt t) (lowWord i))
    (sigdMask t.sigd (t.active i) t.passes) true

/-- `i`, an instruction of `t`, completes: the next state is that in which it has had the effect `u` on its team and `s1` on the
rest of the machine, and has retired in sequence. -/
def Completes (i : Instr) (s : State) (t u : Team) (s1 : State) : Prop := ∃ s', exec i s = .next s' ∧ Retires i t u s1 s'
/-- `i` completes with the effect `s1` on the whole machine, its own team included. -/
def CompletesIn (i : Instr) (s : State) (t : Team) (s1 : State) : Prop := ∃ u, s1.team t.hnd = some u ∧ Completes i s t u s1

/-- `i` cannot complete yet: its team, changed by `f`, is held at it, its age as a ready team counted from this try, with `s1` for the
rest of the machine (R211); at a yield point with a request pending it is to be saved (R51). -/
def Waits (i : Instr) (s : State) (t : Team) (f : Team → Team) (s1 : State) : Prop :=
  exec i s = .next { s1 with teams := s1.teams.map (fun x => if x.hnd = t.hnd then
    { f x with held := true, since := s.now,
               yielded := if (hdrF i).y && x.preq.isSome && x.rmw.isNone then some (liveCount x (hdrF i), false) else x.yielded } else x) }

/-! ## Results in registers -/

/-- Every active strand has its outcome, no other strand changes (R138). -/
def perStrand (t : Team) (ks : List Nat) (o : Nat → Out) : Team :=
  { t with strands := t.strands.mapIdx (fun k x => if k ∈ ks then x.out (o k) else x) }
/-- The state with the outcomes of a team's active strands. -/
def gives (s : State) (t : Team) (ks : List Nat) (o : Nat → Out) : State := s.setTeam t.hnd (fun x => perStrand x ks o)
/-- The leader's outcome stands in every strand, its flags in the leader alone (R140). -/
def fromLeader (t : Team) (ks : List Nat) (o : Nat → Out) : Team :=
  match ks.head? with
  | none => t
  | some l => { t with strands := t.strands.mapIdx (fun k x => if k = l then (x.outRegs (o l)).flag (o l).fl else x.outRegs (o l)) }
/-- The effect of an instruction whose `.U` bit is `u` (R139, R140). -/
def byMode (u : Bool) (t : Team) (ks : List Nat) (o : Nat → Out) : Team := if u then fromLeader t ks o else perStrand t ks o
/-- The leader of an instruction gives every strand the value `v` in register `r`, tag 0 (R212). -/
def giveEvery (t : Team) (r : Nat) (v : Word) : Team := { t with strands := t.strands.map (fun x => x.set r v 0) }

/-- `i` computes `o` in each active strand, and does nothing else (R138). -/
def EachStrand (i : Instr) (s : State) (t : Team) (o : Nat → Out) : Prop := Completes i s t (perStrand t (t.active i) o) s
/-- `i` computes `o` by the mode its `.U` bit names, and does nothing else. -/
def ByStrand (i : Instr) (m : BitVec 4) (s : State) (t : Team) (o : Nat → Out) : Prop :=
  Completes i s t (byMode (topBit m) t (t.active i) o) s

/-- `i` writes `f` of its source a to `vd`. -/
def Row1 (i : Instr) (a : Alu) (f : Word → Word × Flags) : Prop :=
  ∀ s t, Ready i s t → ByStrand i a.m s t (fun k => Out.one a.vd (f (t.val k a.va.toNat)).1 (f (t.val k a.va.toNat)).2)
/-- `i` writes `f` of its sources a and b to `vd`. -/
def Row2 (i : Instr) (a : Alu) (f : Word → Word → Word × Flags) : Prop :=
  ∀ s t, Ready i s t → ByStrand i a.m s t (fun k =>
    let r := f (t.val k a.va.toNat) (t.srcB k a.b)
    Out.one a.vd r.1 r.2)
/-- `i` writes `f` of its three sources to `vd`. -/
def Row3 (i : Instr) (a : Ter) (f : Word → Word → Word → Word × Flags) : Prop :=
  ∀ s t, Ready i s t → ByStrand i a.m s t (fun k =>
    let r := f (t.val k a.va.toNat) (t.val k a.vb.toNat) (t.val k a.vc.toNat)
    Out.one a.vd r.1 r.2)
/-- `i` writes `f` of its source pairs a and b to the pair at `vd` (R150). -/
def RowP (i : Instr) (a : Alu) (f : DWord → DWord → DWord) : Prop :=
  ∀ s t, Ready i s t → ByStrand i a.m s t (fun k =>
    Out.pair a.vd (f (t.pair k a.va.toNat) (t.pair k (srcField a.b).toNat)).toNat 0)
/-- `i` writes `f` of its effective rounding mode and source a, with flags, to `vd` (R66, R78). -/
def RowF1 (i : Instr) (a : Alu) (f : Nat → Nat → Nat × Flags) : Prop :=
  ∀ s t, Ready i s t → ByStrand i a.m s t (fun k =>
    let r := f (modeOf t a.m) (t.val k a.va.toNat).toNat
    Out.one a.vd (word r.1) r.2)
/-- `i` writes `f` of its effective rounding mode and sources a and b, with flags, to `vd`. -/
def RowF2 (i : Instr) (a : Alu) (f : Nat → Nat → Nat → Nat × Flags) : Prop :=
  ∀ s t, Ready i s t → ByStrand i a.m s t (fun k =>
    let r := f (modeOf t a.m) (t.val k a.va.toNat).toNat (t.srcB k a.b).toNat
    Out.one a.vd (word r.1) r.2)
/-- `i` writes `f` of its effective rounding mode and source pairs, with flags, to the pair at `vd`. -/
def RowD2 (i : Instr) (a : Alu) (f : Nat → Nat → Nat → Nat × Flags) : Prop :=
  ∀ s t, Ready i s t → ByStrand i a.m s t (fun k =>
    let r := f (modeOf t a.m) (t.pair k a.va.toNat).toNat (t.pair k (srcField a.b).toNat).toNat
    Out.pair a.vd r.1 r.2)

/-! ## Values, written from the tables of the instruction chapters -/

/-- `v` clamped to the range from `lo` to `hi`, `sat` set exactly when the clamp changed it (R71). -/
def clampTo (lo hi v : Int) : Word × Flags := (BitVec.ofInt 32 (max lo (min hi v)), if lo ≤ v ∧ v ≤ hi then 0 else flSat)
/-- `v` clamped as signed 32 bits. -/
def clampS (v : Int) : Word × Flags := clampTo (-2147483648) 2147483647 v
/-- `v` clamped as unsigned 32 bits. -/
def clampZ (v : Int) : Word × Flags := clampTo 0 4294967295 v
/-- The bit-field position of `pos`, at most 32 (R144). -/
def fieldPos (pos : Word) : Nat := min (pos.extractLsb' 0 8).toNat 32
/-- The bit-field width of `pos`, cut at bit 31 (R144). -/
def fieldWidth (pos : Word) : Nat := min (pos.extractLsb' 8 8).toNat (32 - fieldPos pos)
/-- `w` one bits from bit `p` up. -/
def fieldMask (p w : Nat) : Word := ((1 <<< w) - 1) <<< p
/-- Byte i of the result of `PERMB` (R145). -/
def permByte (x y : Word) (i : Nat) : Byte :=
  let c := x.extractLsb' (8 * (y.extractLsb' (4 * i) 2).toNat) 8
  if y.getLsbD (4 * i + 2) then 0 else if y.getLsbD (4 * i + 3) then (if c.msb then 0xff else 0) else c
/-- The condition of Table 8-4 on a pair that is equal as `eq` and in order as `lt` says. -/
def holds (sub : Nat) (eq lt : Bool) : Bool :=
  match sub with
  | 0 => eq
  | 1 => !eq
  | 2 => lt
  | 3 => lt || eq
  | 4 => !(lt || eq)
  | _ => !lt
/-- 1 for true, 0 for false. -/
def oneIf (b : Bool) : Word := if b then 1 else 0

/-- A tagged pointer by its fields: space, rank or tower, address field (Tables 6-1 to 6-3). -/
def tagged (sp sel x : Nat) : DWord := BitVec.ofNat 64 (sp * 2 ^ 60 + sel * 2 ^ 48 + x)
/-- The fields of a valid pointer (R151). -/
def PtrFields (sp sel x : Nat) : Prop :=
  (sp = 0 ∧ sel = 0 ∧ x < 2 ^ 48) ∨ (sp = 1 ∧ sel < 12 ∧ x < 2 ^ 19) ∨ (sp = 2 ∧ sel < 4 ∧ x < 2 ^ 34)
/-- The field `PFIELD` selects (R154). -/
def ptrPiece (p : DWord) (sel : Nat) : Word :=
  match sel with
  | 0 => (p.extractLsb' 60 4).setWidth 32
  | 1 => (p.extractLsb' 48 4).setWidth 32
  | 2 => p.extractLsb' 0 32
  | _ => (p.extractLsb' 32 16).setWidth 32

/-! ## Transfers of control -/

/-- `t` with the counter of every strand that has not exited changed by `f` (R44). -/
def withCtrs (t : Team) (f : Nat → Byte → Byte) : Team :=
  { t with strands := t.strands.mapIdx (fun k x => if x.ctr = 0xff then x else { x with ctr := f k x.ctr }) }
/-- The depth of a counter decreased by 1, stopping at 0 (R43). -/
def shallower (c : Byte) : Byte := if c.extractLsb' 0 7 = 0 then c else c - 1
/-- No strand is enabled. -/
def noneEnabled (t : Team) : Prop := ∀ x ∈ t.strands, x.ctr ≠ 0
/-- Every live strand's depth may rise by 1 (R45). -/
def roomBelow (t : Team) : Prop := ∀ x ∈ t.strands, x.ctr ≠ 0xff → x.ctr.toNat % 128 + 1 ≤ 126
/-- The target 4 × off from the instruction (R155). -/
def target (t : Team) (off : Word) : Int := (t.pc.toNat : Int) + 4 * off.toInt
/-- A target that passes the tests of R159 or R160. -/
def goodTarget (x : Int) (align : Nat) : Prop := x % align = 0 ∧ 0 ≤ x ∧ x < 281474976710656
/-- `%sigd` after `ENDIF` or `ENDLOOP` (R291): `g` from the masks, and the strands whose counter returns to 0. -/
def sigdEnd (g : BitVec 16) (t u : Team) : BitVec 16 :=
  g.rotateLeft 1 ^^^ BitVec.ofNat 16 (((t.strands.zip u.strands).filter (fun p => p.1.ctr ≠ 0xff ∧ p.1.ctr ≠ 0 ∧ p.2.ctr = 0)).length)
/-- A control instruction `i` retires with the effect `u` on its team: to `pc`, or in sequence; `%sigs` is 0 (R134). -/
def Goes (i : Instr) (s : State) (t u : Team) (pc : Option (BitVec 48)) : Prop :=
  ∃ s', exec i s = .next s' ∧ RetiresTo i t u s s' (pc.getD (t.pc + 16)) 0 (sigdMask t.sigd (t.active i) t.passes) pc.isNone
/-- Like `Goes`, for `ENDIF` and `ENDLOOP`. -/
def GoesEnd (i : Instr) (s : State) (t u : Team) (pc : Option (BitVec 48)) : Prop :=
  ∃ s', exec i s = .next s' ∧
    RetiresTo i t u s s' (pc.getD (t.pc + 16)) 0 (sigdEnd (sigdMask t.sigd (t.active i) t.passes) t u) pc.isNone
/-- `t` with the return address in the pair at `vd` of every strand (R159). -/
def linked (t : Team) (vd : RegField) : Team :=
  { t with strands := t.strands.map (fun x =>
      (x.set vd.toNat (BitVec.ofNat 32 (t.pc.toNat + 16)) 0).set (vd.toNat + 1) (BitVec.ofNat 32 ((t.pc.toNat + 16) / 2 ^ 32)) 0) }

/-! ## Floating-point results (05_number_formats.md, 09_isa_vector.md) -/

/-- The rational number a finite value is; 0 for the others. -/
def FV.rat : FV → ℚ
  | .fin neg m e => (if neg then -1 else 1) * m * 2 ^ e
  | _ => 0
/-- A finite value. -/
def FV.isFin : FV → Bool | .fin _ _ _ => true | _ => false
/-- A rational number rounded to an integer: RNE, RTZ, RUP, RDN (R77). -/
def roundQ (mode : Nat) (x : ℚ) : Int :=
  match mode with
  | 0 => if x - ⌊x⌋ < 1 / 2 then ⌊x⌋ else if x - ⌊x⌋ > 1 / 2 then ⌊x⌋ + 1 else if ⌊x⌋ % 2 = 0 then ⌊x⌋ else ⌊x⌋ + 1
  | 1 => if x < 0 then ⌈x⌉ else ⌊x⌋
  | 2 => ⌈x⌉
  | _ => ⌊x⌋
/-- Some operand is a signalling NaN (R75). -/
def anySnan (l : List FV) : Bool := l.any FV.isSnan
/-- `f` after the NaN rule of R75: any NaN gives the canonical one, `nv` when one is signalling. -/
def orNan (f : Fmt) (l : List FV) (r : Nat × Flags) : Nat × Flags :=
  if l.any FV.isNan then (f.qnan, if anySnan l then flNv else 0) else r
/-- A sum of two values (R166): opposite infinities are invalid, one infinity is the result, else rounded once. -/
def fpSum (f : Fmt) (mode : Nat) (a b : FV) : Nat × Flags :=
  orNan f [a, b] (
    if a.isInf && b.isInf && a.neg != b.neg then (f.qnan, flNv)
    else if a.isInf then (f.infEnc a.neg, 0)
    else if b.isInf then (f.infEnc b.neg, 0)
    else f.round mode (FV.sum mode [a, b]))
/-- A product (R166): 0 × ∞ is invalid. -/
def fpProd (f : Fmt) (mode : Nat) (a b : FV) : Nat × Flags :=
  orNan f [a, b] (
    if (a.isZero && b.isInf) || (a.isInf && b.isZero) then (f.qnan, flNv)
    else if a.isInf || b.isInf then (f.infEnc (a.neg != b.neg), 0)
    else f.round mode (a.mul b))
/-- a × b + c rounded once (R166): 0 × ∞ is invalid even when c is a quiet NaN. -/
def fpFma (f : Fmt) (mode : Nat) (a b c : FV) : Nat × Flags :=
  if !a.isNan && !b.isNan && ((a.isZero && b.isInf) || (a.isInf && b.isZero)) then (f.qnan, flNv)
  else orNan f [a, b, c] (
    let p := a.mul b
    if p.isInf && c.isInf && p.neg != c.neg then (f.qnan, flNv)
    else if p.isInf then (f.infEnc p.neg, 0)
    else if c.isInf then (f.infEnc c.neg, 0)
    else f.round mode (FV.sum mode [p, c]))
/-- minimumNumber and maximumNumber on encodings (R166): a lone NaN gives the other operand, −0 is below +0. -/
def fpPick (f : Fmt) (big : Bool) (x y : Nat) : Nat × Flags :=
  let a := f.dec x
  let b := f.dec y
  (if a.isNan && b.isNan then f.qnan
   else if a.isNan then y
   else if b.isNan then x
   else if a.cmp b = some .lt ∨ (a.cmp b = some .eq ∧ a.neg = true ∧ b.neg = false) then (if big then y else x)
   else if a.cmp b = some .eq ∧ a.neg = b.neg then x
   else (if big then x else y),
   if anySnan [a, b] then flNv else 0)
/-- A comparison under the condition `cc` (R167, Table 9-3). -/
def fpHolds (cc : Nat) (a b : FV) : Bool :=
  match cc with
  | 0 => a.cmp b == some .eq
  | 1 => !(a.cmp b == some .eq)
  | 2 => a.cmp b == some .lt
  | 3 => a.cmp b == some .lt || a.cmp b == some .eq
  | 4 => a.cmp b == some .gt
  | 5 => a.cmp b == some .gt || a.cmp b == some .eq
  | 6 => a.isNan || b.isNan
  | _ => !a.isNan && !b.isNan
/-- `nv` of a comparison: any signalling NaN, and any NaN under `.LT` to `.GE`. -/
def fpCmpFlags (cc : Nat) (a b : FV) : Flags :=
  if anySnan [a, b] ∨ ((a.isNan || b.isNan) = true ∧ 2 ≤ cc ∧ cc ≤ 5) then flNv else 0
/-- The class of an FP32 encoding (Table 9-4). -/
def fpClass (x : Word) : Word :=
  let e := x.extractLsb' 23 8
  let f := x.extractLsb' 0 23
  if e = 0xff then (if f = 0 then (if x.msb then 0x1 else 0x80) else if f.msb then 0x200 else 0x100)
  else if e = 0 then (if f = 0 then (if x.msb then 0x8 else 0x10) else if x.msb then 0x4 else 0x20)
  else if x.msb then 0x2 else 0x40
/-- An encoding rounded to an integer of its own format (R166): the sign kept, `nx` when the value changed. -/
def fpIntegral (f : Fmt) (mode x : Nat) : Nat × Flags :=
  let a := f.dec x
  orNan f [a] (if a.isInf || a.isZero then (x, 0)
    else ((f.round 0 (.fin a.neg (roundQ mode a.rat).natAbs 0)).1, if (roundQ mode a.rat : ℚ) = a.rat then 0 else flNx))
/-- An encoding times 2^n (R166). -/
def fpScale (f : Fmt) (mode x : Nat) (n : Int) : Nat × Flags :=
  match f.dec x with
  | .nan s => (f.qnan, if s then flNv else 0)
  | .inf _ => (x, 0)
  | .fin neg m e => if m = 0 then (x, 0) else f.round mode (.fin neg m (e + n))
/-- A floating-point value to an integer between `lo` and `hi` (R171): a NaN gives 0, a clamp sets `nv` alone. -/
def fpToInt (mode : Nat) (lo hi : Int) (a : FV) : Int × Flags :=
  match a with
  | .nan _ => (0, flNv)
  | .inf neg => (if neg then lo else hi, flNv)
  | a => let v := roundQ mode a.rat
    (max lo (min hi v), if v < lo ∨ hi < v then flNv else if (v : ℚ) = a.rat then 0 else flNx)
/-- One format to another (Table 5-10): an infinity stays one, or the largest value with `nv` in E4M3 (R78); else rounded. -/
def fpTo (f g : Fmt) (mode x : Nat) : Nat × Flags :=
  let a := f.dec x
  orNan g [a] (if a.isInf then (g.infEnc a.neg, if g.infs then 0 else flNv) else g.round mode a)

/-- `i` writes a function of its source pair to the pair at `vd`, with flags. -/
def RowD1 (i : Instr) (a : Alu) (f : Nat → Nat → Nat × Flags) : Prop :=
  ∀ s t, Ready i s t → ByStrand i a.m s t (fun k =>
    let r := f (modeOf t a.m) (t.pair k a.va.toNat).toNat
    Out.pair a.vd r.1 r.2)

/-- The largest finite value of a format (Table 5-2). -/
def fpMax (f : Fmt) : ℚ := (f.dec (f.maxEnc false)).rat
/-- `round_to` of a finite non-zero real, as R77 writes it: the encoding and the flags of R78. -/
def roundTo (f : Fmt) (mode : Nat) (x : ℚ) : Nat × Flags :=
  let e := Int.log 2 |x|
  let q := max e (1 - f.bias) - (f.fb : Int)
  let y := |x| / 2 ^ q
  let n := ⌊y⌋
  let d := y - n
  let n := if mode = 0 ∧ (d > 1 / 2 ∨ (d = 1 / 2 ∧ n % 2 = 1)) then n + 1 else n
  let n := if (mode = 2 ∧ x > 0 ∧ d > 0) ∨ (mode = 3 ∧ x < 0 ∧ d > 0) then n + 1 else n
  let v : ℚ := n * 2 ^ q
  if v > fpMax f then
    (if mode = 0 ∨ (mode = 2 ∧ x > 0) ∨ (mode = 3 ∧ x < 0) then f.infEnc (decide (x < 0)) else f.maxEnc (decide (x < 0)), flOf ||| flNx)
  else
    ((f.round 1 (.fin (decide (x < 0)) n.natAbs q)).1,
     (if v = |x| then 0 else flNx) ||| (if v ≠ |x| ∧ |x| < 2 ^ (1 - f.bias) then flUf else 0))
/-- Division (Table 5-5, R80). -/
def fpDiv (f : Fmt) (mode : Nat) (a b : FV) : Nat × Flags :=
  orNan f [a, b] (
    if a.isInf && b.isInf then (f.qnan, flNv)
    else if a.isInf then (f.infEnc (a.neg != b.neg), 0)
    else if b.isInf then (f.sgn (a.neg != b.neg), 0)
    else if b.isZero then (if a.isZero then (f.qnan, flNv) else (f.infEnc (a.neg != b.neg), flDz))
    else if a.isZero then (f.sgn (a.neg != b.neg), 0)
    else roundTo f mode (a.rat / b.rat))
/-- A one-source function of Table 5-5: NaN rule, zeros, infinities, the values below 0, and the rest. -/
def fpFun (f : Fmt) (zero : Bool → Nat × Flags) (inf : Bool → Nat × Flags) (rest : Bool → Nat → Int → Nat × Flags) (x : Nat) : Nat × Flags :=
  match f.dec x with
  | .nan s => (f.qnan, if s then flNv else 0)
  | .inf n => inf n
  | .fin n m e => if m = 0 then zero n else rest n m e
/-- The invalid result. -/
def fpBad (f : Fmt) : Nat × Flags := (f.qnan, flNv)
/-- The formats of Table 5-2 that `round_to` serves. -/
def fpFormats : List Fmt := [Fmt.f64, Fmt.f32, Fmt.f16, Fmt.bf16, Fmt.e5m2, Fmt.e4m3]

/-! ## Packed results (R72, R172) -/

/-- Element width of a packed tag (Table 5-1). -/
def laneBits (T : Nat) : Nat := if T ≤ 4 then 16 else if T ≤ 8 then 8 else if T ≤ 10 then 6 else 4
/-- Elements in a register of a packed tag. -/
def laneCount (T : Nat) : Nat := if T ≤ 4 then 2 else if T ≤ 8 then 4 else if T ≤ 10 then 5 else 8
/-- Element j of a register, as bits. -/
def laneNat (T : Nat) (x : Word) (j : Nat) : Nat := (x.extractLsb' (laneBits T * j) (laneBits T)).toNat
/-- A packed tag of signed integers. -/
def laneSigned (T : Nat) : Bool := T == 3 || T == 7 || T == 9 || T == 11
/-- Element j of a register, as an integer of its tag. -/
def laneInt (T : Nat) (x : Word) (j : Nat) : Int :=
  if laneSigned T then (x.extractLsb' (laneBits T * j) (laneBits T)).toInt else laneNat T x j
/-- The format of a floating tag: BF16, FP16, E4M3, E5M2. -/
def laneFmt (T : Nat) : Option Fmt :=
  if T = 1 then some Fmt.bf16 else if T = 2 then some Fmt.f16 else if T = 5 then some Fmt.e4m3 else if T = 6 then some Fmt.e5m2 else none
/-- An exact integer clamped to `w` bits, as bits, with `sat` when the clamp changed it. -/
def clampBits (signed : Bool) (w : Nat) (v : Int) : Nat × Flags :=
  let lo : Int := if signed then -2 ^ (w - 1) else 0
  let hi : Int := if signed then 2 ^ (w - 1) - 1 else 2 ^ w - 1
  ((max lo (min hi v) % 2 ^ w).toNat, if lo ≤ v ∧ v ≤ hi then 0 else flSat)
/-- An element result of tag T: `ff` in its format, or an exact integer clamped to the element (R172). -/
def laneRes (T : Nat) (ff : Fmt → Nat × Flags) (v : Int) : Nat × Flags :=
  match laneFmt T with
  | some f => ff f
  | none => clampBits (laneSigned T) (laneBits T) v
/-- Elements packed into a register with their flags and a tag. -/
def lanesOut (vd : RegField) (T res : Nat) (r : Nat → Nat × Flags) : Out :=
  Out.tagged vd ((List.range (laneCount T)).foldl (fun w j => w ||| BitVec.ofNat 32 ((r j).1 % 2 ^ laneBits T) <<< (laneBits T * j)) 0)
    (BitVec.ofNat 4 res) ((List.range (laneCount T)).foldl (fun f j => f ||| (r j).2) 0)
/-- The packed sources of every strand that `i` reads carry one tag of `tags` (R60, R172). -/
def TagsFit (t : Team) (i : Instr) (ps : List RegField) (tags : List Nat) : Prop :=
  ∀ k ∈ t.reads i, ∃ T ∈ tags, ∀ r ∈ ps, (t.tag k r.toNat).toNat = T
/-- Tag T of a strand: that of the first packed source. -/
def tagOf (t : Team) (k : Nat) (r : RegField) : Nat := (t.tag k r.toNat).toNat
/-- Tags 1 to 12. -/
def packTags : List Nat := [1, 2, 3, 4, 5, 6, 7, 8, 9, 10, 11, 12]
/-- `i` writes, for each element j, `g` of the strand, its tag and j, where its packed sources fit. -/
def RowPk (i : Instr) (m : BitVec 4) (vd : RegField) (ps : List RegField) (tags : List Nat) (res : Nat → Nat)
    (g : Team → Nat → Nat → Nat → Nat × Flags) : Prop :=
  ∀ s t, Ready i s t → TagsFit t i ps tags →
    ByStrand i m s t (fun k => lanesOut vd (tagOf t k (ps.headD 0)) (res (tagOf t k (ps.headD 0))) (g t k (tagOf t k (ps.headD 0))))
/-- The sum of a packed dot product in floating point (R174). -/
def dotFloat (f : Fmt) (mode : Nat) (acc : FV) (xs ys : List FV) : Nat × Flags :=
  let ps := (xs.zip ys).map (fun p => p.1.mul p.2)
  let bad := (xs.zip ys).any (fun p => (p.1.isZero && p.2.isInf) || (p.1.isInf && p.2.isZero)) ||
    ((acc :: ps).any (fun p => p.isInf && p.neg) && (acc :: ps).any (fun p => p.isInf && !p.neg))
  if bad || (acc :: xs ++ ys).any FV.isNan then (f.qnan, if bad || anySnan (acc :: xs ++ ys) then flNv else 0)
  else if (acc :: ps).any FV.isInf then (f.infEnc ((acc :: ps).any (fun p => p.isInf && p.neg)), 0)
  else f.round mode (FV.sum mode (acc :: ps))
/-- A packed dot product (R174). -/
def dotRes (mode T : Nat) (x y c : Word) : Word × Flags :=
  let js := List.range (laneCount T)
  match laneFmt T with
  | some f =>
    let r := dotFloat Fmt.f32 mode (Fmt.f32.dec c.toNat) (js.map (fun j => f.dec (laneNat T x j))) (js.map (fun j => f.dec (laneNat T y j)))
    (word r.1, r.2)
  | none =>
    let v := (if laneSigned T then c.toInt else c.toNat) + (js.map (fun j => laneInt T x j * laneInt T y j)).sum
    if laneSigned T then clampS v else clampZ v
/-- A right shift that rounds half up (R175). -/
def halfUp (x : Int) (n : Nat) : Int := if n = 0 then x else (x + 2 ^ (n - 1)) / 2 ^ n

/-! ## Values that cross strands (R184 to R187) -/

/-- The number of strands of a team, all passes. -/
def Team.count (t : Team) : Nat := 32 * t.passes
/-- Register `r` of strand `j` with its tag, or 0 with tag 0 past the team (Table 9-10). -/
def fromStrand (t : Team) (vd r : RegField) (j : Nat) : Out :=
  if j < t.count then Out.tagged vd (t.val j r.toNat) (t.tag j r.toNat) 0 else Out.one vd 0 0
/-- The active strands whose register `r` has bit 0 set. -/
def votesFor (t : Team) (i : Instr) (r : RegField) : List Nat := (t.active i).filter (fun k => (t.val k r.toNat).getLsbD 0)
/-- Bits t set where strand 32q + t is in the list. -/
def ballotWord (ks : List Nat) (q : Nat) : Word :=
  (List.range 32).foldl (fun w j => if 32 * q + j ∈ ks then w ||| 1 <<< j else w) 0
/-- The place a slide takes element x from (R185): up or down by `n` of `total`, the edge where `edge` is set. -/
def slidePlace (up edge : Bool) (total x n : Nat) : Option Nat :=
  let y : Int := if up then (x : Int) - n else x + n
  if 0 ≤ y ∧ y < total then some y.toNat else if edge then some (if up then 0 else total - 1) else none
/-- The elements a slide reads in the active strands. -/
def slideReads (t : Team) (i : Instr) (up edge : Bool) (T n : Nat) : List Nat :=
  (t.active i).flatMap (fun k => (List.range (eltN T)).filterMap (fun j => slidePlace up edge (t.count * eltN T) (k * eltN T + j) n))
/-- A slide's result in strand k. -/
def slideOut (t : Team) (vd r : RegField) (up edge : Bool) (T n k : Nat) : Out :=
  Out.tagged vd (word (packElts (eltW T) ((List.range (eltN T)).map (fun j =>
    match slidePlace up edge (t.count * eltN T) (k * eltN T + j) n with
    | some y => bits (t.val (y / eltN T) r.toNat).toNat (eltW T * (y % eltN T)) (eltW T)
    | none => 0)))) (BitVec.ofNat 4 T) 0
/-- One step of a reduction (Table 9-11): 0 adds, 1 takes the minimum, 2 the maximum. -/
def reduceStep (o kind T mode x y : Nat) : Nat × Flags :=
  let fl := fun f : Fmt => fun x y : Nat =>
    match o with
    | 0 => fpSum f mode (f.dec x) (f.dec y)
    | 1 => fpPick f false x y
    | _ => fpPick f true x y
  let int := fun x y : Int =>
    match o with
    | 0 => x + y
    | 1 => min x y
    | _ => max x y
  let a := BitVec.ofNat 32 x
  let b := BitVec.ofNat 32 y
  match kind with
  | 0 => ((BitVec.ofInt 32 (int a.toInt b.toInt)).toNat, 0)
  | 1 => ((BitVec.ofInt 32 (int a.toNat b.toNat)).toNat, 0)
  | 2 => fl Fmt.f32 x y
  | 3 => fl Fmt.f64 x y
  | _ =>
    let es := (List.range (laneCount T)).map (fun j =>
      laneRes T (fun f => fl f (laneNat T a j) (laneNat T b j)) (int (laneInt T a j) (laneInt T b j)))
    (packElts (laneBits T) (es.map (·.1)), es.foldl (fun f e => f ||| e.2) 0)
/-- `pair_tree` of the values present, with the flags of every step (R91, R186). -/
def reduceTree (o kind T mode : Nat) (l : List (Option Nat)) : Option (Nat × Flags) :=
  pairTree (fun a b => ((reduceStep o kind T mode a.1 b.1).1, a.2 ||| b.2 ||| (reduceStep o kind T mode a.1 b.1).2))
    (l.map (Option.map (fun v => (v, (0 : Flags)))))
/-- The operands of a reduction by strand number, those of strands below `n` alone (R186, R187). -/
def reduceList (t : Team) (i : Instr) (kind : Nat) (r : RegField) (n : Nat) : List (Option Nat) :=
  (List.range t.count).map (fun k =>
    if k ∈ t.active i ∧ k < n then some (if kind = 3 then (t.pair k r.toNat).toNat else (t.val k r.toNat).toNat) else none)
/-- A reduction's result: a pair under `.D`, else a register with tag T under `.P`. -/
def reduceOut (vd : RegField) (kind T : Nat) (r : Nat × Flags) : Out :=
  if kind = 3 then Out.pair vd r.1 r.2 else Out.tagged vd (word r.1) (BitVec.ofNat 4 (if kind = 4 then T else 0)) r.2
/-- What an empty scan gives (R187). -/
def scanIdentity (kind T : Nat) : Nat × Flags :=
  (match kind with
   | 2 => 0x80000000
   | 3 => 0x8000000000000000
   | 4 => if (laneFmt T).isSome then packElts (laneBits T) (List.replicate (laneCount T) (2 ^ (laneBits T - 1))) else 0
   | _ => 0, 0)
/-- Under `.P` every active strand carries one tag from 1 to 12 (Table 9-11). -/
def reduceTags (t : Team) (i : Instr) (kind : Nat) (r : RegField) : Prop :=
  kind = 4 → ∃ T ∈ packTags, ∀ k ∈ t.active i, tagOf t k r = T

/-! ## Conversions and pairing blocks (R177 to R183) -/

/-- Elements per register of a conversion code (Table 9-9). -/
def cvtCount (c : Nat) : Nat := if c = 0 ∨ c = 13 ∨ c = 14 then 1 else laneCount c
/-- The floating format of a conversion code. -/
def cvtFloat (c : Nat) : Option Fmt := if c = 0 then some Fmt.f32 else laneFmt c
/-- Element j of a register in the source format, as an exact value. -/
def cvtSource (c : Nat) (x : Word) (j : Nat) : FV :=
  match cvtFloat c with
  | some f => f.dec (if c = 0 then x.toNat else laneNat c x j)
  | none => intFV (if c = 13 then x.toInt else if c = 14 then x.toNat else laneInt c x j)
/-- A value in the destination format (R178): floats by `round_to`, floats to integers by R171, integers clamped. -/
def cvtResult (mode sf df : Nat) (v : FV) : Nat × Flags :=
  match cvtFloat df with
  | some f => orNan f [v] (if v.isInf then (f.infEnc v.neg, if f.infs then 0 else flNv) else f.round mode v)
  | none =>
    let w := if df = 13 ∨ df = 14 then 32 else laneBits df
    let sg := df = 13 ∨ laneSigned df = true
    match cvtFloat sf with
    | some _ =>
      let r := fpToInt mode (if sg then -2 ^ (w - 1) else 0) (if sg then 2 ^ (w - 1) - 1 else 2 ^ w - 1) v
      ((r.1 % 2 ^ w).toNat, r.2)
    | none => clampBits (decide sg) w ⌊v.rat⌋
/-- The element is an outlier under the append mode (R87). -/
def cvtOutlier (mode df : Nat) (v : FV) : Prop :=
  (df = 5 ∨ df = 6) ∧ (v.isNan = true ∨ v.isInf = true ∨ ∀ f, cvtFloat df = some f → (f.round mode v).2 &&& flOf ≠ 0)
/-- Source registers a `CVT` reads. -/
def cvtRegs (a : Ter) : Nat := if cvtCount (cvtSf a) < cvtCount (cvtDf a) then cvtCount (cvtDf a) / cvtCount (cvtSf a) else 1
/-- Element i of the result of a `CVT`, as the value converted. -/
def cvtValue (t : Team) (a : Ter) (k i : Nat) : FV :=
  let m := cvtJ a * cvtCount (cvtDf a) + i
  cvtSource (cvtSf a) (t.val k (a.va.toNat + m / cvtCount (cvtSf a))) (m % cvtCount (cvtSf a))
/-- A strand's result of a `CVT`; elements for which `out` holds are written as +0 and set no flag. -/
def cvtOut (t : Team) (a : Ter) (k : Nat) (out : Nat → Bool) : Out :=
  let r := fun i => if out i then (0, 0) else cvtResult (modeOf t a.m) (cvtSf a) (cvtDf a) (cvtValue t a k i)
  if cvtCount (cvtDf a) = 1 then Out.one a.vd (word (r 0).1) (r 0).2 else lanesOut a.vd (cvtDf a) (cvtDf a) r
/-- The leader's outlier list stands in a pair without poison: an aligned pointer to global or scratchpad space, to no
software-managed page (R86). -/
def listGood (s : State) (t : Team) (i : Instr) (vb : RegField) : Prop :=
  ∀ l, (t.active i).head? = some l → t.clean l vb.toNat ∧ t.clean l (vb.toNat + 1) ∧
    ∃ sp sel x, PtrFields sp sel x ∧ sp ≠ 2 ∧ x % 8 = 0 ∧ t.pair l vb.toNat = tagged sp sel x ∧
      (sp = 0 → ∀ tr, leafFor s (s.ctxOf t) x = .ok tr → tr.coh = 0)
/-- The active strands of a pass. -/
def inPass (t : Team) (i : Instr) (p : Nat) : List Nat := (t.active i).filter (fun k => k / 32 = p)
/-- Element e of pass p as `pb_encode` gives it (R84): +0 for an inactive strand. -/
def blockElt (t : Team) (i : Instr) (va : RegField) (tag ehi elo p e : Nat) : Nat :=
  if 32 * p + e ∈ t.active i then (pbEncode (Fmt.f32.dec (t.val (32 * p + e) va.toNat).toNat) ehi elo (pbM tag)).getD 0 else 0
/-- Word w of the block of pass p (R81, R181). -/
def blockWord (t : Team) (i : Instr) (va : RegField) (tag ehi elo p w : Nat) : Word :=
  if w < (if tag = 13 then 8 else if tag = 14 then 7 else 4) then
    word (packElts (eltW tag) ((List.range (eltN tag)).map (fun j =>
      if w * eltN tag + j < 32 then blockElt t i va tag ehi elo p (w * eltN tag + j) else 0)))
  else 0
/-- `t` with the blocks of every pass that has an active strand in register `vd`, and their scale pairs in `vs` (R180, R181);
`nx` where the encoded value differs (R84), `nv` under a scale byte of 255 (R85). -/
def packed (t : Team) (i : Instr) (vd va : RegField) (vs : Option Nat) (tag : Nat) (sc : Nat → Nat × Nat) : Team :=
  { t with strands := t.strands.mapIdx (fun k x =>
    if inPass t i (k / 32) = [] then x
    else
      let e := sc (k / 32)
      let nan := e.1 = 255 ∨ e.2 = 255
      let x := x.set vd.toNat (if nan then 0 else blockWord t i va tag e.1 e.2 (k / 32) (k % 32)) (BitVec.ofNat 4 tag)
      let x := match vs with | some r => x.set r (word (e.1 * 256 + e.2)) 0 | none => x
      if k ∈ t.active i then
        let v := Fmt.f32.dec (t.val k va.toNat).toNat
        x.flag (if nan then flNv
          else if v.cmp (pbValue (pbM tag) (blockElt t i va tag e.1 e.2 (k / 32) (k % 32)) e.1 e.2) = some .eq then 0 else flNx)
      else x) }
/-- No active strand of a pass holds an outlier under the pass's scale pair (R84). -/
def noOutlier (t : Team) (i : Instr) (va : RegField) (tag : Nat) (sc : Nat → Nat × Nat) : Prop :=
  ∀ k ∈ t.active i, let e := sc (k / 32)
    e.1 = 255 ∨ e.2 = 255 ∨ pbEncode (Fmt.f32.dec (t.val k va.toNat).toNat) e.1 e.2 (pbM tag) ≠ none
/-- The scale pair `pb_scales` chooses for a pass (R83). -/
def chosenScale (t : Team) (i : Instr) (va : RegField) (tag p : Nat) : Nat × Nat :=
  pbScales ((inPass t i p).map (fun k => Fmt.f32.dec (t.val k va.toNat).toNat)) (pbM tag)
/-- The preset scale pair of a pass: bits 15:0 of `r` in its lowest active strand (R182, R183). -/
def presetScale (t : Team) (i : Instr) (r : RegField) (p : Nat) : Nat × Nat :=
  let w := t.val ((inPass t i p).headD 0) r.toNat
  ((w.extractLsb' 8 8).toNat, (w.extractLsb' 0 8).toNat)
/-! ## Accesses of memory (10_isa_memory.md) -/

/-- `q` is the valid pointer `p` moved by `d` bytes (R96, R188). -/
def MovedBy (p : DWord) (d : Int) (q : DWord) : Prop :=
  ∃ sp sel, ∃ x y : Nat, PtrFields sp sel x ∧ PtrFields sp sel y ∧ p = tagged sp sel x ∧ q = tagged sp sel y ∧ (y : Int) = x + d
/-- An access that reads finds no uncorrectable error at a byte (R117, R118). -/
def Sound (s : State) (nd : Need) (sp a : Nat) : Prop := nd.read = true → (sp, a) ∉ s.flaws
/-- Byte i of the n at pointer `q` passes every test (R96 to R98, R118, R349, R350) and lies at `l`. -/
def ByteAt (s : State) (t : Team) (nd : Need) (q : DWord) (n i : Nat) (l : Loc) : Prop :=
  ∃ sp sel x, PtrFields sp sel x ∧ PtrFields sp sel (x + i) ∧ q = tagged sp sel x ∧
    ((sp = 0 ∧ ∃ f, transFor s (s.ctxOf t) (s.isSup t) nd (x + i) = .ok f ∧ l = .mem (f.pa + (x + i - f.va)) f ∧
        (nd.poison = true → (f.pa + (x + i - f.va)) / 4096 ∉ s.memPsn ∧ Sound s nd 0 (f.pa + (x + i - f.va)))) ∨
      (sp = 1 ∧ inAlloc s (s.ctxOf t) (peerCore t.core sel) (x + i) = true ∧ l = .scr (peerCore t.core sel * 2 ^ 19 + (x + i)) ∧
        (nd.poison = true → (peerCore t.core sel * 2 ^ 19 + (x + i)) / 8 ∉ s.scrPsn ∧ Sound s nd 1 (peerCore t.core sel * 2 ^ 19 + (x + i)))) ∨
      (sp = 2 ∧ inWindow s (s.ctxOf t) sel x n = true ∧ l = .crv (sel * 2 ^ 34 + (x + i)) ∧
        (nd.poison = true → (sel * 2 ^ 34 + (x + i)) / 64 ∉ s.crvPsn ∧ Sound s nd 2 (sel * 2 ^ 34 + (x + i)))))
/-- The n bytes at `q` pass every test and lie at `ls`, lowest first (R103, R189). -/
def Located (s : State) (t : Team) (nd : Need) (q : DWord) (n : Nat) (ls : List Loc) : Prop :=
  ls.length = n ∧ ∀ i, ∀ h : i < ls.length, ByteAt s t nd q n i (ls[i])
/-- One access for each strand of a list. -/
def accesses (ks : List Nat) (L : Nat → List Loc) (B : Nat → List Byte) : List Access := ks.map (fun k => ⟨k, L k, B k⟩)
/-- How an access of `t` uses the L1. -/
def cached (t : Team) (a : Mem) (load : Bool) : CacheUse := ⟨memHint a, memPol a, t.pc.toNat / 8 % 256, load⟩
/-- How a strong access uses the L1 (R109). -/
def cachedStrong (t : Team) (a : Mem) (load : Bool) : CacheUse := ⟨1, memPol a, t.pc.toNat / 8 % 256, load⟩
/-- Bytes at places as `t` reads them. -/
def bytesRead (s : State) (t : Team) (ls : List Loc) : List Byte := ls.map (readLoc s t.core (s.ctxOf t))
/-- Bytes at places as a plain load of `t` reads them: on UO pages perhaps older ones (R298). -/
def plainRead (s : State) (t : Team) (ls : List Loc) : List Byte := ls.map (readPlain s t)
/-- The registers a load of `bs` writes (Table 10-2, R193): one or two bytes extended to 32 bits, else word i from bytes 4i
to 4i + 3, each with the tag. -/
def loaded (vd : RegField) (sx : Bool) (tag : BitVec 4) (bs : List Byte) : Out :=
  let b := fun j => nth (0 : Byte) bs j
  if bs.length = 1 then Out.tagged vd (if sx then (b 0).signExtend 32 else (b 0).setWidth 32) tag 0
  else if bs.length = 2 then Out.tagged vd (if sx then (b 1 ++ b 0).signExtend 32 else (b 1 ++ b 0).setWidth 32) tag 0
  else ⟨(List.range (bs.length / 4)).map (fun i => (vd.toNat + i, b (4 * i + 3) ++ b (4 * i + 2) ++ b (4 * i + 1) ++ b (4 * i), tag)), 0⟩
/-- The n bytes a store takes from registers `r` up of strand `k` (Table 10-2). -/
def stored (t : Team) (k : Nat) (r : RegField) (n : Nat) : List Byte :=
  (List.range n).map (fun j => (t.val k (r.toNat + j / 4)).extractLsb' (8 * (j % 4)) 8)
/-- Everything a release at a scope waits for has happened (R205, R300, R335): range operations, parts of split stores, and
write-throughs, to Done1, or to Done2 at device scope and wider. -/
def ReleaseDone (s : State) (t : Team) (scope : Nat) : Prop :=
  t.ranges = [] ∧ (∀ r ∈ t.rel, r.cells = []) ∧ ∀ x ∈ s.throughs, x.hnd = t.hnd → x.done1 = true ∧ scope < 5
/-- The scope at which a strong access releases: that of the code, but every observer's where it has a byte in a scratchpad or the
carve (R392). -/
def reach (a : Mem) (ls : List Loc) : Nat := if ls.any (fun l => match l with | .mem _ _ => false | _ => true) then 6 else memScope a
/-- What the order of a strong access waits for has happened (R196, Table 16-1): before a release, and before an sc access. -/
def OrderMet (s : State) (t : Team) (a : Mem) (ls : List Loc) : Prop := memOrd a ∈ [2, 3, 4] → ReleaseDone s t (reach a ls)
/-- The state after an operation whose order acquires: reads of UO pages after it see nothing older (R298). -/
def acquired (a : Mem) (t : Team) (s : State) : State := if memOrd a ∈ [1, 3, 4] then s.orderPoint t.hnd else s

/-- `i` loads `n` bytes in each active strand, from the pointer `P` gives it: it waits until its accesses are ready, or completes. -/
def Loads (i : Instr) (a : Mem) (n : Nat) (nd : Need) (sx : Bool) (P : Team → Nat → DWord → Prop) : Prop :=
  ∀ s t (Q : Nat → DWord) (L : Nat → List Loc), Ready i s t → (t.active i = [] → Completes i s t t s) ∧
    (t.active i ≠ [] → (∀ k ∈ t.active i, P t k (Q k) ∧ Located s t nd (Q k) n (L k)) →
      let xs := accesses (t.active i) L (fun _ => [])
      let r := prepAccess s t false (cached t a true) xs
      if r.2 then CompletesIn i s t (gives (endAccess r.1 t.core (placesOf xs)) t (t.active i)
        (fun k => loaded a.vd sx (memTag a) (plainRead r.1 t (L k))))
      else Waits i s t id r.1)
/-- The pointer of a strand's own pair, moved by the offset (R188). -/
def ownPtr (a : Mem) (t : Team) (k : Nat) (q : DWord) : Prop := MovedBy (t.pair k a.va.toNat) (memOff a) q
/-- The leader's pointer moved by the offset and the strand's index, scaled (R192); every register read is without poison. -/
def indexPtr (i : Instr) (a : Mem) (ix : RegField) (n : Nat) (t : Team) (k : Nat) (q : DWord) : Prop :=
  ∃ l, (t.active i).head? = some l ∧ t.clean l a.va.toNat ∧ t.clean l (a.va.toNat + 1) ∧ t.clean k ix.toNat ∧
    MovedBy (t.pair l a.va.toNat) (memOff a + ((t.val k ix.toNat).toNat * n : Nat)) q
/-- A strong access's pointer, aligned to its operand (R195). -/
def strongPtr (a : Mem) (t : Team) (k : Nat) (q : DWord) : Prop := ownPtr a t k q ∧ q.toNat % strongBytes a = 0

/-! ## One strand after another (R195, R299, R318) -/

/-- Strands act in turn, each on what the one before left: it makes its bytes writable, reads them, and writes what `f` gives from its
number, the old value and its operand. None where one must wait: for permission, or because its die writes the sector through. -/
def inTurn (t : Team) (u : CacheUse) (f : Nat → Nat → Nat → Option Nat × Flags) :
    List (Nat × List Loc × Nat) → State → Option (State × List (Nat × Nat × Flags))
  | [], s => some (s, [])
  | x :: xs, s =>
    let p := prepWrite s t.core (s.ctxOf t) u x.2.1
    let o := leNat (bytesRead p.1 t x.2.1)
    let y := f x.1 o x.2.2
    if p.2 ≠ [] ∨ (y.1.isSome ∧ throughSector p.1 (dieOf t.core) x.2.1 ≠ none) then none
    else
      let s' := match y.1 with
        | some v => writeLocs (noteOlder p.1 x.2.1) t.hnd (p.1.qOf t) t.core (x.2.1.zip (leBytes x.2.1.length v))
        | none => p.1
      (inTurn t u f xs s').map (fun r => (r.1, (x.1, o, y.2) :: r.2))
/-- Where strands begin to act: the store has been released (R66) and the team stands at it. -/
def turnStart (s : State) (t : Team) (xs : List Access) : State := (releaseEnd s t xs []).setTeam t.hnd (fun x => { x with status := .run })
/-- The first strand of `xs` must write through a sector that another device is home to: the message goes there with the bytes
`f` gives, conditional or not (R334), and the team is held until the home answers. -/
def FirstThrough (i : Instr) (s : State) (t : Team) (u : CacheUse) (f : Nat → Nat → Nat → Option Nat × Flags) (cond : Bool)
    (xs : List (Nat × List Loc × Nat)) (s0 : State) : Prop :=
  ∀ x rest v q, xs = x :: rest →
    let p := prepWrite s0 t.core (s0.ctxOf t) u x.2.1
    p.2 = [] → throughSector p.1 (dieOf t.core) x.2.1 = some q → devOf (q * 64) ≠ s.devid → (∀ l ∈ x.2.1, ∃ pa y, l = .mem pa y ∧ y.coh = 0) →
    (f x.1 (leNat (bytesRead p.1 t x.2.1)) x.2.2).1 = some v →
    ∃ s' t' m, exec i s = .next s' ∧ s'.team t.hnd = some t' ∧ t'.held = true ∧ t'.pc = t.pc ∧ t'.strands = t.strands ∧
      (devOf (q * 64), .writeThrough m q ((globAddrs x.2.1).zip (leBytes x.2.1.length v)) cond) ∈ s'.net ∧ m.agent = agentOf s (dieOf t.core) ∧
      ∃ y ∈ s'.throughs, y.hnd = t.hnd ∧ y.sector = q ∧ y.cond = cond ∧ y.done1 = false
/-- The parts of an access that lie in one sector each, by rising sector, with their bytes as a number. -/
def partsOf (x : Access) : List (Nat × List Loc × Nat) := (sectorParts x).map (fun p => (p.1, p.2.1, p.2.2.1))

/-- `i` stores `n` bytes from registers `src` up in each active strand, at the pointer `P` gives it, where strands overlap the higher
strand's remaining (R194); part by part, one strand after another, on an SO page and where `sc` holds (R299, R318). It waits until
its accesses are ready. -/
def Stores (i : Instr) (src : RegField) (n : Nat) (nd : Need) (u : Team → CacheUse) (sc : Bool) (P : Team → Nat → DWord → Prop)
    (ok : State → Team → List Loc → Prop) : Prop :=
  ∀ s t (Q : Nat → DWord) (L : Nat → List Loc), Ready i s t → (t.active i = [] → Completes i s t t s) ∧
    (t.active i ≠ [] → (∀ k ∈ t.active i, P t k (Q k) ∧ Located s t nd (Q k) n (L k)) →
      let xs := accesses (t.active i) L (fun k => stored t k src n)
      (ok s t (placesOf xs) →
        let seq := sc || onOrd 1 (placesOf xs)
        let ps := xs.flatMap partsOf
        let ys := if seq then ps.map (fun p => (⟨p.1, p.2.1, []⟩ : Access)) else xs
        let r := releasePrep s t (u t) ys
        let f : Nat → Nat → Nat → Option Nat × Flags := fun _ _ b => (some b, 0)
        if r.2 = false then Waits i s t id r.1
        else if seq = false then CompletesIn i s t (storePlain r.1 t xs)
        else (∀ x, inTurn t (u t) f ps (turnStart r.1 t ys) = some x → CompletesIn i s t x.1) ∧
          FirstThrough i s t (u t) f false ps (turnStart r.1 t ys)))

/-- A strong operand as a number. -/
def operandOf (t : Team) (k : Nat) (r : RegField) (n : Nat) : Nat :=
  if n = 8 then (t.pair k r.toNat).toNat else (t.val k r.toNat).toNat
/-- Table 10-3: the new value of an atomic operation on `w` bits, and its flags. -/
def atomResult (op w o b : Nat) : Nat × Flags :=
  let f := if w = 64 then Fmt.f64 else Fmt.f32
  let so := (BitVec.ofNat w o).toInt
  let sb := (BitVec.ofNat w b).toInt
  match op with
  | 0 => ((o + b) % 2 ^ w, 0)
  | 1 => (o &&& b, 0)
  | 2 => (o ||| b, 0)
  | 3 => (o ^^^ b, 0)
  | 4 => (if sb < so then b else o, 0)
  | 5 => (if so < sb then b else o, 0)
  | 6 => (if b < o then b else o, 0)
  | 7 => (if o < b then b else o, 0)
  | 8 => (b, 0)
  | 9 => (if b ≤ o then 0 else o + 1, 0)
  | 10 => (if o = 0 ∨ b < o then b else o - 1, 0)
  | 11 => fpSum f 0 (f.dec o) (f.dec b)
  | 12 => fpPick f false o b
  | _ => fpPick f true o b
/-- A read-modify-write instruction: `f` from the team, the strand and the old value, the new value if one is written. It waits for
what its order waits for and until its accesses are ready; then its strands act in turn. -/
def Atomics (i : Instr) (a : Mem) (vd : Option RegField) (f : Team → Nat → Nat → Option Nat × Flags) : Prop :=
  ∀ s t (Q : Nat → DWord) (L : Nat → List Loc), Ready i s t → (t.active i = [] → Completes i s t t s) ∧
    (t.active i ≠ [] → (∀ k ∈ t.active i, strongPtr a t k (Q k) ∧ Located s t (needStrong true true) (Q k) (strongBytes a) (L k)) →
      let xs := accesses (t.active i) L (fun _ => [])
      let u := cachedStrong t a true
      (¬OrderMet s t a (placesOf xs) → Waits i s t id s) ∧
      (OrderMet s t a (placesOf xs) →
        let r := releasePrep s t u xs
        let ps := (t.active i).map (fun k => (k, L k, 0))
        let g : Nat → Nat → Nat → Option Nat × Flags := fun k o _ => f t k o
        if r.2 then
          (∀ x, inTurn t u g ps (turnStart r.1 t xs) = some x →
            let old := fun k => (x.2.find? (fun y => y.1 == k)).map (·.2) |>.getD (0, 0)
            CompletesIn i s t (acquired a t (gives x.1 t (t.active i) (fun k => { (match vd with
              | some d => loaded d false 0 (leBytes (strongBytes a) (old k).1)
              | none => ⟨[], 0⟩ : Out) with fl := (old k).2 })))) ∧
          FirstThrough i s t u g true ps (turnStart r.1 t xs)
        else Waits i s t id r.1))

/-- The value of the last cell of a list at an address, else `d`. -/
def lastCell (cs : List (Nat × Byte)) (a : Nat) (d : Byte) : Byte := (cs.filter (fun c => c.1 == a)).getLast?.map (·.2) |>.getD d
/-- The bytes of stores that go to coherent global memory, by physical address. -/
def globalCells (cs : List (Loc × Byte)) : List (Nat × Byte) := cs.filterMap (fun x => match x.1 with | .mem pa _ => some (pa, x.2) | _ => none)
/-- The bytes of stores that go to scratchpads. -/
def scratchCells (cs : List (Loc × Byte)) : List (Nat × Byte) := cs.filterMap (fun x => match x.1 with | .scr k => some (k, x.2) | _ => none)
/-- The bytes of stores that go to the Hoop carve. -/
def carveCells (cs : List (Loc × Byte)) : List (Nat × Byte) := cs.filterMap (fun x => match x.1 with | .crv k => some (k, x.2) | _ => none)
/-- What the die sectors of a device are like (R329): one record for each sector of a die, in order, dirty bytes only under M, of the
sector itself, each address once, and in one die alone. -/
def SectorsSound (s : State) : Prop :=
  (s.secs.map (·.1)).Pairwise (· < ·) ∧ (∀ x ∈ s.secs, (x.2.dirty ≠ [] → x.2.st = .m) ∧ (x.2.dirty.map (·.1)).Nodup ∧
    ∀ c ∈ x.2.dirty, c.1 / 64 = x.1 % 2 ^ 42) ∧
  ∀ x ∈ s.secs, ∀ y ∈ s.secs, x.1 % 2 ^ 42 = y.1 % 2 ^ 42 → x.2.dirty ≠ [] → y.2.dirty ≠ [] → x.1 = y.1
/-! ## Range operations, subscriptions, barriers and stake channels -/

/-- The range of a range operation (R204): `n` bytes from `v` on in global memory, from the leader's pointer and count. -/
def RangeAt (t : Team) (l : Nat) (a : Mem) (v n : Nat) : Prop :=
  MovedBy (t.pair l a.va.toNat) (memOff a) (tagged 0 0 v) ∧ v < 2 ^ 48 ∧ n = (t.val l a.vb.toNat).toNat ∧ v + n ≤ 2 ^ 48
/-- Byte `pa` of physical memory lies in a word that the range touches, on a page whose `coh` attribute is `m` (R113). -/
def InRange (s : State) (t : Team) (write : Bool) (v n m pa : Nat) : Prop :=
  ∃ p ∈ pagesOf v n, ∃ f, transFor s (s.ctxOf t) (s.isSup t) ⟨write, false, false, false, false⟩ p.1 = .ok f ∧ f.coh = m ∧
    (f.pa + (p.1 - f.va)) / 4 ≤ pa / 4 ∧ pa / 4 ≤ (f.pa + (p.1 - f.va) + p.2 - 1) / 4
/-- A team that is owed the reply `w` of the range operation numbered `id`, in `vd` where bit 3 of `mod` asks for it (R205), its reads of
UO pages ordered up to `mark` (R298). -/
def owed (t : Team) (a : Mem) (id mark : Nat) (w : Word) : Team :=
  if topBit a.m then { t with mark := mark, ranges := t.ranges ++ [⟨id, some a.vd.toNat, w⟩], pend := sadd a.vd.toNat t.pend }
  else { t with mark := mark, ranges := t.ranges ++ [⟨id, none, w⟩] }
/-- Table 10-4: bytes discarded, the skip bit, and the words of the range cut off at each end. -/
def rangeWord (v n disc : Nat) (skip : Bool) : Word :=
  if n = 0 then 0
  else BitVec.ofNat 24 (min disc 0xffffff) ++ (if skip then (1 : BitVec 1) else 0) ++ (0 : BitVec 3) ++
    BitVec.ofNat 2 (3 - (v + n - 1) % 4) ++ BitVec.ofNat 2 (v % 4)
/-- Only the memory side of the device differs: nothing of a team, a scratchpad, a slot or the carve. -/
def MemorySide (s s' : State) : Prop :=
  s' = { s with mem := s'.mem, cores := s'.cores, clusters := s'.clusters, queues := s'.queues, tlb := s'.tlb, dir := s'.dir, txns := s'.txns,
                behind := s'.behind, net := s'.net, secs := s'.secs, throughs := s'.throughs, subsc := s'.subsc, asks := s'.asks, late := s'.late,
                names := s'.names, fresh := s'.fresh, due := s'.due, traffic := s'.traffic }
/-- Every die of the device that has a record of a sector goes by the epoch its homes hold for it (R339). -/
def Live (s : State) : Prop := ∀ x ∈ s.secs, s.current (x.1 / 2 ^ 42) = true
/-- A core's own dirty bytes of software-managed pages stand at no such address. -/
def noSmDirty (s : State) (core pa : Nat) : Prop := ∀ b ∈ (s.core core).blocks, b.sm = true → ∀ c ∈ b.dirtyCells, c.1 ≠ pa
/-- What the three range operations share: `drops` where the words leave the L1, `keeps` where dirty bytes of
software-managed pages are written and not discarded. -/
def RangeOps (i : Instr) (a : Mem) (write drops keeps : Bool) : Prop :=
  ∀ s t, Ready i s t →
    ((t.active i) = [] → Completes i s t t s) ∧
    ∀ l v n, (t.active i).head? = some l → RangeAt t l a v n →
      (∀ p ∈ pagesOf v n, ∃ f, transFor s (s.ctxOf t) (s.isSup t) ⟨write, false, false, false, false⟩ p.1 = .ok f) →
      (t.pending ≠ [] → Waits i s t id s) ∧
      (t.pending = [] → (∀ x ∈ s.throughs, x.die = dieOf t.core → x.done1 = true) → memRoom s t.core (s.qOf t) (s.recOf t).mbw = true →
      s.current (dieOf t.core) = true → s.behind = [] →
      ∃ disc id mark s1, Completes i s t (owed t a id mark (rangeWord v n disc false)) s1 ∧ MemorySide s s1 ∧
        (keeps = true → disc = 0) ∧
        (SectorsSound s → Live s → Memory.wf s.mem = true →
        (∀ pa, noSmDirty s t.core pa → cohByte s1 pa = cohByte s pa) ∧
        (drops = true → ∀ pa m, InRange s t write v n m pa → ∀ b ∈ (s1.core t.core).blocks, b.sm = (m != 0) →
          ¬(b.frame = pa / 256 ∧ b.lo ≤ pa % 256 / 4 ∧ pa % 256 / 4 ≤ b.hi)) ∧
        (∀ pa, InRange s t write v n 1 pa → noSmDirty s1 t.core pa) ∧
        (∀ pa, InRange s t write v n 0 pa → (s1.sec (dieOf t.core) (pa / 64)).own = t.core % 48 →
          ∀ c ∈ (s1.sec (dieOf t.core) (pa / 64)).dirty, c.1 ≠ pa)))

/-- The lines of a run that the leader's pointer and count name (R206), each on a coherent page, by physical line number. -/
def RunOf (s : State) (t : Team) (l : Nat) (a : Alu) (lines : List Nat) : Prop :=
  ∃ x, PtrFields 0 0 x ∧ t.pair l a.va.toNat = tagged 0 0 x ∧ x % 256 = 0 ∧
    lines.length = (t.val l (srcField a.b).toNat).toNat % 2 ^ 24 ∧ ∀ i, ∀ h : i < lines.length, x + 256 * i < 2 ^ 48 ∧
      ∃ f, transFor s (s.ctxOf t) (s.isSup t) ⟨false, false, true, false, false⟩ (x + 256 * i) = .ok f ∧
        lines[i] = (f.pa + (x + 256 * i - f.va)) / 256
/-- The die of `t` holds a subscription to a line for its context. -/
def subscribed (s' s : State) (t : Team) (line : Nat) : Bool :=
  s'.subsc.any (fun x => x.die == dieOf t.core && x.line == line && x.ctx == ctxId (s.ctxOf t))
/-- The die of `t` may ask its homes, nothing waits at them, and the number that the answer will be owed under is not in use. -/
def SubReady (s : State) (t : Team) : Prop :=
  s.current (dieOf t.core) = true ∧ Live s ∧ dieOf t.core ∉ s.barred ∧ s.behind = [] ∧ ∀ x ∈ s.teams, ∀ r ∈ x.subs, r.id < s.names

/-- The participants of the barrier that a team of group `g` names: the teams of the group that have not retired, or those of
every group of its cluster-level instance (R200). -/
def participants (s : State) (g : Group) (clu : Bool) : List (Nat × Nat) :=
  (if clu then s.groups.filter (fun h => clusterInst s h == clusterInst s g) else [g]).flatMap (fun h => h.live.map (fun j => (h.id, j)))
/-- A barrier after one more arrival: the phase ends with the last participant's (R200, R201). -/
def arrived (b : Barrier) (me : Nat × Nat) (ps : List (Nat × Nat)) : Barrier :=
  if ∀ p ∈ ps, p ∈ b.arr ++ [me] then ⟨b.phase + 1, []⟩ else ⟨b.phase, b.arr ++ [me]⟩
/-- The state with one barrier put. -/
def withBar (s : State) (g : Group) (clu : Bool) (n : Nat) (b : Barrier) : State :=
  match clu, clusterInst s g with
  | true, some x => { s with cbars := s.cbars.filter (fun y => y.1 != x) ++ [(x, (instBars s x).set n b)] }
  | true, none => s
  | false, _ => { s with groups := s.groups.map (fun h => if h.id = g.id then { h with bars := h.bars.set n b } else h) }
/-- The barrier a leader's `ARRIVE`, `WAITB` or `BAR` names: group or cluster scope by `mod`, the number from `va` (R201). -/
def Names (s : State) (t : Team) (a : Alu) (l : Nat) (g : Group) (clu : Bool) (n : Nat) : Prop :=
  s.grpOf t = some g ∧ clu = (subOf3 a.m == 3) ∧ (clu = true → (clusterInst s g).isSome) ∧
    n = (t.val l a.va.toNat).toNat % (if clu then 4 else 16)
/-- A cluster scope has a cluster-bound level to name, active strands or none (R201). -/
def scopeOk (s : State) (t : Team) (a : Alu) : Prop := ∃ g, s.grpOf t = some g ∧ (subOf3 a.m = 3 → (clusterInst s g).isSome)
/-- The team's arrival can perform now (R201). -/
def MayArrive (s : State) (t : Team) (g : Group) (clu : Bool) (n : Nat) : Prop :=
  ReleaseDone s t (if clu then 3 else 2) ∧ (t.grp, t.idx) ∉ (barOf s g clu n).arr

/-- The passes of a team that have an active strand. -/
def passesOf (t : Team) (i : Instr) : List Nat := (List.range t.passes).filter (fun p => (t.active i).any (fun k => k / 32 == p))
/-- The stake channel an instruction names on its team's pair (R209). -/
def channel (t : Team) (a : Alu) : Nat := pairOf t.core * 4 + a.m.toNat % 4
/-- The channel is nobody's, or the context's (R209). -/
def chanOpen (s : State) (t : Team) (a : Alu) : Prop := ∀ x, (s.chan (channel t a)).owner = some x → x = ctxId (s.ctxOf t)
/-- The state with the channel named by the team's context and group, and its entries put (R209). -/
def withChan (s : State) (t : Team) (a : Alu) (es : List (List (Word × BitVec 4))) : State :=
  { s with
    chans := aset (channel t a) ⟨some (ctxId (s.ctxOf t)), sadd t.grp (s.chan (channel t a)).groups, es⟩ s.chans
    groups := s.groups.map (fun g => if g.id = t.grp then { g with chans := sadd (channel t a) g.chans } else g) }
/-! ## The matrix array (11_isa_matrix_engines.md) -/

/-- The number of n little-endian bytes from `o`. -/
def bytesNat (g : Nat → Byte) (o n : Nat) : Nat := leNat ((List.range n).map (fun i => g (o + i)))
/-- Table 11-1: native depth and, for the formats of 32-element blocks, tag. -/
def depthOf (f : Nat) : Nat := if f < 2 then 32 else if f < 6 then 64 else if f = 6 then 128 else 8
/-- Element k of a row or column in format `f` (R215): `d` its data bytes, `sc` the bytes of its scale pairs. -/
def arrayElt (f : Nat) (d sc : Nat → Byte) (k : Nat) : FV :=
  match f with
  | 0 => Fmt.bf16.dec (bytesNat d (2 * k) 2)
  | 1 => Fmt.f16.dec (bytesNat d (2 * k) 2)
  | 2 => Fmt.e4m3.dec (d k).toNat
  | 3 => Fmt.e5m2.dec (d k).toNat
  | 4 => pbValue 6 (bytesNat d (32 * (k / 32) + 4 * (k % 32 / 4)) 4 / 2 ^ (8 * (k % 4)) % 2 ^ 8) (sc (2 * (k / 32) + 1)).toNat (sc (2 * (k / 32))).toNat
  | 5 => pbValue 4 (bytesNat d (28 * (k / 32) + 4 * (k % 32 / 5)) 4 / 2 ^ (6 * (k % 32 % 5)) % 2 ^ 6) (sc (2 * (k / 32) + 1)).toNat (sc (2 * (k / 32))).toNat
  | 6 => pbValue 2 (bytesNat d (16 * (k / 32) + 4 * (k % 32 / 8)) 4 / 2 ^ (4 * (k % 8)) % 2 ^ 4) (sc (2 * (k / 32) + 1)).toNat (sc (2 * (k / 32))).toNat
  | _ => Fmt.f64.dec (bytesNat d (8 * k) 8)
/-- Row (or column) `r` of a slot: data from byte 64r, scales from byte 8r of the side area, or of the scratchpad from `area`. -/
def arrayRow (s : State) (core slot f : Nat) (area : Option Nat) (r k : Nat) : FV :=
  let base := (core * 128 + slot) * 2304
  arrayElt f (fun o => s.slotByte (base + 64 * r + o)) (fun o => match area with
    | some x => s.scrByte (core * 2 ^ 19 + x + 8 * r + o)
    | none => s.slotByte (base + 2048 + 8 * r + o)) k
/-- A value rounded to the accumulator format, RNE (R90). -/
def toAcc (acc32 : Bool) (x : FV) : FV := if acc32 then Fmt.f32.dec (Fmt.f32.round 0 x).1 else kaDec (kaRound 0 x).1
/-- The registers that hold an accumulator value (R220). -/
def accumWords (acc32 : Bool) (x : FV) : List Word := if acc32 then [BitVec.ofNat 32 (Fmt.f32.round 0 x).1] else kaWords (kaRound 0 x).1
/-- The loop of R90: groups of eight exact products, each rounded once. -/
def dotRow (acc32 : Bool) (K : Nat) (c : FV) (a b : Nat → FV) : FV :=
  (List.range (K / 8)).foldl (fun acc g =>
    toAcc acc32 (FV.sum 0 (acc :: (List.range 8).map (fun i => (a (8 * g + i)).mul (b (8 * g + i)))))) c
/-- Element j of a strand's accumulator at `vd`; none where a triple's guard is wrong (R220, R89). -/
def accumElt (t : Team) (acc32 : Bool) (vd k j : Nat) : Option FV :=
  if acc32 then some (Fmt.f32.dec (t.val k (vd + j)).toNat)
  else (kaOf (t.val k (vd + 3 * j)) (t.val k (vd + 3 * j + 1)) (t.val k (vd + 3 * j + 2))).map kaDec
/-- Registers an accumulator of N columns spans (R218). -/
def accumSpan (acc32 : Bool) (n : Nat) : Nat := if acc32 then n else 3 * n
/-- The accumulator rows of the active strands read without a poison or integrity fault. -/
def AccumGood (t : Team) (ks : List Nat) (acc32 : Bool) (vd n : Nat) : Prop :=
  ∀ k ∈ ks, (∀ j < accumSpan acc32 n, t.clean k (vd + j)) ∧ ∀ j < n, (accumElt t acc32 vd k j).isSome
/-- A field of the format-block word. -/
def fbField (x : DWord) (lo len : Nat) : Nat := (x.extractLsb' lo len).toNat
/-- The tests of R217 that `MMA` makes. -/
def FormatOk (x : DWord) (acc32 : Bool) : Prop :=
  fbField x 48 4 < 8 ∧ fbField x 52 4 < 8 ∧ fbField x 56 4 = 0 ∧ fbField x 62 2 = 0 ∧ fbField x 38 10 = 0 ∧
  (fbField x 48 4 = 7 ↔ fbField x 52 4 = 7) ∧ ¬(fbField x 48 4 = 7 ∧ acc32 = true)
/-- A format whose scales stand in scratchpad, and where (Table 11-2): none for the side area and for other formats. -/
def scaleAt (x : DWord) (isB : Bool) : Option Nat :=
  let f := fbField x (if isB then 52 else 48) 4
  if 4 ≤ f ∧ f ≤ 6 ∧ x.getLsbD (if isB then 61 else 60) then some (fbField x (if isB then 19 else 0) 19) else none
/-- A scale area of `n` pairs rows passes its tests (R217, R118). -/
def AreaOk (s : State) (t : Team) (off n : Nat) : Prop :=
  off % 2 = 0 ∧ (∃ g, s.grpOf t = some g ∧ g.sbase ≤ off ∧ off + 8 * n ≤ g.sbase + g.sbytes) ∧
    ∀ i < 8 * n, (t.core * 2 ^ 19 + off + i) / 8 ∉ s.scrPsn
/-- The group of `t` owns a slot of its core. -/
def owns (s : State) (t : Team) (n : Nat) : Prop := n < 128 ∧ (n, t.grp) ∈ (s.core t.core).slots
/-- `t` with a result outstanding and its registers locked (R219, R221). -/
def issued (t : Team) (m : MatPend) : Team :=
  { t with lock := (List.range m.span).foldl (fun l i => sadd (m.base + i) l) t.lock, mat := t.mat ++ [m] }
/-- The words an `MMA` computes for strand k (R219, R90). -/
def mmaWords (s : State) (t : Team) (a : MmaF) (x : DWord) (ab bs K n k : Nat) : List Word :=
  (List.range n).flatMap (fun j => accumWords a.acc32 (dotRow a.acc32 K
    (if a.clr then .fin false 0 0 else (accumElt t a.acc32 a.vd.toNat k j).getD (.nan false))
    (arrayRow s t.core (ab + k / 32) (fbField x 48 4) ((scaleAt x false).map (· + 256 * (k / 32))) (k % 32))
    (arrayRow s t.core bs (fbField x 52 4) (scaleAt x true) j)))
/-- The results of an outstanding instruction written, tag 0, and the instruction gone (R219). -/
def wrote (t : Team) (m : MatPend) (vals : List (Nat × List Word)) : Team :=
  { t with
    strands := t.strands.mapIdx (fun k x => (vals.filter (fun v => v.1 == k)).foldl (fun x v =>
      (v.2.mapIdx (fun i w => (m.base + i, w))).foldl (fun x w => x.set w.1 w.2 0) x) x)
    mat := t.mat.eraseP (fun y => y == m) }
/-- The corrections of an outlier list that fall on strand k, in order, applied to column j (R225). -/
def corrected (acc32 : Bool) (es : List (Nat × Word)) (h k : Nat) (b : Nat → FV) (c : FV) : FV :=
  (es.filter (fun e => e.1 / 32 == k)).foldl (fun c e =>
    toAcc acc32 (FV.sum 0 [c, (Fmt.f32.dec e.2.toNat).mul (b (32 * h + e.1 % 32))])) c
/-- Entry i of an outlier list read from the bytes of its entries (Table 5-9). -/
def listEntry (bs : List Byte) (i : Nat) : Nat × Word :=
  (leNat ((bs.drop (8 * i)).take 4), BitVec.ofNat 32 (leNat ((bs.drop (8 * i + 4)).take 4)))
/-! ## Engine commands (R228 to R243) -/

/-- A scratchpad descriptor of Table 11-7: the core and offset it names. -/
def ScrDesc (g : Group) (d core off : Nat) : Prop := d < 2 ^ 23 ∧ d / 2 ^ 19 < 12 ∧ core = clusterOf g.core * 12 + d / 2 ^ 19 ∧ off = d % 2 ^ 19
/-- A slot descriptor of Table 11-7: slot and byte, side area from 2,048 on. -/
def SlotDesc (d slot off : Nat) : Prop :=
  d < 2 ^ 19 ∧ slot = d / 2 ^ 12 ∧
    ((d / 2 ^ 11 % 2 = 0 ∧ off = d % 2 ^ 11) ∨ (d / 2 ^ 11 % 2 = 1 ∧ d % 2 ^ 11 < 256 ∧ off = 2048 + d % 2 ^ 11))
/-- A local descriptor of either form, `slot` choosing it. -/
def DescAt (g : Group) (slot : Bool) (d : Nat) (l : ELoc) : Prop :=
  if slot then ∃ k o, SlotDesc d k o ∧ l = .slot k o else ∃ c o, ScrDesc g d c o ∧ l = .scr c o
/-- The group may use n local bytes at a place (R230). -/
def LocalOk (s : State) (g : Group) (l : ELoc) (n : Nat) : Prop :=
  match l with
  | .scr c o => o + n ≤ 2 ^ 19 ∧ ∀ i < n, inAlloc s g.ctx c (o + i) = true
  | .slot k o => k < 128 ∧ (k, g.id) ∈ (s.core g.core).slots ∧ if o < 2048 then o + n ≤ 2048 else o + n ≤ 2304
  | _ => True
/-- A pointer to space 0 or to a scratchpad of the cluster, and the place it names (R229, R151). -/
def PtrAt (g : Group) (p : DWord) (l : ELoc) : Prop :=
  (∃ x, PtrFields 0 0 x ∧ p = tagged 0 0 x ∧ l = .glob x) ∨
    ∃ sel x, PtrFields 1 sel x ∧ p = tagged 1 sel x ∧ l = .scr (clusterOf g.core * 12 + sel) x
/-- A pointer to n bytes of the group's allocation in the issuing core's scratchpad, aligned (R229). -/
def OwnAt (g : Group) (p : DWord) (n align off : Nat) : Prop :=
  p = tagged 1 (rankOf g.core) off ∧ PtrFields 1 (rankOf g.core) off ∧ off % align = 0 ∧ g.sbase ≤ off ∧ off + n ≤ g.sbase + g.sbytes
/-- The value of n bytes of the issuing core's scratchpad without poison (R118). -/
def ScrValue (s : State) (g : Group) (off n v : Nat) : Prop :=
  (∀ i < n, (g.core * 2 ^ 19 + off + i) / 8 ∉ s.scrPsn) ∧ v = bytesNat (fun o => s.scrByte (g.core * 2 ^ 19 + o)) off n
/-- The leader's reading of a record in space 0 made ready (R229). -/
def recordPrep (s : State) (t : Team) (l : Nat) (ls : List Loc) : State × Bool :=
  prepAccess s t false ⟨0, 0, t.pc.toNat / 8 % 256, false⟩ [⟨l, ls, []⟩]
/-- A pointer to a record of 32 bytes in space 0, and where its bytes lie. -/
def RecordAway (s : State) (t : Team) (p : DWord) (ls : List Loc) : Prop :=
  ∃ x, p = tagged 0 0 x ∧ PtrFields 0 0 x ∧ x % 8 = 0 ∧ Located s t Need.rd p 32 ls
/-- A 32-byte record, in the group's allocation, or in space 0 and ready to be read as a load of the leader's (R229): its value, and the
state after the reading. -/
def Record32 (s : State) (t : Team) (g : Group) (l : Nat) (p : DWord) (v : Nat) (s0 : State) : Prop :=
  (∃ off, OwnAt g p 32 8 off ∧ ScrValue s g off 32 v ∧ (∀ i < 32, Sound s Need.rd 1 (g.core * 2 ^ 19 + off + i)) ∧ s0 = s) ∨
    ∃ ls, RecordAway s t p ls ∧ (recordPrep s t l ls).2 = true ∧ v = leNat (plainRead (recordPrep s t l ls).1 t ls) ∧
      s0 = endAccess (recordPrep s t l ls).1 t.core ls
/-- Where the reading of its record is not ready, the command waits. -/
def RecordWaits (c : XcF → Instr) : Prop :=
  ∀ a s t l g ls, Ready (c a) s t → (t.active (c a)).head? = some l → s.grpOf t = some g → RecordAway s t (t.pair l a.va.toNat) ls →
    (s.ecmds.filter (fun e => e.issuer == .team t.hnd)).length < 64 → (recordPrep s t l ls).2 = false →
    Waits (c a) s t id (recordPrep s t l ls).1
/-- Field lo to lo + len − 1 of a record. -/
def field (v lo len : Nat) : Nat := v / 2 ^ lo % 2 ^ len
/-- `i` issues a command with the effect `op` and the local sets `rd` and `wr`, `s0` the state its operands leave; at 64 outstanding it
waits (R228). -/
def Issues (i : Instr) (s s0 : State) (t : Team) (g : Group) (rep : Bool) (vd : Nat) (op : EOp) (rd wr : List (Nat × Nat × Nat)) : Prop :=
  if 64 ≤ (s.ecmds.filter (fun e => e.issuer == .team t.hnd)).length then Waits i s t id s
  else CompletesIn i s t (({ s0 with
      names := s0.names + 1
      ecmds := s0.ecmds ++ [{ id := s0.names, op := op, issuer := .team t.hnd, grp := g.id, q := g.q, ctx := s.ctxOf t, core := g.core,
                              pc := t.pc, sup := s.isSup t, rep := if rep then some vd else none, rd := rd, wr := wr,
                              moved := 0, wait := none, tries := 0, sent := false, peer := none, fin := none }] } : State).setTeam t.hnd
    (fun x => if rep then { x with pend := sadd vd x.pend } else x))
/-- An `XC` function: without an active strand no effect, else the command whose operands `P` accepts. -/
def Command (c : XcF → Instr)
    (P : State → Team → Group → Nat → DWord → DWord → EOp → List (Nat × Nat × Nat) → List (Nat × Nat × Nat) → State → Prop) : Prop :=
  ∀ a s t, Ready (c a) s t → (t.active (c a) = [] → Completes (c a) s t t s) ∧
    ∀ l g op rd wr s0, (t.active (c a)).head? = some l → s.grpOf t = some g → g.core = t.core →
      P s t g l (t.pair l a.va.toNat) (t.pair l a.vb.toNat) op rd wr s0 → Issues (c a) s s0 t g a.rep a.vd.toNat op rd wr
/-- Operands of the functions 0x00 to 0x04 (R230): `dir` the direction, `slot` the form of the descriptor, `glob` the space of
P. -/
def CopyArgs (toPtr slot glob : Bool) (s : State) (_ : Team) (g : Group) (_ : Nat) (p q : DWord) (op : EOp) (rd wr : List (Nat × Nat × Nat))
    (s0 : State) : Prop :=
  s0 = s ∧ ∃ a d, PtrAt g p a ∧ (glob = true ↔ ∃ x, a = .glob x) ∧ DescAt g slot (field q.toNat 0 32) d ∧
    let n := field q.toNat 32 20
    field q.toNat 52 12 = 0 ∧ n ≤ 524288 ∧ LocalOk s g a n ∧ LocalOk s g d n ∧
    (if toPtr then op = .move [(d, a, n)] true ∧ rd = eRange d n ∧ wr = eRange a n
     else op = .move [(a, d, n)] false ∧ rd = eRange a n ∧ wr = eRange d n)
/-- Operands of `.C2D` (R231, Table 11-8). -/
def GridArgs (s : State) (_ : Team) (g : Group) (_ : Nat) (p q : DWord) (op : EOp) (rd wr : List (Nat × Nat × Nat)) (s0 : State) : Prop :=
  s0 = s ∧ ∃ x off v d, p = tagged 0 0 x ∧ PtrFields 0 0 x ∧ OwnAt g q 16 8 off ∧ ScrValue s g off 16 v ∧
    (∀ i < 16, Sound s Need.rd 1 (g.core * 2 ^ 19 + off + i)) ∧
    DescAt g (decide (field v 32 1 = 1)) (field v 0 32) d ∧ field v 33 15 = 0 ∧ 1 ≤ field v 48 16 ∧ 1 ≤ field v 64 16 ∧
    let n := field v 48 16
    let row := fun r : Nat => d.plus (r * field v 80 16)
    let src := fun r : Nat => (x : Int) + r * (BitVec.ofNat 32 (field v 96 32)).toInt
    (∀ r < field v 64 16, LocalOk s g (row r) n) ∧
    (∀ k o, d = .slot k o → ∀ r < field v 64 16, (o < 2048 ↔ o + r * field v 80 16 < 2048)) ∧
    op = .move ((List.range (field v 64 16)).map (fun r => (.glob (if src r < 0 then 2 ^ 48 else (src r).toNat), row r, n))) false ∧
    rd = [] ∧ wr = (List.range (field v 64 16)).flatMap (fun r => eRange (row r) n)
/-- Operands of `.GATH` (R232, Table 11-9). -/
def GatherArgs (s : State) (_ : Team) (g : Group) (_ : Nat) (p q : DWord) (op : EOp) (rd wr : List (Nat × Nat × Nat)) (s0 : State) : Prop :=
  s0 = s ∧ ∃ x off v d, p = tagged 0 0 x ∧ PtrFields 0 0 x ∧ OwnAt g q 16 8 off ∧ ScrValue s g off 16 v ∧
    (∀ i < 16, Sound s Need.rd 1 (g.core * 2 ^ 19 + off + i)) ∧
    DescAt g (decide (field v 32 1 = 1)) (field v 0 32) d ∧ field v 33 31 = 0 ∧ field v 83 5 = 0 ∧ field v 88 3 ≤ 4 ∧ field v 91 5 = 0 ∧
    field v 112 16 = 0 ∧ 1 ≤ field v 96 16 ∧
    let n := field v 96 16
    let e := 2 ^ field v 88 3
    let io := field v 64 19
    io % 4 = 0 ∧ io + 4 * n ≤ 2 ^ 19 ∧ (∀ i < 4 * n, inAlloc s g.ctx g.core (io + i) = true) ∧ LocalOk s g d (e * n) ∧
    op = .gather x io n e d ∧ rd = [(129 + g.core, io, 4 * n)] ∧ wr = eRange d (e * n)
/-- Operands of the collectives (R236, Table 11-10): `.RSCAT` sends, `.AGATH` receives one block for each rank. -/
def CollArgs (fn : Nat) (s : State) (t : Team) (g : Group) (l : Nat) (p q : DWord) (op : EOp) (rd wr : List (Nat × Nat × Nat)) (s0 : State) :
    Prop :=
  ∃ v a b, Record32 s t g l p v s0 ∧ PtrAt g (BitVec.ofNat 64 (field v 0 64)) a ∧ PtrAt g (BitVec.ofNat 64 (field v 64 64)) b ∧
    field v 184 72 = 0 ∧ field v 180 4 ≤ 5 ∧ field v 176 4 ≤ 2 ∧ 1 ≤ field v 128 32 ∧
    let ranks := max 1 (match aget (field v 160 16) s.comms with | some c => c.ranks.length | none => 0)
    let len := field v 128 32 * (if field v 180 4 = 3 then 8 else if field v 180 4 = 1 ∨ field v 180 4 = 2 then 2 else 4)
    let ns := if fn = 0x10 then len * ranks else len
    let nr := if fn = 0x11 then len * ranks else len
    LocalOk s g a ns ∧ LocalOk s g b nr ∧
    op = .coll fn (field v 160 16) (field q.toNat 0 32) (field v 176 4) (field v 180 4) (field v 128 32) a b ∧
    rd = eRange a ns ∧ wr = eRange b nr
/-- Operands of the transfers (R237, Table 11-11). -/
def TransferArgs (put : Bool) (s : State) (t : Team) (g : Group) (l : Nat) (p q : DWord) (op : EOp) (rd wr : List (Nat × Nat × Nat))
    (s0 : State) : Prop :=
  ∃ v a y, Record32 s t g l p v s0 ∧ PtrAt g (BitVec.ofNat 64 (field v 0 64)) a ∧
    BitVec.ofNat 64 (field v 64 64) = tagged 0 0 y ∧ PtrFields 0 0 y ∧ field v 193 63 = 0 ∧
    let n := field v 128 32
    LocalOk s g a n ∧ op = .xfer put (field v 160 16) (field v 176 16) y a n (decide (field v 192 1 = 1)) (field q.toNat 0 32) ∧
    rd = (if put then eRange a n else []) ∧ wr = (if put then [] else eRange a n)

/-- How a command ends (R228): it is gone, `OPFENCE` no longer waits for it, and the team it came from has its reply. -/
def Ended (s s' : State) (e : ECmd) (st cnt : Nat) : Prop :=
  s'.ecmds = s.ecmds.filter (fun x => x.id != e.id) ∧
  ∀ h, e.issuer = .team h → (e.rep ≠ none ∨ st = 0) → ∃ mark,
    s'.teams = s.teams.map (fun t =>
      let t : Team := { t with opf := sdel e.id t.opf }
      match e.rep with
      | some r => if t.hnd = h then
          { giveEvery t r (BitVec.ofNat 24 (min cnt 0xffffff) ++ BitVec.ofNat 8 st) with pend := sdel r t.pend, mark := mark } else t
      | none => t)
/-- The byte at a local place of a command's core. -/
def placeByte (s : State) (core : Nat) (l : ELoc) : Byte :=
  match l with
  | .scr c o => s.scrByte (c * 2 ^ 19 + o)
  | .slot k o => s.slotByte ((core * 128 + k) * 2304 + o)
  | _ => 0
/-- A place in a scratchpad or a slot of 2,304 bytes. -/
def isLocal (l : ELoc) (n : Nat) : Prop :=
  match l with
  | .scr _ o => o + n ≤ 2 ^ 19
  | .slot k o => k < 128 ∧ o + n ≤ 2304
  | _ => False
/-! ## Special state, traps and the supervisor's instructions (12_isa_system.md) -/

/-- `i` takes the fault `tr`: nothing of it commits, its active strands are those reported (R342, R343); its group has started (R42). -/
def Faults (i : Instr) (s : State) (t : Team) (tr : Trap) : Prop := exec i s = .next (takeTrap (noteStart s t) t tr (t.active i) false i)
/-- The coordinates of strand x of team j of group g, level by level (R33): mixed-radix digits for each of the three bindings. -/
def levelDigits : List Level → Nat → Nat → Nat → List Nat
  | [], _, _, _ => []
  | l :: ls, x, j, g =>
    if l.domain = 0 then x % l.extent :: levelDigits ls (x / l.extent) j g
    else if l.domain = 1 then j % l.extent :: levelDigits ls x (j / l.extent) g
    else g % l.extent :: levelDigits ls x j (g / l.extent)
/-- `%lvl`i of strand k of a team (R33, R240). -/
def levelOf (lr : LaunchRec) (g : Group) (t : Team) (i k : Nat) : Nat :=
  if t.node then (if i = 0 then k else nth 0 (levelDigits lr.levels 0 0 g.gid) i) else nth 0 (levelDigits lr.levels k t.idx g.gid) i
/-- The content of the 32-bit names of Table 4-3 but `%lvl`, by selector and strand. -/
def nameWord (s : State) (t : Team) (sel k : Nat) : Option Word :=
  match sel with
  | 0x00 => some (BitVec.ofNat 32 k)
  | 0x01 => some (BitVec.ofNat 32 (k % 32))
  | 0x02 => some (BitVec.ofNat 32 (k / 32))
  | 0x03 => some (BitVec.ofNat 32 (t.idx % 16 + 16 * (t.hnd / 512 % 4)))
  | 0x10 => some (BitVec.ofNat 32 (t.core % 512 + 4096 * (t.core % 12)))
  | 0x11 => some (BitVec.ofNat 32 (t.core / 48))
  | 0x12 => some (BitVec.ofNat 32 (s.devid % 512))
  | 0x20 => some ((t.strand k).nsr.setWidth 32)
  | 0x21 => some t.tctl
  | 0x28 => some ((if t.pc.toNat % 64 = 0 then (0 : BitVec 16) else t.sigs).setWidth 32)
  | 0x29 => some (t.sigd.setWidth 32)
  | 0x2a => some t.mism
  | 0x30 => some (BitVec.ofNat 16 s.power.pool ++ (0 : BitVec 14) ++
      (if wantsToken s t.core then (1 : BitVec 1) else 0) ++ (if (s.core t.core).tok then (1 : BitVec 1) else 0))
  | _ => none
/-- The selectors of Table 4-3. -/
def knownName (sel : Nat) : Prop := sel ∈ [0, 1, 2, 3, 8, 9, 10, 11, 12, 13, 14, 15, 0x10, 0x11, 0x12, 0x18, 0x19, 0x20, 0x21, 0x28, 0x29, 0x2a, 0x30]
/-- One 64-bit word of a RAS record (Table 21-7). -/
def rasField (r : RasRec) (w : Nat) : DWord :=
  match w with
  | 0 => BitVec.ofNat 64 r.seq
  | 1 => BitVec.ofNat 64 (r.seq / 2 ^ 64)
  | 2 => r.time
  | 3 => BitVec.ofNat 16 r.agent ++ BitVec.ofNat 16 r.ctx ++ BitVec.ofNat 8 r.q ++ BitVec.ofNat 16 r.loc ++ BitVec.ofNat 8 r.kind
  | 4 => r.addr
  | 5 => r.detail
  | _ => 0
/-- A leader's pointer of a supervisor instruction: space 0, or 1 where `scr` allows it, aligned. -/
def SupPtr (t : Team) (l : Nat) (r : RegField) (scr : Bool) (align : Nat) : Prop :=
  ∃ sp sel x, PtrFields sp sel x ∧ (sp = 0 ∨ (scr = true ∧ sp = 1)) ∧ x % align = 0 ∧ t.pair l r.toNat = tagged sp sel x
/-- The cached leaves that a `TLBINV` drops (Table 12-2): those of a context, whatever the version of its descriptor (R347). -/
def dropped (kind ctx va : Nat) (e : Tlb) : Prop :=
  match kind with
  | 0 => ctxId e.ctx = ctx ∧ e.va ≤ va ∧ va < e.va + e.size
  | 1 => ctxId e.ctx = ctx
  | _ => True
/-- An access that began before the count of names stood at `n`, and that may have used a leaf that a `TLBINV` drops, has not performed
(R253): a write-through, a store whose last bytes are to come, or a range operation, of the context or, for `.ALL`, of any. -/
def Unperformed (s : State) (kind ctx n : Nat) : Prop :=
  let ours := fun t : Team => kind = 2 ∨ ctxId (s.ctxOf t) = ctx
  (∃ x ∈ s.throughs, x.id < n ∧ ∀ t, s.team x.hnd = some t → ours t) ∨
    ∃ t ∈ s.teams, ours t ∧ ((∃ r ∈ t.rel, r.id < n ∧ r.cells ≠ []) ∨ ∃ r ∈ t.ranges, r.id < n)
/-- Nothing that a team began is still under way: what its retirement, and its save, wait for (R47, R52). -/
def Quiet (s : State) (t : Team) : Prop :=
  (∀ e ∈ s.ecmds, e.issuer ≠ .team t.hnd) ∧ t.mat = [] ∧ t.rel = [] ∧ t.ranges = [] ∧ t.subs = [] ∧ t.rmw = none ∧
    ∀ x ∈ s.throughs, x.hnd ≠ t.hnd
/-- A value is still to be written to register `r` of a team: a reply, or a result of the matrix array. -/
def Owed (t : Team) (r : Nat) : Prop := r ∈ t.pend ∨ ∃ m ∈ t.mat, m.base ≤ r ∧ r < m.base + m.span
/-- A valid pointer. -/
def ValidPtr (p : DWord) : Prop := ∃ sp sel x, PtrFields sp sel x ∧ p = tagged sp sel x
/-! ## Faults and traps (21_faults_preemption.md), checks (14_checked_execution.md), fetching -/

/-- An instruction of a team, not a step of the device. -/
def ofTeam (i : Instr) : Prop := (toRaw i).isSome
/-- The 64 bytes of a handler strand's frame (Table 21-2). -/
def trapFrame (pc : BitVec 48) (tr : Trap) (k : Nat) : List Byte :=
  (List.range 64).map (fun o =>
    if o < 6 then pc.extractLsb' (8 * o) 8
    else if 8 ≤ o ∧ o < 16 then tr.addr.extractLsb' (8 * (o - 8)) 8
    else if o = 16 then BitVec.ofNat 8 tr.cause
    else if o = 17 then BitVec.ofNat 8 tr.prio
    else if o = 18 then BitVec.ofNat 8 tr.num
    else if o = 19 then (if tr.rstr = some k then 1 else 0)
    else if o = 20 then BitVec.ofNat 8 (tr.rstr.getD 0xffff)
    else if o = 21 then BitVec.ofNat 8 (tr.rstr.getD 0xffff / 256)
    else 0)
/-- The 64 bytes of a delivery record (Table 21-3). -/
def recordOf (d : Delivery) : List Byte :=
  (List.range 64).map (fun o =>
    if o < 6 then d.pc.extractLsb' (8 * o) 8
    else if 8 ≤ o ∧ o < 16 then d.trap.addr.extractLsb' (8 * (o - 8)) 8
    else if o = 16 then (if d.eng then 1 else 0)
    else if 20 ≤ o ∧ o < 24 then BitVec.ofNat 8 (d.hnd / 256 ^ (o - 20))
    else if o = 24 then BitVec.ofNat 8 d.q
    else if o = 25 then BitVec.ofNat 8 d.trap.cause
    else if o = 26 then BitVec.ofNat 8 d.trap.prio
    else if o = 27 then BitVec.ofNat 8 d.trap.num
    else if o = 28 then BitVec.ofNat 8 (d.trap.rstr.getD 0xffff)
    else if o = 29 then BitVec.ofNat 8 (d.trap.rstr.getD 0xffff / 256)
    else if o = 30 then BitVec.ofNat 8 d.ctx
    else if o = 31 then BitVec.ofNat 8 (d.ctx / 256)
    else if 32 ≤ o ∧ o < 36 then d.amsum.extractLsb' (8 * (o - 32)) 8
    else 0)
/-- The causes whose rows of Table 21-1 name the user handler. -/
def handlerCauses : List Nat := [0x01, 0x03, 0x07, 0x0a, 0x0b, 0x0c, 0x0d, 0x0e, 0x10, 0x11]
/-- The causes whose rows name the supervisor. -/
def supervisorCauses : List Nat := [0x02, 0x04, 0x05, 0x06, 0x08, 0x09, 0x0f]
/-- The context of `t` names a handler at `uh`, and `t` can enter it (R343). -/
def HasHandler (s : State) (t : Team) (uh : Nat) : Prop :=
  (∃ c, s.ctx (s.ctxOf t) = some c ∧ c.desc.uhnd = uh) ∧ uh ≠ 0 ∧ t.act = none ∧ 18 ≤ t.nreg ∧ s.isSup t = false
/-- The handler strands of a fault (R344). -/
def handlerStrands (t : Team) (tr : Trap) (act : List Nat) : List Nat := if tr.rstr = none then t.enabled else act
/-- The new stack pointer of a handler strand: v16:v17 lowered by 64 (R344). -/
def frameTop (t : Team) (k : Nat) : DWord := t.pair k 16 - 64
/-- A team in its handler activation (R344): counters, stack pointers, signature halves and what was saved for `ERET`. -/
def entered (t : Team) (hs : List Nat) (uh : Nat) (x : Activation) (ps : List Producer) : Team :=
  { t with
    strands := t.strands.mapIdx (fun k y =>
      let y := if k ∈ hs then (y.set 16 ((frameTop t k).extractLsb' 0 32) 0).set 17 ((frameTop t k).extractLsb' 32 32) 0 else y
      if y.ctr = 0xff then y else { y with ctr := if k ∈ hs then 0 else 1 })
    act := some x
    sigs := 0
    sigd := 0
    stepped := false
    held := false
    status := .run
    pc := BitVec.ofNat 48 uh
    prod := ps }
/-- The record the supervisor is given of a stopped team (R346, Table 21-3). -/
def deliveryOf (s : State) (t : Team) (tr : Trap) (act : List Nat) : Delivery :=
  { trap := tr, pc := t.pc, amsum := BitVec.ofNat 32 (sumWord act t.passes), eng := false, hnd := t.hnd, q := s.qOf t, ctx := s.ctxOf t }
/-- `t` stopped with its record, its claims not checked yet gone (R346, R254). -/
def stoppedBy (s : State) (t : Team) (d : Delivery) : State := dropClaims (s.putTeam { t with status := .stopped d, held := false }) t.hnd
/-- A mismatch of `t` (R286, R287): one entry of the sequence, four of the last 64 enter checked-only mode, and the working copy is gone. -/
def differed (t : Team) : Team :=
  let q := (true :: t.seq).take 64
  { t with
    mism := if t.mism = 0xffffffff then 0xffffffff else t.mism + 1
    seq := q
    chk := if t.chk = none ∧ 4 ≤ q.count true then some 4096 else t.chk
    checks := t.checks + 1
    work := none }
/-- The entry that an instruction made in the check sequence as number `n` turns into a mismatch (R289). -/
def turned (t : Team) (n : Nat) : Team :=
  let q := t.seq.set (t.checks - 1 - n) true
  { t with
    mism := if t.mism = 0xffffffff then 0xffffffff else t.mism + 1
    seq := q
    chk := if t.chk = none ∧ 4 ≤ q.count true then some 4096 else t.chk }
/-- No claim of a team waits to be checked (R281). -/
def Unclaimed (s : State) (h : Nat) : Prop := ∀ q ∈ s.claims, ∀ c ∈ q.2, c.hnd ≠ h
/-- The oldest claim of a team in the queue of its section is `c` (R281). -/
def Oldest (s : State) (h : Nat) (c : Claim) : Prop :=
  ((aget (h % 512 * 4 + h / 512 % 4) s.claims).getD []).find? (fun x => x.hnd == h) = some c
/-- The leaf that a fetch of `t` reads through, at a multiple of 4 with room for a base word in its block (R120, R121, R349). -/
def FetchAt (s : State) (t : Team) (l : Tlb) : Prop :=
  transFor s (s.ctxOf t) (s.isSup t) Need.fetch t.pc.toNat = .ok l
/-- The bytes at the program counter, to the end of their fetch block of 32 (R121): those of the core's instruction cache where it holds the
line since the group of `t` was placed (R123), else those the die reads, or on a software-managed page those at home. -/
def blockAt (s : State) (t : Team) (l : Tlb) : List Byte :=
  (List.range (32 - t.pc.toNat % 32)).map (fun i =>
    let pa := l.pa + (t.pc.toNat + i - l.va)
    match icLine s t pa with
    | some x => nth 0 x.bytes (pa % 64)
    | none => if l.coh = 0 then dieByte s (dieOf t.core) none pa else s.mem.get pa)
/-- The instruction that decoding finds at the program counter (R120, R121, R136). -/
def foundAt (s : State) (t : Team) (l : Tlb) : Option Instr :=
  if t.pc.toNat % 4 = 0 ∧ 8 ≤ (blockAt s t l).length then (decode ((blockAt s t l).take 16)).map (·.1) else none
/-- Every memory of the machine is in canonical form. -/
def Canonical (s : State) : Prop :=
  Memory.wf s.mem = true ∧ Memory.wf s.scr = true ∧ Memory.wf s.slotm = true ∧ Memory.wf s.crv = true
/-! ## Steps of the device (02_execution_model.md, 10 to 12, 21) -/

/-- A graph runs on a core: its group, and a walk that stands ready at a node of a kind (R240). -/
def WalkReady (s : State) (core walk kind : Nat) (g : Group) (y : Walk) : Prop :=
  ∃ cid, (s.core core).weaver.run = some (g.id, cid) ∧ s.group g.id = some g ∧ g.core = core ∧
    (s.core core).weaver.walks.find? (fun y => y.id == walk && y.st == .ready) = some y ∧ (s.core core).weaver.st ≠ 7 ∧
    field y.word 0 4 = kind ∧ (s.core core).weaver.forks = [] ∧ ((s.core core).weaver.walks.map (·.id)).Nodup
/-- A walk has gone on to node `x`, the one it stood at counted complete (R238, R240): ended at 0xFFFF, ready at a valid node, or
ended with the graph's status 0x07. -/
def WentOn (s s' : State) (core walk x : Nat) (g : Group) : Prop :=
  let w := (s.core core).weaver
  let w' := (s'.core core).weaver
  w'.run = w.run ∧ w'.done = w.done + 1 ∧
  (x = 0xffff → w'.walks = w.walks.filter (fun y => y.id != walk) ∧ (w'.walks = [] → Event.graphComplete core ∈ s'.due)) ∧
  (x ≠ 0xffff →
    (∀ v, nodeBits s' g x = some v → nodeOk s' g v = true → nodeEvent core walk (field v 0 4) ∈ s'.due ∧
      w'.walks = w.walks.map (fun y => if y.id = walk then { y with node := x, word := v, st := .ready } else y)) ∧
    ((∀ v, nodeBits s' g x = some v → nodeOk s' g v = false) → w'.st = 7 ∧ w'.bad = x ∧ w'.walks = w.walks.filter (fun y => y.id != walk)))
/-- The 16-bit counter in a node's record (Table 11-13). -/
def nodeCounter (s : State) (g : Group) (x : Nat) : Nat := bytesNat (fun o => s.scrByte (g.core * 2 ^ 19 + g.sbase + 32 * x + o)) 2 2
/-- Nothing of the scratchpads differs but a node's counter, which is `n`. -/
def CounterIs (s s' : State) (g : Group) (x n : Nat) : Prop :=
  nodeCounter s' g x = n ∧ ∀ k, ¬(g.core * 2 ^ 19 + g.sbase + 32 * x + 2 ≤ k ∧ k < g.core * 2 ^ 19 + g.sbase + 32 * x + 4) → s'.scrByte k = s.scrByte k
/-- The condition word a node names (R240), free of poison. -/
def CondIs (s : State) (g : Group) (v n : Nat) : Prop := ScrValue s g (field v 64 19) 4 n
/-- A team as it starts (R36): counters, flags, signature halves and every register 0, but for the stack top in v16:v17, the
arguments in v20:v21 and the scratchpad pointer in v22:v23, each where it lies below N. -/
def Starts (t : Team) (g : Group) (c : CtxDesc) (idx nreg strands slot scr entry : Nat) (tctl : Word) (args : DWord) : Prop :=
  t.grp = g.id ∧ t.idx = idx ∧ t.nreg = nreg ∧ t.strands.length = strands ∧ t.pc = BitVec.ofNat 48 entry ∧ t.tctl = tctl ∧ t.sigs = 0 ∧ t.sigd = 0 ∧
  t.mism = 0 ∧ t.act = none ∧ t.lock = [] ∧ t.mat = [] ∧ t.pend = [] ∧ t.evf = false ∧ t.bwt = none ∧ t.chk = none ∧ t.seq = [] ∧ t.stks = slot ∧
  t.status = .run ∧
  ∀ k < strands, (t.strand k).ctr = 0 ∧ (t.strand k).nsr = 0 ∧ (t.strand k).regs.length = nreg ∧ ∀ r < nreg, (t.strand k).reg r =
    (let v : DWord :=
      if r / 2 = 8 ∧ 18 ≤ nreg then BitVec.ofNat 64 (c.stkb + (1024 * slot + k + 1) * c.stkr * 1024)
      else if r / 2 = 10 ∧ 22 ≤ nreg then args
      else if r / 2 = 11 ∧ 24 ≤ nreg ∧ scr ≠ 0 then tagged 1 (g.core % 12) g.sbase
      else 0
     ⟨if r % 2 = 0 then v.extractLsb' 0 32 else v.extractLsb' 32 32, 0, false⟩)
/-- Every group of a launch's next unit has been placed (R37 to R41): on candidate cores, with its teams seated. -/
def PlacedUnit (s s' : State) (l : Launch) : Prop :=
  let u := l.lr.unit
  let g0 := l.next / u * u
  ∃ new : List Group, s'.groups = s.groups ++ new ∧ new.map (·.gid) = ((List.range u).map (g0 + ·)).filter (fun g => decide (l.next ≤ g)) ∧
    ∀ g ∈ new, g.launch = l.id ∧ g.q = l.q ∧ g.ctx = l.ctx ∧ g.res = .placed ∧ g.kept.length = l.lr.tpg ∧ g.live = List.range l.lr.tpg ∧
      g.sbytes = 256 * l.lr.scr ∧ g.sbase + g.sbytes ≤ 2 ^ 19 ∧ g.core < 384 ∧ g.core ∉ s.offCores ∧ (l.qr.cores = [] ∨ g.core ∈ l.qr.cores) ∧
      Event.groupStart g.id ∈ s'.due ∧
      ∀ h ∈ s'.groups, h.id ≠ g.id → h.core = g.core → h.sbytes ≠ 0 → g.sbytes ≠ 0 → (∀ a, h.res ≠ .saved a) →
        g.sbase + g.sbytes ≤ h.sbase ∨ h.sbase + h.sbytes ≤ g.sbase
/-- The work of a queue has been torn down (R293): no team, group, launch or engine command of it is left. -/
def TornDown (s s' : State) (q : Nat) : Prop :=
  (s'.queue q).torn = true ∧ (∀ t ∈ s'.teams, ∀ g ∈ s.groups, g.q = q → t.grp ≠ g.id) ∧ (∀ g ∈ s'.groups, g.q ≠ q) ∧ (∀ e ∈ s'.ecmds, e.q ≠ q) ∧ ∀ l ∈ s'.launches, l.q ≠ q
/-! ## Commands of the host (23_scheduling_power.md, 27_host_fabric.md) -/

/-- The command of a step stands in its queue, no other has its header, and it may start; a signal or a fenced command not before the
device's own writes have their permission (R379, R380). -/
def MayRun (s : State) (h : CmdHdr) (e : Event) : Prop :=
  (∃ c, findCmd s h e = some c ∧ mayStart (s.queue h.q).cmds c = true) ∧ (s.dwq = [] ∨ (isSignal e = false ∧ h.fence = false)) ∧
  ((s.queue h.q).cmds.map (·.hdr)).Nodup
/-- The 16 bytes of a completion record (Table 27-3). -/
def doneRecord (h : CmdHdr) (st detail now : Nat) (late : Bool) : List Byte :=
  (List.range 16).map (fun o =>
    if o = 0 then BitVec.ofNat 8 st
    else if o = 1 then (if late then 1 else 0)
    else if o < 4 then BitVec.ofNat 8 (detail / 256 ^ (o - 2))
    else if o < 8 then BitVec.ofNat 8 (h.tag / 256 ^ (o - 4))
    else BitVec.ofNat 8 (now / 256 ^ (o - 8)))
/-- The present value of every byte is one thing (R310, R327): memory in canonical form, die sectors in order under epochs that hold, and a
dirty byte only in a die that is the one with a copy and, at a home of this device, the M owner; no request waits at a home. -/
def Owned (s : State) : Prop :=
  Memory.wf s.mem = true ∧ SectorsSound s ∧ Live s ∧ s.behind = [] ∧ ∀ x ∈ s.secs, x.2.dirty ≠ [] →
    (∀ y ∈ s.secs, y.1 % 2 ^ 42 = x.1 % 2 ^ 42 → y.1 ≠ x.1 → y.2.st = .i) ∧
    (devOf (x.1 % 2 ^ 42 * 64) = s.devid → mOwner s (x.1 % 2 ^ 42) = some (agentOf s (x.1 / 2 ^ 42)))
/-- A write of the device of the value `v` at a physical address has been made, or is on its way: it waits for permission, or for the home to
answer (R327, R335). -/
def Reaches (s' : State) (pa : Nat) (v : Byte) : Prop :=
  cohByte s' pa = v ∨ (∃ cs ∈ s'.dwq, (pa, v) ∈ cs) ∨ ∃ x ∈ s'.throughs, x.done1 = false ∧ (pa, v) ∈ x.cells
/-- The bytes `B` have been written at `ls`, or are on their way there. -/
def Holds (s' : State) (ls : List Nat) (B : List Byte) : Prop := ls.length = B.length ∧ ∀ i, ∀ h : i < ls.length, Reaches s' ls[i] (B.getD i 0)
/-- The bytes of a context's address range lie at the distinct physical addresses `ls`, on pages that may be written and are free of
poison. -/
def WritableAt (s : State) (ctx va : Nat) (ls : List Nat) : Prop :=
  ls.Nodup ∧ va + ls.length ≤ 2 ^ 48 ∧ ∀ i, ∀ hi : i < ls.length, ∃ f, transFor s ctx true Need.wr (va + i) = .ok f ∧ f.coh = 0 ∧
    ls[i] = f.pa + (va + i - f.va) ∧ ls[i] / 4096 ∉ s.memPsn
/-- A command has completed with a status (R358, R369, R380): it has left its queue, whose watchdog count is 0, and its record, where it
asks for one on pages that allow it, holds the status, whether it is late, the detail, its tag and the time. -/
def AnsweredLate (s s' : State) (h : CmdHdr) (st detail now : Nat) (late : Bool) : Prop :=
  (s'.queue h.q).cmds.map (·.hdr) = ((s.queue h.q).cmds.map (·.hdr)).filter (· ≠ h) ∧ (s'.queue h.q).wd = 0 ∧
  (h.crec ≠ 0 → Owned s → ∀ ls : List Nat, ls.length = 16 → WritableAt s (cmdCtx s h) h.crec ls → Holds s' ls (doneRecord h st detail now late))
/-- A command has completed with a status, not after a deadline. -/
def Answered (s s' : State) (h : CmdHdr) (st detail now : Nat) : Prop := AnsweredLate s s' h st detail now false
/-- At least n records have entered the log (R360), and no others, where the homes know the die that the device writes through (R339). -/
def Logged (s s' : State) (n : Nat) : Prop := s.rasSeq + n ≤ s'.rasSeq ∧ (s.current (devDie s) = true → s'.rasSeq = s.rasSeq + n)
/-- No copy of a subscription stands between the device and the present value of a byte (R336). -/
def PlainReads (s : State) : Prop :=
  Owned s ∧ s.subsc = [] ∧ (∀ x ∈ s.secs, x.2.st ≠ .u ∧ x.2.peek = []) ∧ ∀ line, (s.dirE line).subscribed (agentOf s (devDie s)) = false
/-- A command is open: started, still in its queue. -/
def Open (s' : State) (h : CmdHdr) (e : Event) : Prop := ∃ c, findCmd s' h e = some c ∧ c.started = true
/-- No team waits for a home to answer about a line (R207), or a write-through of a read-modify-write (R334): what the device itself asks or
writes then changes no team. -/
def NoneWaits (s : State) : Prop := (∀ a ∈ s.asks, a.owed = none) ∧ ∀ t ∈ s.teams, ∀ r, t.rmw = some r → r.sent = none
/-- Nothing of a team, a group, a scratchpad or a core differs. -/
def Aside (s s' : State) : Prop := (NoneWaits s → s'.teams = s.teams) ∧ s'.groups = s.groups ∧ s'.scr = s.scr ∧ s'.slotm = s.slotm ∧ s'.crv = s.crv ∧ s'.launches = s.launches
/-- The admin command `i`, as the step `e`: refused with 0x09 on a ring of another port (R381), else with the effect `P`. -/
def Admin (i : Instr) (e : Event) (h : CmdHdr) (P : State → State → Prop) : Prop :=
  ∀ s, MayRun s h e →
    (s.boot.admin ≠ some (s.queue h.q).owner → ∃ s', exec i s = .next s' ∧ Answered s s' h 9 0 s.now ∧ Aside s s' ∧ s'.power = s.power) ∧
    (s.boot.admin = some (s.queue h.q).owner → ∃ s', exec i s = .next s' ∧ P s s')
/-- An admin command that sets a value: 0x08 where `ok` fails, else 0x00 and the effect `P`. -/
def Sets (i : Instr) (e : Event) (h : CmdHdr) (ok : State → Prop) (P : State → State → Prop) : Prop :=
  Admin i e h (fun s s' => (ok s → Answered s s' h 0 0 s.now ∧ P s s') ∧ (¬ok s → Answered s s' h 8 0 s.now ∧ s'.power = s.power ∧ Aside s s'))
/-! ## Team images and group records (Tables 4-7, 4-8, 21-6) -/

/-- Where the image of team i stands in a group's record: each at a multiple of 256, after the header and the images before it. -/
def imageOff (f : Nat → Byte) : Nat → Nat
  | 0 => 256
  | i + 1 =>
    let o := imageOff f i
    (o + 0x900 + 160 * bytesNat f (o + 12) 2 * bytesNat f (o + 9) 1 + (if bitAt (bytesNat f (o + 8) 1) 1 then 1152 else 0) + 255) / 256 * 256
/-- The image of a team at offset `o` of a record, with the registers below L (R69, R70): what each of its fields says. -/
def ImageAt (f : Nat → Byte) (o : Nat) (t : Team) (L : Nat) : Prop :=
  let n := bytesNat f
  BitVec.ofNat 48 (n o 8) = t.pc ∧ n (o + 9) 1 = t.passes ∧ n (o + 10) 2 = t.nreg ∧ n (o + 12) 2 = L ∧
  BitVec.ofNat 32 (n (o + 16) 4) = t.tctl ∧ BitVec.ofNat 16 (n (o + 20) 2) = t.sigs ∧ BitVec.ofNat 16 (n (o + 22) 2) = t.sigd ∧
  BitVec.ofNat 32 (n (o + 24) 4) = t.mism ∧ n (o + 0xd8) 4 = t.stks ∧ (∀ r < 256, (bitAt (n (o + 32) 32) r = true ↔ r ∈ t.lock)) ∧
  (bitAt (n (o + 8) 1) 1 = true ↔ t.act.isSome) ∧
  (∀ a, t.act = some a → BitVec.ofNat 48 (n (o + 0xc0) 8) = a.pc ∧ BitVec.ofNat 16 (n (o + 0xc8) 2) = a.sigs ∧ BitVec.ofNat 16 (n (o + 0xca) 2) = a.sigd ∧
    ∀ k < 32 * t.passes, f (o + 0x900 + 160 * L * t.passes + 128 + k) = a.ctrs.getD k 0) ∧
  (bitAt (n (o + 0xd0) 8) 63 = t.bwt.isSome) ∧
  (∀ w, t.bwt = some w → bitAt (n (o + 0xd0) 8) 36 = w.clu ∧ field (n (o + 0xd0) 8) 32 4 = w.num ∧ BitVec.ofNat 32 (n (o + 0xd0) 8) = w.phase) ∧
  ∀ k < 32 * t.passes, f (o + 0x100 + k) = (t.strand k).ctr ∧ f (o + 0x500 + k) = (t.strand k).nsr ∧ ∀ r < L,
    let c := (t.strand k).reg r
    let b := o + 0x900 + 160 * (r * t.passes + k / 32)
    bitAt (n (b + 144) 4) (k % 32) = c.psn ∧ n (b + 4 * (k % 32)) 4 = (if c.psn then 0 else c.val.toNat) ∧
    field (f (b + 128 + k % 32 / 2)).toNat (4 * (k % 2)) 4 = c.tag.toNat
/-- The record of a group holds its header's fields, its scratchpad bytes and poison, and its slots (R356, Table 21-6). `m`: teams. -/
def RecordAt (f : Nat → Byte) (s : State) (g : Group) (m : Nat) : Prop :=
  let n := bytesNat f
  let o := imageOff f (m - 1)
  let e := o + 0x900 + 160 * n (o + 12) 2 * n (o + 9) 1 + (if bitAt (n (o + 8) 1) 1 then 1152 else 0)
  let b := g.core * 2 ^ 19 + g.sbase
  (∀ x < 128, bitAt (n 0x10 16) x = (s.core g.core).owns x g.id) ∧ BitVec.ofNat 32 (n 0x20 4) = g.iqn ∧ n 0x24 4 = g.iqc ∧
  (∀ i < 16, BitVec.ofNat 32 (n (0x30 + 8 * i) 4) = (nth ⟨0, []⟩ g.bars i).phase ∧
    ∀ j < 16, (bitAt (n (0x34 + 8 * i) 2) j = true ↔ (g.id, j) ∈ (nth ⟨0, []⟩ g.bars i).arr)) ∧
  (∀ i < g.sbytes, s.scrByte (b + i) = f (e + i)) ∧
  (∀ w < g.sbytes / 8, (bitAt (f (e + g.sbytes + w / 8)).toNat (w % 8) = true ↔ b / 8 + w ∈ s.scrPsn)) ∧
  ∀ x < 128, (s.core g.core).owns x g.id = true → ∀ i < 2304,
    s.slotByte ((g.core * 128 + x) * 2304 + i) =
      f (e + g.sbytes + g.sbytes / 64 + 2304 * ((List.range x).filter (fun y => (s.core g.core).owns y g.id)).length + i)
/-- A team as an image can hold it: whole passes, counts that its fields hold. -/
def ImageFits (t : Team) : Prop :=
  t.strands.length = 32 * t.passes ∧ 1 ≤ t.passes ∧ t.passes ≤ 32 ∧ t.nreg ≤ 256 ∧ t.stks < 2 ^ 32 ∧ t.lock.Nodup ∧ (∀ r ∈ t.lock, r < 256) ∧
  (∀ w, t.bwt = some w → w.num < 16) ∧ ∀ a, t.act = some a → a.ctrs.length = 32 * t.passes
/-! ## Peers, watchdog and death (18_coherence.md, 21_faults_preemption.md, 27_host_fabric.md) -/

/-- The steps by which the host of the admin port is told of a peer (R382, R387). -/
def peerEvent (s : State) (kind dev : Nat) : List Event :=
  match s.boot.admin with
  | some p => [.hostEvent p ⟨kind, 255, 65535, [BitVec.ofNat 8 dev, BitVec.ofNat 8 (dev / 256)]⟩]
  | none => []
/-- The limits of a queue in ns: watchdog, 2 s unless set (R358), and recovery, 1 s unless set (R359). -/
def dogLimit (s : State) (q : Nat) : Nat := if (s.queue q).cfg.wdog = 0 then 2000000000 else (s.queue q).cfg.wdog * 1000000
/-- The recovery limit of a queue in ns (R359). -/
def peerLimit (s : State) (q : Nat) : Nat := if (s.queue q).cfg.rlim = 0 then 1000000000 else (s.queue q).cfg.rlim * 1000000
/-- The engine commands of a queue, and its teams, that wait on a device, and teams with a store stuck on the way there. -/
def stuckOn (s : State) (q dev : Nat) : List ECmd × List Team × List Team :=
  (s.ecmds.filter (fun e => e.q == q && cmdWaitsOn s dev e), s.teams.filter (fun t => s.qOf t == q && teamWaitsOn s dev t),
   s.teams.filter (fun t => s.qOf t == q && storeStuck s dev t))
/-- The directory is in order for an agent: one entry for each line, at most one slot of it for the agent, slots not over four. -/
def EntriesSound (s : State) (a : Nat) : Prop :=
  (s.dir.map (·.1)).Pairwise (· < ·) ∧ ∀ x ∈ s.dir, x.2.slots.length ≤ 4 ∧
    (x.2.slots.filter (fun y => match y with | some p => p.agent == a | none => false)).length ≤ 1
/-! ## Records the host writes (Tables 2-1, 2-2, 21-4, 23-1, 27-1, 27-2) -/

/-- A level of a launch record, as its bytes give it (Table 2-2). -/
def levelIn (b : Nat → Byte) (i : Nat) : Level :=
  ⟨bytesNat b (0x80 + 16 * i) 4, field (b (0x84 + 16 * i)).toNat 4 3, field (b (0x84 + 16 * i)).toNat 0 3, (b (0x85 + 16 * i)).toNat⟩
/-- The product of the extents of the levels whose domains satisfy a condition. -/
def levelProduct (b : Nat → Byte) (p : Nat → Bool) : Nat :=
  (((List.range (b 11).toNat).map (levelIn b)).filter (fun l => p l.domain)).foldl (fun x l => x * l.extent) 1
/-- A launch record is valid for a context whose stack share is `stkr` KiB (R31, R32, R34, R35, R39). -/
def LaunchValid (b : Nat → Byte) (stkr : Nat) : Prop :=
  let n := bytesNat b
  let nlev := (b 11).toNat
  let lv := levelIn b
  let places : Nat → Prop := fun i => i < nlev ∧ 2 ≤ (lv i).domain ∧ (lv i).domain ≤ 4 ∧ ∀ j < i, (lv j).domain < 2
  1 ≤ nlev ∧ nlev ≤ 8 ∧ 1 ≤ n 9 1 ∧ n 9 1 ≤ 32 ∧ 1 ≤ n 10 1 ∧ n 10 1 ≤ 16 ∧ n 12 2 < 4 ∧ n 14 2 ≤ 2048 ∧ n 0 8 % 64 = 0 ∧ n 0 8 < 2 ^ 48 ∧ n 20 4 < 64 ∧
  n 32 4 % 4 = 0 ∧ (if n 32 4 = 0 then 1024 else n 32 4) + 4 ≤ stkr ∧ 32 * n 9 1 * ((n 8 1 + 8) / 8 * 8) ≤ 65536 ∧ (∀ i, 36 ≤ i → i < 128 → b i = 0) ∧
  (∀ i < 8, if i < nlev then
      (b (0x84 + 16 * i)).toNat % 16 < 8 ∧ (b (0x84 + 16 * i)).toNat < 128 ∧ (∀ j, 6 ≤ j → j < 16 → b (0x80 + 16 * i + j) = 0) ∧ 1 ≤ (lv i).extent ∧
      (lv i).domain ≤ 5 ∧ (lv i).scope ≤ 6 ∧ (if (lv i).domain = 5 then 5 else (lv i).domain + 1) ≤ (lv i).scope
    else ∀ j < 16, b (0x80 + 16 * i + j) = 0) ∧
  (∀ i, i + 1 < nlev → (lv i).domain ≤ (lv (i + 1)).domain) ∧ (lv 0).domain = 0 ∧ levelProduct b (· == 0) = 32 * n 9 1 ∧
  levelProduct b (· == 1) = n 10 1 ∧ levelProduct b (decide <| 2 ≤ ·) ≤ 2 ^ 32 - 1 ∧
  (n 12 2 % 2 = 1 → ∃ i, places i) ∧
  ∀ i < nlev, (n 12 2 % 2 = 1 ∧ places i → (lv i).keysel ≠ 0 ∧ ∀ j < 8, bitAt (lv i).keysel j = true → j < nlev ∧ 2 ≤ (lv j).domain) ∧
    (¬(n 12 2 % 2 = 1 ∧ places i) → (lv i).keysel = 0)
/-- A launch runs what a record's bytes say (Table 2-1). -/
def LaunchIs (b : Nat → Byte) (lr : LaunchRec) : Prop :=
  let n := bytesNat b
  lr.entry = n 0 8 ∧ lr.nregs = n 8 1 + 1 ∧ lr.tsize = n 9 1 ∧ lr.tpg = n 10 1 ∧ (lr.hash = true ↔ n 12 2 % 2 = 1) ∧ (lr.spill = true ↔ n 12 2 / 2 % 2 = 1) ∧
  lr.scr = n 14 2 ∧ lr.stagger = n 16 4 ∧ lr.tctl0 = BitVec.ofNat 32 (n 20 4) ∧ lr.args = BitVec.ofNat 64 (n 24 8) ∧
  lr.stack = (if n 32 4 = 0 then 1024 else n 32 4) ∧ lr.levels = (List.range (b 11).toNat).map (levelIn b)
/-- The launch a command has been accepted as (R29, R361). -/
def Accepted (s s' : State) (h : CmdHdr) (b : Nat → Byte) (img : Option (Nat × Nat)) : Prop :=
  ∃ l, s'.launches = s.launches ++ [l] ∧ LaunchIs b l.lr ∧ l.q = h.q ∧ l.ctx = (s.queue h.q).cfg.ctx ∧ l.qr = (s.queue h.q).cfg ∧ l.cmd = h ∧
    l.acc = s.now ∧ l.dl = (s.queue h.q).cfg.dl ∧ l.next = 0 ∧ l.retired = [] ∧ l.ended = false ∧ l.img = img
/-- A queue record keeps its ranges, and the device can keep its reservations beside the other queues' (R362). -/
def QueueValid (s : State) (q : Nat) (b : Nat → Byte) : Prop :=
  let n := bytesNat b
  let others := (s.queues.filter (fun x => x.1 != q)).map (·.2.cfg)
  let total : (QRec → Nat) → Nat := fun f => (others.map f).foldl (· + ·) 0
  n 0 1 < 8 ∧ n 1 1 < 4 ∧ (∀ i, (4 ≤ i ∧ i < 8) ∨ (10 ≤ i ∧ i < 24) ∨ (28 ≤ i ∧ i < 32) ∨ (0x60 ≤ i ∧ i < 128) → b i = 0) ∧ n 9 1 ≤ 12 ∧
  (n 0x2c 4 = 0 ∨ 10 ≤ n 0x2c 4 ∧ n 0x2c 4 ≤ 100000) ∧ (n 0x28 4 = 0 ∨ 1 ≤ n 0x28 4 ∧ n 0x28 4 ≤ 60000) ∧
  (n 0x24 4 = 0 ∨ 1 ≤ n 0x24 4 ∧ n 0x24 4 ≤ 600000) ∧
  (∀ c < 384, bitAt (n 0x30 48) c = true → c ∉ s.offCores ∧ ∀ o ∈ others, c ∉ o.cores) ∧ total (·.hways) + n 9 1 ≤ 12 ∧
  total (·.mbw) + n 0x18 4 ≤ 18000000 ∧ n 8 1 % 2 = 0 ∧ (∀ o ∈ others, o.vlm &&& n 8 1 = 0) ∧
  (bitAt (n 1 1) 0 = true → (others.filter (·.lcrit)).length < 4)
/-- A queue's configuration as a record's bytes give it (Table 23-1). -/
def QueueIs (b : Nat → Byte) (r : QRec) : Prop :=
  let n := bytesNat b
  (∀ c, c ∈ r.cores ↔ c < 384 ∧ bitAt (n 0x30 48) c = true) ∧ r.pto = n 0x2c 4 ∧ r.rlim = n 0x28 4 ∧ r.wdog = n 0x24 4 ∧ r.dl = n 0x20 4 ∧
  r.mbw = n 0x18 4 ∧ r.hways = n 9 1 ∧ r.vlm = n 8 1 ∧ r.ctx = n 2 2 ∧ r.lcrit = bitAt (n 1 1) 0 ∧ r.fchk = bitAt (n 1 1) 1 ∧ r.prio = n 0 1
/-- A context descriptor keeps its ranges (Table 21-4). -/
def DescValid (b : Nat → Byte) : Prop :=
  let n := bytesNat b
  n 0 8 % 4096 = 0 ∧ n 0 8 < 2 ^ 48 ∧ n 8 8 % 64 = 0 ∧ n 8 8 < 2 ^ 48 ∧ n 16 8 % 256 = 0 ∧ n 16 8 < 2 ^ 48 ∧ n 32 8 % 4096 = 0 ∧ n 32 8 < 2 ^ 48 ∧
  n 44 4 % 4 = 0 ∧ 8 ≤ n 44 4 ∧ ∀ i, 48 ≤ i → i < 64 → b i = 0
/-- A descriptor as a record's bytes give it (Table 21-4). -/
def DescIs (b : Nat → Byte) (d : CtxDesc) : Prop :=
  let n := bytesNat b
  d.ptroot = n 0 8 ∧ d.uhnd = n 8 8 ∧ d.sav = n 16 8 ∧ d.savsz = n 24 8 ∧ d.stkb = n 32 8 ∧ d.stkn = n 40 4 ∧ d.stkr = n 44 4
/-- The step that the 64 bytes of a command name (Tables 27-1, 27-2, 27-5 and 23-4); a reserved code is a command that completes with
0x08 or, for an admin code, 0x09 (Table 27-4). -/
def CommandIs (b : Nat → Byte) (h : CmdHdr) (e : Event) : Prop :=
  let n := bytesNat b
  let clear : Nat → Prop := fun o => ∀ i, o ≤ i → i < 64 → b i = 0
  let code := n 0 1
  let fn := n 16 8
  (code = 1 → clear 24 → e = .launch h (n 16 8)) ∧ (code = 2 → clear 40 → e = .graphLaunch h (n 16 8) (n 24 8) (n 32 8)) ∧
  (code = 3 → clear 40 → e = .copy h (n 16 8) (n 24 8) (n 32 8)) ∧ (code = 4 → clear 32 → e = .signal h (n 16 8) (BitVec.ofNat 64 (n 24 8))) ∧
  (code = 5 → clear 32 → e = .wait h (n 16 8) (BitVec.ofNat 64 (n 24 8))) ∧
  (code = 6 → clear 32 → (∀ i, 18 ≤ i → i < 24 → b i = 0) → n 17 1 < 32 →
    (n 16 1 = 0 → e = .powerRail h (n 17 1) (n 24 8)) ∧ (n 16 1 = 1 → e = .powerGate h (n 17 1) (n 24 8)) ∧ (n 16 1 = 2 → e = .retention h (n 17 1) (n 24 8)) ∧
    (n 16 1 = 3 → e = .matrixTokenPool h (n 24 8)) ∧ (n 16 1 = 4 → e = .memoryByteBudget h (n 17 1) (n 24 8)) ∧ (n 16 1 = 5 → e = .powerFloor h (n 24 8)) ∧
    (n 16 1 = 6 → e = .rampRate h (n 24 8)) ∧ (n 16 1 = 7 → e = .rackBudget h (n 24 8))) ∧
  (code = 7 → clear 32 → e = .queue h (n 16 8) (n 24 8)) ∧ (code = 8 → clear 32 → e = .context h (n 16 8) (n 24 8)) ∧
  (code = 9 → clear 32 → e = .communicator h (n 16 2) (n 18 2) (n 20 4) (n 24 8)) ∧
  (code = 10 → clear 18 → (n 17 1 = 0 → e = .preEmpt h (n 16 1)) ∧ (n 17 1 = 1 → e = .restore h (n 16 1))) ∧
  (code = 11 → clear 32 → (fn = 0 → e = .mapOutCorePair h (n 24 8)) ∧ (fn = 1 → e = .mapOutDramRow h (n 24 8)) ∧ (fn = 2 → e = .mapOutOsierLane h (n 24 8))) ∧
  (code = 12 → clear 32 → (fn = 0 → e = .identity h (n 24 8)) ∧ (fn = 1 → e = .setTime h (BitVec.ofNat 64 (n 24 8))) ∧ (fn = 2 → e = .rasHeader h (n 24 8)) ∧
    (fn = 3 → n 24 8 = 0 → e = .rasClear h) ∧ (fn = 4 → e = .queueReset h (n 24 8)) ∧ (fn = 8 → e = .declareDead h (n 24 8)) ∧
    (fn = 9 → e = .admitAgent h (n 24 8)) ∧ (fn = 10 → e = .raiseSecurityVersion h (n 24 8)) ∧ (fn = 11 → e = .poisonPage h (n 24 8))) ∧
  (code = 12 → clear 40 → (fn = 6 → e = .attest h (n 24 8) (n 32 8)) ∧ (fn = 7 → e = .setDeviceId h (n 24 8) (n 32 8))) ∧
  (code = 0 ∨ 12 < code → e = .copy h 0 0 (2 ^ 64)) ∧ (code = 12 → 12 ≤ fn → e = .matrixTokenPool h (2 ^ 64))
/-- The command that starts, or goes on being open, as the step `e`. -/
def Runs (s : State) (h : CmdHdr) (e : Event) : Prop := MayRun s h e ∨ (Open s h e ∧ ((s.queue h.q).cmds.map (·.hdr)).Nodup)
/-! ## Management, boot and events (27_host_fabric.md) -/

/-- A management function writes the bytes `B` at a pointer of the command, or completes with 0x08 where they cannot be written. -/
def Reports (s s' : State) (h : CmdHdr) (ptr : Nat) (B : List Byte) : Prop :=
  Aside s s' ∧ (ctxWrite s (s.queue h.q).cfg.ctx ptr B = none → Answered s s' h 8 0 s.now) ∧
  ∀ ls, ls.length = B.length → WritableAt s (s.queue h.q).cfg.ctx ptr ls → Owned s → h.crec = 0 → Answered s s' h 0 0 s.now ∧ Holds s' ls B
/-- Byte i of the little-endian form of a number. -/
def leByte (v i : Nat) : Byte := BitVec.ofNat 8 (v / 256 ^ i)
/-- The identity block (Table 27-6). -/
def identityBlock (s : State) : List Byte :=
  (List.range 64).map (fun o =>
    if o = 0 then 1 else if o = 1 then Config.partNumber else if o < 4 then leByte s.devid (o - 2) else if o = 4 then leByte s.boot.boot 0
    else if o < 8 then 0 else if o < 16 then leByte Config.serialNumber.toNat (o - 8) else if o < 20 then leByte s.boot.svn (o - 16) else 0)
/-- The signed part of an attestation report (Table 27-8, bytes 0x00 to 0x9F), for a nonce. -/
def reportBody (s : State) (nonce : List Byte) : List Byte :=
  (List.range 160).map (fun o =>
    if o < 10 then 0 else if o < 12 then leByte s.devid (o - 10) else if o < 16 then leByte s.boot.svn (o - 12)
    else if o < 24 then leByte Config.serialNumber.toNat (o - 16) else if o < 32 then leByte s.now (o - 24) else if o < 64 then nonce.getD (o - 32) 0
    else if o < 128 then s.boot.image.getD (o - 64) 0 else (edPublic (leBytes 32 (Config.identitySecret s.boot.count).toNat)).getD (o - 128) 0)
/-- The 64 bytes of a device event (R382). -/
def eventBlock (s : State) (e : HostEvt) : List Byte :=
  (List.range 64).map (fun o =>
    if o = 0 then leByte e.kind 0 else if o = 1 then leByte e.q 0 else if o < 4 then leByte e.ctx (o - 2) else if o < 8 then 0
    else if o < 16 then leByte s.now (o - 8) else e.detail.getD (o - 16) 0)
/-- The device can read the read index of a port's event ring now, and it is `x` (R382). -/
def ReadIndex (s : State) (p : Nat) (x : Word) : Prop := (ringGet s (s.evring p)).2 = some x
/-- The events of a host port's ring that the host has not read, where its read index is `x` (R382). -/
def unread (s : State) (p : Nat) (x : Word) : Nat := ((s.evring p).wr - x).toNat
/-- The host of a port reads n more of its events: its read index says so (R382). -/
def hostReads (s : State) (p n : Nat) : State :=
  let r := s.evring p
  let old := BitVec.ofNat 32 (bytesNat (fun i => cohByte s (r.base + 64 * r.entries + i)) 0 4)
  if n = 0 then s else
    devWrite s ((List.range 4).map (fun i => (r.base + 64 * r.entries + i, leByte (old + BitVec.ofNat 32 (min n (r.wr - old).toNat)).toNat i)))
/-- Events `es` stand in a port's ring from index `w` on, and its write index is after them. -/
def InRing (s : State) (r : EvRing) (w : Word) (es : List (List Byte)) : Prop :=
  (∀ j, ∀ hj : j < es.length, ∀ i < 64, Reaches s (r.base + 64 * ((w + BitVec.ofNat 32 j).toNat % r.entries) + i) ((es[j]).getD i 0)) ∧
  ∀ i < 4, Reaches s (r.base + 64 * r.entries + 4 + i) (leByte (w + BitVec.ofNat 32 es.length).toNat i)
/-- The memory of the device under a new ID is what it was under the old one (R386). -/
def Rehomed (s s' : State) (id : Nat) : Prop :=
  (∀ c ∈ s.mem, devOf c.1 = id → id = s.devid) → Memory.wf s.mem = true →
    (∀ o < 2 ^ 39, s'.mem.get (id * 2 ^ 39 + o) = s.mem.get (s.devid * 2 ^ 39 + o)) ∧
    ∀ p, p / 2 ^ 39 ≠ id → p / 2 ^ 39 ≠ s.devid → s'.mem.get p = s.mem.get p
/-- An image in the boot window that the device accepts (R383, R384): a header of the magic with its reserved bytes 0, a payload that
the window holds, the key of the fused digest, its signature over the digest of header bytes 0x00 to 0x3F and payload, and a security
version that is not below the fused one. -/
def ImageAccepted (s : State) (b : Nat → Byte) : Prop :=
  let n := bytesNat b
  let bytes : Nat → Nat → List Byte := fun o k => (List.range k).map (fun i => b (o + i))
  n 0 4 = 0x4b31494d ∧ (∀ i, 128 ≤ i → i < 256 → b i = 0) ∧ n 8 8 + 256 ≤ 2 ^ 28 ∧ leNat (sha512 (bytes 32 32)) = Config.fusedKeyDigest.toNat ∧
  edVerify (bytes 32 32) (sha512 (bytes 0 64 ++ bytes 256 (n 8 8))) (bytes 64 64) = true ∧ s.boot.svn ≤ n 4 4
/-! ## Coherence messages (18_coherence.md) -/

/-- The epoch that this device's homes hold for an agent (R326, R339). -/
def epochOf (s : State) (a : Nat) : Byte := (aget a s.epochs).getD 0
/-- A request reaches a home: but for those of this device's host ports it is coherent traffic (R386; log entry 58). -/
def heardFrom (s : State) (a : Nat) : State := { s with traffic := s.traffic || !(decide (a / 16 = s.devid) && decide (8 ≤ a % 16)) }
/-- Every request that waits at the homes of this device waits behind a transaction on a sector it concerns (R332). -/
def AllWait (s : State) : Prop := ∀ b ∈ s.behind, ∃ x ∈ concerns s b, isPend s x = true
/-- `i` is the message `e` from an agent to the home of `sector`: it has no effect away from its home; of another epoch it is dropped,
logged and answered "stale epoch" (R339); where it asks for a permission (`req`), it waits behind a transaction, or behind an earlier
request, on a sector it concerns (R332), and a dead agent gets none; else its effect is `P`. -/
def AtHome (i : Instr) (e : Event) (m : MsgHdr) (sector : Nat) (req : Bool) (P : State → State → Prop) : Prop :=
  ∀ s, (devOf (sector * 64) ≠ s.devid → exec i s = .next s) ∧
    (devOf (sector * 64) = s.devid → m.epoch ≠ epochOf s m.agent →
      ∃ s', exec i s = .next s' ∧ s'.mem = s.mem ∧ s'.dir = s.dir ∧ s'.txns = s.txns ∧ s'.secs = s.secs ∧ s'.rasSeq = s.rasSeq + 1 ∧
        (∀ d, localDie s m.agent = some d → Event.staleEpoch d ∈ s'.due) ∧
        (localDie s m.agent = none → (m.agent, Event.staleEpoch (m.agent % 16)) ∈ s'.net)) ∧
    (devOf (sector * 64) = s.devid → m.epoch = epochOf s m.agent →
      (req = true → AllWait s → (∃ x ∈ concerns s e, isPend s x = true ∨ ∃ b ∈ s.behind, x ∈ concerns s b) →
        exec i s = .next { heardFrom s m.agent with behind := s.behind ++ [e] }) ∧
      (req = true → s.behind = [] → m.agent ∈ s.dead → (∀ x ∈ concerns s e, isPend s x = false) → exec i s = .next (heardFrom s m.agent)) ∧
      (s.behind = [] → (req = true → m.agent ∉ s.dead ∧ ∀ x ∈ concerns s e, isPend s x = false) → ∃ s', exec i s = .next s' ∧ P s s'))
/-- The entry of a line has the shape of Table 18-2: four slots and four sectors of four `hold` bits. -/
def EntryShape (s : State) (line : Nat) : Prop :=
  let e := s.dirE line
  e.slots.length = 4 ∧ e.sec.length = 4 ∧ ∀ f ∈ e.sec, f.hold.length = 4
/-- A request for a line frees no entry: the line has one, or where the storage is found full (log entry 21) none is there to free. -/
def NothingFreed (s : State) (line : Nat) : Prop :=
  (∃ e ∈ s.dir, e.1 = line) ∨ ∀ k, Config.dirEvict s.fresh = some k → s.dir[k % max 1 s.dir.length]? = none
/-- A slot can be had for an agent without turning the entry coarse (R331). -/
def RoomFor (s : State) (a line : Nat) : Prop :=
  (s.dirE line).coarse.isSome ∨ ((s.dirE line).slotOf a).isSome ∨ ((s.dirE line).freeSlot).isSome
/-- A home sends an agent of another device, or a host port, what `f` says, under the agent's epoch (R326). -/
def Told (s s' : State) (a : Nat) (f : DieHdr → Event) : Prop := (a, f ⟨a % 16, epochOf s a⟩) ∈ s'.net
/-- An agent holds a sector, as its entry records it (R330). -/
def dirHolds (s : State) (a sector : Nat) : Bool := (s.dirE (sector / 4)).has a (sector % 4)
/-- The home has a transaction on a sector that waits for the acknowledgements `ws` of messages `w`, and serves `e` again after them
(R332). -/
def Awaits (s s' : State) (sector : Nat) (k : Then) (ws : List Nat) (w : HomeMsg) : Prop :=
  isPend s' sector = true ∧ s'.txns = s.txns ++ [⟨sector, [sector], k, ws.map (⟨·, sector, w⟩), [], false⟩]
/-- What a home can rely on at a sector: the shape of its entry, one present value of every byte, dies numbered below 8, nobody dead, and no
entry freed for room. -/
def HomeReady (s : State) (sector : Nat) : Prop :=
  EntryShape s (sector / 4) ∧ Owned s ∧ s.dead = [] ∧ NothingFreed s (sector / 4) ∧ ∀ x ∈ s.secs, x.1 / 2 ^ 42 < 8
/-- The bytes of a sector at their present value, as cells. -/
def presentCells (s : State) (sector : Nat) : List Host.Cell := (List.range 64).map (fun i => (sector * 64 + i, cohByte s (sector * 64 + i)))
/-- No byte of global memory has another value. -/
def SameBytes (s s' : State) : Prop := ∀ pa, cohByte s' pa = cohByte s pa
/-- The state of a sector in its entry (Table 18-5): 0 I, 1 S, 2 M. -/
def homeState (s : State) (sector : Nat) : Nat := ((s.dirE (sector / 4)).field (sector % 4)).st
/-- The agents that a home must hear from before it grants another agent an exact read of a sector (Table 18-6): the M owner of another
device or a host port. -/
def toRecall (s : State) (sector : Nat) : List Nat :=
  match mOwner s sector with
  | some o => if (localDie s o).isSome then [] else [o]
  | none => []
/-- The cells of a message that lie in its sector. -/
def ofSector (sector : Nat) (cs : List Host.Cell) : List Host.Cell := cs.filter (fun c => c.1 / 64 == sector)
/-- What a subscription request is granted (R336): its format, or an exact share. -/
def grantsFormat (s : State) (a line fmt : Nat) (bf : Bool) : Prop :=
  let e := s.dirE line
  let other := ∃ k p, e.slot k = some p ∧ p.fmt ≠ 0 ∧ p.agent ≠ a
  e.coarse = none ∧ ¬(fmt = 1 ∧ (bf = true ∨ (other ∧ e.sfm = 1))) ∧
  ((e.slotOf a).isSome ∧ ((if bf then 1 else 0) = e.sfm ∨ ¬other) ∨
   (e.slotOf a = none ∧ e.freeSlot.isSome ∧ (e.hasSub = false ∨ (if bf then 1 else 0) = e.sfm)))
/-- The header of a die's message: its agent, and the epoch it takes itself to have (R326). -/
def dieHdr (s : State) (die : Nat) : MsgHdr := ⟨agentOf s die, s.ownEpoch die⟩
/-- The die has sent the home of a sector `e`, and no other message. -/
def Sends (s s' : State) (sector : Nat) (e : Event) : Prop := s'.net = s.net ++ [(devOf (sector * 64), e)]
/-- The die acknowledges a message for a sector of another device's home (R332, R333). -/
def Acks (s s' : State) (die sector : Nat) (absent : Bool) (dirty : List Host.Cell) : Prop :=
  (devOf (sector * 64), .acknowledgement (dieHdr s die) sector absent dirty) ∈ s'.net
/-- `i` is a message of a home on another device to a die of this one: under another epoch than the die's own it is dropped (R326, R339), as
is one about a sector homed here (log entry 12); else its effect is `P`. -/
def AtDie (i : DieHdr → Nat → Instr) (P : Nat → Nat → State → State → Prop) : Prop :=
  ∀ die ep x s, (8 ≤ die ∨ devOf (x * 64) = s.devid ∨ ep ≠ s.ownEpoch die → exec (i ⟨die, ep⟩ x) s = .next s) ∧
    (die < 8 → devOf (x * 64) ≠ s.devid → ep = s.ownEpoch die → ∃ s', exec (i ⟨die, ep⟩ x) s = .next s' ∧ P die x s s')
/-- `combine` of R91: two entries, either of which may be absent. -/
def combined (op : Nat → Nat → Nat) : Option Nat → Option Nat → Option Nat
  | none, b => b
  | a, none => a
  | some a, some b => some (op a b)

end Sys2Proof.Machine
end

