-- ==== Sys2Proof/Certificates/Slice0/Obligations.lean ====
section
/-! DEFINITION. The statements of this model, from the numbered rules of spec/. Their vocabulary is in Sys2Proof/Safety.lean. -/

set_option linter.unusedVariables false

section
open Sys2Proof Sys2Proof.Machine

/-- R141 to R145, R150 (Tables 8-1 to 8-3 and 8-5): every 32-bit arithmetic, logic, shift, count, bit-field and byte-permute
instruction, at the `.U` bit and for both forms of source b, and the 64-bit integer instructions. -/
def Obligations.IntegerInstructions : Prop :=
  (∀ a, Row2 (.iadd a) a (fun x y => (x + y, 0))) ∧
  (∀ a, Row2 (.isub a) a (fun x y => (x - y, 0))) ∧
  (∀ a, Row2 (.iadds a) a (fun x y => if subOf3 a.m = 0 then clampS (x.toInt + y.toInt) else clampZ ((x.toNat + y.toNat : Nat) : Int))) ∧
  (∀ a, Row2 (.isubs a) a (fun x y => if subOf3 a.m = 0 then clampS (x.toInt - y.toInt) else clampZ ((x.toNat : Int) - y.toNat))) ∧
  (∀ a, Row1 (.ineg a) a (fun x => (-x, 0))) ∧
  (∀ a, Row1 (.iabs a) a (fun x => clampS |x.toInt|)) ∧
  (∀ a, Row2 (.imin a) a (fun x y => (if x.sle y then x else y, 0))) ∧
  (∀ a, Row2 (.imax a) a (fun x y => (if x.sle y then y else x, 0))) ∧
  (∀ a, Row2 (.umin a) a (fun x y => (if x.ule y then x else y, 0))) ∧
  (∀ a, Row2 (.umax a) a (fun x y => (if x.ule y then y else x, 0))) ∧
  (∀ a, Row2 (.imul a) a (fun x y => (x * y, 0))) ∧
  (∀ a, Row2 (.imulhi a) a (fun x y => ((x.signExtend 64 * y.signExtend 64).extractLsb' 32 32, 0))) ∧
  (∀ a, Row2 (.umulhi a) a (fun x y => ((x.setWidth 64 * y.setWidth 64).extractLsb' 32 32, 0))) ∧
  (∀ a, Row3 (.imad a) a (fun x y z => (x * y + z, 0))) ∧
  (∀ a, Row2 (.idiv a) a (fun x y =>
    if y = 0 then (0xffffffff, flDz) else if x = 0x80000000 ∧ y = 0xffffffff then (0x80000000, flSat) else (x.sdiv y, 0))) ∧
  (∀ a, Row2 (.udiv a) a (fun x y => if y = 0 then (0xffffffff, flDz) else (x / y, 0))) ∧
  (∀ a, Row2 (.irem a) a (fun x y => if y = 0 then (x, flDz) else (x.srem y, 0))) ∧
  (∀ a, Row2 (.urem a) a (fun x y => if y = 0 then (x, flDz) else (x % y, 0))) ∧
  (∀ a, Row2 (.andI a) a (fun x y => (x &&& y, 0))) ∧
  (∀ a, Row2 (.orI a) a (fun x y => (x ||| y, 0))) ∧
  (∀ a, Row2 (.xorI a) a (fun x y => (x ^^^ y, 0))) ∧
  (∀ a, Row2 (.andn a) a (fun x y => (x &&& ~~~y, 0))) ∧
  (∀ a, Row2 (.shl a) a (fun x y => (x <<< y, 0))) ∧
  (∀ a, Row2 (.shr a) a (fun x y => (x >>> y, 0))) ∧
  (∀ a, Row2 (.sar a) a (fun x y => (x.sshiftRight y.toNat, 0))) ∧
  (∀ a, Row2 (.rol a) a (fun x y => (x <<< (y % 32) ||| x >>> (32 - y % 32), 0))) ∧
  (∀ a, Row2 (.ror a) a (fun x y => (x >>> (y % 32) ||| x <<< (32 - y % 32), 0))) ∧
  (∀ a, Row1 (.popc a) a (fun x => (x.cpop, 0))) ∧
  (∀ a, Row1 (.clz a) a (fun x => (x.clz, 0))) ∧
  (∀ a, Row1 (.ctz a) a (fun x => (x.ctz, 0))) ∧
  (∀ a, Row1 (.brev a) a (fun x => (x.reverse, 0))) ∧
  (∀ a, Row2 (.permb a) a (fun x y => (permByte x y 3 ++ permByte x y 2 ++ permByte x y 1 ++ permByte x y 0, 0))) ∧
  (∀ a s t, Ready (.bfx a) s t → ByStrand (.bfx a) a.m s t (fun k =>
    let x := t.val k a.va.toNat
    let p := fieldPos (t.val k a.vb.toNat)
    let w := fieldWidth (t.val k a.vb.toNat)
    let f := (x >>> p) &&& fieldMask 0 w
    Out.one a.vd (if subOf3 a.m = 0 then f else if w = 0 then 0 else (f <<< (32 - w)).sshiftRight (32 - w)) 0)) ∧
  (∀ a, Row3 (.bfi a) a (fun x y z =>
    let m := fieldMask (fieldPos z) (fieldWidth z)
    ((x &&& ~~~m) ||| ((y <<< fieldPos z) &&& m), 0))) ∧
  (∀ a, RowP (.iadd64 a) a (fun x y => x + y)) ∧
  (∀ a, RowP (.isub64 a) a (fun x y => x - y)) ∧
  (∀ a, RowP (.imul64 a) a (fun x y => x * y)) ∧
  (∀ a s t, Ready (.umulw a) s t → ByStrand (.umulw a) a.m s t (fun k =>
    Out.pair a.vd ((t.val k a.va.toNat).setWidth 64 * (t.val k (srcField a.b).toNat).setWidth 64).toNat 0)) ∧
  (∀ a s t, Ready (.imulw a) s t → ByStrand (.imulw a) a.m s t (fun k =>
    Out.pair a.vd ((t.val k a.va.toNat).signExtend 64 * (t.val k (srcField a.b).toNat).signExtend 64).toNat 0)) ∧
  (∀ a s t, Ready (.shl64 a) s t → ByStrand (.shl64 a) a.m s t (fun k =>
    Out.pair a.vd (t.pair k a.va.toNat <<< (t.srcB k a.b).toNat).toNat 0)) ∧
  (∀ a s t, Ready (.shr64 a) s t → ByStrand (.shr64 a) a.m s t (fun k =>
    Out.pair a.vd (t.pair k a.va.toNat >>> (t.srcB k a.b).toNat).toNat 0)) ∧
  (∀ a s t, Ready (.sar64 a) s t → ByStrand (.sar64 a) a.m s t (fun k =>
    Out.pair a.vd ((t.pair k a.va.toNat).sshiftRight (t.srcB k a.b).toNat).toNat 0)) ∧
  (∀ a s t, Ready (.icmp64 a) s t → ByStrand (.icmp64 a) a.m s t (fun k =>
    let x := t.pair k a.va.toNat
    let y := t.pair k (srcField a.b).toNat
    Out.one a.vd (oneIf (holds (subOf3 a.m) (x == y) (x.slt y))) 0)) ∧
  (∀ a s t, Ready (.ucmp64 a) s t → ByStrand (.ucmp64 a) a.m s t (fun k =>
    let x := t.pair k a.va.toNat
    let y := t.pair k (srcField a.b).toNat
    Out.one a.vd (oneIf (holds (subOf3 a.m) (x == y) (x.ult y))) 0))

/-- R146 to R149 (Table 8-4): compares, the select and the moves, each with the tag it gives its result. `MOVR` and `MOVW`
complete where every index read is below N, names a register that is neither locked nor owed a reply, and, for `MOVR`, is
not poisoned. -/
def Obligations.CompareSelectMove : Prop :=
  (∀ a, Row2 (.icmp a) a (fun x y => (oneIf (holds (subOf3 a.m) (x == y) (x.slt y)), 0))) ∧
  (∀ a, Row2 (.ucmp a) a (fun x y => (oneIf (holds (subOf3 a.m) (x == y) (x.ult y)), 0))) ∧
  (∀ a s t, Ready (.sel a) s t → ByStrand (.sel a) a.m s t (fun k =>
    let r := if (t.val k a.vc.toNat).getLsbD 0 then a.va.toNat else a.vb.toNat
    Out.tagged a.vd (t.val k r) (t.tag k r) 0)) ∧
  (∀ a s t, Ready (.mov a) s t → ByStrand (.mov a) a.m s t (fun k => Out.tagged a.vd (t.val k a.va.toNat) (t.tag k a.va.toNat) 0)) ∧
  (∀ a w, a.b = .imm w → ∀ s t, Ready (.movi a) s t → ByStrand (.movi a) a.m s t (fun _ => Out.one a.vd w 0)) ∧
  (∀ a s t, Ready (.movi64 a) s t → ByStrand (.movi64 a) a.m s t (fun _ => Out.pair a.vd a.imm.toNat 0)) ∧
  (∀ a s t, Ready (.movr a) s t →
    (∀ k ∈ t.reads (.movr a), (t.val k a.va.toNat).toNat < t.nreg ∧ (t.val k a.va.toNat).toNat ∉ t.lock ∧
      (t.val k a.va.toNat).toNat ∉ t.pend ∧ t.clean k (t.val k a.va.toNat).toNat) →
    ByStrand (.movr a) a.m s t (fun k =>
      let r := (t.val k a.va.toNat).toNat
      Out.tagged a.vd (t.val k r) (t.tag k r) 0)) ∧
  (∀ a v, a.b = .reg v → ∀ s t, Ready (.movw a) s t →
    (∀ k ∈ t.reads (.movw a), (t.val k v.toNat).toNat < t.nreg ∧ (t.val k v.toNat).toNat ∉ t.lock ∧
      (t.val k v.toNat).toNat ∉ t.pend) →
    ByStrand (.movw a) a.m s t (fun k =>
      ⟨[((t.val k v.toNat).toNat, t.val k a.va.toNat, t.tag k a.va.toNat)], 0⟩))

/-- R151 to R154: the pointer instructions. `LEA` and `PTR` complete where the pointer and its moved address field are valid. -/
def Obligations.Pointers : Prop :=
  (∀ a s t, Ready (.lea a) s t → ∀ sp sel x : Nat → Nat, ∀ y : Nat → Int,
    (∀ k ∈ t.reads (.lea a), PtrFields (sp k) (sel k) (x k) ∧ t.pair k a.va.toNat = tagged (sp k) (sel k) (x k) ∧
      y k = x k + (if subOf3 a.m < 4 then (t.srcB k a.b).toInt else (t.srcB k a.b).toNat) * 2 ^ (subOf3 a.m % 4) ∧
      0 ≤ y k ∧ PtrFields (sp k) (sel k) (y k).toNat) →
    ByStrand (.lea a) a.m s t (fun k => Out.pair a.vd (tagged (sp k) (sel k) (y k).toNat).toNat 0)) ∧
  (∀ a s t, Ready (.ptr a) s t →
    (∀ k ∈ t.reads (.ptr a), PtrFields (subOf3 a.m) (if subOf3 a.m = 0 then 0 else (t.srcB k a.b).toNat) (t.pair k a.va.toNat).toNat) →
    ByStrand (.ptr a) a.m s t (fun k =>
      Out.pair a.vd (tagged (subOf3 a.m) (if subOf3 a.m = 0 then 0 else (t.srcB k a.b).toNat) (t.pair k a.va.toNat).toNat).toNat 0)) ∧
  (∀ a s t, Ready (.pfield a) s t → ByStrand (.pfield a) a.m s t (fun k =>
    Out.one a.vd (ptrPiece (t.pair k a.va.toNat) ((t.srcB k a.b).extractLsb' 0 2).toNat) 0))

/-- R44 to R46, R156 to R158, R161 (Table 2-5): what structured control does to the counters, and where it passes control. -/
def Obligations.StructuredControl : Prop :=
  (∀ a s t, Ready (.ifI a) s t → roomBelow t →
    let u := withCtrs t (fun k c =>
      if c = 0 then (if k ∈ t.active (.ifI a) ∧ (t.val k a.va.toNat).getLsbD 0 = true then 0 else 1) else c + 1)
    (noneEnabled u → Goes (.ifI a) s t u (some (BitVec.ofInt 48 (target t a.off)))) ∧ (¬ noneEnabled u → Goes (.ifI a) s t u none)) ∧
  (∀ a s t, Ready (.elseI a) s t →
    let u := withCtrs t (fun _ c => if c = 0 then 1 else if c = 1 then 0 else c)
    (noneEnabled u → Goes (.elseI a) s t u (some (BitVec.ofInt 48 (target t a.off)))) ∧ (¬ noneEnabled u → Goes (.elseI a) s t u none)) ∧
  (∀ a s t, Ready (.endif a) s t →
    GoesEnd (.endif a) s t (withCtrs t (fun _ c => if c = 0 then c else shallower c)) none) ∧
  (∀ a s t, Ready (.loop a) s t → roomBelow t →
    let u := withCtrs t (fun _ c => if c = 0 then c else c + 1)
    (noneEnabled u → Goes (.loop a) s t u (some (BitVec.ofInt 48 (target t a.off)))) ∧ (¬ noneEnabled u → Goes (.loop a) s t u none)) ∧
  (∀ a s t, Ready (.breakI a) s t →
    Goes (.breakI a) s t (withCtrs t (fun k c => if k ∈ t.active (.breakI a) then BitVec.ofNat 8 (a.k.toNat + 1) else c)) none) ∧
  (∀ a s t, Ready (.contI a) s t →
    Goes (.contI a) s t (withCtrs t (fun k c => if k ∈ t.active (.contI a) then BitVec.ofNat 8 (0x80 + a.k.toNat + 1) else c)) none) ∧
  (∀ a s t, Ready (.endloop a) s t →
    let u := withCtrs t (fun _ c => if c = 0x81 then 0 else c)
    (¬ noneEnabled u → target t a.off % 64 = 0 → GoesEnd (.endloop a) s t u (some (BitVec.ofInt 48 (target t a.off)))) ∧
    (noneEnabled u → GoesEnd (.endloop a) s t (withCtrs t (fun _ c => shallower c)) none)) ∧
  (∀ a s t, Ready (.exit a) s t →
    Goes (.exit a) s t (withCtrs t (fun k c => if k ∈ t.active (.exit a) then 0xff else c)) none)

/-- R159, R160, R162: transfers of a whole team, `NOP` and `YIELD`. A transfer without a leader falls through. -/
def Obligations.TeamTransfers : Prop :=
  (∀ a s t, Ready (.bra a) s t →
    (t.active (.bra a) = [] → Goes (.bra a) s t t none) ∧
    (t.active (.bra a) ≠ [] → goodTarget (target t a.off) 64 → Goes (.bra a) s t t (some (BitVec.ofInt 48 (target t a.off))))) ∧
  (∀ a s t, Ready (.brx a) s t →
    (t.active (.brx a) = [] → Goes (.brx a) s t t none) ∧
    (∀ l, (t.active (.brx a)).head? = some l → goodTarget (t.pair l a.va.toNat).toNat 64 →
      Goes (.brx a) s t t (some ((t.pair l a.va.toNat).setWidth 48)))) ∧
  (∀ a s t, Ready (.call a) s t →
    (t.active (.call a) = [] → Goes (.call a) s t t none) ∧
    (t.active (.call a) ≠ [] → goodTarget (target t a.off) 64 →
      Goes (.call a) s t (linked t a.vd) (some (BitVec.ofInt 48 (target t a.off))))) ∧
  (∀ a s t, Ready (.callx a) s t →
    (t.active (.callx a) = [] → Goes (.callx a) s t t none) ∧
    (∀ l, (t.active (.callx a)).head? = some l → goodTarget (t.pair l a.va.toNat).toNat 64 →
      Goes (.callx a) s t (linked t a.vd) (some ((t.pair l a.va.toNat).setWidth 48)))) ∧
  (∀ a s t, Ready (.ret a) s t → ∀ l, t.all.find? (fun k => (t.strand k).ctr != 0xff) = some l →
    t.clean l a.va.toNat → t.clean l (a.va.toNat + 1) → goodTarget (t.pair l a.va.toNat).toNat 4 →
    Goes (.ret a) s t t (some ((t.pair l a.va.toNat).setWidth 48))) ∧
  (∀ a s t, Ready (.nop a) s t → Completes (.nop a) s t t s) ∧
  (∀ a s t, Ready (.yieldI a) s t → Completes (.yieldI a) s t t s)

/-- R165 to R168 (Tables 9-2 to 9-4): the FP32 instructions, under their effective mode, for every operand. -/
def Obligations.Fp32Arithmetic : Prop :=
  (∀ a, RowF2 (.fadd a) a (fun m x y => fpSum Fmt.f32 m (Fmt.f32.dec x) (Fmt.f32.dec y))) ∧
  (∀ a, RowF2 (.fsub a) a (fun m x y => fpSum Fmt.f32 m (Fmt.f32.dec x) (Fmt.f32.dec y).flip)) ∧
  (∀ a, RowF2 (.fmul a) a (fun m x y => fpProd Fmt.f32 m (Fmt.f32.dec x) (Fmt.f32.dec y))) ∧
  (∀ a s t, Ready (.ffma a) s t → ByStrand (.ffma a) a.m s t (fun k =>
    let r := fpFma Fmt.f32 (modeOf t a.m) (Fmt.f32.dec (t.val k a.va.toNat).toNat) (Fmt.f32.dec (t.val k a.vb.toNat).toNat)
      (Fmt.f32.dec (t.val k a.vc.toNat).toNat)
    Out.one a.vd (word r.1) r.2)) ∧
  (∀ a, RowF2 (.fmin a) a (fun _ x y => fpPick Fmt.f32 false x y)) ∧
  (∀ a, RowF2 (.fmax a) a (fun _ x y => fpPick Fmt.f32 true x y)) ∧
  (∀ a, Row2 (.fcmp a) a (fun x y =>
    let p := Fmt.f32.dec x.toNat
    let q := Fmt.f32.dec y.toNat
    (oneIf (fpHolds (subOf3 a.m) p q), fpCmpFlags (subOf3 a.m) p q))) ∧
  (∀ a, Row1 (.fclass a) a (fun x => (fpClass x, 0))) ∧
  (∀ a, RowF1 (.frnd a) a (fpIntegral Fmt.f32)) ∧
  (∀ a s t, Ready (.fscale a) s t → ByStrand (.fscale a) a.m s t (fun k =>
    let r := fpScale Fmt.f32 (modeOf t a.m) (t.val k a.va.toNat).toNat (t.srcB k a.b).toInt
    Out.one a.vd (word r.1) r.2)) ∧
  (∀ a, Row2 (.fcopys a) a (fun x y => (y.extractLsb' 31 1 ++ x.extractLsb' 0 31, 0)))

/-- R170, R171 (Tables 9-5 and 9-6): the FP64 instructions of R166 on pairs, and the scalar conversions, which take no `.U`. -/
def Obligations.Fp64AndConversions : Prop :=
  (∀ a, RowD2 (.dadd a) a (fun m x y => fpSum Fmt.f64 m (Fmt.f64.dec x) (Fmt.f64.dec y))) ∧
  (∀ a, RowD2 (.dsub a) a (fun m x y => fpSum Fmt.f64 m (Fmt.f64.dec x) (Fmt.f64.dec y).flip)) ∧
  (∀ a, RowD2 (.dmul a) a (fun m x y => fpProd Fmt.f64 m (Fmt.f64.dec x) (Fmt.f64.dec y))) ∧
  (∀ a s t, Ready (.dfma a) s t → ByStrand (.dfma a) a.m s t (fun k =>
    let r := fpFma Fmt.f64 (modeOf t a.m) (Fmt.f64.dec (t.pair k a.va.toNat).toNat) (Fmt.f64.dec (t.pair k a.vb.toNat).toNat)
      (Fmt.f64.dec (t.pair k a.vc.toNat).toNat)
    Out.pair a.vd r.1 r.2)) ∧
  (∀ a, RowD2 (.dmin a) a (fun _ x y => fpPick Fmt.f64 false x y)) ∧
  (∀ a, RowD2 (.dmax a) a (fun _ x y => fpPick Fmt.f64 true x y)) ∧
  (∀ a s t, Ready (.dcmp a) s t → ByStrand (.dcmp a) a.m s t (fun k =>
    let p := Fmt.f64.dec (t.pair k a.va.toNat).toNat
    let q := Fmt.f64.dec (t.pair k (srcField a.b).toNat).toNat
    Out.one a.vd (oneIf (fpHolds (subOf3 a.m) p q)) (fpCmpFlags (subOf3 a.m) p q))) ∧
  (∀ a, RowD1 (.drnd a) a (fpIntegral Fmt.f64)) ∧
  (∀ a s t, Ready (.fcvti a) s t → EachStrand (.fcvti a) s t (fun k =>
    let r := fpToInt (modeOf t a.m) (if topBit a.m then 0 else -2147483648) (if topBit a.m then 4294967295 else 2147483647)
      (Fmt.f32.dec (t.val k a.va.toNat).toNat)
    Out.one a.vd (BitVec.ofInt 32 r.1) r.2)) ∧
  (∀ a s t, Ready (.icvtf a) s t → EachStrand (.icvtf a) s t (fun k =>
    let x := t.val k a.va.toNat
    let v : Int := if topBit a.m then x.toNat else x.toInt
    let r := Fmt.f32.round (modeOf t a.m) (.fin (decide (v < 0)) v.natAbs 0)
    Out.one a.vd (word r.1) r.2)) ∧
  (∀ a s t, Ready (.dcvtf a) s t → EachStrand (.dcvtf a) s t (fun k =>
    let r := fpTo Fmt.f64 Fmt.f32 (modeOf t a.m) (t.pair k a.va.toNat).toNat
    Out.one a.vd (word r.1) r.2)) ∧
  (∀ a s t, Ready (.fcvtd a) s t → EachStrand (.fcvtd a) s t (fun k =>
    let r := fpTo Fmt.f32 Fmt.f64 (modeOf t a.m) (t.val k a.va.toNat).toNat
    Out.pair a.vd r.1 r.2)) ∧
  (∀ a s t, Ready (.dcvtl a) s t → EachStrand (.dcvtl a) s t (fun k =>
    let r := fpToInt (modeOf t a.m) (if topBit a.m then 0 else -9223372036854775808)
      (if topBit a.m then 18446744073709551615 else 9223372036854775807) (Fmt.f64.dec (t.pair k a.va.toNat).toNat)
    Out.pair a.vd (BitVec.ofInt 64 r.1).toNat r.2)) ∧
  (∀ a s t, Ready (.lcvtd a) s t → EachStrand (.lcvtd a) s t (fun k =>
    let x := t.pair k a.va.toNat
    let v : Int := if topBit a.m then x.toNat else x.toInt
    let r := Fmt.f64.round (modeOf t a.m) (.fin (decide (v < 0)) v.natAbs 0)
    Out.pair a.vd r.1 r.2))

/-- R169, R80 (Table 5-5): roots and the transcendental functions, which round to nearest whatever the mode; every special case
of the table, and elsewhere the model's enclosure of the exact value; R80: division and the reciprocal are the exact
quotient of the operands, rounded once. -/
def Obligations.SpecialFunctionsAndDivisions : Prop :=
  (∀ a, RowF1 (.fsqrt a) a (fun _ x => fpFun Fmt.f32 (fun _ => (x, 0)) (fun n => if n then fpBad Fmt.f32 else (x, 0))
    (fun n m e => if n then fpBad Fmt.f32 else Fmt.f32.round 0 (sqrtFV m e)) x)) ∧
  (∀ a, RowD1 (.dsqrt a) a (fun mode x => fpFun Fmt.f64 (fun _ => (x, 0)) (fun n => if n then fpBad Fmt.f64 else (x, 0))
    (fun n m e => if n then fpBad Fmt.f64 else Fmt.f64.round mode (sqrtFV m e)) x)) ∧
  (∀ a, RowF1 (.frsq a) a (fun _ x => fpFun Fmt.f32 (fun n => (Fmt.f32.infEnc n, flDz)) (fun n => if n then fpBad Fmt.f32 else (0, 0))
    (fun n m e => if n then fpBad Fmt.f32 else Fmt.f32.round 0 (rsqrtFV m e)) x)) ∧
  (∀ a, RowF1 (.fexp2 a) a (fun _ x => fpFun Fmt.f32 (fun _ => (0x3f800000, 0)) (fun n => if n then (0, 0) else (0x7f800000, 0))
    (fun n m e => if (FV.fin n m e).rat ≥ 128 then (0x7f800000, flOf ||| flNx) else exp2Fin n m e) x)) ∧
  (∀ a, RowF1 (.flog2 a) a (fun _ x => fpFun Fmt.f32 (fun _ => (0xff800000, flDz)) (fun n => if n then fpBad Fmt.f32 else (0x7f800000, 0))
    (fun n m e => if n then fpBad Fmt.f32 else if (FV.fin n m e).rat = 1 then (0, 0) else log2Fin m e) x)) ∧
  (∀ a, RowF1 (.fsinpi a) a (fun _ x => fpFun Fmt.f32 (fun n => (Fmt.f32.sgn n, 0)) (fun _ => fpBad Fmt.f32)
    (fun n m e => if (FV.fin n m e).rat.den = 1 then (Fmt.f32.sgn n, 0) else sinpiFin n m e) x)) ∧
  (∀ a, RowF1 (.fcospi a) a (fun _ x => fpFun Fmt.f32 (fun _ => (0x3f800000, 0)) (fun _ => fpBad Fmt.f32)
    (fun n m e => if (FV.fin n m e).rat.den = 2 then (0, 0) else cospiFin m e) x)) ∧
  (∀ a, RowF1 (.ftanh a) a (fun _ x => fpFun Fmt.f32 (fun n => (Fmt.f32.sgn n, 0)) (fun n => (if n then 0xbf800000 else 0x3f800000, 0))
    (fun n m e => tanhFin n m e) x)) ∧
  (∀ a, RowF2 (.fdiv a) a (fun _ x y => fpDiv Fmt.f32 0 (Fmt.f32.dec x) (Fmt.f32.dec y))) ∧
  (∀ a, RowF1 (.frcp a) a (fun _ x => fpDiv Fmt.f32 0 (.fin false 1 0) (Fmt.f32.dec x))) ∧
  (∀ a, RowD2 (.ddiv a) a (fun m x y => fpDiv Fmt.f64 m (Fmt.f64.dec x) (Fmt.f64.dec y)))

/-- R77, R78 (Table 5-4): the model's rounding of a finite non-zero value is `round_to` of the rational number it is, in every
format and mode, flags included. -/
def Obligations.RoundTo : Prop :=
  ∀ f ∈ fpFormats, ∀ mode < 4, ∀ neg m e, m ≠ 0 → f.round mode (.fin neg m e) = roundTo f mode (FV.fin neg m e).rat

/-- R76, R166: sums, products and comparisons of finite values are those of the rational numbers they are, and an exact zero sum
has the sign R76 gives it. -/
def Obligations.ExactArithmetic : Prop :=
  (∀ mode (ts : List FV), (∀ x ∈ ts, x.isFin = true) →
    (FV.sum mode ts).isFin = true ∧ (FV.sum mode ts).rat = (ts.map FV.rat).sum ∧
    ((ts.map FV.rat).sum = 0 → ((FV.sum mode ts).neg = true ↔
      (ts.all (fun x => x.isZero && x.neg) = true ∨
        (mode = 3 ∧ ts.all (fun x => x.isZero && !x.neg) = false))))) ∧
  (∀ a b : FV, a.isFin = true → b.isFin = true →
    (a.mul b).isFin = true ∧ (a.mul b).rat = a.rat * b.rat ∧ (a.mul b).neg = (a.neg != b.neg)) ∧
  (∀ a b : FV, a.isFin = true → b.isFin = true → a.cmp b = some (compare a.rat b.rat))

/-- R80: the values that the functions of Table 5-5 give exactly set no flag. -/
def Obligations.ExactFunctionValues : Prop :=
  (∀ x (n : Int), (Fmt.f32.dec x).isFin = true → (Fmt.f32.dec x).rat = n → -149 ≤ n → n ≤ 127 →
    (Fmt.f32.dec (fexp2N x).1).rat = 2 ^ n ∧ (fexp2N x).2 = 0) ∧
  (∀ x (n : Int), (Fmt.f32.dec x).isFin = true → (Fmt.f32.dec x).rat = 2 ^ n →
    (Fmt.f32.dec (flog2N x).1).isFin = true ∧ (Fmt.f32.dec (flog2N x).1).rat = n ∧ (flog2N x).2 = 0) ∧
  (∀ x (n : Int), (Fmt.f32.dec x).isFin = true → (Fmt.f32.dec x).rat = n + 1 / 2 →
    (Fmt.f32.dec (fsinpiN x).1).rat = (-1) ^ n.natAbs ∧ (fsinpiN x).2 = 0) ∧
  (∀ x (n : Int), (Fmt.f32.dec x).isFin = true → (Fmt.f32.dec x).rat = n →
    (Fmt.f32.dec (fcospiN x).1).rat = (-1) ^ n.natAbs ∧ (fcospiN x).2 = 0)

/-- R172, R173 (Table 9-7): the element-wise packed instructions, where the packed sources of a strand carry one tag from 1 to 12. -/
def Obligations.PackedArithmetic : Prop :=
  (∀ a, RowPk (.padd a) a.m a.vd [a.va, srcField a.b] packTags id (fun t k T j =>
    let x := t.val k a.va.toNat
    let y := t.val k (srcField a.b).toNat
    laneRes T (fun f => fpSum f (modeOf t a.m) (f.dec (laneNat T x j)) (f.dec (laneNat T y j))) (laneInt T x j + laneInt T y j))) ∧
  (∀ a, RowPk (.psub a) a.m a.vd [a.va, srcField a.b] packTags id (fun t k T j =>
    let x := t.val k a.va.toNat
    let y := t.val k (srcField a.b).toNat
    laneRes T (fun f => fpSum f (modeOf t a.m) (f.dec (laneNat T x j)) (f.dec (laneNat T y j)).flip) (laneInt T x j - laneInt T y j))) ∧
  (∀ a, RowPk (.pmul a) a.m a.vd [a.va, srcField a.b] packTags id (fun t k T j =>
    let x := t.val k a.va.toNat
    let y := t.val k (srcField a.b).toNat
    laneRes T (fun f => fpProd f (modeOf t a.m) (f.dec (laneNat T x j)) (f.dec (laneNat T y j))) (laneInt T x j * laneInt T y j))) ∧
  (∀ a, RowPk (.pfma a) a.m a.vd [a.va, a.vb, a.vc] packTags id (fun t k T j =>
    let x := t.val k a.va.toNat
    let y := t.val k a.vb.toNat
    let z := t.val k a.vc.toNat
    laneRes T (fun f => fpFma f (modeOf t a.m) (f.dec (laneNat T x j)) (f.dec (laneNat T y j)) (f.dec (laneNat T z j)))
      (laneInt T x j * laneInt T y j + laneInt T z j))) ∧
  (∀ a, RowPk (.pmin a) a.m a.vd [a.va, srcField a.b] packTags id (fun t k T j =>
    let x := t.val k a.va.toNat
    let y := t.val k (srcField a.b).toNat
    laneRes T (fun f => fpPick f false (laneNat T x j) (laneNat T y j)) (min (laneInt T x j) (laneInt T y j)))) ∧
  (∀ a, RowPk (.pmax a) a.m a.vd [a.va, srcField a.b] packTags id (fun t k T j =>
    let x := t.val k a.va.toNat
    let y := t.val k (srcField a.b).toNat
    laneRes T (fun f => fpPick f true (laneNat T x j) (laneNat T y j)) (max (laneInt T x j) (laneInt T y j)))) ∧
  (∀ a, RowPk (.pabs a) a.m a.vd [a.va] packTags id (fun t k T j =>
    let x := t.val k a.va.toNat
    laneRes T (fun _ => (laneNat T x j % 2 ^ (laneBits T - 1), 0)) |laneInt T x j|)) ∧
  (∀ a, RowPk (.pclamp a) a.m a.vd [a.va, a.vb, a.vc] packTags id (fun t k T j =>
    let x := t.val k a.va.toNat
    let y := t.val k a.vb.toNat
    let z := t.val k a.vc.toNat
    laneRes T (fun f =>
        (if (f.dec (laneNat T y j)).cmp (f.dec (laneNat T z j)) = some .gt then laneNat T z j
         else (fpPick f false (fpPick f true (laneNat T x j) (laneNat T y j)).1 (laneNat T z j)).1,
         if anySnan [f.dec (laneNat T x j), f.dec (laneNat T y j), f.dec (laneNat T z j)] then flNv else 0))
      (if laneInt T y j > laneInt T z j then laneInt T z j else min (max (laneInt T x j) (laneInt T y j)) (laneInt T z j)))) ∧
  (∀ a, RowPk (.pcmp a) a.m a.vd [a.va, srcField a.b] packTags
    (fun T => if T ≤ 4 then 4 else if T ≤ 8 then 8 else if T ≤ 10 then 10 else 12) (fun t k T j =>
      let x := t.val k a.va.toNat
      let y := t.val k (srcField a.b).toNat
      match laneFmt T with
      | some f =>
        let p := f.dec (laneNat T x j)
        let q := f.dec (laneNat T y j)
        (if fpHolds (subOf3 a.m) p q then 2 ^ laneBits T - 1 else 0, fpCmpFlags (subOf3 a.m) p q)
      | none => (if fpHolds (subOf3 a.m) (intFV (laneInt T x j)) (intFV (laneInt T y j)) then 2 ^ laneBits T - 1 else 0, 0))) ∧
  (∀ a, RowPk (.psel a) a.m a.vd [a.va, a.vb] packTags id (fun t k T j =>
    (laneNat T (if (t.val k a.vc.toNat).getLsbD (laneBits T * j + laneBits T - 1) then t.val k a.va.toNat else t.val k a.vb.toNat) j, 0)))

/-- R174 to R176 (Table 9-8): dot products, rounding shifts, and access to elements and tags. -/
def Obligations.PackedDotShiftAccess : Prop :=
  (∀ a s t, Ready (.pdot2 a) s t → TagsFit t (.pdot2 a) [a.va, a.vb] [1, 2, 3, 4] → ByStrand (.pdot2 a) a.m s t (fun k =>
    let r := dotRes (modeOf t a.m) (tagOf t k a.va) (t.val k a.va.toNat) (t.val k a.vb.toNat) (t.val k a.vc.toNat)
    Out.one a.vd r.1 r.2)) ∧
  (∀ a s t, Ready (.pdot4 a) s t → TagsFit t (.pdot4 a) [a.va, a.vb] [5, 6, 7, 8] → ByStrand (.pdot4 a) a.m s t (fun k =>
    let r := dotRes (modeOf t a.m) (tagOf t k a.va) (t.val k a.va.toNat) (t.val k a.vb.toNat) (t.val k a.vc.toNat)
    Out.one a.vd r.1 r.2)) ∧
  (∀ a, subOf3 a.m % 2 = 1 → Row2 (.pshrr a) a (fun x y => (BitVec.ofInt 32 (halfUp x.toInt y.toNat), 0))) ∧
  (∀ a, subOf3 a.m % 2 = 0 → RowPk (.pshrr a) a.m a.vd [a.va] [3, 4, 7, 8, 9, 10, 11, 12] id (fun t k T j =>
    ((halfUp (laneInt T (t.val k a.va.toNat) j) (t.srcB k a.b).toNat % 2 ^ laneBits T).toNat, 0))) ∧
  (∀ a s t, Ready (.packh a) s t → ByStrand (.packh a) a.m s t (fun k =>
    Out.tagged a.vd ((t.val k (srcField a.b).toNat).extractLsb' 16 16 ++ (t.val k a.va.toNat).extractLsb' 16 16)
      (if subOf3 a.m = 0 then 1 else if subOf3 a.m = 1 then 3 else 4) 0)) ∧
  (∀ a s t, Ready (.unpk a) s t → TagsFit t (.unpk a) [a.va] packTags →
    (∀ k ∈ t.reads (.unpk a), subOf3 a.m < laneCount (tagOf t k a.va)) → ByStrand (.unpk a) a.m s t (fun k =>
      let T := tagOf t k a.va
      match laneFmt T with
      | some f =>
        let r := fpTo f Fmt.f32 0 (laneNat T (t.val k a.va.toNat) (subOf3 a.m))
        Out.one a.vd (word r.1) r.2
      | none => Out.one a.vd (BitVec.ofInt 32 (laneInt T (t.val k a.va.toNat) (subOf3 a.m))) 0)) ∧
  (∀ a s t, Ready (.insrt a) s t → TagsFit t (.insrt a) [a.vc] packTags →
    (∀ k ∈ t.reads (.insrt a), a.x8.toNat < laneCount (tagOf t k a.vc)) → ByStrand (.insrt a) a.m s t (fun k =>
      let T := tagOf t k a.vc
      let x := t.val k a.va.toNat
      lanesOut a.vd T T (fun j => if j = a.x8.toNat then
          laneRes T (fun f => fpTo Fmt.f32 f (modeOf t a.m) x.toNat) (if laneSigned T then x.toInt else x.toNat)
        else (laneNat T (t.val k a.vc.toNat) j, 0)))) ∧
  (∀ a s t, Ready (.tagset a) s t → EachStrand (.tagset a) s t (fun k => Out.tagged a.vd (t.val k a.va.toNat) a.m 0)) ∧
  (∀ a s t, Ready (.tagget a) s t → ByStrand (.tagget a) a.m s t (fun k => Out.one a.vd ((t.tag k a.va.toNat).setWidth 32) 0))

/-- R184 (Table 9-10): movements between strands, with the tag of what is moved, and votes. -/
def Obligations.LaneMovesAndVotes : Prop :=
  (∀ a s t, Ready (.shfl a) s t →
    (∀ k ∈ t.active (.shfl a), t.cleanB k a.b ∧ t.clean (t.srcB k a.b).toNat a.va.toNat) →
    EachStrand (.shfl a) s t (fun k => fromStrand t a.vd a.va (t.srcB k a.b).toNat)) ∧
  (∀ a s t, Ready (.swz a) s t →
    (∀ k ∈ t.active (.swz a), t.cleanB k a.b ∧
      let j := k ^^^ ((t.srcB k a.b).toNat % 1024)
      t.clean (if j < t.count then j else k) a.va.toNat) →
    EachStrand (.swz a) s t (fun k =>
      let j := k ^^^ ((t.srcB k a.b).toNat % 1024)
      fromStrand t a.vd a.va (if j < t.count then j else k))) ∧
  (∀ a s t, Ready (.readl a) s t → ∀ l, (t.active (.readl a)).head? = some l → t.cleanB l a.b →
    t.clean (t.srcB l a.b).toNat a.va.toNat →
    EachStrand (.readl a) s t (fun _ => fromStrand t a.vd a.va (t.srcB l a.b).toNat)) ∧
  (∀ a s t, Ready (.ballot a) s t → EachStrand (.ballot a) s t (fun k =>
    let q := (t.srcB k a.b).toNat
    Out.one a.vd (if q < t.passes then ballotWord (votesFor t (.ballot a) a.va) q else 0) 0)) ∧
  (∀ a s t, Ready (.vany a) s t → EachStrand (.vany a) s t (fun _ =>
    Out.one a.vd (oneIf (t.active (.vany a) |>.any (fun k => (t.val k a.va.toNat).getLsbD 0))) 0)) ∧
  (∀ a s t, Ready (.vall a) s t → EachStrand (.vall a) s t (fun _ =>
    Out.one a.vd (oneIf (t.active (.vall a) |>.all (fun k => (t.val k a.va.toNat).getLsbD 0))) 0)) ∧
  (∀ a s t, Ready (.first a) s t → EachStrand (.first a) s t (fun _ =>
    Out.one a.vd (match (votesFor t (.first a) a.va).head? with | some k => BitVec.ofNat 32 k | none => 0xffffffff) 0)) ∧
  (∀ a s t, Ready (.mbcnt a) s t → EachStrand (.mbcnt a) s t (fun k =>
    Out.one a.vd (BitVec.ofNat 32 ((votesFor t (.mbcnt a) a.va).countP (fun j => j < k))) 0))

/-- R185 to R187 (Table 9-11): slides of elements over the team, reductions over `pair_tree`, and scans. -/
def Obligations.SlidesAndReductions : Prop :=
  (∀ a s t, Ready (.slideup a) s t → ∀ l, (t.active (.slideup a)).head? = some l → t.cleanB l a.b →
    let T := tagOf t l a.va
    let n := (t.srcB l a.b).toNat
    let edge := decide (subOf3 a.m % 4 = 1)
    (∀ y ∈ slideReads t (.slideup a) true edge T n, t.clean (y / eltN T) a.va.toNat ∧ tagOf t (y / eltN T) a.va = T) →
    EachStrand (.slideup a) s t (slideOut t a.vd a.va true edge T n)) ∧
  (∀ a s t, Ready (.slidedn a) s t → ∀ l, (t.active (.slidedn a)).head? = some l → t.cleanB l a.b →
    let T := tagOf t l a.va
    let n := (t.srcB l a.b).toNat
    let edge := decide (subOf3 a.m % 4 = 1)
    (∀ y ∈ slideReads t (.slidedn a) false edge T n, t.clean (y / eltN T) a.va.toNat ∧ tagOf t (y / eltN T) a.va = T) →
    EachStrand (.slidedn a) s t (slideOut t a.vd a.va false edge T n)) ∧
  (∀ a s t, Ready (.redadd a) s t → reduceTags t (.redadd a) (subOf3 a.m) a.va → EachStrand (.redadd a) s t (fun k =>
    reduceOut a.vd (subOf3 a.m) (tagOf t k a.va)
      ((reduceTree 0 (subOf3 a.m) (tagOf t k a.va) t.rm (reduceList t (.redadd a) (subOf3 a.m) a.va t.count)).getD (0, 0)))) ∧
  (∀ a s t, Ready (.redmin a) s t → reduceTags t (.redmin a) (subOf3 a.m) a.va → EachStrand (.redmin a) s t (fun k =>
    reduceOut a.vd (subOf3 a.m) (tagOf t k a.va)
      ((reduceTree 1 (subOf3 a.m) (tagOf t k a.va) t.rm (reduceList t (.redmin a) (subOf3 a.m) a.va t.count)).getD (0, 0)))) ∧
  (∀ a s t, Ready (.redmax a) s t → reduceTags t (.redmax a) (subOf3 a.m) a.va → EachStrand (.redmax a) s t (fun k =>
    reduceOut a.vd (subOf3 a.m) (tagOf t k a.va)
      ((reduceTree 2 (subOf3 a.m) (tagOf t k a.va) t.rm (reduceList t (.redmax a) (subOf3 a.m) a.va t.count)).getD (0, 0)))) ∧
  (∀ a s t, Ready (.scan a) s t → reduceTags t (.scan a) (subOf3 a.m) a.va → EachStrand (.scan a) s t (fun k =>
    reduceOut a.vd (subOf3 a.m) (tagOf t k a.va)
      ((reduceTree 0 (subOf3 a.m) (tagOf t k a.va) t.rm
        (reduceList t (.scan a) (subOf3 a.m) a.va (if topBit a.m then k else k + 1))).getD (scanIdentity (subOf3 a.m) (tagOf t k a.va)))))

/-- R91: one round of `pair_tree` combines neighbours and carries an odd last entry upward, and the rounds go on until one entry is
left; with an associative operation the result is the fold of the entries present, in their order, and absent without an entry. -/
def Obligations.PairTree : Prop :=
  (∀ (op : Nat → Nat → Nat) (l : List (Option Nat)),
    pairTree op l = if l.length ≤ 1 then nth none l 0 else pairTree op ((List.range ((l.length + 1) / 2)).map (fun i =>
      if 2 * i + 1 < l.length then combined op (nth none l (2 * i)) (nth none l (2 * i + 1)) else nth none l (2 * i)))) ∧
  ∀ (op : Nat → Nat → Nat), (∀ x y z, op (op x y) z = op x (op y z)) → ∀ l : List (Option Nat),
    pairTree op l = (match l.filterMap id with
      | [] => none
      | x :: xs => some (xs.foldl op x))

/-- R177 to R183 (Table 9-9): `CVT`, where no element becomes an outlier, and the pairing blocks, where none is one; the outlier
list is read and tested all the same. -/
def Obligations.ConversionsAndBlocks : Prop :=
  (∀ a s t, Ready (.cvt a) s t →
    (∀ k ∈ t.active (.cvt a), ∀ j < cvtRegs a, t.clean k (a.va.toNat + j) ∧
      (1 ≤ cvtSf a → cvtSf a ≤ 12 → (t.tag k (a.va.toNat + j)).toNat = cvtSf a)) →
    (t.om = true → (cvtDf a = 5 ∨ cvtDf a = 6) → listGood s t (.cvt a) a.vb ∧
      ∀ k ∈ t.active (.cvt a), ∀ i < cvtCount (cvtDf a), ¬ cvtOutlier (modeOf t a.m) (cvtDf a) (cvtValue t a k i)) →
    EachStrand (.cvt a) s t (fun k => cvtOut t a k (fun _ => false))) ∧
  (∀ a s t, Ready (.pbpack a) s t → listGood s t (.pbpack a) a.vb → (∀ k ∈ t.active (.pbpack a), t.clean k a.va.toNat) →
    let sc := chosenScale t (.pbpack a) a.va a.tg.toNat
    noOutlier t (.pbpack a) a.va a.tg.toNat sc →
    Completes (.pbpack a) s t (packed t (.pbpack a) a.vd a.va (some a.x8.toNat) a.tg.toNat sc) s) ∧
  (∀ a s t, Ready (.pbpacks a) s t → listGood s t (.pbpacks a) a.vb → (∀ k ∈ t.active (.pbpacks a), t.clean k a.va.toNat) →
    (∀ p < t.passes, inPass t (.pbpacks a) p ≠ [] → t.clean ((inPass t (.pbpacks a) p).headD 0) a.vc.toNat) →
    let sc := presetScale t (.pbpacks a) a.vc
    noOutlier t (.pbpacks a) a.va a.tg.toNat sc →
    Completes (.pbpacks a) s t (packed t (.pbpacks a) a.vd a.va none a.tg.toNat sc) s) ∧
  (∀ a s t, Ready (.pbunpk a) s t → ∀ tag : Nat → Nat,
    (∀ p < t.passes, inPass t (.pbunpk a) p ≠ [] → t.clean ((inPass t (.pbunpk a) p).headD 0) a.vc.toNat ∧
      13 ≤ tag p ∧ tag p ≤ 15 ∧ ∀ w < (if tag p = 13 then 8 else if tag p = 14 then 7 else 4),
        t.clean (32 * p + w) a.va.toNat ∧ tagOf t (32 * p + w) a.va = tag p) →
    EachStrand (.pbunpk a) s t (fun k =>
      let p := k / 32
      let e := presetScale t (.pbunpk a) a.vc p
      let x := (t.val (32 * p + k % 32 / eltN (tag p)) a.va.toNat).toNat
      Out.one a.vd (word (Fmt.f32.round 0 (pbValue (pbM (tag p))
        (bits x (eltW (tag p) * (k % 32 % eltN (tag p))) (eltW (tag p))) e.1 e.2)).1) 0))

/-- R191 to R194, Table 10-2: loads and stores, indexed or not, of one to sixteen bytes of each active strand. Without an
active strand an instruction has no effect. -/
def Obligations.LoadsAndStores : Prop :=
  (∀ a, Loads (.ld a) a (2 ^ subOf3 a.m) Need.rd (topBit a.m) (ownPtr a)) ∧
  (∀ a, Loads (.ldx a) a (2 ^ subOf3 a.m) Need.rd (topBit a.m) (indexPtr (.ldx a) a a.vb (2 ^ subOf3 a.m))) ∧
  (∀ a, Stores (.st a) a.vb (2 ^ subOf3 a.m) Need.wr (cached · a false) false (ownPtr a) (fun _ _ _ => True)) ∧
  (∀ a, Stores (.stx a) a.vb (2 ^ subOf3 a.m) Need.wr (cached · a false) false
    (indexPtr (.stx a) a (memVc a) (2 ^ subOf3 a.m))
    (fun _ t _ => ∀ k ∈ t.active (.stx a), ∀ j, j < max 1 (2 ^ subOf3 a.m / 4) → t.clean k (a.vb.toNat + j)))

/-- R195 to R199, Table 10-3: strong loads and stores, the atomic operations with their old values, and `FENCE`; a release, and an sc
access, waits for what stands before it. R301, R302, Table 16-2: two operations are scope-matched when each party lies in the other's
instance of the scope. R303 to R305: what one team stores before a release that another's matching acquire reads from, that team then
reads. -/
def Obligations.StrongAccesses : Prop :=
  (∀ a s t (Q : Nat → DWord) (L : Nat → List Loc), Ready (.lda a) s t → (t.active (.lda a) = [] → Completes (.lda a) s t t s) ∧
    (t.active (.lda a) ≠ [] →
      (∀ k ∈ t.active (.lda a), strongPtr a t k (Q k) ∧ Located s t (needStrong false true) (Q k) (strongBytes a) (L k)) →
      let xs := accesses (t.active (.lda a)) L (fun _ => [])
      (memOrd a = 4 → ¬ReleaseDone s t (reach a (placesOf xs)) → Waits (.lda a) s t id s) ∧
      ((memOrd a = 4 → ReleaseDone s t (reach a (placesOf xs))) →
        let r := prepAccess s t false (cachedStrong t a true) xs
        if r.2 then CompletesIn (.lda a) s t (acquired a t (gives (endAccess r.1 t.core (placesOf xs)) t (t.active (.lda a))
          (fun k => loaded a.vd false (memTag a) (bytesRead r.1 t (L k)))))
        else Waits (.lda a) s t id r.1))) ∧
  (∀ a, Stores (.stl a) a.vb (strongBytes a) (needStrong true false) (cachedStrong · a false) (decide (memOrd a = 4)) (strongPtr a)
    (fun s t ls => OrderMet s t a ls)) ∧
  (∀ a s t (Q : Nat → DWord) (L : Nat → List Loc), Ready (.stl a) s t → t.active (.stl a) ≠ [] →
    (∀ k ∈ t.active (.stl a), strongPtr a t k (Q k) ∧ Located s t (needStrong true false) (Q k) (strongBytes a) (L k)) →
    ¬OrderMet s t a (placesOf (accesses (t.active (.stl a)) L (fun _ => []))) → Waits (.stl a) s t id s) ∧
  (∀ a, Atomics (.atom a) a (some a.vd) (fun t k o =>
    let r := atomResult a.m.toNat (8 * strongBytes a) o (operandOf t k a.vb (strongBytes a))
    (some r.1, r.2))) ∧
  (∀ a, Atomics (.red a) a none (fun t k o =>
    let r := atomResult a.m.toNat (8 * strongBytes a) o (operandOf t k a.vb (strongBytes a))
    (some r.1, r.2))) ∧
  (∀ a, Atomics (.atomcas a) a (some a.vd) (fun t k o =>
    (if o = operandOf t k a.vb (strongBytes a) then some (operandOf t k (memVc a) (strongBytes a)) else none, 0))) ∧
  (∀ a s t, Ready (.fence a) s t → (t.active (.fence a) = [] → Completes (.fence a) s t t s) ∧
    (t.active (.fence a) ≠ [] →
      (memOrd a ∈ [2, 3, 4] → ¬ReleaseDone s t (memScope a) → Waits (.fence a) s t id s) ∧
      ((memOrd a ∈ [2, 3, 4] → ReleaseDone s t (memScope a)) → Completes (.fence a) s t
        { t with mark := s.fresh, fence := if memOrd a ∈ [2, 3, 4] then s.names else t.fence } s))) ∧
  (∀ d c g m k d' c' g' m' k' sa sb, sa < 7 → sb < 7 →
    let inst : Nat → Bool := fun n => match n with
      | 0 => decide (d = d' ∧ c = c' ∧ g = g' ∧ m = m' ∧ k = k' ∧ k.isSome)
      | 1 => decide (d = d' ∧ g = g' ∧ m = m')
      | 2 => decide (d = d' ∧ g = g')
      | 3 => decide (d = d' ∧ c / 12 = c' / 12)
      | 4 => decide (d = d' ∧ c / 48 = c' / 48)
      | 5 => decide (d = d')
      | _ => true
    scopeMatched (.strands d c g m k) sa (.strands d' c' g' m' k') sb = (inst sa && inst sb) ∧
    (∀ n, scopeMatched (.strands d c g m k) sa (.port d' n) sb = (decide (sa = 6) && decide (sb = 6)))) ∧
  (∀ (a b p q : MemEvent) (f x : Spot) (v : MemValues) (o : OrderChoice),
    a.isAccess = true → a.writes x = true → b.releaseWrite = true → b.writes f = true → p.acquireRead = true → p.reads f = true →
    q.isAccess = true → q.reads x = true → a.sm = false → b.sm = false → p.sm = false → q.sm = false →
    a.who.sameTeam b.who = true → p.who.sameTeam q.who = true → scopeMatched b.who b.scope p.who p.scope = true →
    Execution.Consistent [a, b, p, q] v o → o.src 2 f = some 1 → o.src 3 x ≠ none ∧ ∀ w, o.src 3 x = some w → ¬o.before x (some w) (some 0))

/-- R194, R110 (the frame of a store): of the stored bytes the last one at an address remains, and every other byte of the
scratchpads, of the carve and of global memory reads as before. Stated for stores to coherent pages in sectors that the core's
die holds in M. R300, R66: a plain store releases its bytes; those of a split access beyond its first page perform with the store's
acceptance, and in precise-store mode no byte does. -/
def Obligations.StoresReachTheirBytesOnly : Prop :=
  (∀ s hnd q core (cs : List (Loc × Byte)), SectorsSound s → Live s → s.current (dieOf core) = true →
    (∀ x ∈ cs, ∀ pa f, x.1 = .mem pa f → f.coh = 0 ∧ (s.sec (dieOf core) (pa / 64)).st = .m ∧
      ∀ y ∈ s.secs, y.1 % 2 ^ 42 = pa / 64 → y.2.dirty ≠ [] → y.1 = dieOf core * 2 ^ 42 + pa / 64) →
    let s' := writeLocs s hnd q core cs
    (∀ k, s'.scrByte k = lastCell (scratchCells cs) k (s.scrByte k)) ∧
    (∀ k, s'.crvByte k = lastCell (carveCells cs) k (s.crvByte k)) ∧
    (∀ pa, cohByte s' pa = lastCell (globalCells cs) pa (cohByte s pa)) ∧
    s' = { s with scr := s'.scr, scrPsn := s'.scrPsn, scrUnd := s'.scrUnd, crv := s'.crv, crvPsn := s'.crvPsn, crvUnd := s'.crvUnd,
                  secs := s'.secs }) ∧
  ∀ s t (xs : List Access), s.team t.hnd = some t → globAddrs (placesOf xs) ≠ [] →
    let s' := storePlain s t xs
    (bitAt t.tctl.toNat 5 = true → ∀ u, s'.team t.hnd = some u → u.rel = t.rel) ∧
    (bitAt t.tctl.toNat 5 = false → ∃ u r, s'.team t.hnd = some u ∧ u.rel = t.rel ++ [r] ∧ r.pas = globAddrs (placesOf xs) ∧
      Event.storeAccepted t.hnd false ∈ s'.due ∧
      (∀ c ∈ r.cells, ∃ x ∈ xs, c ∈ x.ls.zip x.bs ∧ ∃ a b f g rest, x.ls = .mem a f :: rest ∧ c.1 = .mem b g ∧ b / 4096 ≠ a / 4096) ∧
      ∀ x, xs = [x] → ∀ c ∈ x.ls.zip x.bs, c ∈ r.cells ↔ ∃ a b f g rest, x.ls = .mem a f :: rest ∧ c.1 = .mem b g ∧ b / 4096 ≠ a / 4096)

/-- R327, R329, R332: making the sectors of an instruction's accesses ready moves copies, tokens and dirty bytes, and no byte of
global memory changes its value, except where a core's own dirty copy of a software-managed byte goes home (R111). Nothing of
the scratchpads, the slots or the carve changes, and of the teams only what the one that waits stands at (R55). -/
def Obligations.CoherenceKeepsValues : Prop :=
  ∀ s t write u xs, Owned s → s.current (dieOf t.core) = true →
    let s' := (prepAccess s t write u xs).1
    (∀ pa, noSmDirty s t.core pa → cohByte s' pa = cohByte s pa) ∧
    s' = { s with mem := s'.mem, cores := s'.cores, clusters := s'.clusters, queues := s'.queues, tlb := s'.tlb, dir := s'.dir,
                  txns := s'.txns, behind := s'.behind, net := s'.net, secs := s'.secs, throughs := s'.throughs, subsc := s'.subsc,
                  asks := s'.asks, late := s'.late, names := s'.names, fresh := s'.fresh, due := s'.due, traffic := s'.traffic,
                  teams := s'.teams } ∧
    ((prepAccess s t write u xs).2 = true → s'.teams = s.teams) ∧
    (s'.teams = s.teams ∨ ∃ st, s'.teams = s.teams.map (fun x => if x.hnd = t.hnd then { x with status := st } else x))

/-- R113, R203 to R205, Tables 6-7 and 10-4: `CWB` leaves the range clean, `CINV` and `CWBI` leave none of its words in the L1;
`CINV` alone discards dirty bytes, those of software-managed pages. No other byte of memory changes its value. `CPRF` completes
whatever its pages, and says whether it skipped a part. They wait for bytes of the team's split stores (R114), and complete where the
byte budgets have room (R371) and no write-through of the die is under way. -/
def Obligations.RangeOperations : Prop :=
  (∀ a, RangeOps (.cwb a) a false false true) ∧
  (∀ a, RangeOps (.cinv a) a true true false) ∧
  (∀ a, RangeOps (.cwbi a) a true true true) ∧
  (∀ a s t, Ready (.cprf a) s t →
    ((t.active (.cprf a)) = [] → Completes (.cprf a) s t t s) ∧
    ∀ l v n, (t.active (.cprf a)).head? = some l → RangeAt t l a v n →
      (t.pending ≠ [] → Waits (.cprf a) s t id s) ∧
      (t.pending = [] → (∀ x ∈ s.throughs, x.die = dieOf t.core → x.done1 = true) → memRoom s t.core (s.qOf t) (s.recOf t).mbw = true →
      missRoom s t.core [0] = true → s.current (dieOf t.core) = true → Owned s →
      ∃ skip id mark s1, Completes (.cprf a) s t (owed t a id mark (rangeWord v n 0 skip)) s1 ∧ MemorySide s s1 ∧
        (∀ pa, noSmDirty s t.core pa → cohByte s1 pa = cohByte s pa) ∧
        ∀ p, pagesOf v n = [p] → (skip = false ↔ ∃ f, transFor s (s.ctxOf t) (s.isSup t) ⟨false, false, false, false, false⟩ p.1 = .ok f ∧
          (f.pa + (p.1 - f.va)) / 4096 ∉ s.memPsn)))

/-- R206 to R208, R336, R337: `SUBS` asks the home of each line of the run and counts the lines granted at the format and those granted
as exact shares, `UNSUB` ends the run's subscriptions, `SUPG` makes their rounded sectors exact. A team whose die has an earlier request
about a line open waits. Homes on this device answer in the step that asks; the answers of others are counted as they come. -/
def Obligations.PrecisionSubscription : Prop :=
  (∀ a s t, Ready (.subs a) s t →
    ((t.active (.subs a)) = [] → Completes (.subs a) s t t s) ∧
    ∀ l lines, (t.active (.subs a)).head? = some l → RunOf s t l a lines →
      ((∃ x ∈ lines, lineAsk s (dieOf t.core) x ≠ none) → Waits (.subs a) s t id s) ∧
      ((∀ x ∈ lines, lineAsk s (dieOf t.core) x = none) → lines.Nodup → SubReady s t →
        ∃ f e s1, Completes (.subs a) s t { t with
            subs := t.subs ++ [⟨s.names, some a.vd.toNat, f, e, lines.length - f - e⟩], pend := sadd a.vd.toNat t.pend } s1 ∧ MemorySide s s1 ∧
          f + e = (lines.filter (fun x => (lineAsk s1 (dieOf t.core) x).isNone)).length ∧
          f = (lines.filter (fun x => (lineAsk s1 (dieOf t.core) x).isNone && subscribed s1 s t x)).length ∧
          ∀ x ∈ lines, devOf (x * 256) ≠ s.devid → lineAsk s1 (dieOf t.core) x ≠ none)) ∧
  (∀ a s t, Ready (.unsub a) s t →
    ((t.active (.unsub a)) = [] → Completes (.unsub a) s t t s) ∧
    ∀ l lines, (t.active (.unsub a)).head? = some l → RunOf s t l a lines →
      let mine := lines.filter (subscribed s s t)
      ((∃ x ∈ mine, lineAsk s (dieOf t.core) x ≠ none) → Waits (.unsub a) s t id s) ∧
      ((∀ x ∈ mine, lineAsk s (dieOf t.core) x = none) → lines.Nodup → SubReady s t →
        ∃ e s1, Completes (.unsub a) s t { t with subs := t.subs ++ [⟨s.names, none, 0, e, mine.length - e⟩] } s1 ∧ MemorySide s s1 ∧
          e = (mine.filter (fun x => (lineAsk s1 (dieOf t.core) x).isNone)).length ∧
          ∀ x ∈ lines, subscribed s1 s t x = false ∧
            (subscribed s s t x = true → ∀ q < 4, (s.sec (dieOf t.core) (x * 4 + q)).st = .u → (s1.sec (dieOf t.core) (x * 4 + q)).st = .i))) ∧
  (∀ a s t, Ready (.supg a) s t →
    ((t.active (.supg a)) = [] → Completes (.supg a) s t t s) ∧
    ∀ l lines, (t.active (.supg a)).head? = some l → RunOf s t l a lines →
      let mine := lines.filter (subscribed s s t)
      ((∃ x ∈ mine, lineAsk s (dieOf t.core) x ≠ none) → Waits (.supg a) s t id s) ∧
      ((∀ x ∈ mine, lineAsk s (dieOf t.core) x = none) → lines.Nodup → SubReady s t →
        ∃ e s1, Completes (.supg a) s t { t with subs := t.subs ++ [⟨s.names, none, 0, e, mine.length - e⟩] } s1 ∧ MemorySide s s1 ∧
          e = (mine.filter (fun x => (lineAsk s1 (dieOf t.core) x).isNone)).length ∧
          ∀ x ∈ mine, lineAsk s1 (dieOf t.core) x = none → subscribed s1 s t x = false ∧ ∀ q < 4,
            (s1.sec (dieOf t.core) (x * 4 + q)).st ≠ .u ∧
            ((s.sec (dieOf t.core) (x * 4 + q)).st = .u → (s.dirE x).coarse = none → (s.dirE x).has (agentOf s (dieOf t.core)) q = true →
              (∀ y ∈ s.asks, y.die = dieOf t.core → y.pos ≠ x * 4 + q ∧ y.pos ≠ x) → (s1.sec (dieOf t.core) (x * 4 + q)).st = .s)))

/-- R200 to R202, R211: arrival returns the phase it found and ends it with the last participant; `WAITB` goes on when 1 to 2^31
phases have passed; `BAR` does both and waits between; `WAITNE` goes on when the word differs. -/
def Obligations.BarriersAndWaits : Prop :=
  (∀ a s t, Ready (.arrive a) s t →
    (t.active (.arrive a) = [] → scopeOk s t a → Completes (.arrive a) s t t s) ∧
    ∀ l g clu n, (t.active (.arrive a)).head? = some l → Names s t a l g clu n → MayArrive s t g clu n →
      (s.groups.map (·.id)).Nodup →
      Completes (.arrive a) s t (giveEvery t a.vd.toNat (barOf s g clu n).phase)
        (withBar s g clu n (arrived (barOf s g clu n) (t.grp, t.idx) (participants s g clu)))) ∧
  (∀ a s t, Ready (.waitb a) s t →
    (t.active (.waitb a) = [] → scopeOk s t a → Completes (.waitb a) s t t s) ∧
    ∀ l g clu n, (t.active (.waitb a)).head? = some l → Names s t a l g clu n →
      let d := ((barOf s g clu n).phase - t.val l (srcField a.b).toNat).toNat
      if 1 ≤ d ∧ d ≤ 2 ^ 31 then Completes (.waitb a) s t { t with mark := s.fresh } s else Waits (.waitb a) s t id s) ∧
  (∀ a s t, Ready (.bar a) s t →
    (t.active (.bar a) = [] → scopeOk s t a → Completes (.bar a) s t t s) ∧
    ∀ l g clu n, (t.active (.bar a)).head? = some l → Names s t a l g clu n →
      (t.bwt = none → MayArrive s t g clu n → (s.groups.map (·.id)).Nodup → n < (if clu then 4 else g.bars.length) →
        (∀ x, (instBars s x).length = 4) →
        let b := arrived (barOf s g clu n) (t.grp, t.idx) (participants s g clu)
        if b.arr = [] then Completes (.bar a) s t { t with bwt := none, mark := s.fresh } (withBar s g clu n b)
        else Waits (.bar a) s t (fun x => { x with bwt := some ⟨clu, n, (barOf s g clu n).phase⟩ }) (withBar s g clu n b)) ∧
      (∀ w, t.bwt = some w →
        let d := ((barOf s g w.clu w.num).phase - w.phase).toNat
        if 1 ≤ d ∧ d ≤ 2 ^ 31 then Completes (.bar a) s t { t with bwt := none, mark := s.fresh } s else Waits (.bar a) s t id s)) ∧
  (∀ a s t, Ready (.waitne a) s t →
    (t.active (.waitne a) = [] → Completes (.waitne a) s t t s) ∧
    ∀ l q ls, (t.active (.waitne a)).head? = some l → ownPtr a t l q → q.toNat % 4 = 0 →
      Located s t (needStrong false true) q 4 ls →
      let r := prepAccess s t false ⟨1, 0, t.pc.toNat / 8 % 256, false⟩ [⟨l, ls, []⟩]
      let v := BitVec.ofNat 32 (leNat (bytesRead r.1 t ls))
      if r.2 = false then Waits (.waitne a) s t id r.1
      else if v = t.val l a.vb.toNat then Waits (.waitne a) s t id (r.1.uncharge s)
      else CompletesIn (.waitne a) s t (acquired a t ((endAccess r.1 t.core ls).setTeam t.hnd (fun x => giveEvery x a.vd.toNat v))))

/-- R209, R210: a push puts one entry per pass with an active strand, lanes of inactive strands 0 with tag 0; a pop takes as
many, oldest first; `SKFREE` counts the free entries of sixteen, or commits with the count its claim sampled (R282). -/
def Obligations.StakeChannels : Prop :=
  (∀ a s t, Ready (.skpush a) s t → (t.active (.skpush a) = [] → Completes (.skpush a) s t t s) ∧
    (t.active (.skpush a) ≠ [] → chanOpen s t a → (isLower t.core = true ↔ a.m.toNat % 4 < 2) →
      let ps := passesOf t (.skpush a)
      let es := (s.chan (channel t a)).entries
      ps.length ≤ 16 →
      if es.length + ps.length ≤ 16 then
        Completes (.skpush a) s t t (withChan s t a (es ++ ps.map (fun p => (List.range 32).map (fun i =>
          if 32 * p + i ∈ t.active (.skpush a) then (t.val (32 * p + i) a.va.toNat, t.tag (32 * p + i) a.va.toNat) else (0, 0)))))
      else Waits (.skpush a) s t id s)) ∧
  (∀ a s t, Ready (.skpop a) s t → (t.active (.skpop a) = [] → Completes (.skpop a) s t t s) ∧
    (t.active (.skpop a) ≠ [] → chanOpen s t a → (isLower t.core = true ↔ ¬a.m.toNat % 4 < 2) →
      let ps := passesOf t (.skpop a)
      let es := (s.chan (channel t a)).entries
      ps.length ≤ 16 →
      if ps.length ≤ es.length then
        Completes (.skpop a) s t (perStrand t (t.active (.skpop a)) (fun k =>
          let e := nth (0, 0) (nth [] es (ps.idxOf (k / 32))) (k % 32)
          Out.tagged a.vd e.1 e.2 0)) (withChan s t a (es.drop ps.length))
      else Waits (.skpop a) s t id s)) ∧
  (∀ a s t, Ready (.skfree a) s t → (t.active (.skfree a) = [] → Completes (.skfree a) s t t s) ∧
    (t.active (.skfree a) ≠ [] → chanOpen s t a →
      let n := s.sample.getD (16 - (s.chan (channel t a)).entries.length)
      Completes (.skfree a) s t { giveEvery t a.vd.toNat (BitVec.ofNat 32 n) with samps := aset (3 + a.m.toNat % 4) n t.samps }
        (withChan s t a (s.chan (channel t a)).entries)))

/-- R213, R214, R222, R223: `CLAIM` gives the lowest run of free slots or all ones; `RELEASE` frees the group's slots that no
command uses and marks the others; `OPFENCE` notes the team's commands that write a slot or scratchpad and its stores and atomics that
have not performed; `MMAWAIT` waits for outstanding results and unlocks their registers. -/
def Obligations.SlotsAndFences : Prop :=
  (∀ a s t, Ready (.claim a) s t → (t.active (.claim a) = [] → Completes (.claim a) s t t s) ∧
    ∀ l, (t.active (.claim a)).head? = some l →
      let n := (t.val l a.va.toNat).toNat
      let fits := fun b => b + n ≤ 128 ∧ ∀ x ∈ (s.core t.core).slots, ¬(b ≤ x.1 ∧ x.1 < b + n)
      (n = 0 ∨ 128 < n ∨ (∀ b, ¬fits b) → Completes (.claim a) s t (giveEvery t a.vd.toNat 0xffffffff) s) ∧
      ∀ b, 1 ≤ n → fits b → (∀ b' < b, ¬fits b') →
        Completes (.claim a) s t (giveEvery t a.vd.toNat (BitVec.ofNat 32 b)) { s with
          cores := aset t.core { s.core t.core with slots := (s.core t.core).slots ++ (List.range n).map (fun i => (b + i, t.grp)) } s.cores
          slotUnd := undAdd s.slotUnd ((t.core * 128 + b) * 2304) ((t.core * 128 + (b + n)) * 2304) s.fresh
          fresh := s.fresh + 1 }) ∧
  (∀ a s t, Ready (.release a) s t → (t.active (.release a) = [] → Completes (.release a) s t t s) ∧
    ∀ l, (t.active (.release a)).head? = some l → ((s.core t.core).slots.map (·.1)).Nodup →
      let b := (t.val l a.va.toNat).toNat
      let n := (t.val l (srcField a.b).toNat).toNat
      let mine := fun x : Nat × Nat => x.2 = t.grp ∧ b ≤ x.1 ∧ x.1 < b + n
      ∃ rel, (∀ k, k ∈ rel ↔ k ∈ (s.core t.core).releasing ∨
          ∃ x ∈ (s.core t.core).slots, mine x ∧ slotBusy s t.core x.1 = true ∧ x.1 = k) ∧
        Completes (.release a) s t t { s with
          cores := aset t.core { s.core t.core with
            slots := (s.core t.core).slots.filter (fun x => !(decide (mine x) && !slotBusy s t.core x.1)), releasing := rel } s.cores }) ∧
  (∀ a s t, Ready (.opfence a) s t → (t.active (.opfence a) = [] → Completes (.opfence a) s t t s) ∧
    (t.active (.opfence a) ≠ [] → ∃ o, (∀ k, k ∈ o ↔ (k ∈ t.opf ∧ fenceOpen s t k = true) ∨
        (∃ e ∈ s.ecmds, e.issuer = .team t.hnd ∧ (e.wr ≠ [] ∨ ∃ off w, e.op = .gcond off w) ∧ e.id = k) ∨
        (∃ x ∈ s.throughs, x.hnd = t.hnd ∧ x.id = k) ∨ ∃ r ∈ t.rel, r.cells ≠ [] ∧ r.id = k) ∧
      Completes (.opfence a) s t { t with opf := o } s)) ∧
  (∀ a s t, Ready (.mmawait a) s t → (t.active (.mmawait a) = [] → Completes (.mmawait a) s t t s) ∧
    (t.active (.mmawait a) ≠ [] →
      if t.mat = [] then Completes (.mmawait a) s t { t with lock := [] } s else Waits (.mmawait a) s t id s))

/-- R215 to R221, R90: `MMA` computes each active strand's row of the product at issue and locks its accumulator. Without a matrix token
its team waits whatever its operands (R224), and it waits for what `OPFENCE` noted (R223). At completion the results are written; a
sampled difference is a mismatch of its claim: it discards the results and what the team has claimed since, and replays the
instruction under full check (R289). -/
def Obligations.MatrixMultiply : Prop :=
  (∀ a s t, s.team s.cur = some t → canIssue s t = true → (Instr.mma a).WellFormed = true → (s.core t.core).tok = false →
    ∃ ev, Waits (.mma a) s t id { s with due := s.due ++ ev }) ∧
  (∀ a s t, Ready (.mma a) s t → (s.core t.core).tok = true → (t.active (.mma a) = [] → Completes (.mma a) s t t s) ∧
    (t.active (.mma a) ≠ [] → (∃ n ∈ t.opf, fenceOpen s t n = true) → Waits (.mma a) s t id s) ∧
    ∀ l, (t.active (.mma a)).head? = some l → (∀ n ∈ t.opf, fenceOpen s t n = false) →
      let x := t.pair l a.va.toNat
      let ab := (t.val l a.vb.toNat).toNat % 128
      let bs := (t.val l a.vb.toNat).toNat / 256 % 128
      let n := 8 * 2 ^ a.nsz.toNat
      let K := min (depthOf (fbField x 48 4)) (depthOf (fbField x 52 4))
      FormatOk x a.acc32 → (∀ k ∈ t.active (.mma a), owns s t (ab + k / 32) ∧ owns s t bs) →
      (∀ off, scaleAt x false = some off → ∀ k ∈ t.active (.mma a), AreaOk s t (off + 256 * (k / 32)) 32) →
      (∀ off, scaleAt x true = some off → AreaOk s t off n) →
      (a.clr = false → AccumGood t (t.active (.mma a)) a.acc32 a.vd.toNat n) →
      ∃ m full rot, Completes (.mma a) s t (issued t m)
          { s with cores := aset t.core { s.core t.core with rot := rot } s.cores } ∧
        m.ox = false ∧ m.base = a.vd.toNat ∧ m.span = accumSpan a.acc32 n ∧ m.entry = t.checks ∧
        m.vals = (t.active (.mma a)).map (fun k => (k, mmaWords s t a x ab bs K n k)) ∧
        m.full = full ∧ (full = true ↔ t.tctl.getLsbD 4 = true ∨ (s.recOf t).fchk = true ∨ t.chk ≠ none) ∧ m.replays = 0 ∧
        rot = (if full then (s.core t.core).rot else ((s.core t.core).rot + (passesOf t (.mma a)).length) % 8) ∧
        m.rot = (passesOf t (.mma a)).mapIdx (fun i p => (p, if full then (s.core t.core).rot else ((s.core t.core).rot + i) % 8))) ∧
  (∀ h s t m, s.team h = some t → t.mat.find? (fun y => !y.ox) = some m →
    (let s1 := s.putTeam (wrote (if m.replays = 0 then t else t.noted) m m.vals)
     exec (.mmaComplete h []) s = .next (if s1.teams.any (fun u => u.core == t.core && u.mat.any (fun y => !y.ox)) then s1
       else { s1 with cores := aset t.core { s.core t.core with idle := s.now } s.cores })) ∧
    ∀ d, d.row < 32 → (s.core t.core).spare ≠ some d.row → d.row ∉ (s.core t.core).covered → (m.replays = 0 ∨ d.row ∉ m.seen) →
      (∃ r ∈ m.rot, r.1 = d.pass ∧ (m.full = true ∨ r.2 = d.row / 4)) →
      let u := if m.replays = 0 then turned t m.entry else differed t
      exec (.mmaComplete h [d]) s = .next ((dropClaims (s.putTeam { u with
        mat := t.mat.map (fun y => if y = m then { m with full := true, replays := m.replays + 1, seen := [d.row] } else y) }) h).later
        (.mmaComplete h (if d.persist then [d] else []))))

/-- R225: `OXMM` adds the corrections of the leader's outlier list in order, each rounded once, to the rows of active strands,
and locks the accumulator; it waits for what `OPFENCE` noted, and for its list as a load does, the header first. Its completion writes
the results. Rows that no entry names keep their registers' bits. -/
def Obligations.OutlierCorrections : Prop :=
  (∀ a s t, Ready (.oxmm a) s t → (t.active (.oxmm a) = [] → Completes (.oxmm a) s t t s) ∧
    (t.active (.oxmm a) ≠ [] → (∃ n ∈ t.opf, fenceOpen s t n = true) → Waits (.oxmm a) s t id s) ∧
    ∀ l hd, (t.active (.oxmm a)).head? = some l → (∀ n ∈ t.opf, fenceOpen s t n = false) → listGood s t (.oxmm a) a.va →
      Located s t (needStrong false true) (t.pair l a.va.toNat) 8 hd →
      let u : CacheUse := ⟨1, 0, t.pc.toNat / 8 % 256, false⟩
      let r1 := prepAccess s t false u [⟨l, hd, []⟩]
      let w := leNat (bytesRead r1.1 t hd)
      let x := t.pair l a.vc.toNat
      let acc32 := a.x8.getLsbD 2
      let n := 8 * 2 ^ (a.x8.toNat % 4)
      let h := a.x4.toNat % 4
      let K := min (depthOf (fbField x 48 4)) (depthOf (fbField x 52 4))
      let bs := (t.val l a.vb.toNat).toNat / 256 % 128
      (r1.2 = false → Waits (.oxmm a) s t id r1.1) ∧
      ∀ q ls, r1.2 = true → MovedBy (t.pair l a.va.toNat) 8 q →
        Located s t (needStrong false true) q (8 * min (w % 2 ^ 32) (w / 2 ^ 32)) ls →
        fbField x 48 4 < 7 → fbField x 52 4 < 7 → fbField x 58 2 = 0 → fbField x 62 2 = 0 → fbField x 38 10 = 0 → 32 * h < K →
        owns s t bs → (∀ off, scaleAt x true = some off → AreaOk s t off n) →
        AccumGood t (t.active (.oxmm a)) acc32 a.vd.toNat n →
        let r2 := prepAccess (r1.1.uncharge s) t false u [⟨l, hd ++ ls, []⟩]
        let es := (List.range (min (w % 2 ^ 32) (w / 2 ^ 32))).map (listEntry (bytesRead r2.1 t ls))
        if r2.2 = false then Waits (.oxmm a) s t id r2.1
        else ∃ m, Completes (.oxmm a) s t (issued t m) (endAccess r2.1 t.core (hd ++ ls)) ∧ m.ox = true ∧ m.base = a.vd.toNat ∧
          m.span = accumSpan acc32 n ∧
          m.vals = (t.active (.oxmm a)).map (fun k => (k, if es.any (fun e => e.1 / 32 == k) then
            (List.range n).flatMap (fun j => accumWords acc32 (corrected acc32 es h k
              (arrayRow s t.core bs (fbField x 52 4) (scaleAt x true) j) ((accumElt t acc32 a.vd.toNat k j).getD (.nan false))))
            else (List.range m.span).map (fun i => t.val k (a.vd.toNat + i))))) ∧
  (∀ h s t m, s.team h = some t → t.mat.find? (fun y => y.ox) = some m →
    exec (.oxmmComplete h) s = .next (s.putTeam (wrote t m m.vals)))

/-- R226, R227: the accumulator format to FP32 or BF16 (in bits 31 to 16), and FP32 to the accumulator format exactly. -/
def Obligations.AccumulatorFormat : Prop :=
  (∀ a s t, Ready (.acccvt a) s t → (∀ k ∈ t.active (.acccvt a), (accumElt t false a.va.toNat k 0).isSome) →
    EachStrand (.acccvt a) s t (fun k =>
      let v := (accumElt t false a.va.toNat k 0).getD (.nan false)
      let f := if topBit a.m then Fmt.bf16 else Fmt.f32
      let r := orNan f [v] (if v.isInf then (f.infEnc v.neg, 0) else f.round (modeOf t a.m) v)
      Out.one a.vd (if topBit a.m then BitVec.ofNat 32 r.1 <<< 16 else BitVec.ofNat 32 r.1) r.2)) ∧
  (∀ a s t, Ready (.accset a) s t → EachStrand (.accset a) s t (fun k =>
    let v := Fmt.f32.dec (t.val k a.va.toNat).toNat
    ⟨(List.range 3).map (fun i => (a.vd.toNat + i, nth 0 (accumWords false v) i, 0)), if v.isSnan then flNv else 0⟩)) ∧
  ∀ x : Word, (Fmt.f32.dec x.toNat).isFin = true → (kaDec (kaRound 0 (Fmt.f32.dec x.toNat)).1).rat = (Fmt.f32.dec x.toNat).rat

/-- R228 to R232, Tables 11-5 and 11-7 to 11-9: the copy functions, their operands tested and their local read and write sets
fixed at issue (R234). -/
def Obligations.CopyCommands : Prop :=
  Command .xcG2s (CopyArgs false false true) ∧ Command .xcS2g (CopyArgs true false true) ∧
  Command .xcS2s (CopyArgs false false false) ∧ Command .xcG2o (CopyArgs false true true) ∧
  Command .xcS2o (CopyArgs false true false) ∧ Command .xcC2d GridArgs ∧ Command .xcGath GatherArgs

/-- R228, R229, R236 to R238, Tables 11-5, 11-10, 11-11: collectives, transfers and the weaver functions at issue; a record in space 0
is read as a load of the team, and waits as one. -/
def Obligations.CollectiveAndWeaverCommands : Prop :=
  Command .xcRscat (CollArgs 0x10) ∧ Command .xcAgath (CollArgs 0x11) ∧ Command .xcAredu (CollArgs 0x12) ∧
  Command .xcPut (TransferArgs true) ∧ Command .xcGet (TransferArgs false) ∧
  RecordWaits .xcRscat ∧ RecordWaits .xcAgath ∧ RecordWaits .xcAredu ∧ RecordWaits .xcPut ∧ RecordWaits .xcGet ∧
  Command .xcGstart (fun s _ g _ p _ op rd wr s0 => s0 = s ∧ ∃ off, OwnAt g p 32 32 off ∧ (off - g.sbase) % 32 = 0 ∧
    op = .gstart ((off - g.sbase) / 32) ∧ rd = [] ∧ wr = []) ∧
  Command .xcGstat (fun s _ g _ _ _ op rd wr s0 => s0 = s ∧ op = .gstat (BitVec.ofNat 24 (min (s.core g.core).weaver.done 0xffffff) ++
    (if (s.core g.core).weaver.run.isSome then (0x11 : BitVec 8) else 0x10)) ∧ rd = [] ∧ wr = []) ∧
  Command .xcGcond (fun s _ g _ p q op rd wr s0 => s0 = s ∧ ∃ off, OwnAt g p 4 4 off ∧ op = .gcond off (q.setWidth 32) ∧ rd = [] ∧ wr = [])

/-- R228, R230, R233 to R235, R238, R320: a command does nothing while it waits, an earlier one holds it, or its team's earlier accesses
have still to perform; a copy between local places that share no byte moves every byte and changes no other; a condition word is written;
a second graph is refused with status 0x06; an unknown communicator ends with 0x08; the first failed translation is delivered and the
command waits; one that has done its work ends once its own writes have performed. -/
def Obligations.EngineCommandsRun : Prop :=
  (∀ id peer s, s.ecmd id = none → exec (.engineCommandComplete id peer) s = .next s) ∧
  (∀ id peer s e, s.ecmd id = some e →
    let e1 := if peer.st < 256 ∧ e.peer = none then { e with peer := some peer } else e
    let s1 := { s with ecmds := s.ecmds.map (fun x => if x.id = id then e1 else x) }
    (e.fin = none → e.wait.isSome = true ∨ blocked s e = true ∨ engineReady s e = false → exec (.engineCommandComplete id peer) s = .next s1) ∧
    ((∃ x ∈ s.throughs, x.hnd = e.writer) → e.fin ≠ none → exec (.engineCommandComplete id peer) s = .next s1) ∧
    ∀ h f, e.issuer = .team h → e.fin = some f → (∀ x ∈ s.throughs, x.hnd ≠ e.writer) →
      ∃ s', exec (.engineCommandComplete id peer) s = .next s' ∧ Ended s s' e f.1 f.2) ∧
  (∀ id peer s e h, s.ecmd id = some e → e.fin = none → e.wait = none → blocked s e = false → engineReady s e = true → e.issuer = .team h →
    e.moved = 0 → (∀ x ∈ s.throughs, x.hnd ≠ e.writer) →
    ∃ s', exec (.engineCommandComplete id peer) s = .next s' ∧
    (∀ x y n, e.op = .move [(x, y, n)] false → isLocal x n → isLocal y n → overlaps x y n = false →
      (∀ c o, x = .scr c o → ∀ i < n, (c * 2 ^ 19 + o + i) / 8 ∉ s.scrPsn ∧ Sound s Need.rd 1 (c * 2 ^ 19 + o + i)) →
      Ended s s' e 0 n ∧ s'.mem = s.mem ∧ (∀ i < n, placeByte s' e.core (y.plus i) = placeByte s e.core (x.plus i)) ∧
      (∀ c o, c < 384 → o < 2 ^ 19 → (∀ i < n, y.plus i ≠ .scr c o) → placeByte s' e.core (.scr c o) = placeByte s e.core (.scr c o)) ∧
      ∀ k o, k < 128 → o < 2304 → (∀ i < n, y.plus i ≠ .slot k o) → placeByte s' e.core (.slot k o) = placeByte s e.core (.slot k o)) ∧
    (∀ off v, e.op = .gcond off v → Ended s s' e 0 0 ∧ s'.mem = s.mem ∧
      ∀ k, s'.scrByte k = if e.core * 2 ^ 19 + off ≤ k ∧ k < e.core * 2 ^ 19 + off + 4 then
        v.extractLsb' (8 * (k - (e.core * 2 ^ 19 + off))) 8 else s.scrByte k) ∧
    (∀ w, e.op = .gstat w → Ended s s' e (w.toNat % 256) (w.toNat / 256)) ∧
    (∀ x r, e.op = .gstart x → (s.core e.core).weaver.run = some r → r.2 ≠ id → Ended s s' e 6 0) ∧
    (∀ fn cm sq o d n a b, e.op = .coll fn cm sq o d n a b → aget cm s.comms = none → Ended s s' e 8 0) ∧
    (∀ pt cm pr re a n et sq, e.op = .xfer pt cm pr re a n et sq → aget cm s.comms = none → Ended s s' e 8 0) ∧
    (∀ va y n c, e.op = .move [(.glob va, y, n)] false → 1 ≤ n → isLocal y n → va < 2 ^ 48 → e.tries = 0 →
      transFor s e.ctx e.sup Need.rd va = .error c →
      s'.ecmd id = some { (if peer.st < 256 ∧ e.peer = none then { e with peer := some peer } else e) with wait := some ⟨va, c, e.ctx, false⟩ } ∧
        Event.engineDelivery id ∈ s'.due)) ∧
  (∀ id s e w, s.ecmd id = some e → e.wait = some w → w.told = false → s.supq ≠ some e.q → s.frWr - s.frRd < 4096 → s.frWait = [] →
    ∃ s', exec (.engineDelivery id) s = .next s' ∧ s'.frWr = s.frWr + 1 ∧ (NoneWaits s → s'.teams = s.teams) ∧
      s'.ecmd id = some { e with wait := some { w with told := true } })

/-- R48 to R50, R241 to R243: `FETCHWORK` clears its mailbox flag and asks; the answer is a withdrawn group with its
coordinates, or the flag 2; `ITEMSET` sets the item queue, `REFILL` hands items out in ascending strand order and the strands
that find none exit. -/
def Obligations.WorkDistribution : Prop :=
  (∀ a s t, Ready (.fetchwork a) s t → (t.active (.fetchwork a) = [] → Completes (.fetchwork a) s t t s) ∧
    ∀ l g off v, (t.active (.fetchwork a)).head? = some l → s.grpOf t = some g → g.core = t.core →
      OwnAt g (t.pair l a.va.toNat) 32 4 off → ScrValue s g off 4 v → (∀ i < 4, Sound s Need.rd 1 (g.core * 2 ^ 19 + off + i)) → t.withdrawn = [] →
      if 64 ≤ (s.ecmds.filter (fun e => e.issuer == .team t.hnd)).length then Waits (.fetchwork a) s t id s
      else ∃ s1, Completes (.fetchwork a) s t t s1 ∧ (∀ k, s1.scrByte k =
          if t.core * 2 ^ 19 + off ≤ k ∧ k < t.core * 2 ^ 19 + off + 4 then 0 else s.scrByte k) ∧
        Event.workWithdrawn s.names ∈ s1.due ∧
        s1 = { s with
          scr := s1.scr, scrUnd := s1.scrUnd, due := s1.due, names := s.names + 1
          ecmds := s.ecmds ++ [{ id := s.names, op := .fetch off, issuer := .team t.hnd, grp := g.id, q := g.q, ctx := g.ctx,
                                 core := g.core, pc := t.pc, sup := s.isSup t, rep := none, rd := [], wr := [], moved := 0,
                                 wait := none, tries := 0, sent := false, peer := none, fin := none }] }) ∧
  (∀ id s e off h g l, s.ecmd id = some e → e.op = .fetch off → e.issuer = .team h → s.group e.grp = some g → s.launch g.launch = some l →
    ∃ s', exec (.workWithdrawn id) s = .next s' ∧ s'.ecmds = s.ecmds.filter (fun x => x.id != id) ∧
      let word := fun i => bytesNat (fun o => s'.scrByte (e.core * 2 ^ 19 + o)) (off + 4 * i) 4
      if l.ended = false ∧ l.next < l.lr.groups then
        word 0 = 1 ∧ (∀ i < 7, word (i + 1) = match l.lr.levels[i + 1]? with
          | some m => if m.domain < 2 then 0 else lvlCoord l.lr (i + 1) 0 0 l.next % 2 ^ 32
          | none => 0) ∧
        s'.teams = s.teams.map (fun t => if t.hnd = h then { t with withdrawn := t.withdrawn ++ [l.next] } else t) ∧
        s'.launches = s.launches.map (fun x => if x.id = l.id then { x with next := x.next + 1 } else x)
      else word 0 = 2 ∧ s'.teams = s.teams ∧ s'.launches = s.launches) ∧
  (∀ a s t, Ready (.itemset a) s t → (t.active (.itemset a) = [] → Completes (.itemset a) s t t s) ∧
    ∀ l, (t.active (.itemset a)).head? = some l → Completes (.itemset a) s t t { s with groups := s.groups.map (fun g =>
      if g.id = t.grp then { g with iqn := t.val l a.va.toNat, iqc := (t.val l (srcField a.b).toNat).toNat } else g) }) ∧
  (∀ a s t, Ready (.refill a) s t → t.pc.toNat % 64 = 0 → a.vd ≠ a.va → ∀ g, s.grpOf t = some g → (s.groups.map (·.id)).Nodup →
    let want := (t.active (.refill a)).filter (fun k => (t.val k a.va.toNat).getLsbD 0)
    let n := min g.iqc want.length
    Completes (.refill a) s t { t with
      strands := t.strands.mapIdx (fun k x =>
        if k ∈ want then
          (if want.idxOf k < n then (x.set a.vd.toNat (g.iqn + BitVec.ofNat 32 (want.idxOf k)) 0).set a.va.toNat (t.val k a.va.toNat &&& 0xfffffffe) 0
           else { x with ctr := 0xff })
        else x) }
      { s with groups := s.groups.map (fun h => if h.id = g.id then { h with iqn := g.iqn + BitVec.ofNat 32 n, iqc := g.iqc - n } else h) })

/-- R63 to R68, R245, R246: what every name of Table 4-3 reads as, and what `MOVSW` writes under the access rules. A name that two reads
may find different reads as the claim under check says, and the last value is kept (R282). -/
def Obligations.SpecialState : Prop :=
  (∀ a s t, Ready (.movs a) s t →
    let sel := (srcField a.b).toNat
    (∀ v, sel ≠ 0x30 → nameWord s t sel 0 = some v → EachStrand (.movs a) s t (fun k => Out.one a.vd ((nameWord s t sel k).getD 0) 0)) ∧
    let sample : Nat → Nat → Team := fun n v => if t.active (.movs a) = [] then t else { t with samps := aset n v t.samps }
    (∀ v, sel = 0x30 → nameWord s t sel 0 = some v → let x := BitVec.ofNat 32 (s.sample.getD v.toNat)
      Completes (.movs a) s t (perStrand (sample 2 x.toNat) (t.active (.movs a)) (fun _ => Out.one a.vd x 0)) s) ∧
    (8 ≤ sel → sel ≤ 15 → ∀ g lr, s.grpOf t = some g → s.launch g.launch = some lr → lr.lr.levels.length ≤ 8 →
      EachStrand (.movs a) s t (fun k => Out.one a.vd (BitVec.ofNat 32 (levelOf lr.lr g t (sel - 8) k)) 0)) ∧
    (sel = 0x19 → a.vd.toNat % 2 = 0 → let x : DWord := BitVec.ofNat 64 (s.sample.getD s.time.toNat)
      Completes (.movs a) s t (perStrand (sample 1 x.toNat) (t.active (.movs a)) (fun _ => Out.pair a.vd x.toNat 0)) s) ∧
    (sel = 0x18 → a.vd.toNat % 2 = 0 → if t.active (.movs a) = [] then Completes (.movs a) s t t s
      else ∃ d : DWord, let c := (s.core t.core).cyc + d
        let x : DWord := BitVec.ofNat 64 (s.sample.getD c.toNat)
        Completes (.movs a) s t (perStrand (sample 0 x.toNat) (t.active (.movs a)) (fun _ => Out.pair a.vd x.toNat 0))
          { s.setCore t.core (fun k => { k with cyc := c }) with fresh := s.fresh + 1 })) ∧
  (∀ a s t, s.team s.cur = some t → canIssue s t = true →
    (¬knownName (srcField a.b).toNat ∨ ((srcField a.b).toNat ∈ [0x18, 0x19] ∧ a.vd.toNat % 2 = 1) → Faults (.movs a) s t trapIllegal) ∧
    ((srcField a.b).toNat ∉ [0x20, 0x21, 0x2a, 0x28, 0x29] → Faults (.movsw a) s t trapIllegal)) ∧
  (∀ a s t, Ready (.movsw a) s t →
    let i := Instr.movsw a
    let sel := (srcField a.b).toNat
    (sel = 0x20 → Completes i s t { t with strands := t.strands.mapIdx (fun k x =>
      if k ∈ t.active i then { x with nsr := (t.val k a.va.toNat).extractLsb' 0 8 } else x) } s) ∧
    (sel = 0x21 ∨ sel = 0x2a → t.active i = [] → Completes i s t t s) ∧
    (∀ l, (t.active i).head? = some l → let v := t.val l a.va.toNat
      (sel = 0x2a → Completes i s t { t with mism := v } s) ∧
      (sel = 0x21 → if v.toNat < 64 then Completes i s t { t with tctl := v } s else Faults i s t trapIllegal) ∧
      (s.isSup t = true → sel = 0x28 → ∃ s', exec i s = .next s' ∧
        RetiresTo i t t s s' (t.pc + 8) (v.extractLsb' 0 16) (sigdMask t.sigd (t.active i) t.passes) true) ∧
      (s.isSup t = true → sel = 0x29 → ∃ s', exec i s = .next s' ∧
        RetiresTo i t t s s' (t.pc + 8) (sigsFold (sigsAt t) (lowWord i)) (v.extractLsb' 0 16) true)) ∧
    (sel ∈ [0x28, 0x29] → s.isSup t = false → Faults i s t trapIllegal))

/-- R134, R202, R249 to R252, R287: a `SIGCHK` that matches only folds itself in; `CHKREQ` starts 4,096 instructions in checked-only
mode, none of them its own; `SLEEP` ends by the flag, by the deadline or at once, else waits; `EVSEND` sets the flags of its group;
the wakes of both waits. -/
def Obligations.SleepEventsAndChecks : Prop :=
  (∀ a s t, Ready (.sigchk a) s t → Completes (.sigchk a) s t t s) ∧
  (∀ a s t, Ready (.chkreq a) s t → (t.enabled = [] → Completes (.chkreq a) s t t s) ∧
    (t.enabled ≠ [] → CompletesIn (.chkreq a) s t (dropClaims (s.putTeam { t with chk := some 4097 }) t.hnd))) ∧
  (∀ a s t, Ready (.sleep a) s t → (t.active (.sleep a) = [] → Completes (.sleep a) s t t s) ∧
    ∀ l, (t.active (.sleep a)).head? = some l →
      (t.evf = true → Completes (.sleep a) s t { giveEvery t a.vd.toNat 1 with evf := false, nosleep := false, mark := s.fresh } s) ∧
      (t.evf = false → (t.nosleep = true ∨ t.val l a.va.toNat = 0 ∨ ∃ d, t.status = .slept d ∧ d ≤ s.now) →
        Completes (.sleep a) s t { giveEvery t a.vd.toNat 0 with nosleep := false } s) ∧
      (t.evf = false → t.nosleep = false → t.val l a.va.toNat ≠ 0 →
        (∀ d, t.status = .slept d → s.now < d → Waits (.sleep a) s t id s) ∧
        ((∀ d, t.status ≠ .slept d) → Waits (.sleep a) s t (fun x => { x with status := .slept (s.now + (t.val l a.va.toNat).toNat) }) s))) ∧
  (∀ a s t, Ready (.evsend a) s t → (t.active (.evsend a) = [] → Completes (.evsend a) s t t s) ∧
    (t.active (.evsend a) ≠ [] →
      (ReleaseDone s t 2 → Completes (.evsend a) s t { t with evf := true }
        { s with teams := s.teams.map (fun x => if x.grp = t.grp then { x with evf := true } else x) }) ∧
      (¬ReleaseDone s t 2 → Waits (.evsend a) s t id s))) ∧
  (∀ h s, ∃ s', exec (.sleepDeadline h) s = .next s' ∧ s' = { s with teams := s'.teams } ∧
    ∀ t d, s.team h = some t → t.status = .slept d → s'.team h = some (if d ≤ s.now then { t with held := false, since := s.now } else t)) ∧
  (∀ h s, ∃ s', exec (.waitneWake h) s = .next s' ∧ s' = { s with teams := s'.teams } ∧
    ∀ t, s.team h = some t → t.held = true → ∃ u, s'.team h = some u ∧ u.held = false ∧ u.pc = t.pc ∧ u.strands = t.strands)

/-- R253 to R258, Tables 12-2 to 12-4, 21-7: the supervisor's instructions: leaves dropped and waiting commands walked again, and
`TLBINV` complete when the accesses of before have performed; a stopped team's image written or loaded, once nothing of the team is under
way (log entry 52); poison cleared, a message posted, a word of the RAS log read. -/
def Obligations.SupervisorInstructions : Prop :=
  (∀ a s t, Ready (.tlbinv a) s t → (t.active (.tlbinv a) = [] → Completes (.tlbinv a) s t t s) ∧
    ∀ l, (t.active (.tlbinv a)).head? = some l → (subOf3 a.m = 0 → SupPtr t l a.va false 1) →
      let i := Instr.tlbinv a
      let kind := subOf3 a.m
      let va := if kind = 0 then (t.pair l a.va.toNat).toNat else 0
      let ctx := (t.val l (srcField a.b).toNat).toNat % 65536
      (t.inval = none → ∃ s1, s1 = { s with tlb := s1.tlb, ecmds := s1.ecmds, due := s1.due } ∧
        (∀ e, e ∈ s1.tlb ↔ e ∈ s.tlb ∧ ¬dropped kind ctx va e) ∧
        s1.ecmds.map (·.id) = s.ecmds.map (·.id) ∧
        (∀ e ∈ s.ecmds, ∀ w, e.wait = some w → (kind = 2 ∨ (ctxId w.ctx = ctx ∧ (kind = 1 ∨ w.addr / 4096 = va / 4096 ∨
            ∃ f ∈ s.tlb, dropped kind ctx va f ∧ f.va ≤ w.addr ∧ w.addr < f.va + f.size))) →
          { e with wait := none, tries := 1 } ∈ s1.ecmds) ∧
        (Unperformed s kind ctx s.names → Waits i s t (fun x => { x with inval := some s.names }) s1) ∧
        (¬Unperformed s kind ctx s.names → Completes i s t t s1)) ∧
      ∀ n, t.inval = some n → (Unperformed s kind ctx n → Waits i s t (fun x => { x with inval := some n }) s) ∧
        (¬Unperformed s kind ctx n → Completes i s t { t with inval := none } s)) ∧
  (∀ a s t, Ready (.ctxsave a) s t → (t.active (.ctxsave a) = [] → Completes (.ctxsave a) s t t s) ∧
    ∀ l, (t.active (.ctxsave a)).head? = some l → SupPtr t l a.va false 256 →
      let h := (t.val l (srcField a.b).toNat).toNat
      ((∀ u d, s.team h = some u → u.status = .stopped d → 2 ^ 15 ≤ h) → Completes (.ctxsave a) s t (giveEvery t a.vd.toNat 0xffffffff) s) ∧
      ∀ u d ls, s.team h = some u → u.status = .stopped d → h < 2 ^ 15 →
        let bs := imageBytes u u.nreg true
        let xs : List Access := [⟨l, ls, bs⟩]
        Located s t Need.wr (t.pair l a.va.toNat) bs.length ls →
        let r := releasePrep s t ⟨0, 0, t.pc.toNat / 8 % 256, false⟩ xs
        (¬Quiet s u → Waits (.ctxsave a) s t id s) ∧
        (Quiet s u → if r.2 = false then Waits (.ctxsave a) s t id r.1
          else (bs.length = 2304 + 160 * u.nreg * u.passes + (if u.act.isSome then 1152 else 0)) ∧
            CompletesIn (.ctxsave a) s t ((storePlain r.1 t xs).setTeam t.hnd (fun x => giveEvery x a.vd.toNat (BitVec.ofNat 32 bs.length))))) ∧
  (∀ a s t, Ready (.ctxload a) s t → (t.active (.ctxload a) = [] → Completes (.ctxload a) s t t s) ∧
    ∀ l, (t.active (.ctxload a)).head? = some l → ValidPtr (t.pair l a.va.toNat) →
      let i := Instr.ctxload a
      let h := (t.val l (srcField a.b).toNat).toNat
      let use : CacheUse := ⟨0, 0, t.pc.toNat / 8 % 256, true⟩
      ((∀ u d, s.team h = some u → u.status = .stopped d → 2 ^ 15 ≤ h) → Completes i s t (giveEvery t a.vd.toNat 2) s) ∧
      ∀ u d hd, s.team h = some u → u.status = .stopped d → h < 2 ^ 15 → (¬Quiet s u → Waits i s t id s) ∧
        (Quiet s u → Located s t Need.rd (t.pair l a.va.toNat) 0x900 hd →
        let r1 := prepAccess s t false use [⟨l, hd, []⟩]
        (r1.2 = false → Waits i s t id r1.1) ∧
        (r1.2 = true →
          let f := fun o => nth (0 : Byte) (bytesRead r1.1 t hd) o
          let n := imageSize (min 256 (bytesNat f 12 2)) (min 32 (bytesNat f 9 1)) (bitAt (f 8).toNat 1)
          ∀ ls, Located s t Need.rd (t.pair l a.va.toNat) n ls →
          let r2 := prepAccess (r1.1.uncharge s) t false use [⟨l, ls, []⟩]
          if r2.2 = false then Waits i s t id r2.1
          else
            let s2 := endAccess r2.1 t.core ls
            ∀ c, s2.ctx (s.ctxOf u) = some c →
            match readImage (fun o => nth 0 (bytesRead r2.1 t ls) o) c.desc.stkn with
            | none => Completes i s t (giveEvery t a.vd.toNat 1) s2
            | some m =>
              if m.passes = u.passes ∧ m.nreg = u.nreg then ∃ s1 u1, Completes i s t (giveEvery t a.vd.toNat 0) s1 ∧
                s1.team h = some u1 ∧ u1.strands = m.strands ∧ u1.pc = BitVec.ofNat 48 m.pc ∧ u1.tctl = m.tctl ∧ u1.mism = m.mism ∧
                u1.lock = m.lock ∧ u1.stks = m.stks ∧ u1.bwt = m.bwt ∧ u1.chk = none ∧ u1.seq = [] ∧
                u1.status = (if topBit a.m then .run else u.status) ∧
                s1 = { s2 with ctxs := s1.ctxs, teams := s2.teams.map (fun x => if x.hnd = h then u1 else x) }
              else Completes i s t (giveEvery t a.vd.toNat 3) s2))) ∧
  (∀ a s t, Ready (.poisonclr a) s t →
    (subOf3 a.m = 0 → (∀ k ∈ t.active (.poisonclr a), (t.val k a.va.toNat).toNat < t.nreg) →
      ((∀ k ∈ t.active (.poisonclr a), ¬Owed t (t.val k a.va.toNat).toNat) →
        Completes (.poisonclr a) s t (perStrand t (t.active (.poisonclr a)) (fun k => ⟨[((t.val k a.va.toNat).toNat, 0, 0)], 0⟩)) s) ∧
      ((∃ k ∈ t.active (.poisonclr a), Owed t (t.val k a.va.toNat).toNat) → Waits (.poisonclr a) s t id s)) ∧
    (subOf3 a.m = 0 → ∀ k ∈ t.active (.poisonclr a), t.nreg ≤ (t.val k a.va.toNat).toNat →
      ∃ j, Faults (.poisonclr a) s t (trapBound (some j)) ∧ j ≤ k) ∧
    (subOf3 a.m = 1 → t.active (.poisonclr a) = [] → Completes (.poisonclr a) s t t s) ∧
    (subOf3 a.m = 1 → ∀ l, (t.active (.poisonclr a)).head? = some l → let p := (t.pair l a.va.toNat).toNat
      if p % 4096 = 0 ∧ p < 2 ^ 48 then Completes (.poisonclr a) s t t { s with memPsn := s.memPsn.filter (· ≠ p / 4096) }
      else Faults (.poisonclr a) s t (trapAddr (some l) (t.pair l a.va.toNat)))) ∧
  (∀ a s t, Ready (.hostmsg a) s t → (t.active (.hostmsg a) = [] → Completes (.hostmsg a) s t t s) ∧
    ∀ l ls, (t.active (.hostmsg a)).head? = some l → SupPtr t l a.va true 16 → Located s t Need.rd (t.pair l a.va.toNat) 64 ls →
      let i := Instr.hostmsg a
      let r := prepAccess s t false ⟨0, 0, t.pc.toNat / 8 % 256, true⟩ [⟨l, ls, []⟩]
      let p := 8 + (t.val l (srcField a.b).toNat).toNat % 4
      let e := r.1.evring p
      let x := ringGet r.1 e
      let s2 := endAccess x.1 t.core ls
      (¬ReleaseDone s t 6 → Waits i s t id s) ∧
      (ReleaseDone s t 6 → (r.2 = false → Waits i s t id r.1) ∧
        (r.2 = true → e.bound = false → Completes i s t (giveEvery t a.vd.toNat 1) (endAccess r.1 t.core ls)) ∧
        (r.2 = true → e.bound = true → (x.2 = none → Waits i s t id (x.1.uncharge s)) ∧
          ∀ rd, x.2 = some rd →
            if e.entries ≤ (e.wr - rd).toNat ∨ e.waiting ≠ [] then Completes i s t (giveEvery t a.vd.toNat 2) s2
            else ∃ s1, Completes i s t (giveEvery t a.vd.toNat 0) s1 ∧ s1.evring p = { e with wr := e.wr + 1 } ∧
              s1 = { devWrite (devWrite s2 (cellsAt (e.base + 64 * (e.wr.toNat % e.entries)) (0x80 :: (bytesRead r.1 t ls).drop 1)))
                  (cellsAt (e.base + 64 * e.entries + 4) (leBytes 4 (e.wr + 1).toNat)) with events := s1.events }))) ∧
  (∀ a s t, Ready (.rasrd a) s t → (t.active (.rasrd a) = [] → Completes (.rasrd a) s t t s) ∧
    ∀ l, (t.active (.rasrd a)).head? = some l →
      let x := t.val l a.va.toNat
      let v := match s.ras[(x.extractLsb' 0 16).toNat]? with
        | some e => rasField e (x.extractLsb' 16 3).toNat
        | none => BitVec.allOnes 64
      Completes (.rasrd a) s t (giveEvery (giveEvery t a.vd.toNat (v.extractLsb' 0 32)) (a.vd.toNat + 1) (v.extractLsb' 32 32)) s)

/-- R43, R247, R248, R259: `TRAP n` takes software trap n at priority 7 for its leader; `ERET` puts back what entry saved, but for strands
that have exited since, and is illegal without an activation; `ILLEGAL` is, whatever its other fields. -/
def Obligations.TrapsAndReturn : Prop :=
  (∀ a s t, Ready (.trap a) s t → (t.active (.trap a) = [] → Completes (.trap a) s t t s) ∧
    ∀ l, (t.active (.trap a)).head? = some l →
      exec (.trap a) s = .next (takeTrap (noteStart s t) t ⟨7, 0x11, some l, 0, (srcField a.b).toNat⟩ (t.active (.trap a)) true (.trap a))) ∧
  (∀ a s t, Ready (.eret a) s t → (t.act = none → Faults (.eret a) s t trapIllegal) ∧
    ∀ x, t.act = some x → ∃ s', exec (.eret a) s = .next s' ∧
      RetiresTo (.eret a) t { t with act := none, strands := (t.strands.zip x.ctrs).map (fun p => if p.1.ctr = 0xff then p.1 else { p.1 with ctr := p.2 }) } s s'
        x.pc x.sigs x.sigd x.stepped) ∧
  (∀ w s t, s.team s.cur = some t → canIssue s t = true → Faults (.illegal w) s t trapIllegal)

/-- R58, R61, R126, R129, R134, R136, R221, R244, R286 to R288, R342: what stops an instruction of a team before its effect. An ill-formed
word, then the privilege, then a register a reply is owed to, then a differing signature, which discards what the team has claimed; a
register field at or beyond N, a locked register and a poisoned guard each raise a fault, and one fault alone is reported, that of lowest
priority number first. -/
def Obligations.WhatStopsAnInstruction : Prop :=
  ∀ i s t, ofTeam i → s.team s.cur = some t → canIssue s t = true → t.rmw = none →
    (i.WellFormed = false → Faults i s t ⟨1, 0x01, none, 0, 0⟩) ∧
    (i.WellFormed = true → isPriv i = true → s.isSup t = false → Faults i s t ⟨1, 0x02, none, 0, 0⟩) ∧
    (i.WellFormed = true → (isPriv i = true → s.isSup t = true) → (∀ w, i ≠ .illegal w) → ((∃ a, i = .mma a) → (s.core t.core).tok = true) →
      ((∃ r ∈ namedRegs i, r ∈ t.pend) → Waits i s t id s) ∧
      ((∀ r ∈ namedRegs i, r ∉ t.pend) →
        (sigDiffers t i = true → t.chk = none → exec i s = .next (dropClaims (noteStart (s.putTeam (differed t)) t) t.hnd)) ∧
        (sigDiffers t i = true → t.chk ≠ none → ∃ tr, Faults i s t tr ∧ tr.le ⟨6, 0x0f, none, 0, 0⟩ = true) ∧
        (sigDiffers t i = false ∨ t.chk ≠ none →
          ((∃ r ∈ namedRegs i, t.nreg ≤ r) → ∃ tr, Faults i s t tr ∧ tr.le ⟨5, 0x0a, none, 0, 0⟩ = true) ∧
          ((∃ r ∈ namedRegs i, r ∈ t.lock) → (∀ a, i ≠ .mmawait a) → ∃ tr, Faults i s t tr ∧ tr.le ⟨5, 0x0c, none, 0, 0⟩ = true) ∧
          (∀ k ∈ t.enabled, (∃ r ∈ guardRegs (hdrF i), r < t.nreg ∧ ¬t.clean k r) →
            ∃ tr, Faults i s t tr ∧ tr.le ⟨4, 0x09, some k, 0, 0⟩ = true))))

/-- R343, R344, R66, Table 21-2: entry to the user handler. Each handler strand's v16:v17 is lowered by 64 and its frame stored there as a
plain store of the team, which waits as those do; its counter becomes 0, every other live strand's 1; program counter, counters and
signature halves are saved for `ERET`, those of a `TRAP` after it; a fault met on a frame goes to the supervisor instead. A result
owed to v16:v17 is waited for (R129). -/
def Obligations.HandlerEntry : Prop :=
  ∀ s t tr act soft i uh, s.team t.hnd = some t → HasHandler s t uh → tr.cause ∈ handlerCauses → act.Nodup →
    let hs := handlerStrands t tr act
    let s0 : State := { s with told := some tr }
    (∀ k ∈ hs, k < t.strands.length ∧ (t.strand k).ctr ≠ 0xff ∧ 17 < (t.strand k).regs.length) →
    ((Owed t 16 ∨ Owed t 17) → takeTrap s t tr act soft i = s0.putTeam { t with held := true, since := s.now }) ∧
    (¬Owed t 16 → ¬Owed t 17 →
      (∀ L : Nat → List Loc, (∀ k ∈ hs, t.clean k 16 ∧ t.clean k 17 ∧ Located s t Need.wr (frameTop t k) 64 (L k)) →
        let pc := if soft then t.pc + BitVec.ofNat 48 (byteLength i) else t.pc
        let xs := accesses hs L (trapFrame pc tr)
        let r := releasePrep s0 t ⟨0, 0, t.pc.toNat / 8 % 256, false⟩ xs
        let x : Activation := ⟨pc, t.strands.map (·.ctr), if soft then sigsFold (sigsAt t) (lowWord i) else t.sigs,
          if soft then sigdAfter i t t act else t.sigd, if soft then true else t.stepped⟩
        let s1 := storePlain r.1 t xs
        if r.2 = false then takeTrap s t tr act soft i = r.1.setTeam t.hnd (fun u => { u with held := true, since := s.now })
        else ∃ u ps, s1.team t.hnd = some u ∧
          let v := if soft then u.matched else u.noted
          let s2 := dropClaims (s1.setTeam t.hnd (fun _ => entered v hs uh x ps)) t.hnd
          takeTrap s t tr act soft i = if v.chk = some 0 then s2.later (.checkedOnlyExit t.hnd) else s2) ∧
      ((∃ k ∈ hs, ¬t.clean k 16 ∨ ¬t.clean k 17) →
        ∃ tr', takeTrap s t tr act soft i = superDeliver (noteFlaw s0 (s.ctxOf t) t.core tr') t tr' act false ∧ tr'.prio ≤ 4))

/-- R341, R343, R346, Table 21-3: a fault goes to the supervisor where its row names it, no handler is named, or the team is in its
activation or has no v16:v17. The team stops where it stands, its claims not checked yet gone; its record goes to the fault ring, or
waits while 4,096 records stand there. A fault of the supervisor's own team is a RAS record, and ends its queue. An error that a poison
fault found is marked first (R117). -/
def Obligations.SupervisorDelivery : Prop :=
  ∀ s t tr act soft i, tr.cause ∈ supervisorCauses ∨ (tr.cause ∈ handlerCauses ∧ ∀ uh, ¬HasHandler s t uh) →
    let sx := noteFlaw { s with told := some tr } (s.ctxOf t) t.core tr
    (s.isSup t = false →
      let s0 := if tr.cause = 0x0f then rasWrite sx 9 (rasLoc t.core (t.hnd / 512 % 4)) (s.qOf t) (s.ctxOf t) 0 (BitVec.ofNat 64 t.pc.toNat)
        (BitVec.ofNat 32 0 ++ sigsAt t ++ (sigxOf i).getD 0) else sx
      let d := deliveryOf s t tr act
      let s1 := stoppedBy s0 (if soft then t.matched else t.noted) d
      takeTrap s t tr act soft i = if s.frWr - s.frRd < 4096 ∧ s.frWait = [] then
        { devWrite s1 (cellsAt (s.frBase + 64 * (s.frWr % 4096)) (recordOf d)) with frWr := s.frWr + 1 }
      else { s1 with frWait := s.frWait ++ [d] }) ∧
    (s.isSup t = true → ∃ s1 : State, takeTrap s t tr act soft i = tellHost (teardown s1 (s.qOf t)) 2 (s.qOf t) (s.ctxOf t) [BitVec.ofNat 8 tr.cause] ∧
      s1.rasSeq = sx.rasSeq + (if tr.cause = 0x0f then 2 else 1) ∧ s1.teams = s.teams ∧
      ∃ x ∈ s1.ras, x.kind = 0x0d ∧ x.q = s.qOf t ∧ x.detail = BitVec.ofNat 64 tr.cause)

/-- R281 to R283, R286 to R288, R346: a main core's claim joins its section's queue of 128, unless the team is in checked-only mode. A claim
that matches commits the instruction at the program counter; one that differs commits nothing, is discarded with every later claim of
its team, and raises `%mism`; the fourth mismatch among the last 64 checks begins checked-only mode, in which a difference of the checker
bank is a signature fault; the mode ends with an empty sequence after its last commit. Deliveries that waited are written as the
supervisor reads. -/
def Obligations.CheckedExecution : Prop :=
  (∀ s c rest, s.agenda = .retire c :: rest → let s1 := { s with agenda := rest }
    ∃ s', step s = .next (tick s') ∧
      let q := (aget (c.hnd % 512 * 4 + c.hnd / 512 % 4) s.claims).getD []
      ((∀ t, s.team c.hnd = some t → t.chk ≠ none ∨ canIssue s1 t = false ∨ 128 ≤ q.length) → s' = s1) ∧
      ∀ t, s.team c.hnd = some t → t.chk = none → canIssue s1 t = true → q.length < 128 →
        aget (c.hnd % 512 * 4 + c.hnd / 512 % 4) s'.claims = some (q ++ [c]) ∧
        ∃ w : Team → Work, s' = { s1 with claims := s'.claims, teams := s.teams.map (fun x => if x.hnd = c.hnd then { x with work := some (w x) } else x) } ∧
          (w t).pc = c.next ∧ (w t).sigd = c.sigd) ∧
  (∀ h ok s, s.team h = none → exec (.claimCheck h ok) s = .next s) ∧
  (∀ h ok s t, s.team h = some t → canIssue s t = true → (fetchFill s t).2 = false → exec (.claimCheck h ok) s = .next (fetchFill s t).1) ∧
  (∀ h ok s t, s.team h = some t → canIssue s t = true → (fetchFill s t).2 = true → let s1 := (fetchFill s t).1
    (Unclaimed s h →
      (ok = false → t.chk = none → exec (.claimCheck h ok) s = .next (dropClaims (s.setTeam h differed) h)) ∧
      ∀ l, FetchAt s1 t l →
        (∀ i, foundAt s1 t l = some i →
          (ok = true → exec (.claimCheck h ok) s = exec i { s1 with cur := h }) ∧
          (ok = false → t.chk ≠ none → exec (.claimCheck h ok) s = .next (takeTrap s1 t ⟨6, 0x0f, none, 0, 0⟩ (t.active i) false i))) ∧
        (foundAt s1 t l = none → ok = true ∨ t.chk ≠ none →
          exec (.claimCheck h ok) s = .next (takeTrap s1 t ⟨1, 0x01, none, 0, 0⟩ t.enabled false (.illegal 0)))) ∧
    ∀ c, Oldest s h c → c.ecc = false →
      (ok = false → exec (.claimCheck h ok) s = .next (dropClaims (s.setTeam h differed) h)) ∧
      ∀ i l, FetchAt s1 t l → foundAt s1 t l = some i → ok = true →
        (c.pc ≠ t.pc ∨ c.word ≠ (blockAt s1 t l).take (byteLength i) ∨ c.sum ≠ sumWord (t.active i) t.passes ∨
            (∃ x ∈ c.src, (t.strand x.1).reg x.2.1 ≠ ⟨x.2.2.1, x.2.2.2, ((t.strand x.1).reg x.2.1).psn⟩) →
          exec (.claimCheck h ok) s = .next (dropClaims (s1.setTeam h differed) h)) ∧
        ∀ s' t', exec i { s1 with cur := h, sample := c.samp, told := none } = .next s' → claimMeets s1 t i c = true → s'.team h = some t' →
          (t'.checks = t.checks → exec (.claimCheck h ok) s = .next { s' with sample := none }) ∧
          (t'.checks ≠ t.checks → claimAgrees s' t (some t') i s'.told c = false →
            exec (.claimCheck h ok) s = .next (dropClaims (s1.setTeam h differed) h)) ∧
          (t'.checks ≠ t.checks → claimAgrees s' t (some t') i s'.told c = true → ∃ s2, exec (.claimCheck h ok) s = .next s2 ∧
            s2 = { s' with sample := none, claims := s2.claims, teams := s2.teams } ∧
            s2.teams.map (fun x => { x with work := none }) = s'.teams.map (fun x => { x with work := none }))) ∧
  (∀ h s t, s.team h = some t → ∃ s', exec (.checkedOnlyExit h) s = .next s' ∧ s' = { s with teams := s'.teams } ∧
    s'.team h = some (if t.chk = some 0 then { t with chk := none, seq := [] } else t)) ∧
  (∀ n s, ∃ s', exec (.deliveryRingSpace n) s = .next s' ∧ s'.frRd = min s.frWr (s.frRd + n) ∧ (NoneWaits s → s'.teams = s.teams) ∧
    (s'.frWait = s.frWait.drop (s'.frWr - s.frWr)) ∧ (s'.frWait = [] ∨ 4096 ≤ s'.frWr - s'.frRd) ∧
    (s.frWait = [] → s' = { s with frRd := s'.frRd }))

/-- R35, R64, R66, R289, R330, R346, R370 to R377, R383 and Table 23-4: the machine after reset, as far as the spec gives it; every
memory, all of it 0 bytes by log entry 5, is in canonical form. -/
def Obligations.ResetState : Prop :=
  let s := State.reset
  s.teams = [] ∧ s.groups = [] ∧ s.launches = [] ∧ s.ecmds = [] ∧ s.tlb = [] ∧ s.dir = [] ∧ s.secs = [] ∧ s.subsc = [] ∧ s.throughs = [] ∧
  s.boot.boot = 1 ∧ s.boot.admin = none ∧ s.comms = [] ∧ s.memPsn = [] ∧ s.scrPsn = [] ∧ s.crvPsn = [] ∧ s.slices = [] ∧
  (∀ q, (s.queue q).bound = false ∧ (s.queue q).cmds = []) ∧
  (∀ c, (s.core c).blocks = [] ∧ (s.core c).slots = [] ∧ (s.core c).cyc = 0 ∧ (s.core c).tok = false ∧ (s.core c).rot = 0 ∧ (s.core c).weaver.run = none) ∧
  (∀ c, (s.cluster c).vhi = false ∧ (s.cluster c).gated = false ∧ (s.cluster c).ret = false ∧ (s.cluster c).budget = 4294967295) ∧
  s.power.pool = 384 ∧ s.power.floor = 0 ∧ s.power.ramp = 100000 ∧ s.ras = [] ∧ s.rasSeq = 0 ∧ Canonical s

/-- R12, R123, R136, R349: a step whose turn is a team's runs the instruction that the bytes at its program counter decode to, in the
state in which the fetch has filled the instruction cache of the core and cached its leaf, and time passes; bytes that are no
instruction raise the illegal-instruction fault, a fetch that is not allowed its translation fault, and one that another agent must
answer waits. A step whose turn is the device's runs that step. -/
def Obligations.StepRunsTheDecodedInstruction : Prop :=
  (∀ s h rest t, s.agenda = .issue h :: rest →
    let s1 := { s with agenda := rest }
    let s2 := (fetchFill s1 t).1
    s1.team h = some t → canIssue s1 t = true → Unclaimed s h →
    ((fetchFill s1 t).2 = true → s2.teams = s.teams ∧ s2.groups = s.groups ∧ s2.scr = s.scr ∧
      (∀ l, FetchAt s2 t l →
        (∀ i, foundAt s2 t l = some i → step s = onNext tick (onNext (noteIssue s1 h) (exec i { s2 with cur := h }))) ∧
        (foundAt s2 t l = none → step s = .next (tick (noteIssue s1 h (takeTrap s2 t ⟨1, 0x01, none, 0, 0⟩ t.enabled false (.illegal 0)))))) ∧
      (∀ c, transFor s1 (s1.ctxOf t) (s1.isSup t) Need.fetch t.pc.toNat = .error c →
        step s = .next (tick (noteIssue s1 h (takeTrap s1 t ⟨3, c, none, BitVec.ofNat 64 t.pc.toNat, 0⟩ t.enabled false (.illegal 0)))))) ∧
    ((fetchFill s1 t).2 = false → step s = .next (tick (noteIssue s1 h s2)))) ∧
  (∀ s e rest, s.agenda = .dev e :: rest → ∃ i, toRaw i = none ∧ (∀ s', runEvent e s' = exec i s') ∧
    step s = onNext tick (exec i { s with agenda := rest }))

/-- 07_encoding.md, 15_program_pointer_walk.md and the other worked words: instructions as the spec writes their words decode to what
they stand for. -/
def Obligations.SpecWordsDecode : Prop :=
  let hd := fun c : BitVec 2 => (⟨c, 0, false, 0, 63, 63⟩ : Hdr)
  decodeTableWord 64 0x5060504402488225 = some (.fadd ⟨⟨1, 2, false, 1, 8, 9⟩, 5, 4, 5, .reg 6⟩) ∧
  decodeTableWord 96 0x0000006420005030C1FBF012 = some (.icmp ⟨⟨0, 1, false, 0, 63, 63⟩, 2, 3, 5, .imm 100⟩) ∧
  decodeTableWord 128 0x00000000FFFFFFE0000000021DF83003 = some (.bra ⟨⟨0, 0, false, 0, 3, 63⟩, 0, 0, 0, 0xFFFFFFE0, 0⟩) ∧
  decodeTableWord 64 0x019000AE01FBF001 = some (.movs ⟨hd 0, 0, 10, 0, .reg 0x19⟩) ∧
  decodeTableWord 64 0x0000800A81FBF005 = some (.skpush ⟨hd 1, 0, 0, 8, .reg 0⟩) ∧
  decodeTableWord 64 0x0001B1C431FBF00D = some (.frsq ⟨hd 3, 0, 28, 27, .reg 0⟩) ∧
  decodeTableWord 64 0 = none ∧ decodeTableWord 64 0xFFFFFFFFFFFFFFFC = none

/-- R120, R125, R136: decoding and encoding agree: every well-formed instruction of a team is read back from its own words, whatever
bytes follow. -/
def Obligations.EncodingIsReadBack : Prop :=
  ∀ i : Instr, ofTeam i → i.WellFormed = true → (∀ w, i = .illegal w → w.toNat % 4 = 1 ∧ w.toNat / 2 ^ 26 % 1024 = 0x3ff) →
    ∀ rest, decode (encode i ++ rest) = some (i, byteLength i) ∧ (encode i).length = byteLength i

/-- R120, R125, R136: no bit of a word is dropped: bytes that decode are the encoding of what they decode to. -/
def Obligations.DecodingDropsNothing : Prop :=
  ∀ bs i n, decode bs = some (i, n) → i.WellFormed = true ∧ ofTeam i ∧ n = byteLength i ∧ bs.take n = encode i

/-- Log entry 5: every step keeps every memory in its canonical form, so that equal memories are equal data. -/
def Obligations.MemoryStaysCanonical : Prop :=
  ∀ s s', Canonical s → step s = .next s' → Canonical s'

/-- R238 to R240: what a weaver does at each kind of node, a fork that waits while 64 walks run, and how a graph completes. -/
def Obligations.GraphNodes : Prop :=
  (∀ core walk s g y, WalkReady s core walk 0 g y → ∃ s', exec (.nodeEnd core walk) s = .next s' ∧ WentOn s s' core walk 0xffff g ∧
    s'.scr = s.scr ∧ s'.mem = s.mem ∧ s'.teams = s.teams) ∧
  (∀ core walk s g y, WalkReady s core walk 1 g y →
    ∃ s', exec (.nodeLaunchTeam core walk) s = .next s' ∧ s'.scr = s.scr ∧ s'.mem = s.mem ∧
      ∀ j k l c, nextIndex s g = some j → freeStk s (ctxId g.ctx) = some k →
        (openSeat s core (32 * field y.word 112 8) (field y.word 120 8 + 1)).isSome → s.launch g.launch = some l → s.ctx (ctxId g.ctx) = some c →
        ∃ t, s'.teams = s.teams ++ [t] ∧ t.core = core ∧ t.node = true ∧ ctxId (s'.ctxOf t) = ctxId g.ctx ∧ s'.ctxOf t < 65536 ∧
          Starts t g c.desc j (field y.word 120 8 + 1) (32 * field y.word 112 8) k l.lr.scr (field y.word 192 64) l.lr.tctl0
            (BitVec.ofNat 64 (field y.word 128 64)) ∧
          (∃ z ∈ (s'.core core).weaver.walks, z.id = walk ∧ z.st = .team j) ∧
          (field y.word 48 16 = 0xffff → (s'.core core).weaver.walks.length = (s.core core).weaver.walks.length) ∧
          ∃ g', s'.group g.id = some g' ∧ g'.live = sadd j g.live) ∧
  (∀ core walk s g y gc, WalkReady s core walk 2 g y → graphCmd s core = some gc →
    ∃ s', exec (.nodeCopy core walk) s = .next s' ∧ s'.scr = s.scr ∧ s'.mem = s.mem ∧ s'.teams = s.teams ∧
      ∀ p, copyPlan s g none (field y.word 64 7) (BitVec.ofNat 64 (field y.word 192 64)) (BitVec.ofNat 64 (field y.word 128 64)) = .ok p →
        (∃ e, s'.ecmds = s.ecmds ++ [e] ∧ e.id = s.names ∧ e.op = p.op ∧ e.rd = p.rd ∧ e.wr = p.wr ∧ e.core = core ∧ e.grp = g.id ∧ e.rep = none) ∧
        ∃ z ∈ (s'.core core).weaver.walks, z.id = walk ∧ z.st = .copy s.names) ∧
  (∀ core walk s g y n, WalkReady s core walk 3 g y → CondIs s g y.word n →
    ∃ s', exec (.nodeCondition core walk) s = .next s' ∧ WentOn s s' core walk (if n ≠ 0 then field y.word 48 16 else field y.word 32 16) g ∧
      s'.scr = s.scr ∧ s'.mem = s.mem ∧ s'.teams = s.teams) ∧
  (∀ core walk s g y n, WalkReady s core walk 4 g y → CondIs s g y.word n → (nodeBits s g y.node).isSome →
    let limit := field y.word 96 16
    let c := nodeCounter s g y.node
    ∃ s', exec (.nodeWhile core walk) s = .next s' ∧ s'.mem = s.mem ∧ s'.teams = s.teams ∧
      if n ≠ 0 ∧ (limit = 0 ∨ c < limit) then CounterIs s s' g y.node ((c + 1) % 65536) ∧ WentOn s s' core walk (field y.word 32 16) g
      else CounterIs s s' g y.node 0 ∧ WentOn s s' core walk (field y.word 48 16) g) ∧
  (∀ core walk s g y, WalkReady s core walk 5 g y → (nodeBits s g y.node).isSome →
    let c := nodeCounter s g y.node
    ∃ s', exec (.nodeJoin core walk) s = .next s' ∧ s'.mem = s.mem ∧ s'.teams = s.teams ∧
      if field y.word 64 8 ≤ c + 1 then CounterIs s s' g y.node 0 ∧ WentOn s s' core walk (field y.word 32 16) g
      else CounterIs s s' g y.node ((c + 1) % 65536) ∧ WentOn s s' core walk 0xffff g) ∧
  (∀ core x s, x ≠ 0xffff → (s.core core).weaver.st ≠ 7 → 64 ≤ (s.core core).weaver.walks.length →
    ((fork s core x).core core).weaver = { (s.core core).weaver with forks := (s.core core).weaver.forks ++ [x] }) ∧
  (∀ core s gid cid e h r, (s.core core).weaver.run = some (gid, cid) → (s.core core).weaver.walks = [] → (s.core core).weaver.forks = [] →
    s.ecmd cid = some e →
    e.core = core → e.issuer = .team h → e.rep = some r →
    let w := (s.core core).weaver
    ∃ s', exec (.graphComplete core) s = .next s' ∧ (s'.core core).weaver.run = none ∧ Ended s s' e w.st (if w.st = 7 then w.bad else w.done)) ∧
  (∀ core s, (s.core core).weaver.walks ≠ [] ∨ (s.core core).weaver.forks ≠ [] ∨ (s.core core).weaver.run = none →
    exec (.graphComplete core) s = .next s)

/-- R25 to R28, R36 to R42, R47, R353: the next unit of the queue served first is placed whole, or ends its launch when it could never
be; a placed group's teams become resident, as R36 says, and its first instruction waits for the stagger of its launch; a team whose strands have all exited and that has nothing
outstanding retires, and with the last its group. -/
def Obligations.PlacementStartAndRetirement : Prop :=
  (∀ q s, nextLaunch s q = none ∨ savedOf s q = true → exec (.placementUnit q) s = .next s) ∧
  (∀ q s l t, nextLaunch s q = some l → savedOf s q = false → serveOrder s = [q] → placeUnit s l = some t → (∀ g ∈ s.groups, g.id < s.names) →
    1 ≤ l.lr.unit → ∃ s', exec (.placementUnit q) s = .next s' ∧ PlacedUnit s s' l ∧ s'.rrq = q ∧ s'.mem = s.mem ∧ s'.teams = s.teams ∧
      ((s'.launch l.id).map (·.next)) = some (l.next / l.lr.unit * l.lr.unit + l.lr.unit)) ∧
  (∀ q s l, nextLaunch s q = some l → savedOf s q = false → serveOrder s = [q] → placeUnit s l = none →
    ∃ s', exec (.placementUnit q) s = .next s' ∧ (NoneWaits s → s'.teams = s.teams) ∧
      if placeUnit (idleDevice s) l = none then ∀ x, s'.launch l.id = some x → x.ended = true ∧ x.next = l.next
      else s'.launches = s.launches) ∧
  (∀ id s x l, s.group id = some x → x.res = .placed → s.launch x.launch = some l →
    let r := putImage s x l
    if clusterRuns s x.core = true ∧ (∀ t, aget (dieOf x.core) l.lastStart = some t → t + l.lr.stagger ≤ s.now) then
      (r.2 = false → exec (.groupStart id) s = .next r.1) ∧
      (r.2 = true → ∃ s', exec (.groupStart id) s = .next s' ∧
        s'.teams = r.1.teams ++ x.kept.map (fun t => { t with preq := if x.pre.isSome then some s.now else none, since := s.now, mark := r.1.fresh }) ∧
        (∃ g, s'.group id = some g ∧ g.res = .resident ∧ g.kept = []))
    else exec (.groupStart id) s = .next s) ∧
  (∀ s t g l, s.grpOf t = some g → s.launch g.launch = some l →
    (g.started = false → (∀ a, aget (dieOf g.core) l.lastStart = some a → s.now < a + l.lr.stagger → canIssue s t = false) ∧
      (∃ h, (noteStart s t).group g.id = some h ∧ h.started = true) ∧
      ((noteStart s t).launch g.launch).bind (fun y => aget (dieOf g.core) y.lastStart) = some s.now) ∧
    (g.started = true → noteStart s t = s)) ∧
  (∀ h grp idx nreg strands slot sbase scr d entry tctl args node g, g.id = grp → g.sbase = sbase → g.core = hndCore h → sbase < 2 ^ 19 →
    nreg ≤ 256 →
    Starts (startTeam h grp idx nreg strands slot sbase scr d entry tctl args node) g d idx nreg strands slot scr entry tctl args) ∧
  (∀ h s, (∀ t, s.team h = some t → t.done = false ∨ ¬Quiet s t) → exec (.teamRetire h) s = .next s) ∧
  (∀ h s t g, s.team h = some t → t.done = true → Quiet s t → s.group t.grp = some g → t.node = false → t.withdrawn = [] →
    ∃ s', exec (.teamRetire h) s = .next s' ∧ (NoneWaits s → s'.teams = s.teams.filter (fun x => x.hnd != h)) ∧
      (g.live.filter (· ≠ t.idx) ≠ [] → ∃ g', s'.group t.grp = some g' ∧ g'.live = g.live.filter (· ≠ t.idx)) ∧
      (g.live.filter (· ≠ t.idx) = [] → g.res = .resident → (∀ e ∈ s.ecmds, e.grp ≠ g.id) → (∀ r, (s.core g.core).weaver.run = some r → r.1 ≠ g.id) →
        s'.group t.grp = none ∧ (∀ x ∈ (s'.core g.core).slots, x.2 = g.id → False)))

/-- R66, R106 to R108, R115 to R119, R205, R207, R292, R293: fills and evictions change no value that the device's memory holds and
let waiting teams go on; a store is accepted or its error contained; operations answer; scrub and refresh mark what they find; the
containment of an error tears its queues down. -/
def Obligations.MemorySideSteps : Prop :=
  (∀ core frame lo hi data s, SectorsSound s → Live s → Memory.wf s.mem = true → ∃ s', exec (.missFill core frame (lo, hi) data) s = .next s' ∧
    s'.scr = s.scr ∧ (∀ pa, noSmDirty s core pa → cohByte s' pa = cohByte s pa) ∧
    (lo ≤ hi → hi ≤ 63 → core < 384 → NoneWaits s → s'.teams = s.teams.map (Team.ready s'))) ∧
  (∀ (s : State) (t : Team) secs, t.status = .parked secs ∨ t.status = .fabric secs →
    t.ready s = if secs.all (servedAt s t.core) then { t with status := .run, held := false, since := s.now } else t) ∧
  (∀ (s : State) (t : Team), (∀ secs, t.status ≠ .parked secs ∧ t.status ≠ .fabric secs) → t.ready s = t) ∧
  (∀ core frame lo s, SectorsSound s → Live s → Memory.wf s.mem = true → ∃ s', exec (.l1Eviction core frame lo) s = .next s' ∧ s'.scr = s.scr ∧
    s'.teams = s.teams ∧ (∀ pa, noSmDirty s core pa → cohByte s' pa = cohByte s pa) ∧
    ∀ b, (s.core core).blocks.find? (fun b => b.frame == frame && b.lo == lo) = some b →
      (b.sm = true → devOf (256 * frame) = s.devid → ∀ c ∈ b.dirtyCells, (b.dirtyCells.map (·.1)).Nodup → s'.mem.get c.1 = c.2) ∧
      ((s.core core).blocks.countP (fun b => b.frame == frame && b.lo == lo) = 1 →
        ∀ b' ∈ (s'.core core).blocks, ¬(b'.frame = frame ∧ b'.lo = lo))) ∧
  (∀ h s t, s.team h = some t →
    (t.rel = [] → t.status = .waiting → exec (.storeAccepted h false) s = .next (s.putTeam { t with status := .accepted, held := false }) ∧
      ∀ i, fetchAt s t = .instr i → let u := { t with status := .run }
        exec (.storeAccepted h true) s = .next (takeTrap (s.putTeam u) u (trapPoison (some ((t.active i).headD 0)) (storeAddr t i ((t.active i).headD 0)))
          (t.active i) false i)) ∧
    (∀ x rest, t.rel = x :: rest →
      (x.cells = [] → (∀ a ∈ x.pas, a / 4096 ∉ s.memPsn) → ∃ ev,
        exec (.storeAccepted h false) s = .next { s.setTeam h (fun u => { u with rel := rest }) with due := s.due ++ ev }) ∧
      ∀ err, err = true ∨ (∃ a ∈ x.pas, a / 4096 ∈ s.memPsn) →
        ∃ s', exec (.storeAccepted h err) s = .next s' ∧ TornDown s s' (s.qOf t) ∧ Logged s s' 1) ∧
    (∀ x rest, t.ranges = x :: rest → ∃ ev,
      exec (.rangeOpComplete h) s = .next { reply (s.putTeam { t with ranges := rest }) h x.vd x.w with due := s.due ++ ev }) ∧
    (∀ x, t.subs.find? (fun r => r.left == 0) = some x → exec (.subscriptionAnswered h) s =
      .next (reply (s.putTeam { t with subs := t.subs.filter (fun r => r.id != x.id) }) h x.vd
        (BitVec.ofNat 16 (min x.exact 65535) ++ BitVec.ofNat 16 (min x.fmtd 65535)))) ∧
    ((∀ r ∈ t.subs, r.left ≠ 0) → exec (.subscriptionAnswered h) s = .next s)) ∧
  (∀ s h r w, reply s h (some r) w = s.setTeam h (fun t => { giveEvery t r w with pend := t.pend.filter (· ≠ r), mark := s.fresh }) ∧
    reply s h none w = s) ∧
  (∀ core sec q s, ∃ s', exec (.hwErrorContainment core sec (some q)) s = .next s' ∧ TornDown s s' q ∧ Logged s s' 1) ∧
  (∀ core sec s, ∃ s', exec (.hwErrorContainment core sec none) s = .next s' ∧
    ∀ t ∈ s.teams, t.core = core → (3 < sec ∨ t.hnd / 512 % 4 = sec) → TornDown s s' (s.qOf t)) ∧
  (∀ core sec s, exec (.registerScrub core sec []) s = .next s) ∧
  (∀ core sec s (e : RegUpset) t, s.team (e.t * 2048 + sec * 512 + core) = some t → sec < 4 → core < 384 → ∃ s',
    exec (.registerScrub core sec [e]) s = .next s' ∧ s'.rasSeq = s.rasSeq + 1 ∧
      if e.corr then s'.teams = s.teams ∧ s'.claims = s.claims else Unclaimed s' t.hnd ∧
        s'.teams = (s.putTeam { t with
          work := none, strands := upd t.strands e.strand (fun x => { x with regs := upd x.regs e.reg (fun r => { r with psn := true }) }) }).teams) ∧
  (∀ pa s, exec (.refresh pa false) s = .next s) ∧
  (∀ pa s, devOf pa = s.devid → pa % 2 ^ 39 < devBytes → ∃ s', exec (.refresh pa true) s = .next s' ∧ pa / 4096 ∈ s'.memPsn ∧
    (∀ p, p ≠ pa / 4096 → (p ∈ s'.memPsn ↔ p ∈ s.memPsn)) ∧ s'.mem = s.mem ∧ s'.teams = s.teams ∧ s'.rasSeq = s.rasSeq + 1)

/-- R224, R371 to R377: tokens are asked for, granted oldest first while one is free and none is withheld, and returned; budgets
are full again each microsecond; an estimate that rises too fast withholds every access, one over the rack budget the same part of every
cluster's bytes, and ballast runs; rack messages and their expiry; the ends of a rail switch,
of a gate and of retention entry. -/
def Obligations.PowerSteps : Prop :=
  (∀ c s, ∃ s', exec (.tokenRequest c) s = .next s' ∧
    if (s.core c).tok = false ∧ (s.core c).want = false ∧ (∃ t ∈ s.teams, t.core = c ∧ nextIsMma s t = true) then
      s'.power.queue = s.power.queue ++ [c] ∧ (s'.core c).want = true ∧ s'.teams = s.teams
    else s' = s) ∧
  (∀ s, ∃ s', exec .tokenGrant s = .next s' ∧
    ∀ c rest, s.power.queue = c :: rest →
      if (s.cores.filter (fun x => x.2.tok)).length < s.power.pool ∧ s.power.hold = false ∧ s.power.excess = 0 then
        s'.power.queue = rest ∧ (s'.core c).tok = true ∧ (s'.core c).want = false ∧ s'.teams = s.teams
      else s' = s) ∧
  (∀ c s, ∃ s', exec (.tokenReturn c) s = .next s' ∧ s'.teams = s.teams ∧
    ((s'.core c).tok = true ↔ (s.core c).tok = true ∧ ((∃ t ∈ s.teams, t.core = c ∧ ∃ m ∈ t.mat, m.ox = false) ∨ s.now < (s.core c).idle + 2000))) ∧
  (∀ s, ∃ s', exec .budgetInterval s = .next s' ∧ (∀ c ∈ s'.clusters, c.2.left = c.2.budget) ∧ (∀ q ∈ s'.queues, q.2.mused = 0) ∧
    s'.clusters.map (·.2.budget) = s.clusters.map (·.2.budget) ∧ s'.power.us = s.now / 1000) ∧
  (∀ w s, ∃ s', exec (.powerEstimate w) s = .next s' ∧ s'.power.est = w ∧
    (s'.power.hold = true ↔ 1000 * s.power.est + s.power.ramp < 1000 * w) ∧ s'.power.excess = w - s.power.rack ∧
    (s'.power.ballast = true ↔ w < s.power.floor ∨ 1000 * w + s.power.ramp < 1000 * s.power.est) ∧ s'.power.pool = s.power.pool ∧
    s'.clusters = s.clusters) ∧
  (∀ s core q m, memRoom s core q m = true ↔ s.power.hold = false ∧
    (let c := s.cluster (core / 12)
     c.budget * s.power.excess / max 1 s.power.est < c.left) ∧ (m = 0 ∨ (s.queue q).mused < m)) ∧
  (∀ n b x s, ∃ s', exec (.rackPowerMessage n b x) s = .next s' ∧
    if (∃ l, s.power.lastSeq = some l ∧ n ≤ l) ∨ x ≤ s.now then s' = s
    else s'.power = { s.power with rack := b, expiry := some x, lastSeq := some n, excess := s.power.est - b } ∧ s'.scr = s.scr ∧ s'.groups = s.groups) ∧
  (∀ s, ∃ s', exec .rackBudgetExpiry s = .next s' ∧
    if ∃ x, s.power.expiry = some x ∧ x ≤ s.now then
      s'.power = { s.power with rack := s.power.safe, expiry := none, excess := s.power.est - s.power.safe } ∧ s'.scr = s.scr ∧ s'.groups = s.groups
    else s' = s) ∧
  (∀ cl s, ∃ s', exec (.railSwitchComplete cl) s = .next s' ∧ ((s.cluster cl).sw = none → s' = s) ∧
    ∀ v, (s.cluster cl).sw = some v → (s'.cluster cl).vhi = v ∧ (s'.cluster cl).sw = none ∧ (NoneWaits s → s'.teams = s.teams) ∧
      ∀ h x, Open s h (.powerRail h cl x) → ((s.queue h.q).cmds.map (·.hdr)).Nodup → h ∉ (s'.queue h.q).cmds.map (·.hdr)) ∧
  (∀ cl s, ∃ s', exec (.gatePowerOff cl) s = .next s' ∧
    if (s.cluster cl).gating = true ∧ (∀ g ∈ s.groups, g.core / 12 = cl → ∀ u ∈ unitOf s g, isSaved u = true) then
      (s'.cluster cl).gated = true ∧ (s'.cluster cl).gating = false ∧ (NoneWaits s → s'.teams = s.teams) ∧
        ∀ c, c / 12 = cl → c < 384 → (s'.core c).blocks = [] ∧ (s'.core c).icache = []
    else s' = s) ∧
  (∀ cl s, ∃ s', exec (.retentionEntry cl) s = .next s' ∧
    if (s.cluster cl).retaining = true ∧ (∀ g ∈ s.groups, g.core / 12 = cl → g.res = .resident → groupQuiet s g = true) then
      let gs := s.groups.filter (fun g => g.core / 12 == cl && g.res == .resident)
      (s'.cluster cl).retaining = false ∧ (NoneWaits s → s'.teams = s.teams) ∧ (gs = [] → (s'.cluster cl).ret = true) ∧
        ∀ g o c n, gs = [g] → (s.groups.map (·.id)).Nodup → g.sav = some o → s.ctx g.ctx = some c → (o, n) ∈ c.savUsed →
          (recordBytes s g (teamsOf s g) (fun t => (t.nreg, true))).length ≤ n →
          (s'.cluster cl).ret = true ∧ (s'.cluster cl).recs = [(g.id, g.ctx, o)]
    else s' = s)

/-- R11, R370, R374 to R376, R381, Table 23-4: the power commands, on the admin port's rings and their ranges. -/
def Obligations.PowerCommands : Prop :=
  (∀ h v, Sets (.matrixTokenPool h v) (.matrixTokenPool h v) h (fun _ => v ≤ 384) (fun s s' => s'.power = { s.power with pool := v } ∧ (NoneWaits s → s'.teams = s.teams))) ∧
  (∀ h v, Sets (.powerFloor h v) (.powerFloor h v) h (fun _ => v ≤ 2400) (fun s s' => s'.power = { s.power with floor := v } ∧ Aside s s')) ∧
  (∀ h v, Sets (.rampRate h v) (.rampRate h v) h (fun _ => 1 ≤ v ∧ v ≤ 100000) (fun s s' => s'.power = { s.power with ramp := v } ∧ Aside s s')) ∧
  (∀ h v, Sets (.rackBudget h v) (.rackBudget h v) h (fun _ => v ≤ 2400)
    (fun s s' => s'.power = { s.power with rack := v, expiry := none, excess := s.power.est - v } ∧ s'.scr = s.scr ∧ s'.groups = s.groups)) ∧
  (∀ h cl v, Sets (.memoryByteBudget h cl v) (.memoryByteBudget h cl v) h (fun _ => cl < 32 ∧ v < 2 ^ 32)
    (fun s s' => (s'.cluster cl).budget = v ∧ (s'.cluster cl).left = v - ((s.cluster cl).budget - (s.cluster cl).left) ∧ s'.power = s.power)) ∧
  (∀ h cl v, Admin (.powerRail h cl v) (.powerRail h cl v) h (fun s s' =>
    if cl < 32 ∧ v ≤ 1 then
      (if (s.cluster cl).sw = none ∧ ((s.cluster cl).vhi = true ↔ v = 1) then Answered s s' h 0 0 s.now ∧ s'.clusters = s.clusters
       else (s'.cluster cl).sw = some (v == 1) ∧ Event.railSwitchComplete cl ∈ s'.due ∧ Open s' h (.powerRail h cl v) ∧ Aside s s')
    else Answered s s' h 8 0 s.now)) ∧
  (∀ h cl v, Admin (.powerGate h cl v) (.powerGate h cl v) h (fun s s' =>
    let c := s.cluster cl
    if cl < 32 ∧ v ≤ 1 then
      (v = 1 → c.gated = true → Answered s s' h 0 0 s.now) ∧
      (v = 1 → c.gated = false → c.ret = true ∨ c.retaining = true → Answered s s' h 6 0 s.now) ∧
      (v = 1 → c.gated = false → c.ret = false → c.retaining = false → c.gating = false → (∀ g ∈ s.groups, g.core / 12 ≠ cl ∧ g.pre = none) →
        (s'.cluster cl).gating = true ∧ Event.gatePowerOff cl ∈ s'.due ∧ Open s' h (.powerGate h cl v)) ∧
      (v = 0 → c.gating = false → Answered s s' h 0 0 s.now ∧ (s'.cluster cl).gated = false) ∧
      (c.gated = false → c.ret = false → c.retaining = false → c.gating = true → Open s' h (.powerGate h cl v) ∧ s'.clusters = s.clusters)
    else Answered s s' h 8 0 s.now)) ∧
  (∀ h cl v, Admin (.retention h cl v) (.retention h cl v) h (fun s s' =>
    let c := s.cluster cl
    if cl < 32 ∧ v ≤ 1 then
      (v = 1 → c.ret = true → Answered s s' h 0 0 s.now) ∧
      (v = 1 → c.ret = false → c.gated = true ∨ c.gating = true → Answered s s' h 6 0 s.now) ∧
      (v = 1 → c.ret = false → c.gated = false → c.gating = false → c.retaining = false → (∀ g ∈ s.groups, g.core / 12 ≠ cl ∧ g.pre = none) →
        (s'.cluster cl).retaining = true ∧ Event.retentionEntry cl ∈ s'.due ∧ Open s' h (.retention h cl v)) ∧
      (v = 0 → c.retaining = false → c.recs = [] → Answered s s' h 0 0 s.now ∧ (s'.cluster cl).ret = false) ∧
      (c.ret = false → c.gated = false → c.gating = false → c.retaining = true → Open s' h (.retention h cl v) ∧ s'.clusters = s.clusters)
    else Answered s s' h 8 0 s.now)) ∧
  (∀ h ix, Admin (.mapOutCorePair h ix) (.mapOutCorePair h ix) h (fun s s' =>
    (192 ≤ ix → Answered s s' h 8 0 s.now) ∧
    (ix < 192 → (s.spares.filter (fun x => x.1 == ix / 48)).length < 2 →
      if pairBusy s ix then Open s' h (.mapOutCorePair h ix) ∧ ∀ c ∈ pairCores ix, c ∈ s'.offCores
      else Answered s s' h 0 0 s.now ∧ s'.spares = s.spares ++ [(ix / 48, ix)] ∧ s'.groups = s.groups ∧
        ∀ c ∈ pairCores ix, c ∉ s'.offCores ∧ (s'.core c).blocks = [] ∧ (s'.core c).slots = [] ∧ (s'.core c).cyc = 0))) ∧
  (∀ h ix, Admin (.mapOutDramRow h ix) (.mapOutDramRow h ix) h (fun s s' => Answered s s' h 0 0 s.now ∧ Aside s s' ∧
    ix ∈ s'.rowsOff ∧ Logged s s' 1)) ∧
  (∀ h ix, Sets (.mapOutOsierLane h ix) (.mapOutOsierLane h ix) h (fun _ => ix < 128) (fun s s' => Aside s s' ∧ ∀ x, x ∈ s'.lanesOff ↔ x = ix ∨ x ∈ s.lanesOff))

/-- R51 to R54, R69, R70, R354 to R357, R363, R365, Tables 4-7, 4-8 and 21-6: a request reaches every team of the group's unit, with room
kept for their records, or is refused where these would not fit; a timeout has the team saved in full; a save writes the group's record
to the save area and takes its teams off the core; a restore brings back what the record holds, waits for room, or ends the queue of a
bad record. -/
def Obligations.PreemptionSaveAndRestore : Prop :=
  (∀ id s x, s.group id = some x → (s.groups.map (·.id)).Nodup →
    let gs := (unitOf s x).filter (fun y => !isSaved y)
    ∃ s', exec (.preemptionRequest id) s = .next s' ∧ s'.mem = s.mem ∧ s'.scr = s.scr ∧ (gs = [] → s' = s) ∧
      (∀ s1, gs ≠ [] → keepPlaces s gs = some s1 → s'.ctxs = s1.ctxs ∧
        s'.groups = s1.groups.map (fun y => if (gs.map (·.id)).contains y.id then { y with pre := some (y.pre.getD (x.pre.getD .sched)) } else y) ∧
        s'.teams = s.teams.map (fun t => if (gs.map (·.id)).contains t.grp ∧ t.preq = none then
          { t with preq := some s.now, yielded := match t.status with | .stopped _ => some (t.nreg, true) | _ => t.yielded } else t)) ∧
      (gs ≠ [] → keepPlaces s gs = none → s'.rasSeq = s.rasSeq + 1 ∧
        s'.teams = s.teams.map (fun t => if (gs.map (·.id)).contains t.grp then { t with preq := none, yielded := none } else t) ∧
        s'.groups = s.groups.map (fun y => if y ∈ gs then { y with pre := none, sav := none } else y))) ∧
  (∀ c n o, savePlace c n = some o → o % 256 = 0 ∧ o + n ≤ c.desc.savsz ∧ ∀ u ∈ c.savUsed, u.1 + u.2 ≤ o ∨ o + n ≤ u.1) ∧
  (∀ s gs s1, keepPlaces s gs = some s1 → (s.groups.map (·.id)).Nodup → (gs.map (·.id)).Nodup → ∀ g ∈ gs, g.sav = none → s.group g.id = some g →
    ∃ o y, s1.group g.id = some y ∧ y = { g with sav := some o } ∧ ∃ c, s1.ctx g.ctx = some c ∧ (o, largestRecord s g) ∈ c.savUsed) ∧
  (∀ id s, s.group id = none → exec (.preemptionRequest id) s = .next s ∧ exec (.groupRestore id) s = .next s) ∧
  (∀ h s t, s.team h = some t → exec (.preemptionTimeout h) s = .next
    (if t.rmw = none ∧ ∃ t0, t.preq = some t0 ∧ t.yielded = none ∧ t0 + preTimeout s t ≤ s.now then
      { s.putTeam { t with yielded := some (t.nreg, true) } with due := s.due ++ [.yieldPointSave h] } else s)) ∧
  (∀ h s g, (s.team h).bind s.grpOf = some g → unitReady s (hereOf s g) = false → exec (.yieldPointSave h) s = .next s) ∧
  (∀ h s g c o sp, (s.team h).bind s.grpOf = some g → unitReady s (unitOf s g) = true → unitOf s g = [g] → s.group g.id = some g →
    (s.groups.map (·.id)).Nodup → s.ctx g.ctx = some c → (∀ t ∈ teamsOf s g, ImageFits t) → (∀ t ∈ s.teams, t.grp = g.id → t.idx < 16) →
    g.bars.length = 16 → g.iqc < 2 ^ 32 → g.sbytes % 256 = 0 → g.sbase % 256 = 0 → (teamsOf s g).all (fun t => (saveKind t).1 ≤ t.nreg) = true →
    (∀ b ∈ g.bars, b.arr.Nodup) →
    let bs := recordBytes s g (teamsOf s g) saveKind
    recordPlace s g bs.length = some (sp, o) →
    ∃ s', exec (.yieldPointSave h) s = .next s' ∧ (∀ t ∈ s'.teams, t.grp ≠ g.id) ∧ s'.scr = s.scr ∧
      (∃ g', s'.group g.id = some g' ∧ g'.res = .saved o ∧ g'.kept.map (·.idx) = (teamsOf s g).map (·.idx) ∧ g'.gid = g.gid ∧ g'.core = g.core) ∧
      (∀ x, (x, g.id) ∉ (s'.core g.core).slots) ∧
      (teamsOf s g ≠ [] → RecordAt (fun i => nth 0 bs i) s g (teamsOf s g).length) ∧
      (∀ i, ∀ hi : i < (teamsOf s g).length, ImageAt (fun i => nth 0 bs i) (imageOff (fun i => nth 0 bs i) i) (teamsOf s g)[i] (saveKind (teamsOf s g)[i]).1) ∧
      (Owned s → ∀ ls : List Nat, ls.length = bs.length → WritableAt s g.ctx (c.desc.sav + o) ls → Holds s' ls bs)) ∧
  (∀ id s x, s.group id = some x → ((unitOf s x).filter isSaved = [] ∨ x.pre = some .host ∨
      (x.pre = some .sched ∧ ∃ y ∈ unitOf s x, isSaved y = true ∧ launchFirst s y = true)) → exec (.groupRestore id) s = .next s) ∧
  (∀ id s x a, s.group id = some x → x.pre ≠ some .host → (x.pre = some .sched → launchFirst s x = false) → unitOf s x = [x] → x.res = .saved a →
    let r := recordRead s x a
    (r.2 = .wait → exec (.groupRestore id) s = .next r.1) ∧
    (r.2 = .bad ∨ (∃ bs, r.2 = .bytes bs ∧ recordBad r.1 x (fun o => nth 0 bs o) = true) →
      ∃ s', exec (.groupRestore id) s = .next s' ∧ TornDown s s' x.q ∧ Logged r.1 s' 1) ∧
    ∀ bs, r.2 = .bytes bs → let f := fun o => nth 0 bs o
      (s.groups.map (·.id)).Nodup → recordBad r.1 x f = false → x.kept ≠ [] → (∀ t ∈ x.kept, t.status = .run ∧ t.strands.length = 32 * t.passes) →
      x.sbytes % 256 = 0 → x.sbase % 256 = 0 → (s.core x.core).slots.all (fun y => y.2 ≠ x.id) = true → Memory.wf s.scr = true → Memory.wf s.slotm = true →
      ∃ s', exec (.groupRestore id) s = .next s' ∧
        (∀ u, restoreGroup r.1 x a f = some u → ∃ new : List Team, s'.teams = r.1.teams ++ new ∧ new.map (·.idx) = x.kept.map (·.idx) ∧
          (∀ i, ∀ hi : i < new.length, ImageAt f (imageOff f i) new[i] (bytesNat f (imageOff f i + 12) 2) ∧ (new[i]).core = x.core ∧ (new[i]).status = .run) ∧
          ∃ g', s'.group x.id = some g' ∧ g'.res = .resident ∧ g'.kept = [] ∧ g'.pre = none ∧ RecordAt f s' g' x.kept.length) ∧
        (restoreGroup r.1 x a f = none → s'.teams = r.1.teams ∧ s'.mem = r.1.mem ∧
          ∀ v ∈ victimsFor r.1 [(x, bs)], ∃ g', s'.group v.id = some g' ∧ g'.pre.isSome))

/-- R339, R358, R359, R387: reports of recovery; what waits on a peer ends at the recovery limit; a queue whose watchdog count reaches
its limit is torn down; an agent declared dead is scrubbed from every entry and may take permission again once admitted; a die that
learns of its death gives its copies up, and the queues whose released stores are lost end. -/
def Obligations.PeersWatchdogAndDeath : Prop :=
  (∀ dev s, exec (.peerInRecovery dev) s = .next (if dev = s.devid ∨ (aget dev s.recovery).isSome then s
    else { s with recovery := aset dev (s.now, false) s.recovery, due := s.due ++ peerEvent s 3 dev })) ∧
  (∀ dev s, exec (.peerRecovered dev) s = .next (if (aget dev s.recovery).isNone then s
    else { s with recovery := adel dev s.recovery, due := s.due ++ peerEvent s 4 dev })) ∧
  (∀ dev s, ((∀ t, aget dev s.recovery ≠ some (t, false)) → exec (.deadTimeExpired dev) s = .next s) ∧
    ∀ t, aget dev s.recovery = some (t, false) → exec (.deadTimeExpired dev) s = .next
      (if s.deadMs = 0 ∨ s.now < t + s.deadMs * 1000000 then s
       else { s with recovery := aset dev (t, true) s.recovery, due := s.due ++ peerEvent s Config.deadReportKind.toNat dev })) ∧
  (∀ q dev s, (∀ t r, aget dev s.recovery = some (t, r) → s.now < t + peerLimit s q) → exec (.recoveryLimitExpired q dev) s = .next s) ∧
  (∀ q dev s t r, aget dev s.recovery = some (t, r) → t + peerLimit s q ≤ s.now →
    ∃ s1, exec (.recoveryLimitExpired q dev) s = .next (wakeAll s1) ∧ s1.recovery = s.recovery ∧
      (stuckOn s q dev = ([], [], []) → s1 = s) ∧
      (∀ e, stuckOn s q dev = ([e], [], []) → e.rep ≠ none → Ended s s1 e 5 e.moved) ∧
      (∀ u, stuckOn s q dev = ([], [u], []) → s.team u.hnd = some u → s.isSup u = false → (waitsFetch s u = true ∨ ∃ i, fetchAt s u = .instr i) →
        Logged s s1 1 ∧ ∃ u' d, s1.team u.hnd = some u' ∧ u'.status = .stopped d ∧ d.trap.cause = 8 ∧ d.pc = u.pc ∧ d.q = q) ∧
      ∀ u us, stuckOn s q dev = ([], [], u :: us) → TornDown s s1 q) ∧
  (∀ q s, (s.queue q).cmds = [] ∨ (s.queue q).wd < dogLimit s q → exec (.watchdogExpired q) s = .next s) ∧
  (∀ q s, (s.queue q).cmds ≠ [] → dogLimit s q ≤ (s.queue q).wd →
    ∃ s', exec (.watchdogExpired q) s = .next s' ∧ TornDown s s' q ∧ Logged s s' 1 ∧ (s'.queue q).cmds = [] ∧
      ∀ c, (s.queue q).cmds = [c] → c.started = true → c.hdr.q = q → (∀ t ∈ s.teams, t.pending = []) →
        ((∃ r, c.step = .launch c.hdr r) ∨ ∃ r m n, c.step = .graphLaunch c.hdr r m n) → AnsweredLate s s' c.hdr 5 0 s.now (cmdLate s c.hdr)) ∧
  (∀ h a, Admin (.declareDead h a) (.declareDead h a) h (fun s s' =>
    if a < 8192 ∧ a % 16 < 12 then
      epochOf s' a = epochOf s a + 1 ∧ (∀ b, b ≠ a → epochOf s' b = epochOf s b) ∧
      (∀ b, b ∈ s'.dead ↔ b = a ∨ b ∈ s.dead) ∧ h ∉ (s'.queue h.q).cmds.map (·.hdr) ∧
      (EntriesSound s a → ∀ line, (s.dirE line).coarse = none → (s'.dirE line).slotOf a = none ∧
        ∀ x, x / 4 = line → mOwner s x = some a → x / 64 ∈ s'.memPsn) ∧
      (∀ t ∈ s'.txns, ∀ w ∈ t.acks ++ t.later, w.agent ≠ a) ∧ (∀ e ∈ s'.behind, ∀ m x, msgOf e = some (m, x) → m.agent ≠ a) ∧
      (a / 16 ≠ s.devid → a % 16 < 8 → ∀ e ∈ s'.ecmds, e.wait = none →
        (∀ pt cm pr re l n et sq r, e.op = .xfer pt cm pr re l n et sq → rankAt s cm pr = some r → r.1 ≠ a / 16) ∧
        ∀ fn cm sq o d n x y c, e.op = .coll fn cm sq o d n x y → aget cm s.comms = some c → ∀ r ∈ c.ranks, r.1 ≠ a / 16) ∧
      ((∀ line, (s.dirE line).slotOf a = none) → s.txns = [] → a / 16 = s.devid → Answered s s' h 0 0 s.now)
    else Answered s s' h 8 0 s.now ∧ Aside s s' ∧ s'.epochs = s.epochs ∧ s'.dead = s.dead)) ∧
  (∀ h a, Admin (.admitAgent h a) (.admitAgent h a) h (fun s s' =>
    if a < 8192 ∧ a % 16 < 12 then
      (∀ b, b ∈ s'.dead ↔ b ∈ s.dead ∧ b ≠ a) ∧ s'.epochs = s.epochs ∧ h ∉ (s'.queue h.q).cmds.map (·.hdr) ∧
      (∀ d, localDie s a = some d → s'.current d = true ∧ d ∉ s'.barred) ∧
      ((∀ d, localDie s a = some d → s.current d = true ∨ d ∈ s.barred) → Answered s s' h 0 0 s.now)
    else Answered s s' h 8 0 s.now ∧ Aside s s' ∧ s'.epochs = s.epochs ∧ s'.dead = s.dead)) ∧
  (∀ die s, 8 ≤ die ∨ s.current die = true → exec (.staleEpoch die) s = .next s) ∧
  (∀ die s, die < 8 → s.current die = false → SectorsSound s → ∃ s', exec (.staleEpoch die) s = .next s' ∧ die ∈ s'.barred ∧
    (∀ x, x < 2 ^ 42 → (s'.sec die x).st = .i) ∧ (∀ x ∈ s'.throughs, x.die ≠ die) ∧ (∀ x ∈ s'.subsc, x.die ≠ die) ∧ (∀ x ∈ s'.asks, x.die ≠ die) ∧
    (∀ q, q < 64 → (die, q) ∈ s.lost ∨ (∃ x, x < 2 ^ 42 ∧ (s.sec die x).dirty ≠ [] ∧ q ∈ (s.sec die x).qs) → TornDown s s' q) ∧
    ∀ t ∈ s.teams, s.qOf t < 64 → (∃ x ∈ s.throughs, x.die = die ∧ x.hnd = t.hnd) → TornDown s s' (s.qOf t))

/-- R29, R31 to R35, R39, R361, R362, R378, R379, Tables 2-1, 23-1, 27-1 and 27-2: what the device reads is the present value; it takes the
commands up to the tail and reads each as its bytes say; launches, copies, signals, waits and queue records. A command that reads memory
starts once its reading has been answered. -/
def Obligations.HostQueueCommands : Prop :=
  (∀ s ctx va n, (NoneWaits s → (ctxGet s ctx va n).1.teams = s.teams) ∧ (PlainReads s → SameBytes s (ctxGet s ctx va n).1 ∧
    ∀ bs, (ctxGet s ctx va n).2 = .bytes bs → bs.length = n ∧ ∀ i < n, ∃ f, transFor s ctx true Need.rd (va + i) = .ok f ∧
      (f.coh = 0 → bs.getD i 0 = cohByte s (f.pa + (va + i - f.va))))) ∧
  (∀ q s, PlainReads s → ∀ tail es, (ringTake s q).2 = some (tail, es) → let r := s.queue q
    (∀ i < 4, leByte tail.toNat i = cohByte s (r.base + 64 * r.entries + i)) ∧
      ((tail - r.head).toNat ≤ r.entries → es.length = (tail - r.head).toNat ∧
        ∀ i, ∀ hi : i < es.length, ∀ j < 64, (es[i]).getD j 0 = cohByte s (r.base + 64 * ((r.head + BitVec.ofNat 32 i).toNat % r.entries) + j))) ∧
  (∀ q s, (s.queue q).bound = false → exec (.takeCommands q) s = .next s) ∧
  (∀ q s, (s.queue q).bound = true → (ringTake s q).2 = none → exec (.takeCommands q) s = .next (ringTake s q).1) ∧
  (∀ q s tail es, (s.queue q).bound = true → (ringTake s q).2 = some (tail, es) → let r := s.queue q
    let n := (tail - r.head).toNat
    ∃ s', exec (.takeCommands q) s = .next s' ∧ (n = 0 ∨ (r.entries < n ∧ r.torn = true) → s' = (ringTake s q).1) ∧
      (r.entries < n → r.torn = false → TornDown s s' q) ∧
      (n ≤ r.entries → n ≠ 0 → (s'.queue q).head = tail ∧
        (r.torn = true → r.cmds = [] → (s'.queue q).cmds = []) ∧
        (r.torn = false → Aside s s' ∧ (Owned s → ∀ i < 4, Reaches s' (r.base + 64 * r.entries + 4 + i) (leByte tail.toNat i)) ∧
          ∃ new : List QCmd, (s'.queue q).cmds = r.cmds ++ new ∧ new.length = n ∧
            ∀ i, ∀ hi : i < new.length,
              let b : Nat → Byte := fun j => (es.getD i []).getD j 0
              (new[i]).started = false ∧ (new[i]).hdr.q = q ∧ (new[i]).hdr.ix = (r.head + BitVec.ofNat 32 i).toNat ∧ (new[i]).hdr.tag = bytesNat b 4 4 ∧
              ((new[i]).hdr.fence = true ↔ (b 1).toNat % 2 = 1) ∧
              (bytesNat b 8 8 % 16 = 0 → (new[i]).hdr.crec = bytesNat b 8 8 ∧
                ((b 1).toNat ≤ 1 → bytesNat b 2 2 = 0 → CommandIs b (new[i]).hdr (new[i]).step))))) ∧
  (∀ h rec s, MayRun s h (.launch h rec) → let g := cmdGet h rec 256 s
    ∃ s', exec (.launch h rec) s = .next s' ∧ (NoneWaits s → s'.teams = s.teams) ∧ s'.groups = s.groups ∧ (g.2 = .wait → s' = g.1) ∧
      (g.2 ≠ .wait → rec % 256 ≠ 0 → Answered s s' h 8 0 s.now ∧ s'.launches = s.launches) ∧
      (g.2 = .bad → rec % 256 = 0 → Answered s s' h 0x0b 0 s.now ∧ s'.launches = s.launches) ∧
      (∀ bs c, rec % 256 = 0 → g.2 = .bytes bs → s.ctx (s.queue h.q).cfg.ctx = some c →
        (¬LaunchValid (fun i => nth 0 bs i) c.desc.stkr → Answered s s' h 1 0 s.now ∧ s'.launches = s.launches) ∧
        (LaunchValid (fun i => nth 0 bs i) c.desc.stkr → Open s' h (.launch h rec) ∧ Accepted s s' h (fun i => nth 0 bs i) none))) ∧
  (∀ h rec p n s, MayRun s h (.graphLaunch h rec p n) → let g := cmdGet h rec 256 s
    ∃ s', exec (.graphLaunch h rec p n) s = .next s' ∧ (NoneWaits s → s'.teams = s.teams) ∧ s'.groups = s.groups ∧ (g.2 = .wait → s' = g.1) ∧
      (g.2 ≠ .wait → rec % 256 ≠ 0 → Answered s s' h 8 0 s.now ∧ s'.launches = s.launches) ∧
      (g.2 = .bad → rec % 256 = 0 → Answered s s' h 0x0b 0 s.now ∧ s'.launches = s.launches) ∧
      ∀ bs c, rec % 256 = 0 → g.2 = .bytes bs → s.ctx (s.queue h.q).cfg.ctx = some c →
        let b : Nat → Byte := fun i => nth 0 bs i
        (¬LaunchValid b c.desc.stkr → Answered s s' h 1 0 s.now ∧ s'.launches = s.launches) ∧
        (LaunchValid b c.desc.stkr → 256 * bytesNat b 14 2 < n → Answered s s' h 8 0 s.now ∧ s'.launches = s.launches) ∧
        (LaunchValid b c.desc.stkr → n ≤ 256 * bytesNat b 14 2 → ctxCan g.1 (s.queue h.q).cfg.ctx p n = false → Answered s s' h 0x0b 0 s.now) ∧
        (LaunchValid b c.desc.stkr → n ≤ 256 * bytesNat b 14 2 → ctxCan g.1 (s.queue h.q).cfg.ctx p n = true →
          Open s' h (.graphLaunch h rec p n) ∧ Accepted s s' h b (some (p, n)))) ∧
  (∀ h dst src n s, MayRun s h (.copy h dst src n) → ∃ s', exec (.copy h dst src n) s = .next s' ∧ Aside s s' ∧
    (2 ^ 40 < n → Answered s s' h 8 0 s.now) ∧
    (n ≤ 2 ^ 40 → Open s' h (.copy h dst src n) ∧ s'.mem = s.mem ∧ ∃ e, s'.ecmds = s.ecmds ++ [e] ∧ e.id = s.names ∧ e.op = .move [(.glob src, .glob dst, n)] false ∧
      e.issuer = .host h ∧ e.q = h.q ∧ e.ctx = (s.queue h.q).cfg.ctx ∧ Event.engineCommandComplete e.id noAnswer ∈ s'.due)) ∧
  (∀ h addr v s, MayRun s h (.signal h addr v) → ∃ s', exec (.signal h addr v) s = .next s' ∧ Aside s s' ∧ h ∉ (s'.queue h.q).cmds.map (·.hdr) ∧
    (addr % 8 ≠ 0 ∨ ctxWrite s (s.queue h.q).cfg.ctx addr (leBytes 8 v.toNat) = none → Answered s s' h 8 0 s.now) ∧
    (∀ ls, addr % 8 = 0 → ls.length = 8 → WritableAt s (s.queue h.q).cfg.ctx addr ls → Owned s → h.crec = 0 →
      Answered s s' h 0 0 s.now ∧ Holds s' ls ((List.range 8).map (leByte v.toNat)))) ∧
  (∀ h addr v s, Runs s h (.wait h addr v) → let g := cmdGet h addr 8 s
    ∃ s', exec (.wait h addr v) s = .next s' ∧ Aside s s' ∧
      (addr % 8 ≠ 0 ∨ g.2 = .bad → Answered s s' h 8 0 s.now) ∧
      (addr % 8 = 0 → g.2 = .wait → Open s' h (.wait h addr v) ∧ (s'.queue h.q).cmds.map (·.hdr) = (s.queue h.q).cmds.map (·.hdr)) ∧
      ∀ bs, addr % 8 = 0 → g.2 = .bytes bs →
        (v.toNat ≤ leNat bs → Answered s s' h 0 0 s.now) ∧
        (leNat bs < v.toNat → Open s' h (.wait h addr v) ∧ (s'.queue h.q).cmds.map (·.hdr) = (s.queue h.q).cmds.map (·.hdr))) ∧
  (∀ h q rec, Admin (.queue h q rec) (.queue h q rec) h (fun s s' => let g := cmdGet h rec 128 s
    (g.2 = .wait → s' = g.1) ∧ Aside s s' ∧ (∀ p, p ≠ q → (s'.queue p).cfg = (s.queue p).cfg) ∧
    (g.2 ≠ .wait → 64 ≤ q → Answered s s' h 8 0 s.now) ∧ (q < 64 → g.2 = .bad → Answered s s' h 8 0 s.now) ∧
    ∀ bs, q < 64 → g.2 = .bytes bs →
      (¬QueueValid s q (fun i => nth 0 bs i) → Answered s s' h 3 0 s.now ∧ (s'.queue q).cfg = (s.queue q).cfg) ∧
      (QueueValid s q (fun i => nth 0 bs i) → QueueIs (fun i => nth 0 bs i) (s'.queue q).cfg ∧
        (q ≠ h.q → Answered s s' h 0 0 s.now) ∧ h ∉ (s'.queue h.q).cmds.map (·.hdr))))

/-- R347, R354, R357, R390, Tables 21-4, 27-2: context descriptors, which groups already placed do not see; communicators; pre-emption
of a queue's groups, and their return, by the host. -/
def Obligations.HostContextCommands : Prop :=
  (∀ h c ptr, Admin (.context h c ptr) (.context h c ptr) h (fun s s' => let g := cmdGet h ptr 64 s
    (g.2 = .wait → s' = g.1) ∧ (g.2 ≠ .wait → 65536 ≤ c → Answered s s' h 8 0 s.now ∧ s'.ctxs = s.ctxs) ∧
    (c < 65536 → g.2 = .bad → Answered s s' h 8 0 s.now ∧ s'.ctxs = s.ctxs) ∧
    ∀ bs, c < 65536 → g.2 = .bytes bs →
      (¬DescValid (fun i => nth 0 bs i) → Answered s s' h 8 0 s.now ∧ s'.ctxs = s.ctxs) ∧
      (DescValid (fun i => nth 0 bs i) → (∃ x, s'.ctx c = some x ∧ DescIs (fun i => nth 0 bs i) x.desc) ∧ h ∉ (s'.queue h.q).cmds.map (·.hdr) ∧
        (NoneWaits s → s'.teams.map (fun t => { t with newer := none }) = s.teams.map (fun t => { t with newer := none })) ∧
        (c ≠ ctxId (s.queue h.q).cfg.ctx → Answered s s' h 0 0 s.now) ∧
        (∀ d, ctxId d ≠ c → s'.ctx d = s.ctx d) ∧
        ∀ x, aget c s.ctxs = some x → ∀ g ∈ s.groups, ctxId g.ctx = c → isSaved g = false → (g.ctx = c ∨ (aget (g.ctx / 65536) x.old).isSome) →
          ∃ g' ∈ s'.groups, g'.id = g.id ∧ (s'.ctx g'.ctx).map (·.desc) = (s.ctx g.ctx).map (·.desc)))) ∧
  (∀ h hd n rank ptr, Admin (.communicator h hd n rank ptr) (.communicator h hd n rank ptr) h (fun s s' =>
    let g := cmdGet h ptr (if 65535 < n then 0 else 32 * n) s
    (g.2 = .wait → s' = g.1) ∧ Aside s s' ∧ (∀ x, x ≠ hd → aget x s'.comms = aget x s.comms) ∧
    (g.2 ≠ .wait → 65536 ≤ hd ∨ n = 0 ∨ 65535 < n ∨ n ≤ rank ∨ g.2 = .bad → Answered s s' h 8 0 s.now ∧ s'.comms = s.comms) ∧
    ∀ bs, hd < 65536 → 1 ≤ n → n ≤ 65535 → rank < n → g.2 = .bytes bs →
      let b : Nat → Byte := fun i => nth 0 bs i
      let ok := ∀ i < n, bytesNat b (32 * i) 2 < 512 ∧ (b (32 * i + 4)).toNat < 4 ∧ ∀ j, 5 ≤ j → j < 16 → b (32 * i + j) = 0
      (¬ok → Answered s s' h 8 0 s.now ∧ s'.comms = s.comms) ∧
      (ok → Answered s s' h 0 0 s.now ∧
        ∃ c, aget hd s'.comms = some c ∧ c.rank = rank ∧
          c.ranks = (List.range n).map (fun i => (bytesNat b (32 * i) 2, bytesNat b (32 * i + 2) 2, (b (32 * i + 4)).toNat, bytesNat b (32 * i + 16) 16))))) ∧
  (∀ h q s, s.boot.admin ≠ some (s.queue h.q).owner → (MayRun s h (.preEmpt h q) → ∃ s', exec (.preEmpt h q) s = .next s' ∧ Answered s s' h 9 0 s.now ∧ Aside s s') ∧
    (MayRun s h (.restore h q) → ∃ s', exec (.restore h q) s = .next s' ∧ Answered s s' h 9 0 s.now ∧ Aside s s')) ∧
  (∀ h q s, s.boot.admin = some (s.queue h.q).owner → Runs s h (.preEmpt h q) →
    ∃ s', exec (.preEmpt h q) s = .next s' ∧ (NoneWaits s → s'.teams = s.teams) ∧
    let gs := s.groups.filter (fun g => g.q == q)
    let away := gs.filter (fun g => !isSaved g)
    let new := away.filter (fun g => g.pre.isNone)
    (64 ≤ q → Answered s s' h 8 0 s.now) ∧
    (q < 64 → away = [] → Answered s s' h 0 0 s.now ∧ s'.groups = s.groups.map (fun g => if g.q = q then { g with pre := some .host } else g) ∧
      (gs ≠ [] → (s'.queue q).hostPre = true)) ∧
    (q < 64 → keepPlaces s new = none → Answered s s' h 4 (bytesNeeded s new) s.now ∧ s'.groups = s.groups ∧ Logged s s' 1) ∧
    ∀ s1, q < 64 → away ≠ [] → keepPlaces s new = some s1 → (s.groups.map (·.id)).Nodup → Open s' h (.preEmpt h q) ∧ s'.mem = s.mem ∧ s'.ctxs = s1.ctxs ∧
      (∀ g ∈ new, Event.preemptionRequest g.id ∈ s'.due) ∧
      s'.groups = s1.groups.map (fun g => if g.q = q ∧ (isSaved g = true ∨ g.pre = none ∨ g.pre = some .sched) then { g with pre := some .host } else g)) ∧
  (∀ h q s, s.boot.admin = some (s.queue h.q).owner → Runs s h (.restore h q) →
    ∃ s', exec (.restore h q) s = .next s' ∧ (NoneWaits s → s'.teams = s.teams) ∧
    let gs := s.groups.filter (fun g => g.q == q && isSaved g)
    (64 ≤ q → Answered s s' h 8 0 s.now) ∧
    (q < 64 → gs = [] → Answered s s' h 0 0 s.now ∧ s'.groups = s.groups ∧ (s'.queue q).hostPre = false) ∧
    (q < 64 → gs ≠ [] → Open s' h (.restore h q) ∧ s'.mem = s.mem ∧
      s'.groups = s.groups.map (fun g => if g.q = q ∧ isSaved g = true ∧ g.pre = some .host then { g with pre := some .sched } else g) ∧
      ∀ g ∈ s'.groups, isSaved g = true → g.pre ≠ some .host → Event.groupRestore g.id ∈ s'.due))

/-- R64, R117, R360, R381, R384 to R386, Tables 27-5, 27-6 and 27-8: the management functions (declaring dead and readmission are stated with
the peers). A device ID is set once nothing that the device began is under way. -/
def Obligations.ManagementFunctions : Prop :=
  (∀ h x, Admin (.identity h x) (.identity h x) h (fun s s' => Reports s s' h x (identityBlock s))) ∧
  (∀ h v, Admin (.setTime h v) (.setTime h v) h (fun s s' => Aside s s' ∧
    (v.toNat < s.now → Answered s s' h 8 0 s.now ∧ s'.time = s.time) ∧ (s.now ≤ v.toNat → Answered s s' h 0 0 v.toNat ∧ s'.time = v))) ∧
  (∀ h x, Admin (.rasHeader h x) (.rasHeader h x) h (fun s s' => Reports s s' h x (Config.rasHeaderBytes s.ras.length s.rasLost s.rasSeq))) ∧
  (∀ h, Admin (.rasClear h) (.rasClear h) h (fun s s' => Answered s s' h 0 0 s.now ∧ Logged s s' 0 ∧ Aside s s' ∧
    (s.current (devDie s) = true → s'.ras = [] ∧ s'.rasLost = s.rasLost))) ∧
  (∀ h q, Admin (.queueReset h q) (.queueReset h q) h (fun s s' => Aside s s' ∧
    let g := physGet ((List.range 4).map ((s.queue q).base + 64 * (s.queue q).entries + ·)) s
    (64 ≤ q → Answered s s' h 8 0 s.now) ∧ (q < 64 → (s.queue q).bound = true → g.2 = .wait → s' = g.1) ∧
    (q < 64 → (s.queue q).bound = false → (s'.queue q).torn = false ∧ (s'.queue q).head = (s.queue q).head ∧ Answered s s' h 0 0 s.now) ∧
    ∀ bs, q < 64 → (s.queue q).bound = true → g.2 = .bytes bs →
      (s'.queue q).torn = false ∧ h ∉ (s'.queue h.q).cmds.map (·.hdr) ∧ (h.crec = 0 → Answered s s' h 0 0 s.now) ∧
        (s'.queue q).head = BitVec.ofNat 32 (leNat bs))) ∧
  (∀ h q base n port evb evn, Admin (.ringBind h q base n port evb evn) (.ringBind h q base n port evb evn) h (fun s s' => Aside s s' ∧
    if q < 64 ∧ (∃ i, i ≤ 10 ∧ n = 2 ^ (6 + i)) ∧ 8 ≤ port ∧ port ≤ 11 ∧ evn ≠ 0 ∧ (s.queue q).cmds = [] ∧ (∀ l ∈ s.launches, l.q ≠ q) then
      Answered s s' h 0 0 s.now ∧ s'.queue q = { s.queue q with bound := true, base := base, entries := n, owner := port, head := 0 } ∧
      s'.evring port = { s.evring port with bound := true, base := evb, entries := evn, wr := 0 } ∧ ∀ p, p ≠ port → s'.evring p = s.evring p
    else Answered s s' h 8 0 s.now ∧ s'.events = s.events ∧ (s'.queue q).base = (s.queue q).base ∧ (s'.queue q).bound = (s.queue q).bound)) ∧
  (∀ h nonce x, Admin (.attest h nonce x) (.attest h nonce x) h (fun s s' => let g := cmdGet h nonce 32 s
    (g.2 = .wait → s' = g.1) ∧ (g.2 = .bad → Answered s s' h 8 0 s.now ∧ Aside s s') ∧
    ∀ bs, g.2 = .bytes bs → s.boot.image.length ≤ 64 →
      Reports s s' h x (reportBody s bs ++ edSign (leBytes 32 (Config.identitySecret s.boot.count).toNat) (sha512 (reportBody s bs)) ++ List.replicate 32 0))) ∧
  (∀ h id dead, Admin (.setDeviceId h id dead) (.setDeviceId h id dead) h (fun s s' =>
    let still := s.asks = [] ∧ s.txns = [] ∧ s.behind = [] ∧ s.throughs = [] ∧ s.dwq = []
    Aside s s' ∧ (¬still → s' = s) ∧ (still →
      if id < 512 ∧ 10 ≤ dead ∧ dead ≤ 10000 ∧ s.traffic = false then
        s'.devid = id ∧ s'.deadMs = dead ∧ h ∉ (s'.queue h.q).cmds.map (·.hdr) ∧ (h.crec = 0 → Rehomed s s' id)
      else Answered s s' h 8 0 s.now ∧ s'.devid = s.devid ∧ s'.deadMs = s.deadMs))) ∧
  (∀ h v, Sets (.raiseSecurityVersion h v) (.raiseSecurityVersion h v) h (fun s => s.boot.svn < v ∧ v < 2 ^ 32) (fun s s' =>
    s'.boot = { s.boot with svn := v } ∧ Aside s s')) ∧
  (∀ h pa, Admin (.poisonPage h pa) (.poisonPage h pa) h (fun s s' => Aside s s' ∧
    if pa % 4096 = 0 ∧ pa / 2 ^ 39 = s.devid ∧ pa % 2 ^ 39 < 384 * 10 ^ 9 then
      (∀ p, p ∈ s'.memPsn ↔ p = pa / 4096 ∨ p ∈ s.memPsn) ∧ h ∉ (s'.queue h.q).cmds.map (·.hdr) ∧ (h.crec = 0 → Answered s s' h 0 0 s.now)
    else Answered s s' h 8 0 s.now ∧ s'.memPsn = s.memPsn))

/-- R381 to R384, Table 27-7: device events go to their ring in order, and wait while it is full; reset; the boot doorbell. -/
def Obligations.EventsResetAndBoot : Prop :=
  (∀ p e s, ∃ s', exec (.hostEvent p e) s = .next s' ∧ (NoneWaits s → s'.teams = s.teams) ∧
    let r := s.evring p
    ((r.bound = true ∧ r.waiting = [] ∧ ∃ x, ReadIndex s p x ∧ unread s p x < r.entries) →
      (s'.evring p).wr = r.wr + 1 ∧ (s'.evring p).waiting = [] ∧ (Owned s → InRing s' r r.wr [eventBlock s e])) ∧
    (¬(r.bound = true ∧ r.waiting = [] ∧ ∃ x, ReadIndex s p x ∧ unread s p x < r.entries) →
      s'.evring p = { r with waiting := r.waiting ++ [eventBlock s e] } ∧ ∀ x, x ≠ p → s'.evring x = s.evring x)) ∧
  (∀ s p x, PlainReads s → ReadIndex s p x → ∀ i < 4, leByte x.toNat i = cohByte s ((s.evring p).base + 64 * (s.evring p).entries + i)) ∧
  (∀ s p n, Owned s → n ≠ 0 → let r := s.evring p
    let old := BitVec.ofNat 32 (bytesNat (fun i => cohByte s (r.base + 64 * r.entries + i)) 0 4)
    ∀ i < 4, Reaches (hostReads s p n) (r.base + 64 * r.entries + i) (leByte (old + BitVec.ofNat 32 (min n (r.wr - old).toNat)).toNat i)) ∧
  (∀ p n s, (s.evring p).bound = false → exec (.eventRingSpace p n) s = .next s) ∧
  (∀ p n s, (s.evring p).bound = true → (∀ x, ¬ReadIndex (hostReads s p n) p x) →
    exec (.eventRingSpace p n) s = .next (ringGet (hostReads s p n) (s.evring p)).1) ∧
  (∀ p n s x, let r := s.evring p
    let k := min r.waiting.length (r.entries - unread s p x)
    r.bound = true → ReadIndex (hostReads s p n) p x → (∀ bs ∈ r.waiting, bs.length = 64) → r.entries < 2 ^ 32 → 2 ^ 32 % r.entries = 0 →
    ∃ s', exec (.eventRingSpace p n) s = .next s' ∧ (NoneWaits s → s'.teams = s.teams) ∧ (s'.evring p).waiting = r.waiting.drop k ∧
      (s'.evring p).wr = r.wr + BitVec.ofNat 32 k ∧ (1 ≤ k → Owned (hostReads s p n) → InRing s' r r.wr (r.waiting.take k))) ∧
  (∀ s, ∃ s', exec .reset s = .next s' ∧ Rehomed s s' 0 ∧ s' = { State.reset with
    mem := s'.mem, memPsn := s'.memPsn, rowsOff := s.rowsOff, lanesOff := s.lanesOff, offCores := s.offCores, spares := s.spares,
    fresh := s.fresh, names := s.names, time := s.time, boot := ⟨1, none, [], s.boot.svn, s.boot.count + 1⟩ }) ∧
  (∀ p s, s.boot.boot = 0 ∨ p < 8 ∨ 11 < p → exec (.bootDoorbell p) s = .next s) ∧
  (∀ p s, s.boot.boot ≠ 0 → 8 ≤ p → p ≤ 11 →
    let b : Nat → Byte := fun i => cohByte s (s.devid * 2 ^ 39 + i)
    ∃ s', exec (.bootDoorbell p) s = .next s' ∧ s'.boot.admin = some (s.boot.admin.getD p) ∧ (NoneWaits s → s'.teams = s.teams) ∧
      s'.boot.svn = s.boot.svn ∧ s'.boot.count = s.boot.count ∧
      ((bootImage s).2 = none → s'.boot.boot = s.boot.boot ∧ s'.queues = s.queues ∧ s'.events = s.events ∧ Event.bootDoorbell p ∈ s'.due) ∧
      ((bootImage s).2 ≠ none → PlainReads s →
        (¬ImageAccepted s b → s'.boot.boot = 2 ∧ s'.supq = s.supq ∧ s'.queues = s.queues ∧ s'.events = s.events) ∧
        (ImageAccepted s b → s'.boot.boot = 0 ∧ s'.supq = some Config.supervisorQueue.toNat ∧ s'.frBase = Config.faultRing ∧
          s'.boot.image = sha512 ((List.range (256 + bytesNat b 8 8)).map b) ∧ (s'.queue 0).bound = true ∧ (s'.queue 0).base = bytesNat b 16 8 ∧
          (s'.queue 0).entries = 1024 ∧ (s'.queue 0).owner = s.boot.admin.getD p ∧
          (s'.evring (s.boot.admin.getD p)).bound = true ∧ (s'.evring (s.boot.admin.getD p)).base = bytesNat b 24 8 ∧
          (s'.evring (s.boot.admin.getD p)).entries = 256 ∧ (s'.evring (s.boot.admin.getD p)).wr = 0)))

/-- R326, R330 to R334, R336 to R339, Table 18-6: what a home does with each message of an agent of another device, or of a host port. -/
def Obligations.HomeMessages : Prop :=
  (∀ m x, AtHome (.exactRead m x) (.exactRead m x) m x true (fun s s' => localDie s m.agent = none → HomeReady s x → mOwner s x ≠ some m.agent →
    SameBytes s s' ∧
    ((s.dirE (x / 4)).subscribed m.agent = true → Told s s' m.agent (.grant · x .exact (homeSector s x)) ∧ s'.dir = s.dir ∧ s'.txns = s.txns) ∧
    ((s.dirE (x / 4)).subscribed m.agent = false → RoomFor s m.agent (x / 4) →
      (toRecall s x = [] → Told s s' m.agent (.grant · x .exact (presentCells s x)) ∧ dirHolds s' m.agent x = true ∧
        homeState s' x = 1 ∧ s'.txns = s.txns) ∧
      (toRecall s x ≠ [] → (∀ o ∈ toRecall s x, Told s s' o (.recall · x)) ∧
        Awaits s s' x (.again (.exactRead m x)) (toRecall s x) .recall)) ∧
    (¬RoomFor s m.agent (x / 4) → (∀ q < 4, mOwner s (x / 4 * 4 + q) = none) →
      (s'.dirE (x / 4)).coarse.isSome = true ∧
      ∀ p ∈ (s.dirE (x / 4)).slots, ∀ z, p = some z → ∀ q < 4, (s.dirE (x / 4)).has z.agent q = true →
        if z.fmt = 0 then (∀ gs, (s'.dirE (x / 4)).coarse = some gs → z.agent / 2 ^ s.coarseG ∈ gs)
        else (localDie s z.agent = none → Told s s' z.agent (.invalidation · (x / 4 * 4 + q) true)) ∧
          ∀ d, localDie s z.agent = some d → (s'.sec d (x / 4 * 4 + q)).st = .i))) ∧
  (∀ m x, AtHome (.subscribedRead m x) (.subscribedRead m x) m x true (fun s s' => localDie s m.agent = none → HomeReady s x →
    ∀ k p, (s.dirE (x / 4)).slotOf m.agent = some k → (s.dirE (x / 4)).slot k = some p → p.fmt ≠ 0 → (s.dirE (x / 4)).coarse = none →
      SameBytes s s' ∧
      (toRecall s x = [] → dirHolds s' m.agent x = true ∧ (∀ i < 64, s'.mem.get (x * 64 + i) = cohByte s (x * 64 + i)) ∧ s'.txns = s.txns ∧
        Told s s' m.agent (.grant · x .rounded (roundedSector s' (s.dirE (x / 4)).sfm p.fmt x))) ∧
      (toRecall s x ≠ [] → (∀ o ∈ toRecall s x, Told s s' o (.recall · x)) ∧
        Awaits s s' x (.again (.subscribedRead m x)) (toRecall s x) .recall))) ∧
  (∀ m x, AtHome (.writePermission m x) (.writePermission m x) m x true (fun s s' => localDie s m.agent = none → HomeReady s x →
    RoomFor s m.agent (x / 4) →
    let others := exactHolders s m.agent x
    let far := others.filter (fun b => (localDie s b).isNone)
    let e := s.dirE (x / 4)
    SameBytes s s' ∧
    (e.coarse = none → e.hasSub = true → Told s s' m.agent (.grant · x .t (homeSector s x)) ∧
      (e.subscribed m.agent = false → dirHolds s' m.agent x = true ∧ homeState s' x = 1)) ∧
    (e.coarse = none → e.hasSub = false → (∀ b ∈ others, ∀ d, localDie s b = some d → (s'.sec d x).st = .i) ∧
      (∀ b ∈ far, Told s s' b (.invalidation · x false)) ∧
      (far = [] → Told s s' m.agent (.grant · x .m (presentCells s x)) ∧ dirHolds s' m.agent x = true ∧ homeState s' x = 2 ∧ s'.txns = s.txns) ∧
      (far ≠ [] → Awaits s s' x (.again (.writePermission m x)) far .inval)) ∧
    (e.coarse.isSome = true → e.hasSub = false → let all := coarseTargets s m.agent x
      (∀ b ∈ all, (localDie s b.1 = none → Told s s' b.1 (.invalidation · b.2 false)) ∧ ∀ d, localDie s b.1 = some d → (s'.sec d b.2).st = .i) ∧
      ((∀ b ∈ all, (localDie s b.1).isSome) → Told s s' m.agent (.grant · x .m (presentCells s x)) ∧ (s'.dirE (x / 4)).coarse = none ∧
        dirHolds s' m.agent x = true ∧ homeState s' x = 2) ∧
      ((∃ b ∈ all, localDie s b.1 = none) → isPend s' x = true ∧ s'.txns.map (·.kind) = s.txns.map (·.kind) ++ [.collapse (.writePermission m x)])))) ∧
  (∀ m x bs cond, AtHome (.writeThrough m x bs cond) (.writeThrough m x bs cond) m x true (fun s s' => localDie s m.agent = none →
    (cond = true → dirHolds s m.agent x = false →
      s' = { heardFrom s m.agent with net := s.net ++ [(m.agent, .retry ⟨m.agent % 16, epochOf s m.agent⟩ x)] }) ∧
    (cond = false ∨ dirHolds s m.agent x = true → EntryShape s (x / 4) → Memory.wf s.mem = true → (∀ y ∈ s.secs, y.1 % 2 ^ 42 = x → y.2.dirty = []) → s.dead = [] →
      (s.dirE (x / 4)).coarse = none →
      s'.mem = s.mem.putAll (ofSector x bs) ∧
      (∀ b ∈ exactHolders s m.agent x, (localDie s b = none → Told s s' b (.invalidation · x false)) ∧ ∀ d, localDie s b = some d → (s'.sec d x).st = .i) ∧
      (∀ k p, (s.dirE (x / 4)).slot k = some p → nth false ((s.dirE (x / 4)).field (x % 4)).hold k = true → p.fmt ≠ 0 → p.agent ≠ m.agent → localDie s p.agent = none →
        let ch := changedElems s.mem s'.mem (s.dirE (x / 4)).sfm p.fmt x ((ofSector x bs).map (·.1))
        ch ≠ [] → isPend s' x = true ∧ Told s s' p.agent (fun n => if p.inv then .invalidation n x false else .update n x ch)) ∧
      ((∀ b ∈ exactHolders s m.agent x, (localDie s b).isSome) → Told s s' m.agent (.done1 · x)) ∧
      ((∃ b ∈ exactHolders s m.agent x, localDie s b = none) → isPend s' x = true ∧ ∀ t ∈ s'.txns, t ∉ s.txns → t.done1 = false) ∧
      ((∀ b ∈ exactHolders s m.agent x, (localDie s b).isSome) → (s.dirE (x / 4)).hasSub = false → Told s s' m.agent (.done2 · x))))) ∧
  (∀ m x bs, AtHome (.notice m x bs) (.notice m x bs) m x false (fun s s' => s.txns = [] →
    (dirHolds s m.agent x = false → s' = s) ∧
    (dirHolds s m.agent x = true → s'.mem = s.mem.putAll (ofSector x bs) ∧ s'.secs = s.secs ∧ s'.txns = [] ∧
      (EntriesSound s m.agent → dirHolds s' m.agent x = false)))) ∧
  (∀ m x bs, AtHome (.writeBack m x bs) (.writeBack m x bs) m x false (fun s s' =>
    s' = { s with mem := if mOwner s x = some m.agent then s.mem.putAll (ofSector x bs) else s.mem })) ∧
  (∀ m x bs, AtHome (.smWriteBack m x bs) (.smWriteBack m x bs) m x false (fun s s' => s' = { s with mem := s.mem.putAll (ofSector x bs) })) ∧
  (∀ m x absent bs, AtHome (.acknowledgement m x absent bs) (.acknowledgement m x absent bs) m x false (fun s s' =>
    (absent = true → (m.agent, x) ∈ s.late → s' = wakeAll { s with late := s.late.erase (m.agent, x) }) ∧
    (s.late = [] → s.txns = [] → s' = s) ∧
    ∀ m2 w, s.late = [] → localDie s m2.agent = none → m2.agent ∉ s.dead → m2.agent ≠ m.agent → EntryShape s (x / 4) →
      (s.dirE (x / 4)).coarse = none → (s.dirE (x / 4)).hasSub = false → Config.dirEvict s.fresh = none ∨ (∀ e ∈ s.dir, e.1 = x / 4) →
      let t : Then → Txn := fun k => ⟨x, [x], k, [⟨m.agent, x, w⟩], [], false⟩
      (s.txns = [t (.again (.exactRead m2 x))] → w = .recall → mOwner s x = some m.agent → RoomFor s m2.agent (x / 4) →
        s'.txns = [] ∧ isPend s' x = false ∧ s'.mem = s.mem.putAll (ofSector x bs) ∧ dirHolds s' m2.agent x = true ∧ homeState s' x = 1 ∧
        Told s s' m2.agent (.grant · x .exact (homeSector s' x))) ∧
      (s.txns = [t (.again (.writePermission m2 x))] → w = .inval → exactHolders s m2.agent x = [m.agent] → EntriesSound s m.agent →
        RoomFor s m2.agent (x / 4) →
        s'.txns = [] ∧ isPend s' x = false ∧ s'.mem = s.mem.putAll (ofSector x bs) ∧ dirHolds s' m2.agent x = true ∧ homeState s' x = 2 ∧
        Told s s' m2.agent (.grant · x .m (homeSector s' x))) ∧
      (s.txns = [t (.through m2.agent false)] → s'.txns = [] ∧ isPend s' x = false ∧
        Told s s' m2.agent (.done1 · x) ∧ Told s s' m2.agent (.done2 · x)))) ∧
  (∀ m line fmt inv bf, AtHome (.subscriptionRequest m line fmt inv bf) (.subscriptionRequest m line fmt inv bf) m (line * 4) true (fun s s' =>
    (fmt = 0 ∨ 4 < fmt → s' = heardFrom s m.agent) ∧
    (1 ≤ fmt → fmt ≤ 4 → localDie s m.agent = none → EntryShape s line → NothingFreed s line →
      let owners := (List.range 4).filterMap (fun q => (mOwner s (line * 4 + q)).map (fun o => (o, line * 4 + q)))
      (∀ o ∈ owners, o.1 < 8192) →
      ((∃ o ∈ owners, localDie s o.1 = none ∧ o.1 ∉ s.dead) → isPend s' (line * 4) = true ∧
        (∀ o ∈ owners, localDie s o.1 = none → o.1 ∉ s.dead → Told s s' o.1 (.recall · o.2)) ∧
        s'.txns.map (·.kind) = s.txns.map (·.kind) ++ [.again (.subscriptionRequest m line fmt inv bf)]) ∧
      (owners = [] → s'.mem = s.mem ∧ s'.secs = s.secs ∧ s'.txns = s.txns ∧
        (grantsFormat s m.agent line fmt bf → Told s s' m.agent (.grant · (line * 4) .rounded []) ∧ (s'.dirE line).sfm = (if bf then 1 else 0) ∧
          ∃ k, (s'.dirE line).slotOf m.agent = some k ∧ (s'.dirE line).slot k = some ⟨fmt, m.agent, inv⟩) ∧
        (¬grantsFormat s m.agent line fmt bf → Told s s' m.agent (.grant · (line * 4) .exact []) ∧
          ∀ k, (s.dirE line).coarse = none → (s.dirE line).slotOf m.agent = some k →
            (∀ p, (s'.dirE line).slot k = some p → p.fmt = 0) ∧
            ∀ q < 4, nth false ((s.dirE line).field q).hold k = true →
              Told s s' m.agent (.grant · (line * 4 + q) .exact (homeSector s (line * 4 + q)))))))) ∧
  (∀ m line, AtHome (.upgradeRequest m line) (.upgradeRequest m line) m (line * 4) true (fun s s' => localDie s m.agent = none →
    Told s s' m.agent (.grant · (line * 4) .exact []) ∧ s'.mem = s.mem ∧ s'.secs = s.secs ∧ s'.txns = s.txns ∧
    ((s.dirE line).slotOf m.agent = none → s'.dir = s.dir) ∧
    ∀ k, (s.dirE line).slotOf m.agent = some k → EntryShape s line →
      (∀ p, (s'.dirE line).slot k = some p → p = ⟨0, m.agent, false⟩) ∧
      ∀ q < 4, nth false ((s.dirE line).field q).hold k = true →
        Told s s' m.agent (.grant · (line * 4 + q) .exact (homeSector s (line * 4 + q))))) ∧
  (∀ m line, AtHome (.unsubscribeRequest m line) (.unsubscribeRequest m line) m (line * 4) true (fun s s' => localDie s m.agent = none →
    Told s s' m.agent (.grant · (line * 4) .exact []) ∧ s'.mem = s.mem ∧ s'.secs = s.secs ∧ s'.txns = s.txns ∧
    ((s.dirE line).subscribed m.agent = false → s'.dir = s.dir) ∧
    ((s.dirE line).subscribed m.agent = true → EntriesSound s m.agent → (s'.dirE line).slotOf m.agent = none)))

/-- R98, R326 to R329, R331, R333 to R335, R337, R389, Table 18-1: what a die does with each message of a home on another device and with
its cores' requests; hoop carves; RDMA requests. What waited for an answer looks again when one has come. -/
def Obligations.DieMessages : Prop :=
  (∀ die core x wr fail s, ∃ s', exec (.transientRequest die core x wr fail) s = .next s' ∧ (8 ≤ die ∨ 48 ≤ core → s' = s) ∧
    (Owned s → s.dwq = [] → SameBytes s s') ∧
    (die < 8 → core < 48 → fail = true →
      let n := (aget core (s.sec die x).fails).getD 0 + 1
      if 8 ≤ n then s'.due = s.due ++ [.persistentRequest die core x wr] ∧ aget core (s'.sec die x).fails = none
      else s'.due = s.due ∧ aget core (s'.sec die x).fails = some n) ∧
    (die < 8 → core < 48 → fail = false → dieAllows (s.sec die x) wr = true →
      (wr = true → (s'.sec die x).tok = [(core, 128)] ∧ (s'.sec die x).own = core) ∧ (s'.sec die x).st = (s.sec die x).st ∧
      ((s.sec die x).tokOf core ≥ 1 ∨ (s.sec die x).tokOf 96 ≥ 1 → 1 ≤ (s'.sec die x).tokOf core)) ∧
    (die < 8 → core < 48 → fail = false → dieAllows (s.sec die x) wr = false → devOf (x * 64) ≠ s.devid → die ∉ s.barred →
      dieSubscribes s die x = false → asked s die x (if wr then .write else .exact) = false →
      (devOf (x * 64), if wr then .writePermission (dieHdr s die) x else .exactRead (dieHdr s die) x) ∈ s'.net)) ∧
  (∀ die core x wr s, ∃ s', exec (.persistentRequest die core x wr) s = .next s' ∧ (8 ≤ die ∨ 48 ≤ core → s' = s) ∧
    (Owned s → s.dwq = [] → SameBytes s s') ∧
    (die < 8 → core < 48 → (s.sec die x).persist = [] →
      (dieAllows (s.sec die x) wr = true → (s'.sec die x).persist = [] ∧ (wr = true → (s'.sec die x).tok = [(core, 128)])) ∧
      (dieAllows (s.sec die x) wr = false → devOf (x * 64) ≠ s.devid → die ∉ s.barred → dieSubscribes s die x = false →
        asked s die x (if wr then .write else .exact) = false → (s'.sec die x).persist = [(core, wr)] ∧
        (devOf (x * 64), if wr then .writePermission (dieHdr s die) x else .exactRead (dieHdr s die) x) ∈ s'.net))) ∧
  (∀ d : DieSec, ∀ y, nextPersist d = some y → y ∈ d.persist ∧ ∀ z ∈ d.persist,
    let turn := fun c => match d.last with | some l => (persistKey c + 47 - persistKey l) % 48 | none => persistKey c
    turn y.1 ≤ turn z.1) ∧
  (∀ c, persistKey c = c % 12 * 4 + c / 12) ∧
  (∀ die x s, ∃ s', exec (.tokensBackAtPort die x) s = .next s' ∧
    if (s.sec die x).st = .i ∨ (s.sec die x).tokOf 96 ≠ 128 ∨ (s.sec die x).persist ≠ [] ∨ secReady s die x = false then s' = s
    else (devOf (x * 64) ≠ s.devid → (s'.sec die x).st = .i ∧ (SectorsSound s → Memory.wf s.mem = true → SameBytes s s') ∧
        Sends s s' x (.notice (dieHdr s die) x (s.sec die x).dirty)) ∧
      (devOf (x * 64) = s.devid → s.txns = [] → Owned s → (s.dirE (x / 4)).coarse = none → EntriesSound s (agentOf s die) →
        (s'.sec die x).st = .i ∧ SameBytes s s')) ∧
  (∀ demote, AtDie (.invalidation · · demote) (fun die x s s' =>
    (SectorsSound s → Memory.wf s.mem = true → SameBytes s s') ∧ (demote = true → ∀ y ∈ s'.subsc, ¬(y.die = die ∧ y.line = x / 4)) ∧
    if (s.sec die x).st = .i ∨ leftLine s die (x / 4) = true then Acks s s' die x true []
    else (s'.sec die x).st = .i ∧ Acks s s' die x false (s.sec die x).dirty)) ∧
  AtDie .recall (fun die x s s' => (SectorsSound s → Memory.wf s.mem = true → SameBytes s s') ∧
    match (s.sec die x).st with
    | .i => s'.secs = s.secs ∧ Acks s s' die x true []
    | .m => (s'.sec die x).st = .s ∧ Acks s s' die x false (s.sec die x).dirty
    | _ => (s'.sec die x).st = .i ∧ Acks s s' die x false (s.sec die x).dirty) ∧
  (∀ elems, AtDie (.update · · elems) (fun die x s s' => (SectorsSound s → Memory.wf s.mem = true → SameBytes s s') ∧
    if (s.sec die x).st = .u ∧ leftLine s die (x / 4) = false then (s'.sec die x).st = .u ∧ (s'.sec die x).tok = [(96, 128)] ∧ Acks s s' die x false [] ∧
      (s'.sec die x).rnd = (s.sec die x).rnd.map (fun c => (c.1, (cellAt (ofSector x elems) c.1).getD c.2))
    else s'.secs = s.secs ∧ Acks s s' die x true [])) ∧
  (∀ k data, AtDie (.grant · · k data) (fun die x s s' =>
    let d := s.sec die x
    (data = [] → x % 4 = 0 → ∀ a, lineAsk s die (x / 4) = some a → ∃ s1, s' = wakeAll s1 ∧ s1.asks = s.asks.erase a ∧
      (∀ y, (if a.kind = .sub ∧ k = .rounded then y ∈ s.subsc else y ∈ s.subsc ∧ ¬(y.die = die ∧ y.line = x / 4)) ↔ y ∈ s1.subsc) ∧
      (a.kind = .sub → k = .rounded → ∀ q < 4, (s1.sec die (x + q)).st = .i) ∧
      (a.owed = none → s1.teams = s.teams) ∧
      ∀ h id, a.owed = some (h, id) → Event.subscriptionAnswered h ∈ s1.due ∧
        s1.teams = s.teams.map (fun t => if t.hnd = h then { t with subs := t.subs.map (fun r => if r.id = id then
          { r with fmtd := if k = .rounded then r.fmtd + 1 else r.fmtd, exact := if k = .rounded then r.exact else r.exact + 1, left := r.left - 1 } else r) } else t)) ∧
    ((data = [] → x % 4 = 0 → lineAsk s die (x / 4) = none) → d.persist = [] →
      ((match k with | .exact => exactAsk s die x = none | .rounded => asked s die x .rounded = false | _ => asked s die x .write = false) →
        s' = { s with traffic := true }) ∧
      (k = .exact → exactAsk s die x = some .exact → dieSubscribes s die x = false → d.st = .i → ∃ s1, s' = wakeAll s1 ∧
        (s1.sec die x).st = .s ∧ s1.mem = s.mem.putAll (ofSector x data) ∧ s1.asks.length + 1 = s.asks.length) ∧
      (k = .exact → exactAsk s die x = some .peek → ∃ s1, s' = wakeAll s1 ∧ s1.sec die x = { d with peek := data.filter (fun c => c.1 / 64 == x) } ∧ s1.mem = s.mem) ∧
      (k = .exact → exactAsk s die x = some .upg → d.st = .u ∨ d.st = .i → (s'.sec die x).st = .s ∧ (s'.sec die x).rnd = [] ∧ s'.asks = s.asks) ∧
      (k = .rounded → asked s die x .rounded = true → dieSubscribes s die x = true → d.st = .i → ∃ s1, s' = wakeAll s1 ∧
        (s1.sec die x).st = .u ∧ (s1.sec die x).rnd = ofSector x data ∧ (s1.sec die x).ctx = subCtx s die (x / 4) ∧ s1.mem = s.mem) ∧
      (k = .m ∨ k = .t → asked s die x .write = true → ∃ s1, s' = wakeAll s1 ∧ (s1.sec die x).st = (if k = .m then .m else .t) ∧
        s1.mem = s.mem.putAll (ofSector x data))))) ∧
  AtDie .done1 (fun die x s s' => (openThrough s die x = none → s' = { s with traffic := true }) ∧
    ∀ t, openThrough s die x = some t → ∃ s1, s' = wakeAll s1 ∧
      s1.throughs = s.throughs.map (fun y => if y.id = t.id then { y with done1 := true } else y) ∧
      ((s.sec die x).busy = some t.id → (s1.sec die x).busy = none ∧ s1.mem = s.mem.putAll (ofSector x t.cells)) ∧
      ((s.sec die x).busy ≠ some t.id → s1.secs = s.secs ∧ s1.mem = s.mem) ∧
      ∀ u ∈ s.teams, ∀ r o f, u.rmw = some r → r.sent = some (t.id, o, f) →
        ∃ u' ∈ s1.teams, u'.hnd = u.hnd ∧ ∃ r', u'.rmw = some r' ∧ r'.todo = r.todo.drop 1 ∧ r'.sent = none ∧ r'.got.length = r.got.length + 1) ∧
  AtDie .done2 (fun die x s s' =>
    let s1 := { s with traffic := true, throughs := s.throughs.eraseP (fun t => t.die == die && t.sector == x && t.done1) }
    s' = if s1.throughs = s.throughs then s1 else wakeAll s1) ∧
  AtDie .retry (fun die x s s' => (openThrough s die x = none → s' = { s with traffic := true }) ∧
    ∀ t, openThrough s die x = some t → ∃ s1, s' = wakeAll s1 ∧ (s1.sec die x).st = .i ∧ s1.throughs = s.throughs.filter (fun y => y.id != t.id) ∧
      ∀ u ∈ s.teams, ∀ r o f, u.rmw = some r → r.sent = some (t.id, o, f) → ∃ u' ∈ s1.teams, u'.hnd = u.hnd ∧ u'.rmw = some { r with sent := none }) ∧
  (∀ tower n c base limit s,
    let ok := tower < 4 ∧ n ≤ 32 ∧ limit ≤ n * 7340032 ∧ base ≤ limit
    (¬ok → exec (.hoopCarve tower n c base limit) s = .next s) ∧
    (ok → ∃ s', exec (.hoopCarve tower n c base limit) s = .next s' ∧ aget tower s'.slices = some n ∧ s'.teams = s.teams ∧ s'.mem = s.mem ∧
      (∀ x, s.ctx c = some x → c < 65536 → ∃ x', s'.ctx c = some x' ∧ x'.wins.filter (fun w => w.1 == tower) = (if base < limit then [(tower, base, limit)] else [])) ∧
      ∀ o, (o < n * 7340032 ↔ o < (aget tower s.slices).getD 0 * 7340032) → ¬(base ≤ o ∧ o < limit) →
          (∀ x, s.ctx c = some x → ∀ w ∈ x.wins, w.1 = tower → ¬(w.2.1 ≤ o ∧ o < w.2.2)) →
        s'.crvByte (tower * 2 ^ 34 + o) = s.crvByte (tower * 2 ^ 34 + o))) ∧
  (∀ k c addr bs imm s, ∃ s', exec (.rdmaRequest k c addr bs imm) s = .next s' ∧ (k = .read → s' = s) ∧ (NoneWaits s → s'.teams = s.teams) ∧
    (ctxWrite s c addr bs = none → s' = s) ∧
    ∀ ls, k ≠ .read → ls.length = bs.length → WritableAt s c addr ls → Owned s → Holds s' ls bs)

end
end

