-- ==== Sys2Proof/Laws/Basic.lean ====
section
/-! SUPPORT. Laws of the finite maps, of verdicts (R342), and of looking a team up after it was put. -/

namespace Sys2Proof.Machine

/-! ## Finite maps -/

@[simp] theorem aget_aset_self {α : Type} (k : Nat) (v : α) (m : List (Nat × α)) : aget k (aset k v m) = some v := by
  induction m with
  | nil => simp [aset, aget]
  | cons p m ih =>
    obtain ⟨k', v'⟩ := p
    simp only [aset]
    split
    · simp [aget]
    · split
      · simp [aget]
      · have h : ¬ k' = k := fun e => by simp_all
        simp [aget, h, ih]

theorem aget_aset_ne {α : Type} {j k : Nat} (h : j ≠ k) (v : α) (m : List (Nat × α)) : aget j (aset k v m) = aget j m := by
  have hk : ¬ k = j := fun e => h e.symm
  induction m with
  | nil => simp [aset, aget, hk]
  | cons p m ih =>
    obtain ⟨k', v'⟩ := p
    simp only [aset]
    split
    · simp [aget, hk]
    · split
      · rename_i h2; subst h2; simp [aget, hk]
      · simp [aget, ih]

/-! ## Verdicts -/

@[simp] theorem V.bind_ok {α β : Type} (a : α) (f : α → V β) : (V.ok a).bind f = f a := rfl
@[simp] theorem V.map_ok {α β : Type} (f : α → β) (a : α) : V.map f (V.ok a) = .ok (f a) := rfl
@[simp] theorem V.both_ok {α β : Type} (a : α) (b : β) : V.both (V.ok a) (V.ok b) = .ok (a, b) := rfl
@[simp] theorem V.res_ok {α : Type} (a : α) (f : α → Res) : (V.ok a).res f = f a := rfl
@[simp] theorem V.test_true (t : Trap) : V.test true t = .ok () := rfl
@[simp] theorem Res.also_ok (r : Res) (u : Unit) : r.also (.ok u) = r := rfl

theorem V.all_ok {α β : Type} (l : List β) (f : β → V α) (o : β → α) (h : ∀ k ∈ l, f k = .ok (o k)) :
    V.all (l.map f) = .ok (l.map o) := by
  induction l with
  | nil => rfl
  | cons x xs ih =>
    have hx := h x (by simp)
    have hxs := ih (fun k hk => h k (by simp [hk]))
    simp [V.all, hx, hxs]

/-! ## Teams -/

theorem State.team_hnd {s : State} {h : Nat} {t : Team} (e : s.team h = some t) : t.hnd = h := by
  simpa using List.find?_some e

theorem find_map_put (l : List Team) (h : Nat) (u : Team) (hu : u.hnd = h) (t : Team)
    (e : l.find? (fun x => x.hnd == h) = some t) :
    (l.map (fun x => if x.hnd = h then u else x)).find? (fun x => x.hnd == h) = some u := by
  induction l with
  | nil => simp at e
  | cons x xs ih =>
    by_cases hx : x.hnd = h
    · simp [hx, hu]
    · have e' : xs.find? (fun x => x.hnd == h) = some t := by simpa [hx] using e
      simpa [hx] using ih e'

theorem State.team_putTeam {s : State} {t u : Team} (e : s.team u.hnd = some t) : (s.putTeam u).team u.hnd = some u :=
  find_map_put s.teams u.hnd u rfl t e

theorem State.team_putTeam_of {s : State} {t u : Team} {h : Nat} (e : s.team h = some t) (hu : u.hnd = h) :
    (s.putTeam u).team h = some u := by subst hu; exact State.team_putTeam e

theorem State.putTeam_putTeam (s : State) (t u : Team) (h : t.hnd = u.hnd) : (s.putTeam t).putTeam u = s.putTeam u := by
  simp only [State.putTeam, List.map_map]
  congr 1
  apply List.map_congr_left
  intro x _
  by_cases hx : x.hnd = u.hnd
  · simp [hx, h]
  · simp [hx, h]

end Sys2Proof.Machine
end

