-- ==== Sys2Proof/Laws/State.lean ====
section
/-! SUPPORT. What each update of the state leaves alone: one lemma for each field. -/

namespace Sys2Proof.Machine

variable (s : State)

@[simp] theorem State.putTeam_agenda (t : Team) : (s.putTeam t).agenda = s.agenda := rfl
@[simp] theorem State.putTeam_due (t : Team) : (s.putTeam t).due = s.due := rfl
@[simp] theorem State.putTeam_cur (t : Team) : (s.putTeam t).cur = s.cur := rfl
@[simp] theorem State.putTeam_fresh (t : Team) : (s.putTeam t).fresh = s.fresh := rfl
@[simp] theorem State.putTeam_names (t : Team) : (s.putTeam t).names = s.names := rfl
@[simp] theorem State.putTeam_groups (t : Team) : (s.putTeam t).groups = s.groups := rfl
@[simp] theorem State.putTeam_cbars (t : Team) : (s.putTeam t).cbars = s.cbars := rfl
@[simp] theorem State.putTeam_launches (t : Team) : (s.putTeam t).launches = s.launches := rfl
@[simp] theorem State.putTeam_queues (t : Team) : (s.putTeam t).queues = s.queues := rfl
@[simp] theorem State.putTeam_supq (t : Team) : (s.putTeam t).supq = s.supq := rfl
@[simp] theorem State.putTeam_ctxs (t : Team) : (s.putTeam t).ctxs = s.ctxs := rfl
@[simp] theorem State.putTeam_cores (t : Team) : (s.putTeam t).cores = s.cores := rfl
@[simp] theorem State.putTeam_offCores (t : Team) : (s.putTeam t).offCores = s.offCores := rfl
@[simp] theorem State.putTeam_spares (t : Team) : (s.putTeam t).spares = s.spares := rfl
@[simp] theorem State.putTeam_clusters (t : Team) : (s.putTeam t).clusters = s.clusters := rfl
@[simp] theorem State.putTeam_scr (t : Team) : (s.putTeam t).scr = s.scr := rfl
@[simp] theorem State.putTeam_scrPsn (t : Team) : (s.putTeam t).scrPsn = s.scrPsn := rfl
@[simp] theorem State.putTeam_scrUnd (t : Team) : (s.putTeam t).scrUnd = s.scrUnd := rfl
@[simp] theorem State.putTeam_slotm (t : Team) : (s.putTeam t).slotm = s.slotm := rfl
@[simp] theorem State.putTeam_slotUnd (t : Team) : (s.putTeam t).slotUnd = s.slotUnd := rfl
@[simp] theorem State.putTeam_crv (t : Team) : (s.putTeam t).crv = s.crv := rfl
@[simp] theorem State.putTeam_crvPsn (t : Team) : (s.putTeam t).crvPsn = s.crvPsn := rfl
@[simp] theorem State.putTeam_crvUnd (t : Team) : (s.putTeam t).crvUnd = s.crvUnd := rfl
@[simp] theorem State.putTeam_slices (t : Team) : (s.putTeam t).slices = s.slices := rfl
@[simp] theorem State.putTeam_mem (t : Team) : (s.putTeam t).mem = s.mem := rfl
@[simp] theorem State.putTeam_memPsn (t : Team) : (s.putTeam t).memPsn = s.memPsn := rfl
@[simp] theorem State.putTeam_tlb (t : Team) : (s.putTeam t).tlb = s.tlb := rfl
@[simp] theorem State.putTeam_ecmds (t : Team) : (s.putTeam t).ecmds = s.ecmds := rfl
@[simp] theorem State.putTeam_chans (t : Team) : (s.putTeam t).chans = s.chans := rfl
@[simp] theorem State.putTeam_dir (t : Team) : (s.putTeam t).dir = s.dir := rfl
@[simp] theorem State.putTeam_txns (t : Team) : (s.putTeam t).txns = s.txns := rfl
@[simp] theorem State.putTeam_behind (t : Team) : (s.putTeam t).behind = s.behind := rfl
@[simp] theorem State.putTeam_net (t : Team) : (s.putTeam t).net = s.net := rfl
@[simp] theorem State.putTeam_epochs (t : Team) : (s.putTeam t).epochs = s.epochs := rfl
@[simp] theorem State.putTeam_dead (t : Team) : (s.putTeam t).dead = s.dead := rfl
@[simp] theorem State.putTeam_coarseG (t : Team) : (s.putTeam t).coarseG = s.coarseG := rfl
@[simp] theorem State.putTeam_secs (t : Team) : (s.putTeam t).secs = s.secs := rfl
@[simp] theorem State.putTeam_throughs (t : Team) : (s.putTeam t).throughs = s.throughs := rfl
@[simp] theorem State.putTeam_subsc (t : Team) : (s.putTeam t).subsc = s.subsc := rfl
@[simp] theorem State.putTeam_frBase (t : Team) : (s.putTeam t).frBase = s.frBase := rfl
@[simp] theorem State.putTeam_frWr (t : Team) : (s.putTeam t).frWr = s.frWr := rfl
@[simp] theorem State.putTeam_frRd (t : Team) : (s.putTeam t).frRd = s.frRd := rfl
@[simp] theorem State.putTeam_frWait (t : Team) : (s.putTeam t).frWait = s.frWait := rfl
@[simp] theorem State.putTeam_ras (t : Team) : (s.putTeam t).ras = s.ras := rfl
@[simp] theorem State.putTeam_rasLost (t : Team) : (s.putTeam t).rasLost = s.rasLost := rfl
@[simp] theorem State.putTeam_rasSeq (t : Team) : (s.putTeam t).rasSeq = s.rasSeq := rfl
@[simp] theorem State.putTeam_power (t : Team) : (s.putTeam t).power = s.power := rfl
@[simp] theorem State.putTeam_events (t : Team) : (s.putTeam t).events = s.events := rfl
@[simp] theorem State.putTeam_boot (t : Team) : (s.putTeam t).boot = s.boot := rfl
@[simp] theorem State.putTeam_comms (t : Team) : (s.putTeam t).comms = s.comms := rfl
@[simp] theorem State.putTeam_devid (t : Team) : (s.putTeam t).devid = s.devid := rfl
@[simp] theorem State.putTeam_deadMs (t : Team) : (s.putTeam t).deadMs = s.deadMs := rfl
@[simp] theorem State.putTeam_traffic (t : Team) : (s.putTeam t).traffic = s.traffic := rfl
@[simp] theorem State.putTeam_recovery (t : Team) : (s.putTeam t).recovery = s.recovery := rfl
@[simp] theorem State.putTeam_lanesOff (t : Team) : (s.putTeam t).lanesOff = s.lanesOff := rfl
@[simp] theorem State.putTeam_rowsOff (t : Team) : (s.putTeam t).rowsOff = s.rowsOff := rfl
@[simp] theorem State.putTeam_time (t : Team) : (s.putTeam t).time = s.time := rfl
@[simp] theorem State.putTeam_rrq (t : Team) : (s.putTeam t).rrq = s.rrq := rfl

@[simp] theorem State.setTeam_agenda (h : Nat) (f : Team → Team) : (s.setTeam h f).agenda = s.agenda := rfl
@[simp] theorem State.setTeam_due (h : Nat) (f : Team → Team) : (s.setTeam h f).due = s.due := rfl
@[simp] theorem State.setTeam_cur (h : Nat) (f : Team → Team) : (s.setTeam h f).cur = s.cur := rfl
@[simp] theorem State.setTeam_fresh (h : Nat) (f : Team → Team) : (s.setTeam h f).fresh = s.fresh := rfl
@[simp] theorem State.setTeam_names (h : Nat) (f : Team → Team) : (s.setTeam h f).names = s.names := rfl
@[simp] theorem State.setTeam_groups (h : Nat) (f : Team → Team) : (s.setTeam h f).groups = s.groups := rfl
@[simp] theorem State.setTeam_cbars (h : Nat) (f : Team → Team) : (s.setTeam h f).cbars = s.cbars := rfl
@[simp] theorem State.setTeam_launches (h : Nat) (f : Team → Team) : (s.setTeam h f).launches = s.launches := rfl
@[simp] theorem State.setTeam_queues (h : Nat) (f : Team → Team) : (s.setTeam h f).queues = s.queues := rfl
@[simp] theorem State.setTeam_supq (h : Nat) (f : Team → Team) : (s.setTeam h f).supq = s.supq := rfl
@[simp] theorem State.setTeam_ctxs (h : Nat) (f : Team → Team) : (s.setTeam h f).ctxs = s.ctxs := rfl
@[simp] theorem State.setTeam_cores (h : Nat) (f : Team → Team) : (s.setTeam h f).cores = s.cores := rfl
@[simp] theorem State.setTeam_offCores (h : Nat) (f : Team → Team) : (s.setTeam h f).offCores = s.offCores := rfl
@[simp] theorem State.setTeam_spares (h : Nat) (f : Team → Team) : (s.setTeam h f).spares = s.spares := rfl
@[simp] theorem State.setTeam_clusters (h : Nat) (f : Team → Team) : (s.setTeam h f).clusters = s.clusters := rfl
@[simp] theorem State.setTeam_scr (h : Nat) (f : Team → Team) : (s.setTeam h f).scr = s.scr := rfl
@[simp] theorem State.setTeam_scrPsn (h : Nat) (f : Team → Team) : (s.setTeam h f).scrPsn = s.scrPsn := rfl
@[simp] theorem State.setTeam_scrUnd (h : Nat) (f : Team → Team) : (s.setTeam h f).scrUnd = s.scrUnd := rfl
@[simp] theorem State.setTeam_slotm (h : Nat) (f : Team → Team) : (s.setTeam h f).slotm = s.slotm := rfl
@[simp] theorem State.setTeam_slotUnd (h : Nat) (f : Team → Team) : (s.setTeam h f).slotUnd = s.slotUnd := rfl
@[simp] theorem State.setTeam_crv (h : Nat) (f : Team → Team) : (s.setTeam h f).crv = s.crv := rfl
@[simp] theorem State.setTeam_crvPsn (h : Nat) (f : Team → Team) : (s.setTeam h f).crvPsn = s.crvPsn := rfl
@[simp] theorem State.setTeam_crvUnd (h : Nat) (f : Team → Team) : (s.setTeam h f).crvUnd = s.crvUnd := rfl
@[simp] theorem State.setTeam_slices (h : Nat) (f : Team → Team) : (s.setTeam h f).slices = s.slices := rfl
@[simp] theorem State.setTeam_mem (h : Nat) (f : Team → Team) : (s.setTeam h f).mem = s.mem := rfl
@[simp] theorem State.setTeam_memPsn (h : Nat) (f : Team → Team) : (s.setTeam h f).memPsn = s.memPsn := rfl
@[simp] theorem State.setTeam_tlb (h : Nat) (f : Team → Team) : (s.setTeam h f).tlb = s.tlb := rfl
@[simp] theorem State.setTeam_ecmds (h : Nat) (f : Team → Team) : (s.setTeam h f).ecmds = s.ecmds := rfl
@[simp] theorem State.setTeam_chans (h : Nat) (f : Team → Team) : (s.setTeam h f).chans = s.chans := rfl
@[simp] theorem State.setTeam_dir (h : Nat) (f : Team → Team) : (s.setTeam h f).dir = s.dir := rfl
@[simp] theorem State.setTeam_txns (h : Nat) (f : Team → Team) : (s.setTeam h f).txns = s.txns := rfl
@[simp] theorem State.setTeam_behind (h : Nat) (f : Team → Team) : (s.setTeam h f).behind = s.behind := rfl
@[simp] theorem State.setTeam_net (h : Nat) (f : Team → Team) : (s.setTeam h f).net = s.net := rfl
@[simp] theorem State.setTeam_epochs (h : Nat) (f : Team → Team) : (s.setTeam h f).epochs = s.epochs := rfl
@[simp] theorem State.setTeam_dead (h : Nat) (f : Team → Team) : (s.setTeam h f).dead = s.dead := rfl
@[simp] theorem State.setTeam_coarseG (h : Nat) (f : Team → Team) : (s.setTeam h f).coarseG = s.coarseG := rfl
@[simp] theorem State.setTeam_secs (h : Nat) (f : Team → Team) : (s.setTeam h f).secs = s.secs := rfl
@[simp] theorem State.setTeam_throughs (h : Nat) (f : Team → Team) : (s.setTeam h f).throughs = s.throughs := rfl
@[simp] theorem State.setTeam_subsc (h : Nat) (f : Team → Team) : (s.setTeam h f).subsc = s.subsc := rfl
@[simp] theorem State.setTeam_frBase (h : Nat) (f : Team → Team) : (s.setTeam h f).frBase = s.frBase := rfl
@[simp] theorem State.setTeam_frWr (h : Nat) (f : Team → Team) : (s.setTeam h f).frWr = s.frWr := rfl
@[simp] theorem State.setTeam_frRd (h : Nat) (f : Team → Team) : (s.setTeam h f).frRd = s.frRd := rfl
@[simp] theorem State.setTeam_frWait (h : Nat) (f : Team → Team) : (s.setTeam h f).frWait = s.frWait := rfl
@[simp] theorem State.setTeam_ras (h : Nat) (f : Team → Team) : (s.setTeam h f).ras = s.ras := rfl
@[simp] theorem State.setTeam_rasLost (h : Nat) (f : Team → Team) : (s.setTeam h f).rasLost = s.rasLost := rfl
@[simp] theorem State.setTeam_rasSeq (h : Nat) (f : Team → Team) : (s.setTeam h f).rasSeq = s.rasSeq := rfl
@[simp] theorem State.setTeam_power (h : Nat) (f : Team → Team) : (s.setTeam h f).power = s.power := rfl
@[simp] theorem State.setTeam_events (h : Nat) (f : Team → Team) : (s.setTeam h f).events = s.events := rfl
@[simp] theorem State.setTeam_boot (h : Nat) (f : Team → Team) : (s.setTeam h f).boot = s.boot := rfl
@[simp] theorem State.setTeam_comms (h : Nat) (f : Team → Team) : (s.setTeam h f).comms = s.comms := rfl
@[simp] theorem State.setTeam_devid (h : Nat) (f : Team → Team) : (s.setTeam h f).devid = s.devid := rfl
@[simp] theorem State.setTeam_deadMs (h : Nat) (f : Team → Team) : (s.setTeam h f).deadMs = s.deadMs := rfl
@[simp] theorem State.setTeam_traffic (h : Nat) (f : Team → Team) : (s.setTeam h f).traffic = s.traffic := rfl
@[simp] theorem State.setTeam_recovery (h : Nat) (f : Team → Team) : (s.setTeam h f).recovery = s.recovery := rfl
@[simp] theorem State.setTeam_lanesOff (h : Nat) (f : Team → Team) : (s.setTeam h f).lanesOff = s.lanesOff := rfl
@[simp] theorem State.setTeam_rowsOff (h : Nat) (f : Team → Team) : (s.setTeam h f).rowsOff = s.rowsOff := rfl
@[simp] theorem State.setTeam_time (h : Nat) (f : Team → Team) : (s.setTeam h f).time = s.time := rfl
@[simp] theorem State.setTeam_rrq (h : Nat) (f : Team → Team) : (s.setTeam h f).rrq = s.rrq := rfl

@[simp] theorem State.setGroup_agenda (g : Nat) (f : Group → Group) : (s.setGroup g f).agenda = s.agenda := rfl
@[simp] theorem State.setGroup_due (g : Nat) (f : Group → Group) : (s.setGroup g f).due = s.due := rfl
@[simp] theorem State.setGroup_cur (g : Nat) (f : Group → Group) : (s.setGroup g f).cur = s.cur := rfl
@[simp] theorem State.setGroup_fresh (g : Nat) (f : Group → Group) : (s.setGroup g f).fresh = s.fresh := rfl
@[simp] theorem State.setGroup_names (g : Nat) (f : Group → Group) : (s.setGroup g f).names = s.names := rfl
@[simp] theorem State.setGroup_teams (g : Nat) (f : Group → Group) : (s.setGroup g f).teams = s.teams := rfl
@[simp] theorem State.setGroup_cbars (g : Nat) (f : Group → Group) : (s.setGroup g f).cbars = s.cbars := rfl
@[simp] theorem State.setGroup_launches (g : Nat) (f : Group → Group) : (s.setGroup g f).launches = s.launches := rfl
@[simp] theorem State.setGroup_queues (g : Nat) (f : Group → Group) : (s.setGroup g f).queues = s.queues := rfl
@[simp] theorem State.setGroup_supq (g : Nat) (f : Group → Group) : (s.setGroup g f).supq = s.supq := rfl
@[simp] theorem State.setGroup_ctxs (g : Nat) (f : Group → Group) : (s.setGroup g f).ctxs = s.ctxs := rfl
@[simp] theorem State.setGroup_cores (g : Nat) (f : Group → Group) : (s.setGroup g f).cores = s.cores := rfl
@[simp] theorem State.setGroup_offCores (g : Nat) (f : Group → Group) : (s.setGroup g f).offCores = s.offCores := rfl
@[simp] theorem State.setGroup_spares (g : Nat) (f : Group → Group) : (s.setGroup g f).spares = s.spares := rfl
@[simp] theorem State.setGroup_clusters (g : Nat) (f : Group → Group) : (s.setGroup g f).clusters = s.clusters := rfl
@[simp] theorem State.setGroup_scr (g : Nat) (f : Group → Group) : (s.setGroup g f).scr = s.scr := rfl
@[simp] theorem State.setGroup_scrPsn (g : Nat) (f : Group → Group) : (s.setGroup g f).scrPsn = s.scrPsn := rfl
@[simp] theorem State.setGroup_scrUnd (g : Nat) (f : Group → Group) : (s.setGroup g f).scrUnd = s.scrUnd := rfl
@[simp] theorem State.setGroup_slotm (g : Nat) (f : Group → Group) : (s.setGroup g f).slotm = s.slotm := rfl
@[simp] theorem State.setGroup_slotUnd (g : Nat) (f : Group → Group) : (s.setGroup g f).slotUnd = s.slotUnd := rfl
@[simp] theorem State.setGroup_crv (g : Nat) (f : Group → Group) : (s.setGroup g f).crv = s.crv := rfl
@[simp] theorem State.setGroup_crvPsn (g : Nat) (f : Group → Group) : (s.setGroup g f).crvPsn = s.crvPsn := rfl
@[simp] theorem State.setGroup_crvUnd (g : Nat) (f : Group → Group) : (s.setGroup g f).crvUnd = s.crvUnd := rfl
@[simp] theorem State.setGroup_slices (g : Nat) (f : Group → Group) : (s.setGroup g f).slices = s.slices := rfl
@[simp] theorem State.setGroup_mem (g : Nat) (f : Group → Group) : (s.setGroup g f).mem = s.mem := rfl
@[simp] theorem State.setGroup_memPsn (g : Nat) (f : Group → Group) : (s.setGroup g f).memPsn = s.memPsn := rfl
@[simp] theorem State.setGroup_tlb (g : Nat) (f : Group → Group) : (s.setGroup g f).tlb = s.tlb := rfl
@[simp] theorem State.setGroup_ecmds (g : Nat) (f : Group → Group) : (s.setGroup g f).ecmds = s.ecmds := rfl
@[simp] theorem State.setGroup_chans (g : Nat) (f : Group → Group) : (s.setGroup g f).chans = s.chans := rfl
@[simp] theorem State.setGroup_dir (g : Nat) (f : Group → Group) : (s.setGroup g f).dir = s.dir := rfl
@[simp] theorem State.setGroup_txns (g : Nat) (f : Group → Group) : (s.setGroup g f).txns = s.txns := rfl
@[simp] theorem State.setGroup_behind (g : Nat) (f : Group → Group) : (s.setGroup g f).behind = s.behind := rfl
@[simp] theorem State.setGroup_net (g : Nat) (f : Group → Group) : (s.setGroup g f).net = s.net := rfl
@[simp] theorem State.setGroup_epochs (g : Nat) (f : Group → Group) : (s.setGroup g f).epochs = s.epochs := rfl
@[simp] theorem State.setGroup_dead (g : Nat) (f : Group → Group) : (s.setGroup g f).dead = s.dead := rfl
@[simp] theorem State.setGroup_coarseG (g : Nat) (f : Group → Group) : (s.setGroup g f).coarseG = s.coarseG := rfl
@[simp] theorem State.setGroup_secs (g : Nat) (f : Group → Group) : (s.setGroup g f).secs = s.secs := rfl
@[simp] theorem State.setGroup_throughs (g : Nat) (f : Group → Group) : (s.setGroup g f).throughs = s.throughs := rfl
@[simp] theorem State.setGroup_subsc (g : Nat) (f : Group → Group) : (s.setGroup g f).subsc = s.subsc := rfl
@[simp] theorem State.setGroup_frBase (g : Nat) (f : Group → Group) : (s.setGroup g f).frBase = s.frBase := rfl
@[simp] theorem State.setGroup_frWr (g : Nat) (f : Group → Group) : (s.setGroup g f).frWr = s.frWr := rfl
@[simp] theorem State.setGroup_frRd (g : Nat) (f : Group → Group) : (s.setGroup g f).frRd = s.frRd := rfl
@[simp] theorem State.setGroup_frWait (g : Nat) (f : Group → Group) : (s.setGroup g f).frWait = s.frWait := rfl
@[simp] theorem State.setGroup_ras (g : Nat) (f : Group → Group) : (s.setGroup g f).ras = s.ras := rfl
@[simp] theorem State.setGroup_rasLost (g : Nat) (f : Group → Group) : (s.setGroup g f).rasLost = s.rasLost := rfl
@[simp] theorem State.setGroup_rasSeq (g : Nat) (f : Group → Group) : (s.setGroup g f).rasSeq = s.rasSeq := rfl
@[simp] theorem State.setGroup_power (g : Nat) (f : Group → Group) : (s.setGroup g f).power = s.power := rfl
@[simp] theorem State.setGroup_events (g : Nat) (f : Group → Group) : (s.setGroup g f).events = s.events := rfl
@[simp] theorem State.setGroup_boot (g : Nat) (f : Group → Group) : (s.setGroup g f).boot = s.boot := rfl
@[simp] theorem State.setGroup_comms (g : Nat) (f : Group → Group) : (s.setGroup g f).comms = s.comms := rfl
@[simp] theorem State.setGroup_devid (g : Nat) (f : Group → Group) : (s.setGroup g f).devid = s.devid := rfl
@[simp] theorem State.setGroup_deadMs (g : Nat) (f : Group → Group) : (s.setGroup g f).deadMs = s.deadMs := rfl
@[simp] theorem State.setGroup_traffic (g : Nat) (f : Group → Group) : (s.setGroup g f).traffic = s.traffic := rfl
@[simp] theorem State.setGroup_recovery (g : Nat) (f : Group → Group) : (s.setGroup g f).recovery = s.recovery := rfl
@[simp] theorem State.setGroup_lanesOff (g : Nat) (f : Group → Group) : (s.setGroup g f).lanesOff = s.lanesOff := rfl
@[simp] theorem State.setGroup_rowsOff (g : Nat) (f : Group → Group) : (s.setGroup g f).rowsOff = s.rowsOff := rfl
@[simp] theorem State.setGroup_time (g : Nat) (f : Group → Group) : (s.setGroup g f).time = s.time := rfl
@[simp] theorem State.setGroup_rrq (g : Nat) (f : Group → Group) : (s.setGroup g f).rrq = s.rrq := rfl

@[simp] theorem State.setLaunch_agenda (l : Nat) (f : Launch → Launch) : (s.setLaunch l f).agenda = s.agenda := rfl
@[simp] theorem State.setLaunch_due (l : Nat) (f : Launch → Launch) : (s.setLaunch l f).due = s.due := rfl
@[simp] theorem State.setLaunch_cur (l : Nat) (f : Launch → Launch) : (s.setLaunch l f).cur = s.cur := rfl
@[simp] theorem State.setLaunch_fresh (l : Nat) (f : Launch → Launch) : (s.setLaunch l f).fresh = s.fresh := rfl
@[simp] theorem State.setLaunch_names (l : Nat) (f : Launch → Launch) : (s.setLaunch l f).names = s.names := rfl
@[simp] theorem State.setLaunch_teams (l : Nat) (f : Launch → Launch) : (s.setLaunch l f).teams = s.teams := rfl
@[simp] theorem State.setLaunch_groups (l : Nat) (f : Launch → Launch) : (s.setLaunch l f).groups = s.groups := rfl
@[simp] theorem State.setLaunch_cbars (l : Nat) (f : Launch → Launch) : (s.setLaunch l f).cbars = s.cbars := rfl
@[simp] theorem State.setLaunch_queues (l : Nat) (f : Launch → Launch) : (s.setLaunch l f).queues = s.queues := rfl
@[simp] theorem State.setLaunch_supq (l : Nat) (f : Launch → Launch) : (s.setLaunch l f).supq = s.supq := rfl
@[simp] theorem State.setLaunch_ctxs (l : Nat) (f : Launch → Launch) : (s.setLaunch l f).ctxs = s.ctxs := rfl
@[simp] theorem State.setLaunch_cores (l : Nat) (f : Launch → Launch) : (s.setLaunch l f).cores = s.cores := rfl
@[simp] theorem State.setLaunch_offCores (l : Nat) (f : Launch → Launch) : (s.setLaunch l f).offCores = s.offCores := rfl
@[simp] theorem State.setLaunch_spares (l : Nat) (f : Launch → Launch) : (s.setLaunch l f).spares = s.spares := rfl
@[simp] theorem State.setLaunch_clusters (l : Nat) (f : Launch → Launch) : (s.setLaunch l f).clusters = s.clusters := rfl
@[simp] theorem State.setLaunch_scr (l : Nat) (f : Launch → Launch) : (s.setLaunch l f).scr = s.scr := rfl
@[simp] theorem State.setLaunch_scrPsn (l : Nat) (f : Launch → Launch) : (s.setLaunch l f).scrPsn = s.scrPsn := rfl
@[simp] theorem State.setLaunch_scrUnd (l : Nat) (f : Launch → Launch) : (s.setLaunch l f).scrUnd = s.scrUnd := rfl
@[simp] theorem State.setLaunch_slotm (l : Nat) (f : Launch → Launch) : (s.setLaunch l f).slotm = s.slotm := rfl
@[simp] theorem State.setLaunch_slotUnd (l : Nat) (f : Launch → Launch) : (s.setLaunch l f).slotUnd = s.slotUnd := rfl
@[simp] theorem State.setLaunch_crv (l : Nat) (f : Launch → Launch) : (s.setLaunch l f).crv = s.crv := rfl
@[simp] theorem State.setLaunch_crvPsn (l : Nat) (f : Launch → Launch) : (s.setLaunch l f).crvPsn = s.crvPsn := rfl
@[simp] theorem State.setLaunch_crvUnd (l : Nat) (f : Launch → Launch) : (s.setLaunch l f).crvUnd = s.crvUnd := rfl
@[simp] theorem State.setLaunch_slices (l : Nat) (f : Launch → Launch) : (s.setLaunch l f).slices = s.slices := rfl
@[simp] theorem State.setLaunch_mem (l : Nat) (f : Launch → Launch) : (s.setLaunch l f).mem = s.mem := rfl
@[simp] theorem State.setLaunch_memPsn (l : Nat) (f : Launch → Launch) : (s.setLaunch l f).memPsn = s.memPsn := rfl
@[simp] theorem State.setLaunch_tlb (l : Nat) (f : Launch → Launch) : (s.setLaunch l f).tlb = s.tlb := rfl
@[simp] theorem State.setLaunch_ecmds (l : Nat) (f : Launch → Launch) : (s.setLaunch l f).ecmds = s.ecmds := rfl
@[simp] theorem State.setLaunch_chans (l : Nat) (f : Launch → Launch) : (s.setLaunch l f).chans = s.chans := rfl
@[simp] theorem State.setLaunch_dir (l : Nat) (f : Launch → Launch) : (s.setLaunch l f).dir = s.dir := rfl
@[simp] theorem State.setLaunch_txns (l : Nat) (f : Launch → Launch) : (s.setLaunch l f).txns = s.txns := rfl
@[simp] theorem State.setLaunch_behind (l : Nat) (f : Launch → Launch) : (s.setLaunch l f).behind = s.behind := rfl
@[simp] theorem State.setLaunch_net (l : Nat) (f : Launch → Launch) : (s.setLaunch l f).net = s.net := rfl
@[simp] theorem State.setLaunch_epochs (l : Nat) (f : Launch → Launch) : (s.setLaunch l f).epochs = s.epochs := rfl
@[simp] theorem State.setLaunch_dead (l : Nat) (f : Launch → Launch) : (s.setLaunch l f).dead = s.dead := rfl
@[simp] theorem State.setLaunch_coarseG (l : Nat) (f : Launch → Launch) : (s.setLaunch l f).coarseG = s.coarseG := rfl
@[simp] theorem State.setLaunch_secs (l : Nat) (f : Launch → Launch) : (s.setLaunch l f).secs = s.secs := rfl
@[simp] theorem State.setLaunch_throughs (l : Nat) (f : Launch → Launch) : (s.setLaunch l f).throughs = s.throughs := rfl
@[simp] theorem State.setLaunch_subsc (l : Nat) (f : Launch → Launch) : (s.setLaunch l f).subsc = s.subsc := rfl
@[simp] theorem State.setLaunch_frBase (l : Nat) (f : Launch → Launch) : (s.setLaunch l f).frBase = s.frBase := rfl
@[simp] theorem State.setLaunch_frWr (l : Nat) (f : Launch → Launch) : (s.setLaunch l f).frWr = s.frWr := rfl
@[simp] theorem State.setLaunch_frRd (l : Nat) (f : Launch → Launch) : (s.setLaunch l f).frRd = s.frRd := rfl
@[simp] theorem State.setLaunch_frWait (l : Nat) (f : Launch → Launch) : (s.setLaunch l f).frWait = s.frWait := rfl
@[simp] theorem State.setLaunch_ras (l : Nat) (f : Launch → Launch) : (s.setLaunch l f).ras = s.ras := rfl
@[simp] theorem State.setLaunch_rasLost (l : Nat) (f : Launch → Launch) : (s.setLaunch l f).rasLost = s.rasLost := rfl
@[simp] theorem State.setLaunch_rasSeq (l : Nat) (f : Launch → Launch) : (s.setLaunch l f).rasSeq = s.rasSeq := rfl
@[simp] theorem State.setLaunch_power (l : Nat) (f : Launch → Launch) : (s.setLaunch l f).power = s.power := rfl
@[simp] theorem State.setLaunch_events (l : Nat) (f : Launch → Launch) : (s.setLaunch l f).events = s.events := rfl
@[simp] theorem State.setLaunch_boot (l : Nat) (f : Launch → Launch) : (s.setLaunch l f).boot = s.boot := rfl
@[simp] theorem State.setLaunch_comms (l : Nat) (f : Launch → Launch) : (s.setLaunch l f).comms = s.comms := rfl
@[simp] theorem State.setLaunch_devid (l : Nat) (f : Launch → Launch) : (s.setLaunch l f).devid = s.devid := rfl
@[simp] theorem State.setLaunch_deadMs (l : Nat) (f : Launch → Launch) : (s.setLaunch l f).deadMs = s.deadMs := rfl
@[simp] theorem State.setLaunch_traffic (l : Nat) (f : Launch → Launch) : (s.setLaunch l f).traffic = s.traffic := rfl
@[simp] theorem State.setLaunch_recovery (l : Nat) (f : Launch → Launch) : (s.setLaunch l f).recovery = s.recovery := rfl
@[simp] theorem State.setLaunch_lanesOff (l : Nat) (f : Launch → Launch) : (s.setLaunch l f).lanesOff = s.lanesOff := rfl
@[simp] theorem State.setLaunch_rowsOff (l : Nat) (f : Launch → Launch) : (s.setLaunch l f).rowsOff = s.rowsOff := rfl
@[simp] theorem State.setLaunch_time (l : Nat) (f : Launch → Launch) : (s.setLaunch l f).time = s.time := rfl
@[simp] theorem State.setLaunch_rrq (l : Nat) (f : Launch → Launch) : (s.setLaunch l f).rrq = s.rrq := rfl

@[simp] theorem State.setCore_agenda (c : Nat) (f : Core → Core) : (s.setCore c f).agenda = s.agenda := rfl
@[simp] theorem State.setCore_due (c : Nat) (f : Core → Core) : (s.setCore c f).due = s.due := rfl
@[simp] theorem State.setCore_cur (c : Nat) (f : Core → Core) : (s.setCore c f).cur = s.cur := rfl
@[simp] theorem State.setCore_fresh (c : Nat) (f : Core → Core) : (s.setCore c f).fresh = s.fresh := rfl
@[simp] theorem State.setCore_names (c : Nat) (f : Core → Core) : (s.setCore c f).names = s.names := rfl
@[simp] theorem State.setCore_teams (c : Nat) (f : Core → Core) : (s.setCore c f).teams = s.teams := rfl
@[simp] theorem State.setCore_groups (c : Nat) (f : Core → Core) : (s.setCore c f).groups = s.groups := rfl
@[simp] theorem State.setCore_cbars (c : Nat) (f : Core → Core) : (s.setCore c f).cbars = s.cbars := rfl
@[simp] theorem State.setCore_launches (c : Nat) (f : Core → Core) : (s.setCore c f).launches = s.launches := rfl
@[simp] theorem State.setCore_queues (c : Nat) (f : Core → Core) : (s.setCore c f).queues = s.queues := rfl
@[simp] theorem State.setCore_supq (c : Nat) (f : Core → Core) : (s.setCore c f).supq = s.supq := rfl
@[simp] theorem State.setCore_ctxs (c : Nat) (f : Core → Core) : (s.setCore c f).ctxs = s.ctxs := rfl
@[simp] theorem State.setCore_offCores (c : Nat) (f : Core → Core) : (s.setCore c f).offCores = s.offCores := rfl
@[simp] theorem State.setCore_spares (c : Nat) (f : Core → Core) : (s.setCore c f).spares = s.spares := rfl
@[simp] theorem State.setCore_clusters (c : Nat) (f : Core → Core) : (s.setCore c f).clusters = s.clusters := rfl
@[simp] theorem State.setCore_scr (c : Nat) (f : Core → Core) : (s.setCore c f).scr = s.scr := rfl
@[simp] theorem State.setCore_scrPsn (c : Nat) (f : Core → Core) : (s.setCore c f).scrPsn = s.scrPsn := rfl
@[simp] theorem State.setCore_scrUnd (c : Nat) (f : Core → Core) : (s.setCore c f).scrUnd = s.scrUnd := rfl
@[simp] theorem State.setCore_slotm (c : Nat) (f : Core → Core) : (s.setCore c f).slotm = s.slotm := rfl
@[simp] theorem State.setCore_slotUnd (c : Nat) (f : Core → Core) : (s.setCore c f).slotUnd = s.slotUnd := rfl
@[simp] theorem State.setCore_crv (c : Nat) (f : Core → Core) : (s.setCore c f).crv = s.crv := rfl
@[simp] theorem State.setCore_crvPsn (c : Nat) (f : Core → Core) : (s.setCore c f).crvPsn = s.crvPsn := rfl
@[simp] theorem State.setCore_crvUnd (c : Nat) (f : Core → Core) : (s.setCore c f).crvUnd = s.crvUnd := rfl
@[simp] theorem State.setCore_slices (c : Nat) (f : Core → Core) : (s.setCore c f).slices = s.slices := rfl
@[simp] theorem State.setCore_mem (c : Nat) (f : Core → Core) : (s.setCore c f).mem = s.mem := rfl
@[simp] theorem State.setCore_memPsn (c : Nat) (f : Core → Core) : (s.setCore c f).memPsn = s.memPsn := rfl
@[simp] theorem State.setCore_tlb (c : Nat) (f : Core → Core) : (s.setCore c f).tlb = s.tlb := rfl
@[simp] theorem State.setCore_ecmds (c : Nat) (f : Core → Core) : (s.setCore c f).ecmds = s.ecmds := rfl
@[simp] theorem State.setCore_chans (c : Nat) (f : Core → Core) : (s.setCore c f).chans = s.chans := rfl
@[simp] theorem State.setCore_dir (c : Nat) (f : Core → Core) : (s.setCore c f).dir = s.dir := rfl
@[simp] theorem State.setCore_txns (c : Nat) (f : Core → Core) : (s.setCore c f).txns = s.txns := rfl
@[simp] theorem State.setCore_behind (c : Nat) (f : Core → Core) : (s.setCore c f).behind = s.behind := rfl
@[simp] theorem State.setCore_net (c : Nat) (f : Core → Core) : (s.setCore c f).net = s.net := rfl
@[simp] theorem State.setCore_epochs (c : Nat) (f : Core → Core) : (s.setCore c f).epochs = s.epochs := rfl
@[simp] theorem State.setCore_dead (c : Nat) (f : Core → Core) : (s.setCore c f).dead = s.dead := rfl
@[simp] theorem State.setCore_coarseG (c : Nat) (f : Core → Core) : (s.setCore c f).coarseG = s.coarseG := rfl
@[simp] theorem State.setCore_secs (c : Nat) (f : Core → Core) : (s.setCore c f).secs = s.secs := rfl
@[simp] theorem State.setCore_throughs (c : Nat) (f : Core → Core) : (s.setCore c f).throughs = s.throughs := rfl
@[simp] theorem State.setCore_subsc (c : Nat) (f : Core → Core) : (s.setCore c f).subsc = s.subsc := rfl
@[simp] theorem State.setCore_frBase (c : Nat) (f : Core → Core) : (s.setCore c f).frBase = s.frBase := rfl
@[simp] theorem State.setCore_frWr (c : Nat) (f : Core → Core) : (s.setCore c f).frWr = s.frWr := rfl
@[simp] theorem State.setCore_frRd (c : Nat) (f : Core → Core) : (s.setCore c f).frRd = s.frRd := rfl
@[simp] theorem State.setCore_frWait (c : Nat) (f : Core → Core) : (s.setCore c f).frWait = s.frWait := rfl
@[simp] theorem State.setCore_ras (c : Nat) (f : Core → Core) : (s.setCore c f).ras = s.ras := rfl
@[simp] theorem State.setCore_rasLost (c : Nat) (f : Core → Core) : (s.setCore c f).rasLost = s.rasLost := rfl
@[simp] theorem State.setCore_rasSeq (c : Nat) (f : Core → Core) : (s.setCore c f).rasSeq = s.rasSeq := rfl
@[simp] theorem State.setCore_power (c : Nat) (f : Core → Core) : (s.setCore c f).power = s.power := rfl
@[simp] theorem State.setCore_events (c : Nat) (f : Core → Core) : (s.setCore c f).events = s.events := rfl
@[simp] theorem State.setCore_boot (c : Nat) (f : Core → Core) : (s.setCore c f).boot = s.boot := rfl
@[simp] theorem State.setCore_comms (c : Nat) (f : Core → Core) : (s.setCore c f).comms = s.comms := rfl
@[simp] theorem State.setCore_devid (c : Nat) (f : Core → Core) : (s.setCore c f).devid = s.devid := rfl
@[simp] theorem State.setCore_deadMs (c : Nat) (f : Core → Core) : (s.setCore c f).deadMs = s.deadMs := rfl
@[simp] theorem State.setCore_traffic (c : Nat) (f : Core → Core) : (s.setCore c f).traffic = s.traffic := rfl
@[simp] theorem State.setCore_recovery (c : Nat) (f : Core → Core) : (s.setCore c f).recovery = s.recovery := rfl
@[simp] theorem State.setCore_lanesOff (c : Nat) (f : Core → Core) : (s.setCore c f).lanesOff = s.lanesOff := rfl
@[simp] theorem State.setCore_rowsOff (c : Nat) (f : Core → Core) : (s.setCore c f).rowsOff = s.rowsOff := rfl
@[simp] theorem State.setCore_time (c : Nat) (f : Core → Core) : (s.setCore c f).time = s.time := rfl
@[simp] theorem State.setCore_rrq (c : Nat) (f : Core → Core) : (s.setCore c f).rrq = s.rrq := rfl

@[simp] theorem State.setCluster_agenda (c : Nat) (f : Cluster → Cluster) : (s.setCluster c f).agenda = s.agenda := rfl
@[simp] theorem State.setCluster_due (c : Nat) (f : Cluster → Cluster) : (s.setCluster c f).due = s.due := rfl
@[simp] theorem State.setCluster_cur (c : Nat) (f : Cluster → Cluster) : (s.setCluster c f).cur = s.cur := rfl
@[simp] theorem State.setCluster_fresh (c : Nat) (f : Cluster → Cluster) : (s.setCluster c f).fresh = s.fresh := rfl
@[simp] theorem State.setCluster_names (c : Nat) (f : Cluster → Cluster) : (s.setCluster c f).names = s.names := rfl
@[simp] theorem State.setCluster_teams (c : Nat) (f : Cluster → Cluster) : (s.setCluster c f).teams = s.teams := rfl
@[simp] theorem State.setCluster_groups (c : Nat) (f : Cluster → Cluster) : (s.setCluster c f).groups = s.groups := rfl
@[simp] theorem State.setCluster_cbars (c : Nat) (f : Cluster → Cluster) : (s.setCluster c f).cbars = s.cbars := rfl
@[simp] theorem State.setCluster_launches (c : Nat) (f : Cluster → Cluster) : (s.setCluster c f).launches = s.launches := rfl
@[simp] theorem State.setCluster_queues (c : Nat) (f : Cluster → Cluster) : (s.setCluster c f).queues = s.queues := rfl
@[simp] theorem State.setCluster_supq (c : Nat) (f : Cluster → Cluster) : (s.setCluster c f).supq = s.supq := rfl
@[simp] theorem State.setCluster_ctxs (c : Nat) (f : Cluster → Cluster) : (s.setCluster c f).ctxs = s.ctxs := rfl
@[simp] theorem State.setCluster_cores (c : Nat) (f : Cluster → Cluster) : (s.setCluster c f).cores = s.cores := rfl
@[simp] theorem State.setCluster_offCores (c : Nat) (f : Cluster → Cluster) : (s.setCluster c f).offCores = s.offCores := rfl
@[simp] theorem State.setCluster_spares (c : Nat) (f : Cluster → Cluster) : (s.setCluster c f).spares = s.spares := rfl
@[simp] theorem State.setCluster_scr (c : Nat) (f : Cluster → Cluster) : (s.setCluster c f).scr = s.scr := rfl
@[simp] theorem State.setCluster_scrPsn (c : Nat) (f : Cluster → Cluster) : (s.setCluster c f).scrPsn = s.scrPsn := rfl
@[simp] theorem State.setCluster_scrUnd (c : Nat) (f : Cluster → Cluster) : (s.setCluster c f).scrUnd = s.scrUnd := rfl
@[simp] theorem State.setCluster_slotm (c : Nat) (f : Cluster → Cluster) : (s.setCluster c f).slotm = s.slotm := rfl
@[simp] theorem State.setCluster_slotUnd (c : Nat) (f : Cluster → Cluster) : (s.setCluster c f).slotUnd = s.slotUnd := rfl
@[simp] theorem State.setCluster_crv (c : Nat) (f : Cluster → Cluster) : (s.setCluster c f).crv = s.crv := rfl
@[simp] theorem State.setCluster_crvPsn (c : Nat) (f : Cluster → Cluster) : (s.setCluster c f).crvPsn = s.crvPsn := rfl
@[simp] theorem State.setCluster_crvUnd (c : Nat) (f : Cluster → Cluster) : (s.setCluster c f).crvUnd = s.crvUnd := rfl
@[simp] theorem State.setCluster_slices (c : Nat) (f : Cluster → Cluster) : (s.setCluster c f).slices = s.slices := rfl
@[simp] theorem State.setCluster_mem (c : Nat) (f : Cluster → Cluster) : (s.setCluster c f).mem = s.mem := rfl
@[simp] theorem State.setCluster_memPsn (c : Nat) (f : Cluster → Cluster) : (s.setCluster c f).memPsn = s.memPsn := rfl
@[simp] theorem State.setCluster_tlb (c : Nat) (f : Cluster → Cluster) : (s.setCluster c f).tlb = s.tlb := rfl
@[simp] theorem State.setCluster_ecmds (c : Nat) (f : Cluster → Cluster) : (s.setCluster c f).ecmds = s.ecmds := rfl
@[simp] theorem State.setCluster_chans (c : Nat) (f : Cluster → Cluster) : (s.setCluster c f).chans = s.chans := rfl
@[simp] theorem State.setCluster_dir (c : Nat) (f : Cluster → Cluster) : (s.setCluster c f).dir = s.dir := rfl
@[simp] theorem State.setCluster_txns (c : Nat) (f : Cluster → Cluster) : (s.setCluster c f).txns = s.txns := rfl
@[simp] theorem State.setCluster_behind (c : Nat) (f : Cluster → Cluster) : (s.setCluster c f).behind = s.behind := rfl
@[simp] theorem State.setCluster_net (c : Nat) (f : Cluster → Cluster) : (s.setCluster c f).net = s.net := rfl
@[simp] theorem State.setCluster_epochs (c : Nat) (f : Cluster → Cluster) : (s.setCluster c f).epochs = s.epochs := rfl
@[simp] theorem State.setCluster_dead (c : Nat) (f : Cluster → Cluster) : (s.setCluster c f).dead = s.dead := rfl
@[simp] theorem State.setCluster_coarseG (c : Nat) (f : Cluster → Cluster) : (s.setCluster c f).coarseG = s.coarseG := rfl
@[simp] theorem State.setCluster_secs (c : Nat) (f : Cluster → Cluster) : (s.setCluster c f).secs = s.secs := rfl
@[simp] theorem State.setCluster_throughs (c : Nat) (f : Cluster → Cluster) : (s.setCluster c f).throughs = s.throughs := rfl
@[simp] theorem State.setCluster_subsc (c : Nat) (f : Cluster → Cluster) : (s.setCluster c f).subsc = s.subsc := rfl
@[simp] theorem State.setCluster_frBase (c : Nat) (f : Cluster → Cluster) : (s.setCluster c f).frBase = s.frBase := rfl
@[simp] theorem State.setCluster_frWr (c : Nat) (f : Cluster → Cluster) : (s.setCluster c f).frWr = s.frWr := rfl
@[simp] theorem State.setCluster_frRd (c : Nat) (f : Cluster → Cluster) : (s.setCluster c f).frRd = s.frRd := rfl
@[simp] theorem State.setCluster_frWait (c : Nat) (f : Cluster → Cluster) : (s.setCluster c f).frWait = s.frWait := rfl
@[simp] theorem State.setCluster_ras (c : Nat) (f : Cluster → Cluster) : (s.setCluster c f).ras = s.ras := rfl
@[simp] theorem State.setCluster_rasLost (c : Nat) (f : Cluster → Cluster) : (s.setCluster c f).rasLost = s.rasLost := rfl
@[simp] theorem State.setCluster_rasSeq (c : Nat) (f : Cluster → Cluster) : (s.setCluster c f).rasSeq = s.rasSeq := rfl
@[simp] theorem State.setCluster_power (c : Nat) (f : Cluster → Cluster) : (s.setCluster c f).power = s.power := rfl
@[simp] theorem State.setCluster_events (c : Nat) (f : Cluster → Cluster) : (s.setCluster c f).events = s.events := rfl
@[simp] theorem State.setCluster_boot (c : Nat) (f : Cluster → Cluster) : (s.setCluster c f).boot = s.boot := rfl
@[simp] theorem State.setCluster_comms (c : Nat) (f : Cluster → Cluster) : (s.setCluster c f).comms = s.comms := rfl
@[simp] theorem State.setCluster_devid (c : Nat) (f : Cluster → Cluster) : (s.setCluster c f).devid = s.devid := rfl
@[simp] theorem State.setCluster_deadMs (c : Nat) (f : Cluster → Cluster) : (s.setCluster c f).deadMs = s.deadMs := rfl
@[simp] theorem State.setCluster_traffic (c : Nat) (f : Cluster → Cluster) : (s.setCluster c f).traffic = s.traffic := rfl
@[simp] theorem State.setCluster_recovery (c : Nat) (f : Cluster → Cluster) : (s.setCluster c f).recovery = s.recovery := rfl
@[simp] theorem State.setCluster_lanesOff (c : Nat) (f : Cluster → Cluster) : (s.setCluster c f).lanesOff = s.lanesOff := rfl
@[simp] theorem State.setCluster_rowsOff (c : Nat) (f : Cluster → Cluster) : (s.setCluster c f).rowsOff = s.rowsOff := rfl
@[simp] theorem State.setCluster_time (c : Nat) (f : Cluster → Cluster) : (s.setCluster c f).time = s.time := rfl
@[simp] theorem State.setCluster_rrq (c : Nat) (f : Cluster → Cluster) : (s.setCluster c f).rrq = s.rrq := rfl

@[simp] theorem State.setQueue_agenda (q : Nat) (f : Queue → Queue) : (s.setQueue q f).agenda = s.agenda := rfl
@[simp] theorem State.setQueue_due (q : Nat) (f : Queue → Queue) : (s.setQueue q f).due = s.due := rfl
@[simp] theorem State.setQueue_cur (q : Nat) (f : Queue → Queue) : (s.setQueue q f).cur = s.cur := rfl
@[simp] theorem State.setQueue_fresh (q : Nat) (f : Queue → Queue) : (s.setQueue q f).fresh = s.fresh := rfl
@[simp] theorem State.setQueue_names (q : Nat) (f : Queue → Queue) : (s.setQueue q f).names = s.names := rfl
@[simp] theorem State.setQueue_teams (q : Nat) (f : Queue → Queue) : (s.setQueue q f).teams = s.teams := rfl
@[simp] theorem State.setQueue_groups (q : Nat) (f : Queue → Queue) : (s.setQueue q f).groups = s.groups := rfl
@[simp] theorem State.setQueue_cbars (q : Nat) (f : Queue → Queue) : (s.setQueue q f).cbars = s.cbars := rfl
@[simp] theorem State.setQueue_launches (q : Nat) (f : Queue → Queue) : (s.setQueue q f).launches = s.launches := rfl
@[simp] theorem State.setQueue_supq (q : Nat) (f : Queue → Queue) : (s.setQueue q f).supq = s.supq := rfl
@[simp] theorem State.setQueue_ctxs (q : Nat) (f : Queue → Queue) : (s.setQueue q f).ctxs = s.ctxs := rfl
@[simp] theorem State.setQueue_cores (q : Nat) (f : Queue → Queue) : (s.setQueue q f).cores = s.cores := rfl
@[simp] theorem State.setQueue_offCores (q : Nat) (f : Queue → Queue) : (s.setQueue q f).offCores = s.offCores := rfl
@[simp] theorem State.setQueue_spares (q : Nat) (f : Queue → Queue) : (s.setQueue q f).spares = s.spares := rfl
@[simp] theorem State.setQueue_clusters (q : Nat) (f : Queue → Queue) : (s.setQueue q f).clusters = s.clusters := rfl
@[simp] theorem State.setQueue_scr (q : Nat) (f : Queue → Queue) : (s.setQueue q f).scr = s.scr := rfl
@[simp] theorem State.setQueue_scrPsn (q : Nat) (f : Queue → Queue) : (s.setQueue q f).scrPsn = s.scrPsn := rfl
@[simp] theorem State.setQueue_scrUnd (q : Nat) (f : Queue → Queue) : (s.setQueue q f).scrUnd = s.scrUnd := rfl
@[simp] theorem State.setQueue_slotm (q : Nat) (f : Queue → Queue) : (s.setQueue q f).slotm = s.slotm := rfl
@[simp] theorem State.setQueue_slotUnd (q : Nat) (f : Queue → Queue) : (s.setQueue q f).slotUnd = s.slotUnd := rfl
@[simp] theorem State.setQueue_crv (q : Nat) (f : Queue → Queue) : (s.setQueue q f).crv = s.crv := rfl
@[simp] theorem State.setQueue_crvPsn (q : Nat) (f : Queue → Queue) : (s.setQueue q f).crvPsn = s.crvPsn := rfl
@[simp] theorem State.setQueue_crvUnd (q : Nat) (f : Queue → Queue) : (s.setQueue q f).crvUnd = s.crvUnd := rfl
@[simp] theorem State.setQueue_slices (q : Nat) (f : Queue → Queue) : (s.setQueue q f).slices = s.slices := rfl
@[simp] theorem State.setQueue_mem (q : Nat) (f : Queue → Queue) : (s.setQueue q f).mem = s.mem := rfl
@[simp] theorem State.setQueue_memPsn (q : Nat) (f : Queue → Queue) : (s.setQueue q f).memPsn = s.memPsn := rfl
@[simp] theorem State.setQueue_tlb (q : Nat) (f : Queue → Queue) : (s.setQueue q f).tlb = s.tlb := rfl
@[simp] theorem State.setQueue_ecmds (q : Nat) (f : Queue → Queue) : (s.setQueue q f).ecmds = s.ecmds := rfl
@[simp] theorem State.setQueue_chans (q : Nat) (f : Queue → Queue) : (s.setQueue q f).chans = s.chans := rfl
@[simp] theorem State.setQueue_dir (q : Nat) (f : Queue → Queue) : (s.setQueue q f).dir = s.dir := rfl
@[simp] theorem State.setQueue_txns (q : Nat) (f : Queue → Queue) : (s.setQueue q f).txns = s.txns := rfl
@[simp] theorem State.setQueue_behind (q : Nat) (f : Queue → Queue) : (s.setQueue q f).behind = s.behind := rfl
@[simp] theorem State.setQueue_net (q : Nat) (f : Queue → Queue) : (s.setQueue q f).net = s.net := rfl
@[simp] theorem State.setQueue_epochs (q : Nat) (f : Queue → Queue) : (s.setQueue q f).epochs = s.epochs := rfl
@[simp] theorem State.setQueue_dead (q : Nat) (f : Queue → Queue) : (s.setQueue q f).dead = s.dead := rfl
@[simp] theorem State.setQueue_coarseG (q : Nat) (f : Queue → Queue) : (s.setQueue q f).coarseG = s.coarseG := rfl
@[simp] theorem State.setQueue_secs (q : Nat) (f : Queue → Queue) : (s.setQueue q f).secs = s.secs := rfl
@[simp] theorem State.setQueue_throughs (q : Nat) (f : Queue → Queue) : (s.setQueue q f).throughs = s.throughs := rfl
@[simp] theorem State.setQueue_subsc (q : Nat) (f : Queue → Queue) : (s.setQueue q f).subsc = s.subsc := rfl
@[simp] theorem State.setQueue_frBase (q : Nat) (f : Queue → Queue) : (s.setQueue q f).frBase = s.frBase := rfl
@[simp] theorem State.setQueue_frWr (q : Nat) (f : Queue → Queue) : (s.setQueue q f).frWr = s.frWr := rfl
@[simp] theorem State.setQueue_frRd (q : Nat) (f : Queue → Queue) : (s.setQueue q f).frRd = s.frRd := rfl
@[simp] theorem State.setQueue_frWait (q : Nat) (f : Queue → Queue) : (s.setQueue q f).frWait = s.frWait := rfl
@[simp] theorem State.setQueue_ras (q : Nat) (f : Queue → Queue) : (s.setQueue q f).ras = s.ras := rfl
@[simp] theorem State.setQueue_rasLost (q : Nat) (f : Queue → Queue) : (s.setQueue q f).rasLost = s.rasLost := rfl
@[simp] theorem State.setQueue_rasSeq (q : Nat) (f : Queue → Queue) : (s.setQueue q f).rasSeq = s.rasSeq := rfl
@[simp] theorem State.setQueue_power (q : Nat) (f : Queue → Queue) : (s.setQueue q f).power = s.power := rfl
@[simp] theorem State.setQueue_events (q : Nat) (f : Queue → Queue) : (s.setQueue q f).events = s.events := rfl
@[simp] theorem State.setQueue_boot (q : Nat) (f : Queue → Queue) : (s.setQueue q f).boot = s.boot := rfl
@[simp] theorem State.setQueue_comms (q : Nat) (f : Queue → Queue) : (s.setQueue q f).comms = s.comms := rfl
@[simp] theorem State.setQueue_devid (q : Nat) (f : Queue → Queue) : (s.setQueue q f).devid = s.devid := rfl
@[simp] theorem State.setQueue_deadMs (q : Nat) (f : Queue → Queue) : (s.setQueue q f).deadMs = s.deadMs := rfl
@[simp] theorem State.setQueue_traffic (q : Nat) (f : Queue → Queue) : (s.setQueue q f).traffic = s.traffic := rfl
@[simp] theorem State.setQueue_recovery (q : Nat) (f : Queue → Queue) : (s.setQueue q f).recovery = s.recovery := rfl
@[simp] theorem State.setQueue_lanesOff (q : Nat) (f : Queue → Queue) : (s.setQueue q f).lanesOff = s.lanesOff := rfl
@[simp] theorem State.setQueue_rowsOff (q : Nat) (f : Queue → Queue) : (s.setQueue q f).rowsOff = s.rowsOff := rfl
@[simp] theorem State.setQueue_time (q : Nat) (f : Queue → Queue) : (s.setQueue q f).time = s.time := rfl
@[simp] theorem State.setQueue_rrq (q : Nat) (f : Queue → Queue) : (s.setQueue q f).rrq = s.rrq := rfl

@[simp] theorem State.setChan_agenda (k : Nat) (f : Chan → Chan) : (s.setChan k f).agenda = s.agenda := rfl
@[simp] theorem State.setChan_due (k : Nat) (f : Chan → Chan) : (s.setChan k f).due = s.due := rfl
@[simp] theorem State.setChan_cur (k : Nat) (f : Chan → Chan) : (s.setChan k f).cur = s.cur := rfl
@[simp] theorem State.setChan_fresh (k : Nat) (f : Chan → Chan) : (s.setChan k f).fresh = s.fresh := rfl
@[simp] theorem State.setChan_names (k : Nat) (f : Chan → Chan) : (s.setChan k f).names = s.names := rfl
@[simp] theorem State.setChan_teams (k : Nat) (f : Chan → Chan) : (s.setChan k f).teams = s.teams := rfl
@[simp] theorem State.setChan_groups (k : Nat) (f : Chan → Chan) : (s.setChan k f).groups = s.groups := rfl
@[simp] theorem State.setChan_cbars (k : Nat) (f : Chan → Chan) : (s.setChan k f).cbars = s.cbars := rfl
@[simp] theorem State.setChan_launches (k : Nat) (f : Chan → Chan) : (s.setChan k f).launches = s.launches := rfl
@[simp] theorem State.setChan_queues (k : Nat) (f : Chan → Chan) : (s.setChan k f).queues = s.queues := rfl
@[simp] theorem State.setChan_supq (k : Nat) (f : Chan → Chan) : (s.setChan k f).supq = s.supq := rfl
@[simp] theorem State.setChan_ctxs (k : Nat) (f : Chan → Chan) : (s.setChan k f).ctxs = s.ctxs := rfl
@[simp] theorem State.setChan_cores (k : Nat) (f : Chan → Chan) : (s.setChan k f).cores = s.cores := rfl
@[simp] theorem State.setChan_offCores (k : Nat) (f : Chan → Chan) : (s.setChan k f).offCores = s.offCores := rfl
@[simp] theorem State.setChan_spares (k : Nat) (f : Chan → Chan) : (s.setChan k f).spares = s.spares := rfl
@[simp] theorem State.setChan_clusters (k : Nat) (f : Chan → Chan) : (s.setChan k f).clusters = s.clusters := rfl
@[simp] theorem State.setChan_scr (k : Nat) (f : Chan → Chan) : (s.setChan k f).scr = s.scr := rfl
@[simp] theorem State.setChan_scrPsn (k : Nat) (f : Chan → Chan) : (s.setChan k f).scrPsn = s.scrPsn := rfl
@[simp] theorem State.setChan_scrUnd (k : Nat) (f : Chan → Chan) : (s.setChan k f).scrUnd = s.scrUnd := rfl
@[simp] theorem State.setChan_slotm (k : Nat) (f : Chan → Chan) : (s.setChan k f).slotm = s.slotm := rfl
@[simp] theorem State.setChan_slotUnd (k : Nat) (f : Chan → Chan) : (s.setChan k f).slotUnd = s.slotUnd := rfl
@[simp] theorem State.setChan_crv (k : Nat) (f : Chan → Chan) : (s.setChan k f).crv = s.crv := rfl
@[simp] theorem State.setChan_crvPsn (k : Nat) (f : Chan → Chan) : (s.setChan k f).crvPsn = s.crvPsn := rfl
@[simp] theorem State.setChan_crvUnd (k : Nat) (f : Chan → Chan) : (s.setChan k f).crvUnd = s.crvUnd := rfl
@[simp] theorem State.setChan_slices (k : Nat) (f : Chan → Chan) : (s.setChan k f).slices = s.slices := rfl
@[simp] theorem State.setChan_mem (k : Nat) (f : Chan → Chan) : (s.setChan k f).mem = s.mem := rfl
@[simp] theorem State.setChan_memPsn (k : Nat) (f : Chan → Chan) : (s.setChan k f).memPsn = s.memPsn := rfl
@[simp] theorem State.setChan_tlb (k : Nat) (f : Chan → Chan) : (s.setChan k f).tlb = s.tlb := rfl
@[simp] theorem State.setChan_ecmds (k : Nat) (f : Chan → Chan) : (s.setChan k f).ecmds = s.ecmds := rfl
@[simp] theorem State.setChan_dir (k : Nat) (f : Chan → Chan) : (s.setChan k f).dir = s.dir := rfl
@[simp] theorem State.setChan_txns (k : Nat) (f : Chan → Chan) : (s.setChan k f).txns = s.txns := rfl
@[simp] theorem State.setChan_behind (k : Nat) (f : Chan → Chan) : (s.setChan k f).behind = s.behind := rfl
@[simp] theorem State.setChan_net (k : Nat) (f : Chan → Chan) : (s.setChan k f).net = s.net := rfl
@[simp] theorem State.setChan_epochs (k : Nat) (f : Chan → Chan) : (s.setChan k f).epochs = s.epochs := rfl
@[simp] theorem State.setChan_dead (k : Nat) (f : Chan → Chan) : (s.setChan k f).dead = s.dead := rfl
@[simp] theorem State.setChan_coarseG (k : Nat) (f : Chan → Chan) : (s.setChan k f).coarseG = s.coarseG := rfl
@[simp] theorem State.setChan_secs (k : Nat) (f : Chan → Chan) : (s.setChan k f).secs = s.secs := rfl
@[simp] theorem State.setChan_throughs (k : Nat) (f : Chan → Chan) : (s.setChan k f).throughs = s.throughs := rfl
@[simp] theorem State.setChan_subsc (k : Nat) (f : Chan → Chan) : (s.setChan k f).subsc = s.subsc := rfl
@[simp] theorem State.setChan_frBase (k : Nat) (f : Chan → Chan) : (s.setChan k f).frBase = s.frBase := rfl
@[simp] theorem State.setChan_frWr (k : Nat) (f : Chan → Chan) : (s.setChan k f).frWr = s.frWr := rfl
@[simp] theorem State.setChan_frRd (k : Nat) (f : Chan → Chan) : (s.setChan k f).frRd = s.frRd := rfl
@[simp] theorem State.setChan_frWait (k : Nat) (f : Chan → Chan) : (s.setChan k f).frWait = s.frWait := rfl
@[simp] theorem State.setChan_ras (k : Nat) (f : Chan → Chan) : (s.setChan k f).ras = s.ras := rfl
@[simp] theorem State.setChan_rasLost (k : Nat) (f : Chan → Chan) : (s.setChan k f).rasLost = s.rasLost := rfl
@[simp] theorem State.setChan_rasSeq (k : Nat) (f : Chan → Chan) : (s.setChan k f).rasSeq = s.rasSeq := rfl
@[simp] theorem State.setChan_power (k : Nat) (f : Chan → Chan) : (s.setChan k f).power = s.power := rfl
@[simp] theorem State.setChan_events (k : Nat) (f : Chan → Chan) : (s.setChan k f).events = s.events := rfl
@[simp] theorem State.setChan_boot (k : Nat) (f : Chan → Chan) : (s.setChan k f).boot = s.boot := rfl
@[simp] theorem State.setChan_comms (k : Nat) (f : Chan → Chan) : (s.setChan k f).comms = s.comms := rfl
@[simp] theorem State.setChan_devid (k : Nat) (f : Chan → Chan) : (s.setChan k f).devid = s.devid := rfl
@[simp] theorem State.setChan_deadMs (k : Nat) (f : Chan → Chan) : (s.setChan k f).deadMs = s.deadMs := rfl
@[simp] theorem State.setChan_traffic (k : Nat) (f : Chan → Chan) : (s.setChan k f).traffic = s.traffic := rfl
@[simp] theorem State.setChan_recovery (k : Nat) (f : Chan → Chan) : (s.setChan k f).recovery = s.recovery := rfl
@[simp] theorem State.setChan_lanesOff (k : Nat) (f : Chan → Chan) : (s.setChan k f).lanesOff = s.lanesOff := rfl
@[simp] theorem State.setChan_rowsOff (k : Nat) (f : Chan → Chan) : (s.setChan k f).rowsOff = s.rowsOff := rfl
@[simp] theorem State.setChan_time (k : Nat) (f : Chan → Chan) : (s.setChan k f).time = s.time := rfl
@[simp] theorem State.setChan_rrq (k : Nat) (f : Chan → Chan) : (s.setChan k f).rrq = s.rrq := rfl

@[simp] theorem State.setECmd_agenda (k : Nat) (f : ECmd → ECmd) : (s.setECmd k f).agenda = s.agenda := rfl
@[simp] theorem State.setECmd_due (k : Nat) (f : ECmd → ECmd) : (s.setECmd k f).due = s.due := rfl
@[simp] theorem State.setECmd_cur (k : Nat) (f : ECmd → ECmd) : (s.setECmd k f).cur = s.cur := rfl
@[simp] theorem State.setECmd_fresh (k : Nat) (f : ECmd → ECmd) : (s.setECmd k f).fresh = s.fresh := rfl
@[simp] theorem State.setECmd_names (k : Nat) (f : ECmd → ECmd) : (s.setECmd k f).names = s.names := rfl
@[simp] theorem State.setECmd_teams (k : Nat) (f : ECmd → ECmd) : (s.setECmd k f).teams = s.teams := rfl
@[simp] theorem State.setECmd_groups (k : Nat) (f : ECmd → ECmd) : (s.setECmd k f).groups = s.groups := rfl
@[simp] theorem State.setECmd_cbars (k : Nat) (f : ECmd → ECmd) : (s.setECmd k f).cbars = s.cbars := rfl
@[simp] theorem State.setECmd_launches (k : Nat) (f : ECmd → ECmd) : (s.setECmd k f).launches = s.launches := rfl
@[simp] theorem State.setECmd_queues (k : Nat) (f : ECmd → ECmd) : (s.setECmd k f).queues = s.queues := rfl
@[simp] theorem State.setECmd_supq (k : Nat) (f : ECmd → ECmd) : (s.setECmd k f).supq = s.supq := rfl
@[simp] theorem State.setECmd_ctxs (k : Nat) (f : ECmd → ECmd) : (s.setECmd k f).ctxs = s.ctxs := rfl
@[simp] theorem State.setECmd_cores (k : Nat) (f : ECmd → ECmd) : (s.setECmd k f).cores = s.cores := rfl
@[simp] theorem State.setECmd_offCores (k : Nat) (f : ECmd → ECmd) : (s.setECmd k f).offCores = s.offCores := rfl
@[simp] theorem State.setECmd_spares (k : Nat) (f : ECmd → ECmd) : (s.setECmd k f).spares = s.spares := rfl
@[simp] theorem State.setECmd_clusters (k : Nat) (f : ECmd → ECmd) : (s.setECmd k f).clusters = s.clusters := rfl
@[simp] theorem State.setECmd_scr (k : Nat) (f : ECmd → ECmd) : (s.setECmd k f).scr = s.scr := rfl
@[simp] theorem State.setECmd_scrPsn (k : Nat) (f : ECmd → ECmd) : (s.setECmd k f).scrPsn = s.scrPsn := rfl
@[simp] theorem State.setECmd_scrUnd (k : Nat) (f : ECmd → ECmd) : (s.setECmd k f).scrUnd = s.scrUnd := rfl
@[simp] theorem State.setECmd_slotm (k : Nat) (f : ECmd → ECmd) : (s.setECmd k f).slotm = s.slotm := rfl
@[simp] theorem State.setECmd_slotUnd (k : Nat) (f : ECmd → ECmd) : (s.setECmd k f).slotUnd = s.slotUnd := rfl
@[simp] theorem State.setECmd_crv (k : Nat) (f : ECmd → ECmd) : (s.setECmd k f).crv = s.crv := rfl
@[simp] theorem State.setECmd_crvPsn (k : Nat) (f : ECmd → ECmd) : (s.setECmd k f).crvPsn = s.crvPsn := rfl
@[simp] theorem State.setECmd_crvUnd (k : Nat) (f : ECmd → ECmd) : (s.setECmd k f).crvUnd = s.crvUnd := rfl
@[simp] theorem State.setECmd_slices (k : Nat) (f : ECmd → ECmd) : (s.setECmd k f).slices = s.slices := rfl
@[simp] theorem State.setECmd_mem (k : Nat) (f : ECmd → ECmd) : (s.setECmd k f).mem = s.mem := rfl
@[simp] theorem State.setECmd_memPsn (k : Nat) (f : ECmd → ECmd) : (s.setECmd k f).memPsn = s.memPsn := rfl
@[simp] theorem State.setECmd_tlb (k : Nat) (f : ECmd → ECmd) : (s.setECmd k f).tlb = s.tlb := rfl
@[simp] theorem State.setECmd_chans (k : Nat) (f : ECmd → ECmd) : (s.setECmd k f).chans = s.chans := rfl
@[simp] theorem State.setECmd_dir (k : Nat) (f : ECmd → ECmd) : (s.setECmd k f).dir = s.dir := rfl
@[simp] theorem State.setECmd_txns (k : Nat) (f : ECmd → ECmd) : (s.setECmd k f).txns = s.txns := rfl
@[simp] theorem State.setECmd_behind (k : Nat) (f : ECmd → ECmd) : (s.setECmd k f).behind = s.behind := rfl
@[simp] theorem State.setECmd_net (k : Nat) (f : ECmd → ECmd) : (s.setECmd k f).net = s.net := rfl
@[simp] theorem State.setECmd_epochs (k : Nat) (f : ECmd → ECmd) : (s.setECmd k f).epochs = s.epochs := rfl
@[simp] theorem State.setECmd_dead (k : Nat) (f : ECmd → ECmd) : (s.setECmd k f).dead = s.dead := rfl
@[simp] theorem State.setECmd_coarseG (k : Nat) (f : ECmd → ECmd) : (s.setECmd k f).coarseG = s.coarseG := rfl
@[simp] theorem State.setECmd_secs (k : Nat) (f : ECmd → ECmd) : (s.setECmd k f).secs = s.secs := rfl
@[simp] theorem State.setECmd_throughs (k : Nat) (f : ECmd → ECmd) : (s.setECmd k f).throughs = s.throughs := rfl
@[simp] theorem State.setECmd_subsc (k : Nat) (f : ECmd → ECmd) : (s.setECmd k f).subsc = s.subsc := rfl
@[simp] theorem State.setECmd_frBase (k : Nat) (f : ECmd → ECmd) : (s.setECmd k f).frBase = s.frBase := rfl
@[simp] theorem State.setECmd_frWr (k : Nat) (f : ECmd → ECmd) : (s.setECmd k f).frWr = s.frWr := rfl
@[simp] theorem State.setECmd_frRd (k : Nat) (f : ECmd → ECmd) : (s.setECmd k f).frRd = s.frRd := rfl
@[simp] theorem State.setECmd_frWait (k : Nat) (f : ECmd → ECmd) : (s.setECmd k f).frWait = s.frWait := rfl
@[simp] theorem State.setECmd_ras (k : Nat) (f : ECmd → ECmd) : (s.setECmd k f).ras = s.ras := rfl
@[simp] theorem State.setECmd_rasLost (k : Nat) (f : ECmd → ECmd) : (s.setECmd k f).rasLost = s.rasLost := rfl
@[simp] theorem State.setECmd_rasSeq (k : Nat) (f : ECmd → ECmd) : (s.setECmd k f).rasSeq = s.rasSeq := rfl
@[simp] theorem State.setECmd_power (k : Nat) (f : ECmd → ECmd) : (s.setECmd k f).power = s.power := rfl
@[simp] theorem State.setECmd_events (k : Nat) (f : ECmd → ECmd) : (s.setECmd k f).events = s.events := rfl
@[simp] theorem State.setECmd_boot (k : Nat) (f : ECmd → ECmd) : (s.setECmd k f).boot = s.boot := rfl
@[simp] theorem State.setECmd_comms (k : Nat) (f : ECmd → ECmd) : (s.setECmd k f).comms = s.comms := rfl
@[simp] theorem State.setECmd_devid (k : Nat) (f : ECmd → ECmd) : (s.setECmd k f).devid = s.devid := rfl
@[simp] theorem State.setECmd_deadMs (k : Nat) (f : ECmd → ECmd) : (s.setECmd k f).deadMs = s.deadMs := rfl
@[simp] theorem State.setECmd_traffic (k : Nat) (f : ECmd → ECmd) : (s.setECmd k f).traffic = s.traffic := rfl
@[simp] theorem State.setECmd_recovery (k : Nat) (f : ECmd → ECmd) : (s.setECmd k f).recovery = s.recovery := rfl
@[simp] theorem State.setECmd_lanesOff (k : Nat) (f : ECmd → ECmd) : (s.setECmd k f).lanesOff = s.lanesOff := rfl
@[simp] theorem State.setECmd_rowsOff (k : Nat) (f : ECmd → ECmd) : (s.setECmd k f).rowsOff = s.rowsOff := rfl
@[simp] theorem State.setECmd_time (k : Nat) (f : ECmd → ECmd) : (s.setECmd k f).time = s.time := rfl
@[simp] theorem State.setECmd_rrq (k : Nat) (f : ECmd → ECmd) : (s.setECmd k f).rrq = s.rrq := rfl

@[simp] theorem State.later_agenda (e : Event) : (s.later e).agenda = s.agenda := rfl
@[simp] theorem State.later_cur (e : Event) : (s.later e).cur = s.cur := rfl
@[simp] theorem State.later_fresh (e : Event) : (s.later e).fresh = s.fresh := rfl
@[simp] theorem State.later_names (e : Event) : (s.later e).names = s.names := rfl
@[simp] theorem State.later_teams (e : Event) : (s.later e).teams = s.teams := rfl
@[simp] theorem State.later_groups (e : Event) : (s.later e).groups = s.groups := rfl
@[simp] theorem State.later_cbars (e : Event) : (s.later e).cbars = s.cbars := rfl
@[simp] theorem State.later_launches (e : Event) : (s.later e).launches = s.launches := rfl
@[simp] theorem State.later_queues (e : Event) : (s.later e).queues = s.queues := rfl
@[simp] theorem State.later_supq (e : Event) : (s.later e).supq = s.supq := rfl
@[simp] theorem State.later_ctxs (e : Event) : (s.later e).ctxs = s.ctxs := rfl
@[simp] theorem State.later_cores (e : Event) : (s.later e).cores = s.cores := rfl
@[simp] theorem State.later_offCores (e : Event) : (s.later e).offCores = s.offCores := rfl
@[simp] theorem State.later_spares (e : Event) : (s.later e).spares = s.spares := rfl
@[simp] theorem State.later_clusters (e : Event) : (s.later e).clusters = s.clusters := rfl
@[simp] theorem State.later_scr (e : Event) : (s.later e).scr = s.scr := rfl
@[simp] theorem State.later_scrPsn (e : Event) : (s.later e).scrPsn = s.scrPsn := rfl
@[simp] theorem State.later_scrUnd (e : Event) : (s.later e).scrUnd = s.scrUnd := rfl
@[simp] theorem State.later_slotm (e : Event) : (s.later e).slotm = s.slotm := rfl
@[simp] theorem State.later_slotUnd (e : Event) : (s.later e).slotUnd = s.slotUnd := rfl
@[simp] theorem State.later_crv (e : Event) : (s.later e).crv = s.crv := rfl
@[simp] theorem State.later_crvPsn (e : Event) : (s.later e).crvPsn = s.crvPsn := rfl
@[simp] theorem State.later_crvUnd (e : Event) : (s.later e).crvUnd = s.crvUnd := rfl
@[simp] theorem State.later_slices (e : Event) : (s.later e).slices = s.slices := rfl
@[simp] theorem State.later_mem (e : Event) : (s.later e).mem = s.mem := rfl
@[simp] theorem State.later_memPsn (e : Event) : (s.later e).memPsn = s.memPsn := rfl
@[simp] theorem State.later_tlb (e : Event) : (s.later e).tlb = s.tlb := rfl
@[simp] theorem State.later_ecmds (e : Event) : (s.later e).ecmds = s.ecmds := rfl
@[simp] theorem State.later_chans (e : Event) : (s.later e).chans = s.chans := rfl
@[simp] theorem State.later_dir (e : Event) : (s.later e).dir = s.dir := rfl
@[simp] theorem State.later_txns (e : Event) : (s.later e).txns = s.txns := rfl
@[simp] theorem State.later_behind (e : Event) : (s.later e).behind = s.behind := rfl
@[simp] theorem State.later_net (e : Event) : (s.later e).net = s.net := rfl
@[simp] theorem State.later_epochs (e : Event) : (s.later e).epochs = s.epochs := rfl
@[simp] theorem State.later_dead (e : Event) : (s.later e).dead = s.dead := rfl
@[simp] theorem State.later_coarseG (e : Event) : (s.later e).coarseG = s.coarseG := rfl
@[simp] theorem State.later_secs (e : Event) : (s.later e).secs = s.secs := rfl
@[simp] theorem State.later_throughs (e : Event) : (s.later e).throughs = s.throughs := rfl
@[simp] theorem State.later_subsc (e : Event) : (s.later e).subsc = s.subsc := rfl
@[simp] theorem State.later_frBase (e : Event) : (s.later e).frBase = s.frBase := rfl
@[simp] theorem State.later_frWr (e : Event) : (s.later e).frWr = s.frWr := rfl
@[simp] theorem State.later_frRd (e : Event) : (s.later e).frRd = s.frRd := rfl
@[simp] theorem State.later_frWait (e : Event) : (s.later e).frWait = s.frWait := rfl
@[simp] theorem State.later_ras (e : Event) : (s.later e).ras = s.ras := rfl
@[simp] theorem State.later_rasLost (e : Event) : (s.later e).rasLost = s.rasLost := rfl
@[simp] theorem State.later_rasSeq (e : Event) : (s.later e).rasSeq = s.rasSeq := rfl
@[simp] theorem State.later_power (e : Event) : (s.later e).power = s.power := rfl
@[simp] theorem State.later_events (e : Event) : (s.later e).events = s.events := rfl
@[simp] theorem State.later_boot (e : Event) : (s.later e).boot = s.boot := rfl
@[simp] theorem State.later_comms (e : Event) : (s.later e).comms = s.comms := rfl
@[simp] theorem State.later_devid (e : Event) : (s.later e).devid = s.devid := rfl
@[simp] theorem State.later_deadMs (e : Event) : (s.later e).deadMs = s.deadMs := rfl
@[simp] theorem State.later_traffic (e : Event) : (s.later e).traffic = s.traffic := rfl
@[simp] theorem State.later_recovery (e : Event) : (s.later e).recovery = s.recovery := rfl
@[simp] theorem State.later_lanesOff (e : Event) : (s.later e).lanesOff = s.lanesOff := rfl
@[simp] theorem State.later_rowsOff (e : Event) : (s.later e).rowsOff = s.rowsOff := rfl
@[simp] theorem State.later_time (e : Event) : (s.later e).time = s.time := rfl
@[simp] theorem State.later_rrq (e : Event) : (s.later e).rrq = s.rrq := rfl

@[simp] theorem State.send_agenda (d : Nat) (e : Event) : (s.send d e).agenda = s.agenda := rfl
@[simp] theorem State.send_due (d : Nat) (e : Event) : (s.send d e).due = s.due := rfl
@[simp] theorem State.send_cur (d : Nat) (e : Event) : (s.send d e).cur = s.cur := rfl
@[simp] theorem State.send_fresh (d : Nat) (e : Event) : (s.send d e).fresh = s.fresh := rfl
@[simp] theorem State.send_names (d : Nat) (e : Event) : (s.send d e).names = s.names := rfl
@[simp] theorem State.send_teams (d : Nat) (e : Event) : (s.send d e).teams = s.teams := rfl
@[simp] theorem State.send_groups (d : Nat) (e : Event) : (s.send d e).groups = s.groups := rfl
@[simp] theorem State.send_cbars (d : Nat) (e : Event) : (s.send d e).cbars = s.cbars := rfl
@[simp] theorem State.send_launches (d : Nat) (e : Event) : (s.send d e).launches = s.launches := rfl
@[simp] theorem State.send_queues (d : Nat) (e : Event) : (s.send d e).queues = s.queues := rfl
@[simp] theorem State.send_supq (d : Nat) (e : Event) : (s.send d e).supq = s.supq := rfl
@[simp] theorem State.send_ctxs (d : Nat) (e : Event) : (s.send d e).ctxs = s.ctxs := rfl
@[simp] theorem State.send_cores (d : Nat) (e : Event) : (s.send d e).cores = s.cores := rfl
@[simp] theorem State.send_offCores (d : Nat) (e : Event) : (s.send d e).offCores = s.offCores := rfl
@[simp] theorem State.send_spares (d : Nat) (e : Event) : (s.send d e).spares = s.spares := rfl
@[simp] theorem State.send_clusters (d : Nat) (e : Event) : (s.send d e).clusters = s.clusters := rfl
@[simp] theorem State.send_scr (d : Nat) (e : Event) : (s.send d e).scr = s.scr := rfl
@[simp] theorem State.send_scrPsn (d : Nat) (e : Event) : (s.send d e).scrPsn = s.scrPsn := rfl
@[simp] theorem State.send_scrUnd (d : Nat) (e : Event) : (s.send d e).scrUnd = s.scrUnd := rfl
@[simp] theorem State.send_slotm (d : Nat) (e : Event) : (s.send d e).slotm = s.slotm := rfl
@[simp] theorem State.send_slotUnd (d : Nat) (e : Event) : (s.send d e).slotUnd = s.slotUnd := rfl
@[simp] theorem State.send_crv (d : Nat) (e : Event) : (s.send d e).crv = s.crv := rfl
@[simp] theorem State.send_crvPsn (d : Nat) (e : Event) : (s.send d e).crvPsn = s.crvPsn := rfl
@[simp] theorem State.send_crvUnd (d : Nat) (e : Event) : (s.send d e).crvUnd = s.crvUnd := rfl
@[simp] theorem State.send_slices (d : Nat) (e : Event) : (s.send d e).slices = s.slices := rfl
@[simp] theorem State.send_mem (d : Nat) (e : Event) : (s.send d e).mem = s.mem := rfl
@[simp] theorem State.send_memPsn (d : Nat) (e : Event) : (s.send d e).memPsn = s.memPsn := rfl
@[simp] theorem State.send_tlb (d : Nat) (e : Event) : (s.send d e).tlb = s.tlb := rfl
@[simp] theorem State.send_ecmds (d : Nat) (e : Event) : (s.send d e).ecmds = s.ecmds := rfl
@[simp] theorem State.send_chans (d : Nat) (e : Event) : (s.send d e).chans = s.chans := rfl
@[simp] theorem State.send_dir (d : Nat) (e : Event) : (s.send d e).dir = s.dir := rfl
@[simp] theorem State.send_txns (d : Nat) (e : Event) : (s.send d e).txns = s.txns := rfl
@[simp] theorem State.send_behind (d : Nat) (e : Event) : (s.send d e).behind = s.behind := rfl
@[simp] theorem State.send_epochs (d : Nat) (e : Event) : (s.send d e).epochs = s.epochs := rfl
@[simp] theorem State.send_dead (d : Nat) (e : Event) : (s.send d e).dead = s.dead := rfl
@[simp] theorem State.send_coarseG (d : Nat) (e : Event) : (s.send d e).coarseG = s.coarseG := rfl
@[simp] theorem State.send_secs (d : Nat) (e : Event) : (s.send d e).secs = s.secs := rfl
@[simp] theorem State.send_throughs (d : Nat) (e : Event) : (s.send d e).throughs = s.throughs := rfl
@[simp] theorem State.send_subsc (d : Nat) (e : Event) : (s.send d e).subsc = s.subsc := rfl
@[simp] theorem State.send_frBase (d : Nat) (e : Event) : (s.send d e).frBase = s.frBase := rfl
@[simp] theorem State.send_frWr (d : Nat) (e : Event) : (s.send d e).frWr = s.frWr := rfl
@[simp] theorem State.send_frRd (d : Nat) (e : Event) : (s.send d e).frRd = s.frRd := rfl
@[simp] theorem State.send_frWait (d : Nat) (e : Event) : (s.send d e).frWait = s.frWait := rfl
@[simp] theorem State.send_ras (d : Nat) (e : Event) : (s.send d e).ras = s.ras := rfl
@[simp] theorem State.send_rasLost (d : Nat) (e : Event) : (s.send d e).rasLost = s.rasLost := rfl
@[simp] theorem State.send_rasSeq (d : Nat) (e : Event) : (s.send d e).rasSeq = s.rasSeq := rfl
@[simp] theorem State.send_power (d : Nat) (e : Event) : (s.send d e).power = s.power := rfl
@[simp] theorem State.send_events (d : Nat) (e : Event) : (s.send d e).events = s.events := rfl
@[simp] theorem State.send_boot (d : Nat) (e : Event) : (s.send d e).boot = s.boot := rfl
@[simp] theorem State.send_comms (d : Nat) (e : Event) : (s.send d e).comms = s.comms := rfl
@[simp] theorem State.send_devid (d : Nat) (e : Event) : (s.send d e).devid = s.devid := rfl
@[simp] theorem State.send_deadMs (d : Nat) (e : Event) : (s.send d e).deadMs = s.deadMs := rfl
@[simp] theorem State.send_traffic (d : Nat) (e : Event) : (s.send d e).traffic = s.traffic := rfl
@[simp] theorem State.send_recovery (d : Nat) (e : Event) : (s.send d e).recovery = s.recovery := rfl
@[simp] theorem State.send_lanesOff (d : Nat) (e : Event) : (s.send d e).lanesOff = s.lanesOff := rfl
@[simp] theorem State.send_rowsOff (d : Nat) (e : Event) : (s.send d e).rowsOff = s.rowsOff := rfl
@[simp] theorem State.send_time (d : Nat) (e : Event) : (s.send d e).time = s.time := rfl
@[simp] theorem State.send_rrq (d : Nat) (e : Event) : (s.send d e).rrq = s.rrq := rfl

@[simp] theorem State.setCtx_agenda (c : Nat) (f : Ctx → Ctx) : (s.setCtx c f).agenda = s.agenda := by unfold State.setCtx; split <;> rfl
@[simp] theorem State.setCtx_due (c : Nat) (f : Ctx → Ctx) : (s.setCtx c f).due = s.due := by unfold State.setCtx; split <;> rfl
@[simp] theorem State.setCtx_cur (c : Nat) (f : Ctx → Ctx) : (s.setCtx c f).cur = s.cur := by unfold State.setCtx; split <;> rfl
@[simp] theorem State.setCtx_fresh (c : Nat) (f : Ctx → Ctx) : (s.setCtx c f).fresh = s.fresh := by unfold State.setCtx; split <;> rfl
@[simp] theorem State.setCtx_names (c : Nat) (f : Ctx → Ctx) : (s.setCtx c f).names = s.names := by unfold State.setCtx; split <;> rfl
@[simp] theorem State.setCtx_teams (c : Nat) (f : Ctx → Ctx) : (s.setCtx c f).teams = s.teams := by unfold State.setCtx; split <;> rfl
@[simp] theorem State.setCtx_groups (c : Nat) (f : Ctx → Ctx) : (s.setCtx c f).groups = s.groups := by unfold State.setCtx; split <;> rfl
@[simp] theorem State.setCtx_cbars (c : Nat) (f : Ctx → Ctx) : (s.setCtx c f).cbars = s.cbars := by unfold State.setCtx; split <;> rfl
@[simp] theorem State.setCtx_launches (c : Nat) (f : Ctx → Ctx) : (s.setCtx c f).launches = s.launches := by unfold State.setCtx; split <;> rfl
@[simp] theorem State.setCtx_queues (c : Nat) (f : Ctx → Ctx) : (s.setCtx c f).queues = s.queues := by unfold State.setCtx; split <;> rfl
@[simp] theorem State.setCtx_supq (c : Nat) (f : Ctx → Ctx) : (s.setCtx c f).supq = s.supq := by unfold State.setCtx; split <;> rfl
@[simp] theorem State.setCtx_cores (c : Nat) (f : Ctx → Ctx) : (s.setCtx c f).cores = s.cores := by unfold State.setCtx; split <;> rfl
@[simp] theorem State.setCtx_offCores (c : Nat) (f : Ctx → Ctx) : (s.setCtx c f).offCores = s.offCores := by unfold State.setCtx; split <;> rfl
@[simp] theorem State.setCtx_spares (c : Nat) (f : Ctx → Ctx) : (s.setCtx c f).spares = s.spares := by unfold State.setCtx; split <;> rfl
@[simp] theorem State.setCtx_clusters (c : Nat) (f : Ctx → Ctx) : (s.setCtx c f).clusters = s.clusters := by unfold State.setCtx; split <;> rfl
@[simp] theorem State.setCtx_scr (c : Nat) (f : Ctx → Ctx) : (s.setCtx c f).scr = s.scr := by unfold State.setCtx; split <;> rfl
@[simp] theorem State.setCtx_scrPsn (c : Nat) (f : Ctx → Ctx) : (s.setCtx c f).scrPsn = s.scrPsn := by unfold State.setCtx; split <;> rfl
@[simp] theorem State.setCtx_scrUnd (c : Nat) (f : Ctx → Ctx) : (s.setCtx c f).scrUnd = s.scrUnd := by unfold State.setCtx; split <;> rfl
@[simp] theorem State.setCtx_slotm (c : Nat) (f : Ctx → Ctx) : (s.setCtx c f).slotm = s.slotm := by unfold State.setCtx; split <;> rfl
@[simp] theorem State.setCtx_slotUnd (c : Nat) (f : Ctx → Ctx) : (s.setCtx c f).slotUnd = s.slotUnd := by unfold State.setCtx; split <;> rfl
@[simp] theorem State.setCtx_crv (c : Nat) (f : Ctx → Ctx) : (s.setCtx c f).crv = s.crv := by unfold State.setCtx; split <;> rfl
@[simp] theorem State.setCtx_crvPsn (c : Nat) (f : Ctx → Ctx) : (s.setCtx c f).crvPsn = s.crvPsn := by unfold State.setCtx; split <;> rfl
@[simp] theorem State.setCtx_crvUnd (c : Nat) (f : Ctx → Ctx) : (s.setCtx c f).crvUnd = s.crvUnd := by unfold State.setCtx; split <;> rfl
@[simp] theorem State.setCtx_slices (c : Nat) (f : Ctx → Ctx) : (s.setCtx c f).slices = s.slices := by unfold State.setCtx; split <;> rfl
@[simp] theorem State.setCtx_mem (c : Nat) (f : Ctx → Ctx) : (s.setCtx c f).mem = s.mem := by unfold State.setCtx; split <;> rfl
@[simp] theorem State.setCtx_memPsn (c : Nat) (f : Ctx → Ctx) : (s.setCtx c f).memPsn = s.memPsn := by unfold State.setCtx; split <;> rfl
@[simp] theorem State.setCtx_tlb (c : Nat) (f : Ctx → Ctx) : (s.setCtx c f).tlb = s.tlb := by unfold State.setCtx; split <;> rfl
@[simp] theorem State.setCtx_ecmds (c : Nat) (f : Ctx → Ctx) : (s.setCtx c f).ecmds = s.ecmds := by unfold State.setCtx; split <;> rfl
@[simp] theorem State.setCtx_chans (c : Nat) (f : Ctx → Ctx) : (s.setCtx c f).chans = s.chans := by unfold State.setCtx; split <;> rfl
@[simp] theorem State.setCtx_dir (c : Nat) (f : Ctx → Ctx) : (s.setCtx c f).dir = s.dir := by unfold State.setCtx; split <;> rfl
@[simp] theorem State.setCtx_txns (c : Nat) (f : Ctx → Ctx) : (s.setCtx c f).txns = s.txns := by unfold State.setCtx; split <;> rfl
@[simp] theorem State.setCtx_behind (c : Nat) (f : Ctx → Ctx) : (s.setCtx c f).behind = s.behind := by unfold State.setCtx; split <;> rfl
@[simp] theorem State.setCtx_net (c : Nat) (f : Ctx → Ctx) : (s.setCtx c f).net = s.net := by unfold State.setCtx; split <;> rfl
@[simp] theorem State.setCtx_epochs (c : Nat) (f : Ctx → Ctx) : (s.setCtx c f).epochs = s.epochs := by unfold State.setCtx; split <;> rfl
@[simp] theorem State.setCtx_dead (c : Nat) (f : Ctx → Ctx) : (s.setCtx c f).dead = s.dead := by unfold State.setCtx; split <;> rfl
@[simp] theorem State.setCtx_coarseG (c : Nat) (f : Ctx → Ctx) : (s.setCtx c f).coarseG = s.coarseG := by unfold State.setCtx; split <;> rfl
@[simp] theorem State.setCtx_secs (c : Nat) (f : Ctx → Ctx) : (s.setCtx c f).secs = s.secs := by unfold State.setCtx; split <;> rfl
@[simp] theorem State.setCtx_throughs (c : Nat) (f : Ctx → Ctx) : (s.setCtx c f).throughs = s.throughs := by unfold State.setCtx; split <;> rfl
@[simp] theorem State.setCtx_subsc (c : Nat) (f : Ctx → Ctx) : (s.setCtx c f).subsc = s.subsc := by unfold State.setCtx; split <;> rfl
@[simp] theorem State.setCtx_frBase (c : Nat) (f : Ctx → Ctx) : (s.setCtx c f).frBase = s.frBase := by unfold State.setCtx; split <;> rfl
@[simp] theorem State.setCtx_frWr (c : Nat) (f : Ctx → Ctx) : (s.setCtx c f).frWr = s.frWr := by unfold State.setCtx; split <;> rfl
@[simp] theorem State.setCtx_frRd (c : Nat) (f : Ctx → Ctx) : (s.setCtx c f).frRd = s.frRd := by unfold State.setCtx; split <;> rfl
@[simp] theorem State.setCtx_frWait (c : Nat) (f : Ctx → Ctx) : (s.setCtx c f).frWait = s.frWait := by unfold State.setCtx; split <;> rfl
@[simp] theorem State.setCtx_ras (c : Nat) (f : Ctx → Ctx) : (s.setCtx c f).ras = s.ras := by unfold State.setCtx; split <;> rfl
@[simp] theorem State.setCtx_rasLost (c : Nat) (f : Ctx → Ctx) : (s.setCtx c f).rasLost = s.rasLost := by unfold State.setCtx; split <;> rfl
@[simp] theorem State.setCtx_rasSeq (c : Nat) (f : Ctx → Ctx) : (s.setCtx c f).rasSeq = s.rasSeq := by unfold State.setCtx; split <;> rfl
@[simp] theorem State.setCtx_power (c : Nat) (f : Ctx → Ctx) : (s.setCtx c f).power = s.power := by unfold State.setCtx; split <;> rfl
@[simp] theorem State.setCtx_events (c : Nat) (f : Ctx → Ctx) : (s.setCtx c f).events = s.events := by unfold State.setCtx; split <;> rfl
@[simp] theorem State.setCtx_boot (c : Nat) (f : Ctx → Ctx) : (s.setCtx c f).boot = s.boot := by unfold State.setCtx; split <;> rfl
@[simp] theorem State.setCtx_comms (c : Nat) (f : Ctx → Ctx) : (s.setCtx c f).comms = s.comms := by unfold State.setCtx; split <;> rfl
@[simp] theorem State.setCtx_devid (c : Nat) (f : Ctx → Ctx) : (s.setCtx c f).devid = s.devid := by unfold State.setCtx; split <;> rfl
@[simp] theorem State.setCtx_deadMs (c : Nat) (f : Ctx → Ctx) : (s.setCtx c f).deadMs = s.deadMs := by unfold State.setCtx; split <;> rfl
@[simp] theorem State.setCtx_traffic (c : Nat) (f : Ctx → Ctx) : (s.setCtx c f).traffic = s.traffic := by unfold State.setCtx; split <;> rfl
@[simp] theorem State.setCtx_recovery (c : Nat) (f : Ctx → Ctx) : (s.setCtx c f).recovery = s.recovery := by unfold State.setCtx; split <;> rfl
@[simp] theorem State.setCtx_lanesOff (c : Nat) (f : Ctx → Ctx) : (s.setCtx c f).lanesOff = s.lanesOff := by unfold State.setCtx; split <;> rfl
@[simp] theorem State.setCtx_rowsOff (c : Nat) (f : Ctx → Ctx) : (s.setCtx c f).rowsOff = s.rowsOff := by unfold State.setCtx; split <;> rfl
@[simp] theorem State.setCtx_time (c : Nat) (f : Ctx → Ctx) : (s.setCtx c f).time = s.time := by unfold State.setCtx; split <;> rfl
@[simp] theorem State.setCtx_rrq (c : Nat) (f : Ctx → Ctx) : (s.setCtx c f).rrq = s.rrq := by unfold State.setCtx; split <;> rfl

@[simp] theorem State.setSec_agenda (d x : Nat) (v : DieSec) : (s.setSec d x v).agenda = s.agenda := by unfold State.setSec; split <;> rfl
@[simp] theorem State.setSec_due (d x : Nat) (v : DieSec) : (s.setSec d x v).due = s.due := by unfold State.setSec; split <;> rfl
@[simp] theorem State.setSec_cur (d x : Nat) (v : DieSec) : (s.setSec d x v).cur = s.cur := by unfold State.setSec; split <;> rfl
@[simp] theorem State.setSec_fresh (d x : Nat) (v : DieSec) : (s.setSec d x v).fresh = s.fresh := by unfold State.setSec; split <;> rfl
@[simp] theorem State.setSec_names (d x : Nat) (v : DieSec) : (s.setSec d x v).names = s.names := by unfold State.setSec; split <;> rfl
@[simp] theorem State.setSec_teams (d x : Nat) (v : DieSec) : (s.setSec d x v).teams = s.teams := by unfold State.setSec; split <;> rfl
@[simp] theorem State.setSec_groups (d x : Nat) (v : DieSec) : (s.setSec d x v).groups = s.groups := by unfold State.setSec; split <;> rfl
@[simp] theorem State.setSec_cbars (d x : Nat) (v : DieSec) : (s.setSec d x v).cbars = s.cbars := by unfold State.setSec; split <;> rfl
@[simp] theorem State.setSec_launches (d x : Nat) (v : DieSec) : (s.setSec d x v).launches = s.launches := by unfold State.setSec; split <;> rfl
@[simp] theorem State.setSec_queues (d x : Nat) (v : DieSec) : (s.setSec d x v).queues = s.queues := by unfold State.setSec; split <;> rfl
@[simp] theorem State.setSec_supq (d x : Nat) (v : DieSec) : (s.setSec d x v).supq = s.supq := by unfold State.setSec; split <;> rfl
@[simp] theorem State.setSec_ctxs (d x : Nat) (v : DieSec) : (s.setSec d x v).ctxs = s.ctxs := by unfold State.setSec; split <;> rfl
@[simp] theorem State.setSec_cores (d x : Nat) (v : DieSec) : (s.setSec d x v).cores = s.cores := by unfold State.setSec; split <;> rfl
@[simp] theorem State.setSec_offCores (d x : Nat) (v : DieSec) : (s.setSec d x v).offCores = s.offCores := by unfold State.setSec; split <;> rfl
@[simp] theorem State.setSec_spares (d x : Nat) (v : DieSec) : (s.setSec d x v).spares = s.spares := by unfold State.setSec; split <;> rfl
@[simp] theorem State.setSec_clusters (d x : Nat) (v : DieSec) : (s.setSec d x v).clusters = s.clusters := by unfold State.setSec; split <;> rfl
@[simp] theorem State.setSec_scr (d x : Nat) (v : DieSec) : (s.setSec d x v).scr = s.scr := by unfold State.setSec; split <;> rfl
@[simp] theorem State.setSec_scrPsn (d x : Nat) (v : DieSec) : (s.setSec d x v).scrPsn = s.scrPsn := by unfold State.setSec; split <;> rfl
@[simp] theorem State.setSec_scrUnd (d x : Nat) (v : DieSec) : (s.setSec d x v).scrUnd = s.scrUnd := by unfold State.setSec; split <;> rfl
@[simp] theorem State.setSec_slotm (d x : Nat) (v : DieSec) : (s.setSec d x v).slotm = s.slotm := by unfold State.setSec; split <;> rfl
@[simp] theorem State.setSec_slotUnd (d x : Nat) (v : DieSec) : (s.setSec d x v).slotUnd = s.slotUnd := by unfold State.setSec; split <;> rfl
@[simp] theorem State.setSec_crv (d x : Nat) (v : DieSec) : (s.setSec d x v).crv = s.crv := by unfold State.setSec; split <;> rfl
@[simp] theorem State.setSec_crvPsn (d x : Nat) (v : DieSec) : (s.setSec d x v).crvPsn = s.crvPsn := by unfold State.setSec; split <;> rfl
@[simp] theorem State.setSec_crvUnd (d x : Nat) (v : DieSec) : (s.setSec d x v).crvUnd = s.crvUnd := by unfold State.setSec; split <;> rfl
@[simp] theorem State.setSec_slices (d x : Nat) (v : DieSec) : (s.setSec d x v).slices = s.slices := by unfold State.setSec; split <;> rfl
@[simp] theorem State.setSec_mem (d x : Nat) (v : DieSec) : (s.setSec d x v).mem = s.mem := by unfold State.setSec; split <;> rfl
@[simp] theorem State.setSec_memPsn (d x : Nat) (v : DieSec) : (s.setSec d x v).memPsn = s.memPsn := by unfold State.setSec; split <;> rfl
@[simp] theorem State.setSec_tlb (d x : Nat) (v : DieSec) : (s.setSec d x v).tlb = s.tlb := by unfold State.setSec; split <;> rfl
@[simp] theorem State.setSec_ecmds (d x : Nat) (v : DieSec) : (s.setSec d x v).ecmds = s.ecmds := by unfold State.setSec; split <;> rfl
@[simp] theorem State.setSec_chans (d x : Nat) (v : DieSec) : (s.setSec d x v).chans = s.chans := by unfold State.setSec; split <;> rfl
@[simp] theorem State.setSec_dir (d x : Nat) (v : DieSec) : (s.setSec d x v).dir = s.dir := by unfold State.setSec; split <;> rfl
@[simp] theorem State.setSec_txns (d x : Nat) (v : DieSec) : (s.setSec d x v).txns = s.txns := by unfold State.setSec; split <;> rfl
@[simp] theorem State.setSec_behind (d x : Nat) (v : DieSec) : (s.setSec d x v).behind = s.behind := by unfold State.setSec; split <;> rfl
@[simp] theorem State.setSec_net (d x : Nat) (v : DieSec) : (s.setSec d x v).net = s.net := by unfold State.setSec; split <;> rfl
@[simp] theorem State.setSec_epochs (d x : Nat) (v : DieSec) : (s.setSec d x v).epochs = s.epochs := by unfold State.setSec; split <;> rfl
@[simp] theorem State.setSec_dead (d x : Nat) (v : DieSec) : (s.setSec d x v).dead = s.dead := by unfold State.setSec; split <;> rfl
@[simp] theorem State.setSec_coarseG (d x : Nat) (v : DieSec) : (s.setSec d x v).coarseG = s.coarseG := by unfold State.setSec; split <;> rfl
@[simp] theorem State.setSec_throughs (d x : Nat) (v : DieSec) : (s.setSec d x v).throughs = s.throughs := by unfold State.setSec; split <;> rfl
@[simp] theorem State.setSec_subsc (d x : Nat) (v : DieSec) : (s.setSec d x v).subsc = s.subsc := by unfold State.setSec; split <;> rfl
@[simp] theorem State.setSec_frBase (d x : Nat) (v : DieSec) : (s.setSec d x v).frBase = s.frBase := by unfold State.setSec; split <;> rfl
@[simp] theorem State.setSec_frWr (d x : Nat) (v : DieSec) : (s.setSec d x v).frWr = s.frWr := by unfold State.setSec; split <;> rfl
@[simp] theorem State.setSec_frRd (d x : Nat) (v : DieSec) : (s.setSec d x v).frRd = s.frRd := by unfold State.setSec; split <;> rfl
@[simp] theorem State.setSec_frWait (d x : Nat) (v : DieSec) : (s.setSec d x v).frWait = s.frWait := by unfold State.setSec; split <;> rfl
@[simp] theorem State.setSec_ras (d x : Nat) (v : DieSec) : (s.setSec d x v).ras = s.ras := by unfold State.setSec; split <;> rfl
@[simp] theorem State.setSec_rasLost (d x : Nat) (v : DieSec) : (s.setSec d x v).rasLost = s.rasLost := by unfold State.setSec; split <;> rfl
@[simp] theorem State.setSec_rasSeq (d x : Nat) (v : DieSec) : (s.setSec d x v).rasSeq = s.rasSeq := by unfold State.setSec; split <;> rfl
@[simp] theorem State.setSec_power (d x : Nat) (v : DieSec) : (s.setSec d x v).power = s.power := by unfold State.setSec; split <;> rfl
@[simp] theorem State.setSec_events (d x : Nat) (v : DieSec) : (s.setSec d x v).events = s.events := by unfold State.setSec; split <;> rfl
@[simp] theorem State.setSec_boot (d x : Nat) (v : DieSec) : (s.setSec d x v).boot = s.boot := by unfold State.setSec; split <;> rfl
@[simp] theorem State.setSec_comms (d x : Nat) (v : DieSec) : (s.setSec d x v).comms = s.comms := by unfold State.setSec; split <;> rfl
@[simp] theorem State.setSec_devid (d x : Nat) (v : DieSec) : (s.setSec d x v).devid = s.devid := by unfold State.setSec; split <;> rfl
@[simp] theorem State.setSec_deadMs (d x : Nat) (v : DieSec) : (s.setSec d x v).deadMs = s.deadMs := by unfold State.setSec; split <;> rfl
@[simp] theorem State.setSec_traffic (d x : Nat) (v : DieSec) : (s.setSec d x v).traffic = s.traffic := by unfold State.setSec; split <;> rfl
@[simp] theorem State.setSec_recovery (d x : Nat) (v : DieSec) : (s.setSec d x v).recovery = s.recovery := by unfold State.setSec; split <;> rfl
@[simp] theorem State.setSec_lanesOff (d x : Nat) (v : DieSec) : (s.setSec d x v).lanesOff = s.lanesOff := by unfold State.setSec; split <;> rfl
@[simp] theorem State.setSec_rowsOff (d x : Nat) (v : DieSec) : (s.setSec d x v).rowsOff = s.rowsOff := by unfold State.setSec; split <;> rfl
@[simp] theorem State.setSec_time (d x : Nat) (v : DieSec) : (s.setSec d x v).time = s.time := by unfold State.setSec; split <;> rfl
@[simp] theorem State.setSec_rrq (d x : Nat) (v : DieSec) : (s.setSec d x v).rrq = s.rrq := by unfold State.setSec; split <;> rfl

@[simp] theorem State.setDir_agenda (l : Nat) (e : DirEntry) : (s.setDir l e).agenda = s.agenda := by unfold State.setDir; split <;> rfl
@[simp] theorem State.setDir_due (l : Nat) (e : DirEntry) : (s.setDir l e).due = s.due := by unfold State.setDir; split <;> rfl
@[simp] theorem State.setDir_cur (l : Nat) (e : DirEntry) : (s.setDir l e).cur = s.cur := by unfold State.setDir; split <;> rfl
@[simp] theorem State.setDir_fresh (l : Nat) (e : DirEntry) : (s.setDir l e).fresh = s.fresh := by unfold State.setDir; split <;> rfl
@[simp] theorem State.setDir_names (l : Nat) (e : DirEntry) : (s.setDir l e).names = s.names := by unfold State.setDir; split <;> rfl
@[simp] theorem State.setDir_teams (l : Nat) (e : DirEntry) : (s.setDir l e).teams = s.teams := by unfold State.setDir; split <;> rfl
@[simp] theorem State.setDir_groups (l : Nat) (e : DirEntry) : (s.setDir l e).groups = s.groups := by unfold State.setDir; split <;> rfl
@[simp] theorem State.setDir_cbars (l : Nat) (e : DirEntry) : (s.setDir l e).cbars = s.cbars := by unfold State.setDir; split <;> rfl
@[simp] theorem State.setDir_launches (l : Nat) (e : DirEntry) : (s.setDir l e).launches = s.launches := by unfold State.setDir; split <;> rfl
@[simp] theorem State.setDir_queues (l : Nat) (e : DirEntry) : (s.setDir l e).queues = s.queues := by unfold State.setDir; split <;> rfl
@[simp] theorem State.setDir_supq (l : Nat) (e : DirEntry) : (s.setDir l e).supq = s.supq := by unfold State.setDir; split <;> rfl
@[simp] theorem State.setDir_ctxs (l : Nat) (e : DirEntry) : (s.setDir l e).ctxs = s.ctxs := by unfold State.setDir; split <;> rfl
@[simp] theorem State.setDir_cores (l : Nat) (e : DirEntry) : (s.setDir l e).cores = s.cores := by unfold State.setDir; split <;> rfl
@[simp] theorem State.setDir_offCores (l : Nat) (e : DirEntry) : (s.setDir l e).offCores = s.offCores := by unfold State.setDir; split <;> rfl
@[simp] theorem State.setDir_spares (l : Nat) (e : DirEntry) : (s.setDir l e).spares = s.spares := by unfold State.setDir; split <;> rfl
@[simp] theorem State.setDir_clusters (l : Nat) (e : DirEntry) : (s.setDir l e).clusters = s.clusters := by unfold State.setDir; split <;> rfl
@[simp] theorem State.setDir_scr (l : Nat) (e : DirEntry) : (s.setDir l e).scr = s.scr := by unfold State.setDir; split <;> rfl
@[simp] theorem State.setDir_scrPsn (l : Nat) (e : DirEntry) : (s.setDir l e).scrPsn = s.scrPsn := by unfold State.setDir; split <;> rfl
@[simp] theorem State.setDir_scrUnd (l : Nat) (e : DirEntry) : (s.setDir l e).scrUnd = s.scrUnd := by unfold State.setDir; split <;> rfl
@[simp] theorem State.setDir_slotm (l : Nat) (e : DirEntry) : (s.setDir l e).slotm = s.slotm := by unfold State.setDir; split <;> rfl
@[simp] theorem State.setDir_slotUnd (l : Nat) (e : DirEntry) : (s.setDir l e).slotUnd = s.slotUnd := by unfold State.setDir; split <;> rfl
@[simp] theorem State.setDir_crv (l : Nat) (e : DirEntry) : (s.setDir l e).crv = s.crv := by unfold State.setDir; split <;> rfl
@[simp] theorem State.setDir_crvPsn (l : Nat) (e : DirEntry) : (s.setDir l e).crvPsn = s.crvPsn := by unfold State.setDir; split <;> rfl
@[simp] theorem State.setDir_crvUnd (l : Nat) (e : DirEntry) : (s.setDir l e).crvUnd = s.crvUnd := by unfold State.setDir; split <;> rfl
@[simp] theorem State.setDir_slices (l : Nat) (e : DirEntry) : (s.setDir l e).slices = s.slices := by unfold State.setDir; split <;> rfl
@[simp] theorem State.setDir_mem (l : Nat) (e : DirEntry) : (s.setDir l e).mem = s.mem := by unfold State.setDir; split <;> rfl
@[simp] theorem State.setDir_memPsn (l : Nat) (e : DirEntry) : (s.setDir l e).memPsn = s.memPsn := by unfold State.setDir; split <;> rfl
@[simp] theorem State.setDir_tlb (l : Nat) (e : DirEntry) : (s.setDir l e).tlb = s.tlb := by unfold State.setDir; split <;> rfl
@[simp] theorem State.setDir_ecmds (l : Nat) (e : DirEntry) : (s.setDir l e).ecmds = s.ecmds := by unfold State.setDir; split <;> rfl
@[simp] theorem State.setDir_chans (l : Nat) (e : DirEntry) : (s.setDir l e).chans = s.chans := by unfold State.setDir; split <;> rfl
@[simp] theorem State.setDir_txns (l : Nat) (e : DirEntry) : (s.setDir l e).txns = s.txns := by unfold State.setDir; split <;> rfl
@[simp] theorem State.setDir_behind (l : Nat) (e : DirEntry) : (s.setDir l e).behind = s.behind := by unfold State.setDir; split <;> rfl
@[simp] theorem State.setDir_net (l : Nat) (e : DirEntry) : (s.setDir l e).net = s.net := by unfold State.setDir; split <;> rfl
@[simp] theorem State.setDir_epochs (l : Nat) (e : DirEntry) : (s.setDir l e).epochs = s.epochs := by unfold State.setDir; split <;> rfl
@[simp] theorem State.setDir_dead (l : Nat) (e : DirEntry) : (s.setDir l e).dead = s.dead := by unfold State.setDir; split <;> rfl
@[simp] theorem State.setDir_coarseG (l : Nat) (e : DirEntry) : (s.setDir l e).coarseG = s.coarseG := by unfold State.setDir; split <;> rfl
@[simp] theorem State.setDir_secs (l : Nat) (e : DirEntry) : (s.setDir l e).secs = s.secs := by unfold State.setDir; split <;> rfl
@[simp] theorem State.setDir_throughs (l : Nat) (e : DirEntry) : (s.setDir l e).throughs = s.throughs := by unfold State.setDir; split <;> rfl
@[simp] theorem State.setDir_subsc (l : Nat) (e : DirEntry) : (s.setDir l e).subsc = s.subsc := by unfold State.setDir; split <;> rfl
@[simp] theorem State.setDir_frBase (l : Nat) (e : DirEntry) : (s.setDir l e).frBase = s.frBase := by unfold State.setDir; split <;> rfl
@[simp] theorem State.setDir_frWr (l : Nat) (e : DirEntry) : (s.setDir l e).frWr = s.frWr := by unfold State.setDir; split <;> rfl
@[simp] theorem State.setDir_frRd (l : Nat) (e : DirEntry) : (s.setDir l e).frRd = s.frRd := by unfold State.setDir; split <;> rfl
@[simp] theorem State.setDir_frWait (l : Nat) (e : DirEntry) : (s.setDir l e).frWait = s.frWait := by unfold State.setDir; split <;> rfl
@[simp] theorem State.setDir_ras (l : Nat) (e : DirEntry) : (s.setDir l e).ras = s.ras := by unfold State.setDir; split <;> rfl
@[simp] theorem State.setDir_rasLost (l : Nat) (e : DirEntry) : (s.setDir l e).rasLost = s.rasLost := by unfold State.setDir; split <;> rfl
@[simp] theorem State.setDir_rasSeq (l : Nat) (e : DirEntry) : (s.setDir l e).rasSeq = s.rasSeq := by unfold State.setDir; split <;> rfl
@[simp] theorem State.setDir_power (l : Nat) (e : DirEntry) : (s.setDir l e).power = s.power := by unfold State.setDir; split <;> rfl
@[simp] theorem State.setDir_events (l : Nat) (e : DirEntry) : (s.setDir l e).events = s.events := by unfold State.setDir; split <;> rfl
@[simp] theorem State.setDir_boot (l : Nat) (e : DirEntry) : (s.setDir l e).boot = s.boot := by unfold State.setDir; split <;> rfl
@[simp] theorem State.setDir_comms (l : Nat) (e : DirEntry) : (s.setDir l e).comms = s.comms := by unfold State.setDir; split <;> rfl
@[simp] theorem State.setDir_devid (l : Nat) (e : DirEntry) : (s.setDir l e).devid = s.devid := by unfold State.setDir; split <;> rfl
@[simp] theorem State.setDir_deadMs (l : Nat) (e : DirEntry) : (s.setDir l e).deadMs = s.deadMs := by unfold State.setDir; split <;> rfl
@[simp] theorem State.setDir_traffic (l : Nat) (e : DirEntry) : (s.setDir l e).traffic = s.traffic := by unfold State.setDir; split <;> rfl
@[simp] theorem State.setDir_recovery (l : Nat) (e : DirEntry) : (s.setDir l e).recovery = s.recovery := by unfold State.setDir; split <;> rfl
@[simp] theorem State.setDir_lanesOff (l : Nat) (e : DirEntry) : (s.setDir l e).lanesOff = s.lanesOff := by unfold State.setDir; split <;> rfl
@[simp] theorem State.setDir_rowsOff (l : Nat) (e : DirEntry) : (s.setDir l e).rowsOff = s.rowsOff := by unfold State.setDir; split <;> rfl
@[simp] theorem State.setDir_time (l : Nat) (e : DirEntry) : (s.setDir l e).time = s.time := by unfold State.setDir; split <;> rfl
@[simp] theorem State.setDir_rrq (l : Nat) (e : DirEntry) : (s.setDir l e).rrq = s.rrq := by unfold State.setDir; split <;> rfl

end Sys2Proof.Machine
end

