-- ==== Sys2Proof/Laws/Run.lean ====
section
/-! SUPPORT. What running an instruction comes to: under `Ready` every test passes, so that the body's outcome decides; an
effect that `finish` takes retires as `RetiresTo` says; what ends otherwise is a fault or a wait. -/

namespace Sys2Proof.Machine

/-! ## Registers under the tests -/

theorem regV_ok {t : Team} {k r : Nat} (h : r < t.nreg) (c : t.clean k r) : regV t k r = .ok ((t.strand k).reg r) := by
  unfold regV
  have : ¬ r ≥ t.nreg := by omega
  have c' : ((t.strand k).reg r).psn = false := c
  simp [this, c']

theorem pairV_ok {t : Team} {k r : Nat} (h0 : r < t.nreg) (h1 : r + 1 < t.nreg) (c0 : t.clean k r) (c1 : t.clean k (r + 1)) :
    pairV t k r = .ok (t.pair k r) := by
  unfold pairV
  rw [regV_ok h0 c0, regV_ok h1 c1]
  simp only [V.both_ok, V.map_ok, Team.pair, Team.val]
  congr 1
  apply BitVec.eq_of_toNat_eq
  have a := ((t.strand k).reg r).val.isLt
  have b := ((t.strand k).reg (r + 1)).val.isLt
  rw [BitVec.toNat_append, BitVec.toNat_ofNat, Nat.shiftLeft_eq, Nat.mul_comm, Nat.mul_comm, ← Nat.two_pow_add_eq_or_of_lt a]
  omega

theorem mem_active {t : Team} {i : Instr} {k : Nat} (h : k ∈ t.active i) : k ∈ t.enabled :=
  (List.mem_filter.mp h).1

theorem guardRegs_mem1 {h : Hdr} (n : ¬ h.g1.toNat % 64 = 63) : h.g1.toNat % 64 ∈ guardRegs h := by
  have : h.g1.toNat % 64 < 64 := Nat.mod_lt _ (by decide)
  simp [guardRegs]; omega

theorem guardRegs_mem2 {h : Hdr} (n : ¬ h.g2.toNat % 64 = 63) : h.g2.toNat % 64 ∈ guardRegs h := by
  have : h.g2.toNat % 64 < 64 := Nat.mod_lt _ (by decide)
  simp [guardRegs]; omega

theorem guardOk_ok {t : Team} {g : BitVec 7} {k : Nat} (c : ¬ g.toNat % 64 = 63 → t.clean k (g.toNat % 64)) :
    ∃ b, guardOk t g k = .ok b := by
  unfold guardOk
  by_cases h : g.toNat % 64 = 63
  · exact ⟨true, by simp [h]⟩
  · have c' : ((t.strand k).reg (g.toNat % 64)).psn = false := c h
    by_cases n : g.toNat % 64 ≥ t.nreg
    · exact ⟨false, by simp [h, n]⟩
    · exact ⟨_, by simp only [h, n, c', if_false, Bool.false_eq_true]; rfl⟩

namespace Ready

variable {i : Instr} {s : State} {t : Team}

theorem hnd (r : Ready i s t) : t.hnd = s.cur := State.team_hnd r.team

theorem running (r : Ready i s t) : ∀ d, t.status ≠ .stopped d := by
  intro d e
  have := r.issues
  simp [canIssue, e] at this

theorem live (r : Ready i s t) : t.done = false := by
  have := r.issues
  simp only [canIssue, Bool.and_eq_true, Bool.not_eq_true'] at this
  exact this.1.1.1.1.2

theorem started (r : Ready i s t) : startReady s t = true := by
  have := r.issues
  simp only [canIssue, Bool.and_eq_true] at this
  exact this.1.2

theorem unsaved (r : Ready i s t) : t.yielded = none := by
  have := r.issues
  simp only [canIssue, Bool.and_eq_true, Option.isNone_iff_eq_none] at this
  exact this.1.1.1.2

theorem guards (r : Ready i s t) : guardFaults t (hdrF i) = .ok () := by
  have h : ∀ k ∈ t.enabled, ∃ b, guardsOk t (hdrF i) k = .ok b := by
    intro k hk
    obtain ⟨a, ha⟩ := guardOk_ok (t := t) (g := (hdrF i).g1) (k := k)
      (fun n => r.guard k hk _ (guardRegs_mem1 n))
    obtain ⟨b, hb⟩ := guardOk_ok (t := t) (g := (hdrF i).g2) (k := k)
      (fun n => r.guard k hk _ (guardRegs_mem2 n))
    exact ⟨a && b, by simp [guardsOk, ha, hb]⟩
  unfold guardFaults
  rw [V.all_ok t.enabled (guardsOk t (hdrF i)) (fun k => match guardsOk t (hdrF i) k with | .ok b => b | .bad _ => false)]
  · rfl
  · intro k hk
    obtain ⟨b, hb⟩ := h k hk
    simp [hb]

theorem fields (r : Ready i s t) : fieldTests t i = .ok () := by
  have h1 : (namedRegs i).all (· < t.nreg) = true := by
    simp only [List.all_eq_true, decide_eq_true_eq]
    exact fun x hx => (r.named x hx).1
  have h2 : (isMmawait i || (namedRegs i).all (fun x => !t.lock.contains x)) = true := by
    rw [Bool.or_eq_true]
    by_cases m : ∃ h, i = .mmawait h
    · obtain ⟨h, rfl⟩ := m
      exact .inl rfl
    · right
      simp only [List.all_eq_true, Bool.not_eq_true', List.contains_eq_mem, decide_eq_false_iff_not]
      exact fun x hx => ((r.named x hx).2.1).resolve_right m
  simp only [fieldTests, h1, h2, V.test_true, V.both_ok, V.map_ok]

theorem noWait (r : Ready i s t) : waitsReply t i = false := by
  simp only [waitsReply, List.any_eq_false, List.contains_eq_mem, decide_eq_true_eq]
  exact fun x hx => (r.named x hx).2.2

/-- Under `Ready` the outcome of the body decides. -/
theorem runs (r : Ready i s t) (hi : isIllegal i = false) (body : Run → Res) :
    runI i body s = .next (finish ⟨s, t, i, t.active i⟩ (body ⟨s, t, i, t.active i⟩)) := by
  have hp : (isPriv i && !s.isSup t) = false := by
    cases h : isPriv i with
    | false => rfl
    | true => simp [r.level h]
  unfold runI
  rw [r.team]
  simp [r.issues, r.wf, hp, r.sig, r.fresh, hi, r.fields, r.guards, r.noWait, Team.active]

theorem notShort (r : Ready i s t) (rs : List (Nat × Nat)) : (bitAt t.tctl.toNat 3 && tooShort t rs) = false := by
  cases h : bitAt t.tctl.toNat 3 with
  | false => rfl
  | true => simp [tooShort, r.stall h]

end Ready

/-! ## Retirement -/

theorem qOf_eq {s s' : State} (t : Team) (h : s.groups = s'.groups) : s.qOf t = s'.qOf t := by
  unfold State.qOf State.group; rw [h]

theorem qOf_team {s : State} {t u : Team} (h : t.grp = u.grp) : s.qOf t = s.qOf u := by
  unfold State.qOf; rw [h]

/-- The start of a group changes neither the teams nor what is due. -/
theorem noteStart_teams (s : State) (t : Team) : (noteStart s t).teams = s.teams := by
  unfold noteStart
  split
  · rfl
  · split <;> rfl

/-- The state `s1` with teams, queues and more steps due. -/
abbrev withDue (s1 : State) (T : List Team) (Q : List (Nat × Queue)) (E : List Event) : State :=
  { s1 with teams := T, queues := Q, due := s1.due ++ E }

theorem due_if {s1 X : State} {T : List Team} {Q : List (Nat × Queue)} (h : ∃ E, X = withDue s1 T Q E) (p : Prop) [Decidable p]
    (e : Event) : ∃ E, (if p then X.later e else X) = withDue s1 T Q E := by
  obtain ⟨E, rfl⟩ := h
  by_cases b : p
  · exact ⟨E ++ [e], by rw [if_pos b]; simp only [State.later, withDue, List.append_assoc]⟩
  · exact ⟨E, by rw [if_neg b]⟩

/-- What `retire` does with an effect whose state holds `u` as the team. -/
theorem retire_spec (c : Run) (d : Done) (u : Team) (hu : d.s.team c.t.hnd = some u) (hg : u.grp = c.t.grp) (hq : u.preq = c.t.preq)
    (hn : u.nreg = c.t.nreg) (hy : u.yielded = c.t.yielded) (hr : ∀ x, u.status ≠ .stopped x) (hw : d.s.now = c.s.now) :
    RetiresTo c.i c.t u d.s (noteStart (retire c d) c.t) (d.jump.getD (c.t.pc + BitVec.ofNat 48 (byteLength c.i)))
      (if d.keepSigs then u.sigs else if isControl c.i then 0 else sigsFold (sigsAt c.t) (lowWord c.i))
      (if d.keepSigd then u.sigd else sigdAfter c.i c.t u c.act) d.stepped := by
  have huh : u.hnd = c.t.hnd := State.team_hnd hu
  suffices h : ∃ E, retire c d = withDue d.s (d.s.teams.map (fun x => if x.hnd = c.t.hnd then { u.matched with
        pc := d.jump.getD (c.t.pc + BitVec.ofNat 48 (byteLength c.i))
        sigs := if d.keepSigs then u.sigs else if isControl c.i then 0 else sigsFold (sigsAt c.t) (lowWord c.i)
        sigd := if d.keepSigd then u.sigd else sigdAfter c.i c.t u c.act
        stepped := d.stepped, held := false, status := .run, prod := prodAfter u c.i (readsOf c d) d.writes, since := d.s.now
        yielded := if (hdrF c.i).y && c.t.preq.isSome then some (liveCount c.t (hdrF c.i), false) else c.t.yielded } else x))
        (d.s.setQueue (d.s.qOf c.t) (fun q => { q with wd := 0 })).queues E by
    obtain ⟨E, hE⟩ := h
    exact ⟨_, E, by rw [hE]⟩
  unfold retire
  rw [hu]
  refine due_if (due_if (due_if ⟨[], ?_⟩ _ _) _ _) _ _
  cases hs : u.status with
  | stopped x => exact absurd hs (hr x)
  | _ => simp only [withDue, State.putTeam, State.setQueue, State.queue, List.append_nil, Team.matched, Team.noted, huh, hq, hy, liveCount, hn,
      State.qOf, hg, hw]

/-- An effect of a ready instruction retires. -/
theorem Ready.done {i : Instr} {s : State} {t : Team} (r : Ready i s t) (hi : isIllegal i = false) (body : Run → Res) (d : Done) (u : Team)
    (hb : body ⟨s, t, i, t.active i⟩ = .done d) (hu : d.s.team t.hnd = some u) (hg : u.grp = t.grp) (hq : u.preq = t.preq)
    (hn : u.nreg = t.nreg) (hy : u.yielded = t.yielded) (hr : ∀ x, u.status ≠ .stopped x) (hw : d.s.now = s.now) :
    ∃ s', runI i body s = .next s' ∧
      RetiresTo i t u d.s s' (d.jump.getD (t.pc + BitVec.ofNat 48 (byteLength i)))
        (if d.keepSigs then u.sigs else if isControl i then 0 else sigsFold (sigsAt t) (lowWord i))
        (if d.keepSigd then u.sigd else sigdAfter i t u (t.active i)) d.stepped := by
  refine ⟨_, r.runs hi body, ?_⟩
  rw [hb]
  simp only [finish]
  rw [if_neg (by rw [r.notShort]; simp)]
  exact retire_spec ⟨s, t, i, t.active i⟩ d u hu hg hq hn hy hr hw

end Sys2Proof.Machine
end

