-- ==== Sys2Proof/Laws/Lanes.lean ====
section
/-! SUPPORT. The frames in which results go to registers: every active strand (R138), the leader for all (R140), and the two by
the `.U` bit (R139). -/

namespace Sys2Proof.Machine

theorem RetiresTo.ofPut {i : Instr} {t u v : Team} {s1 s' : State} {pc : BitVec 48} {a b : BitVec 16} {st : Bool} (hv : v.hnd = t.hnd)
    (h : RetiresTo i t u (s1.putTeam v) s' pc a b st) : RetiresTo i t u s1 s' pc a b st := by
  obtain ⟨ps, ev, e⟩ := h
  refine ⟨ps, ev, e.trans (congrArg (fun z => noteStart z t) ?_)⟩
  simp only [State.putTeam, State.now, List.map_map, State.setQueue, State.queue, State.qOf, State.group]
  congr 1
  apply List.map_congr_left
  intro x _
  by_cases hx : x.hnd = t.hnd
  · simp [hx, hv]
  · simp [hx, hv]

theorem enabled_lt {t : Team} {k : Nat} (h : k ∈ t.enabled) : k < t.strands.length := by
  have := (List.mem_filter.mp h).1
  simpa [Team.all] using this

theorem active_nodup (t : Team) (i : Instr) : (t.active i).Nodup :=
  List.Nodup.filter _ (List.Nodup.filter _ List.nodup_range)

/-- Outcomes written strand by strand stand in their strands, and no other strand changes. -/
theorem writeOuts_eq (ks : List Nat) (h : ks.Nodup) (o : Nat → Out) (t : Team) : writeOuts t ks (ks.map o) = perStrand t ks o := by
  induction ks generalizing t with
  | nil => simp [writeOuts, perStrand, List.mapIdx_eq_ofFn]
  | cons k ks ih =>
    have hk : k ∉ ks := (List.nodup_cons.mp h).1
    have e := ih (List.nodup_cons.mp h).2 (t.setStrand k (fun y => y.out (o k)))
    simp only [writeOuts, List.map_cons, List.zip_cons_cons, List.foldl_cons] at e ⊢
    rw [e]
    unfold perStrand
    simp only [Team.setStrand, Team.mk.injEq, true_and, and_true, upd]
    apply List.ext_getElem?
    intro j
    rw [List.getElem?_mapIdx, List.getElem?_mapIdx, List.getElem?_modify]
    by_cases hj : j = k
    · subst hj
      cases t.strands[j]? <;> simp [hk]
    · have hj' : ¬ k = j := fun e => hj e.symm
      cases t.strands[j]? <;> simp [hj, hj']

theorem writeEvery_eq (t : Team) (o : Nat → Out) (l : Nat) (ks : List Nat) :
    writeEvery t (o l) l = fromLeader t (l :: ks) o := rfl

/-- The frame of R138 when no strand faults. -/
theorem lanes_ok (c : Run) (f : Nat → V Out) (o : Nat → Out) (hn : c.act.Nodup) (h : ∀ k ∈ c.act, f k = .ok (o k)) :
    lanes c f = .done { Done.seq (c.put (perStrand c.t c.act o)) with writes := wroteIn c.act (c.act.map o) } := by
  unfold lanes
  rw [V.all_ok c.act f o h]
  simp only [V.res_ok, writeOuts_eq c.act hn o c.t]

/-- The frame of R140 when the leader does not fault: without a leader nothing happens. -/
theorem leaderAll_ok (c : Run) (f : Nat → V Out) (o : Nat → Out) (h : ∀ k ∈ c.act.take 1, f k = .ok (o k)) :
    ∃ d, leaderAll c f = .done d ∧ d.jump = none ∧ d.stepped = true ∧ d.keepSigs = false ∧ d.keepSigd = false ∧
      (d.s = c.put (fromLeader c.t c.act o) ∨ (d.s = c.s ∧ fromLeader c.t c.act o = c.t)) := by
  unfold leaderAll Run.lead
  cases hc : c.act with
  | nil => exact ⟨_, rfl, rfl, rfl, rfl, rfl, .inr ⟨rfl, rfl⟩⟩
  | cons l ks =>
    have hl := h l (by simp [hc])
    simp only [List.head?_cons, hl, V.res_ok]
    exact ⟨_, rfl, rfl, rfl, rfl, rfl, .inl rfl⟩

namespace Ready

variable {i : Instr} {s : State} {t : Team}

theorem sigd_plain {u : Team} (he : isEnd i = false) : sigdAfter i t u (t.active i) = sigdMask t.sigd (t.active i) t.passes := by
  simp [sigdAfter, he]

/-- An effect that passes control in sequence and touches no signature half. -/
theorem seq (r : Ready i s t) (hc : isControl i = false) (he : isEnd i = false) (hi : isIllegal i = false) (body : Run → Res) (d : Done) (u : Team) (s1 : State)
    (hb : body ⟨s, t, i, t.active i⟩ = .done d) (hj : d.jump = none) (ht : d.stepped = true) (hs : d.keepSigs = false)
    (hd : d.keepSigd = false) (e : d.s = s1.putTeam u) (hp : ∃ v, s1.team t.hnd = some v) (hh : u.hnd = t.hnd) (hg : u.grp = t.grp)
    (hq : u.preq = t.preq) (hn : u.nreg = t.nreg) (hy : u.yielded = t.yielded) (hr : ∀ x, u.status ≠ .stopped x) (hw : d.s.now = s.now) :
    ∃ s', runI i body s = .next s' ∧ Retires i t u s1 s' := by
  obtain ⟨v, hv⟩ := hp
  obtain ⟨s', h1, h2⟩ := r.done hi body d u hb (by rw [e]; exact State.team_putTeam_of hv hh) hg hq hn hy hr hw
  refine ⟨s', h1, ?_⟩
  rw [hj, ht, hs, hd, e] at h2
  simp only [Option.getD_none, Bool.false_eq_true, if_false, hc, sigd_plain he] at h2
  exact RetiresTo.ofPut hh h2

/-- Like `seq`, for an effect that leaves the team in the state as it stands there. -/
theorem seqIn (r : Ready i s t) (hc : isControl i = false) (he : isEnd i = false) (hi : isIllegal i = false) (body : Run → Res) (d : Done) (u : Team)
    (hb : body ⟨s, t, i, t.active i⟩ = .done d) (hj : d.jump = none) (ht : d.stepped = true) (hs : d.keepSigs = false)
    (hd : d.keepSigd = false) (hu : d.s.team t.hnd = some u) (hg : u.grp = t.grp)
    (hq : u.preq = t.preq) (hn : u.nreg = t.nreg) (hy : u.yielded = t.yielded) (hr : ∀ x, u.status ≠ .stopped x) (hw : d.s.now = s.now) :
    ∃ s', runI i body s = .next s' ∧ Retires i t u d.s s' := by
  obtain ⟨s', h1, h2⟩ := r.done hi body d u hb hu hg hq hn hy hr hw
  refine ⟨s', h1, ?_⟩
  rw [hj, ht, hs, hd] at h2
  simp only [Option.getD_none, Bool.false_eq_true, if_false, hc, sigd_plain he] at h2
  exact h2

theorem self (r : Ready i s t) : s.team t.hnd = some t := by rw [r.hnd]; exact r.team

/-- Results in every active strand (R138). -/
theorem eachStrand (r : Ready i s t) (hc : isControl i = false) (he : isEnd i = false) (hi : isIllegal i = false) (body : Run → Res) (f : Nat → V Out)
    (o : Nat → Out) (hb : body ⟨s, t, i, t.active i⟩ = lanes ⟨s, t, i, t.active i⟩ f) (hf : ∀ k ∈ t.active i, f k = .ok (o k)) :
    ∃ s', runI i body s = .next s' ∧ Retires i t (perStrand t (t.active i) o) s s' :=
  r.seq hc he hi body _ _ s (by rw [hb, lanes_ok _ f o (active_nodup t i) hf]) rfl rfl rfl rfl rfl ⟨t, r.self⟩ rfl rfl rfl rfl rfl
    r.running rfl

theorem fromLeader_same (t : Team) (ks : List Nat) (o : Nat → Out) : (fromLeader t ks o).hnd = t.hnd ∧ (fromLeader t ks o).grp = t.grp ∧
    (fromLeader t ks o).preq = t.preq ∧ (fromLeader t ks o).nreg = t.nreg ∧ (fromLeader t ks o).yielded = t.yielded ∧
    (fromLeader t ks o).status = t.status := by
  unfold fromLeader; split <;> simp

/-- Results of the leader in every strand (R140). -/
theorem leader (r : Ready i s t) (hc : isControl i = false) (he : isEnd i = false) (hi : isIllegal i = false) (body : Run → Res) (f : Nat → V Out)
    (o : Nat → Out) (hb : body ⟨s, t, i, t.active i⟩ = leaderAll ⟨s, t, i, t.active i⟩ f) (hf : ∀ k ∈ (t.active i).take 1, f k = .ok (o k)) :
    ∃ s', runI i body s = .next s' ∧ Retires i t (fromLeader t (t.active i) o) s s' := by
  obtain ⟨d, e, hj, ht, hs, hd, e1 | ⟨e1, e2⟩⟩ := leaderAll_ok ⟨s, t, i, t.active i⟩ f o hf
  · obtain ⟨a, b, c', d', e', f'⟩ := fromLeader_same t (t.active i) o
    exact r.seq hc he hi body d _ s (hb.trans e) hj ht hs hd e1 ⟨t, r.self⟩ a b c' d' e' (by rw [f']; exact r.running) (by rw [e1]; rfl)
  · have e2' : fromLeader t (t.active i) o = t := e2
    have e1' : d.s = s := e1
    obtain ⟨s', h1, h2⟩ := r.seqIn hc he hi body d t (hb.trans e) hj ht hs hd (by rw [e1']; exact r.self) rfl rfl rfl rfl r.running (by rw [e1'])
    rw [e1'] at h2
    exact ⟨s', h1, by rw [e2']; exact h2⟩

/-- Results by the `.U` bit (R139). -/
theorem byStrand (r : Ready i s t) (hc : isControl i = false) (he : isEnd i = false) (hi : isIllegal i = false) (m : BitVec 4) (body : Run → Res)
    (f : Nat → V Out) (o : Nat → Out) (hb : body ⟨s, t, i, t.active i⟩ = lanesU ⟨s, t, i, t.active i⟩ m f)
    (hf : ∀ k ∈ (if topBit m then (t.active i).take 1 else t.active i), f k = .ok (o k)) :
    ∃ s', runI i body s = .next s' ∧ Retires i t (byMode (topBit m) t (t.active i) o) s s' := by
  unfold lanesU at hb
  unfold byMode
  cases h : topBit m with
  | true => exact r.leader hc he hi body f o (by rw [hb, h]; rfl) (by simpa [h] using hf)
  | false => exact r.eachStrand hc he hi body f o (by rw [hb, h]; rfl) (by simpa [h] using hf)

end Ready

end Sys2Proof.Machine
end

