-- ==== Sys2Proof/Laws/Rows.lean ====
section
/-! SUPPORT. Reading sources under `Ready`, and what it takes to show one row of an instruction table: the sources its fields
name, and the value and flags of its result. -/

namespace Sys2Proof.Machine

variable {i : Instr} {s : State} {t : Team}

namespace Ready

theorem clean_src (r : Ready i s t) {k x : Nat} (hk : k ∈ t.reads i) (hx : x ∈ srcRegs i) : t.clean k x :=
  r.clean k hk x hx

theorem below (r : Ready i s t) {x : Nat} (hx : x ∈ srcRegs i) : x < t.nreg :=
  (r.named x (by unfold namedRegs; exact List.mem_append_left _ (List.mem_append_right _ hx))).1

theorem regT (r : Ready i s t) {k : Nat} (hk : k ∈ t.reads i) {x : RegField} (hx : x.toNat ∈ srcRegs i) :
    Run.regT ⟨s, t, i, t.active i⟩ k x = .ok ((t.strand k).reg x.toNat) :=
  regV_ok (r.below hx) (r.clean_src hk hx)

theorem reg (r : Ready i s t) {k : Nat} (hk : k ∈ t.reads i) {x : RegField} (hx : x.toNat ∈ srcRegs i) :
    Run.reg ⟨s, t, i, t.active i⟩ k x = .ok (t.val k x.toNat) := by
  unfold Run.reg
  rw [regV_ok (r.below hx) (r.clean_src hk hx)]
  rfl

theorem pair (r : Ready i s t) {k : Nat} (hk : k ∈ t.reads i) {x : RegField} (h0 : x.toNat ∈ srcRegs i)
    (h1 : x.toNat + 1 ∈ srcRegs i) : Run.pair ⟨s, t, i, t.active i⟩ k x = .ok (t.pair k x.toNat) :=
  pairV_ok (r.below h0) (r.below h1) (r.clean_src hk h0) (r.clean_src hk h1)

theorem src (r : Ready i s t) {k : Nat} (hk : k ∈ t.reads i) {b : Src} (hb : ∀ x, b = .reg x → x.toNat ∈ srcRegs i) :
    Run.src ⟨s, t, i, t.active i⟩ k b = .ok (t.srcB k b) := by
  cases b with
  | imm w => rfl
  | reg x => exact r.reg hk (hb x rfl)

end Ready

theorem byMode_same (u : Bool) (t : Team) (ks : List Nat) (o : Nat → Out) :
    (byMode u t ks o).strands.length = t.strands.length := by
  unfold byMode fromLeader perStrand
  split <;> (try split) <;> simp

theorem reads_eq (t : Team) (i : Instr) (h : ownReads i = false) :
    t.reads i = if leaderReads i then (t.active i).take 1 else t.active i := by
  unfold Team.reads
  rw [h]
  rfl

/-- Results by the `.U` bit, from what the strands that are read give. -/
theorem Ready.byU (r : Ready i s t) (hc : isControl i = false) (he : isEnd i = false) (hi : isIllegal i = false) {m : BitVec 4} (hm : leaderReads i = topBit m)
    (ho : ownReads i = false) (body : Run → Res) (f : Nat → V Out) (o : Nat → Out) (hb : body ⟨s, t, i, t.active i⟩ = lanesU ⟨s, t, i, t.active i⟩ m f)
    (hf : ∀ k ∈ t.reads i, f k = .ok (o k)) :
    ∃ s', runI i body s = .next s' ∧ Retires i t (byMode (topBit m) t (t.active i) o) s s' :=
  r.byStrand hc he hi m body f o hb (by rw [reads_eq t i ho, hm] at hf; exact hf)

/-! ## Rows -/

theorem Row1.of {a : Alu} {f g : Word → Word × Flags} (h : ∀ s, exec i s = runI i (alu1 a g) s)
    (hm : leaderReads i = topBit a.m) (ho : ownReads i = false) (hc : isControl i = false)
    (he : isEnd i = false) (hi : isIllegal i = false) (ha : a.va.toNat ∈ srcRegs i) (e : ∀ x, g x = f x) : Row1 i a f := by
  intro s t r
  unfold ByStrand Completes
  rw [h]
  refine r.byU hc he hi hm ho (alu1 a g) _ _ rfl (fun k hk => ?_)
  rw [r.reg hk ha]
  simp [e]

theorem Row2.of {a : Alu} {f g : Word → Word → Word × Flags} (h : ∀ s, exec i s = runI i (alu2 a g) s)
    (hm : leaderReads i = topBit a.m) (ho : ownReads i = false) (hc : isControl i = false)
    (he : isEnd i = false) (hi : isIllegal i = false) (ha : a.va.toNat ∈ srcRegs i) (hb : ∀ x, a.b = .reg x → x.toNat ∈ srcRegs i)
    (e : ∀ x y, g x y = f x y) : Row2 i a f := by
  intro s t r
  unfold ByStrand Completes
  rw [h]
  refine r.byU hc he hi hm ho (alu2 a g) _ _ rfl (fun k hk => ?_)
  rw [r.reg hk ha, r.src hk hb]
  simp [e]

theorem Row3.of {a : Ter} {f g : Word → Word → Word → Word × Flags} (h : ∀ s, exec i s = runI i (alu3 a g) s)
    (hm : leaderReads i = topBit a.m) (ho : ownReads i = false) (hc : isControl i = false) (he : isEnd i = false) (hi : isIllegal i = false) (ha : a.va.toNat ∈ srcRegs i) (hb : a.vb.toNat ∈ srcRegs i)
    (hv : a.vc.toNat ∈ srcRegs i) (e : ∀ x y z, g x y z = f x y z) : Row3 i a f := by
  intro s t r
  unfold ByStrand Completes
  rw [h]
  refine r.byU hc he hi hm ho (alu3 a g) _ _ rfl (fun k hk => ?_)
  unfold Run.three
  rw [r.reg hk ha, r.reg hk hb, r.reg hk hv]
  simp [e]

theorem RowP.of {a : Alu} {f : DWord → DWord → DWord} {g : Nat → Nat → Nat} (h : ∀ s, exec i s = runI i (alu64 a g) s)
    (hm : leaderReads i = topBit a.m) (ho : ownReads i = false) (hc : isControl i = false) (he : isEnd i = false) (hi : isIllegal i = false) (ha : a.va.toNat ∈ srcRegs i) (ha1 : a.va.toNat + 1 ∈ srcRegs i)
    (hb : (srcField a.b).toNat ∈ srcRegs i) (hb1 : (srcField a.b).toNat + 1 ∈ srcRegs i)
    (e : ∀ x y : DWord, g x.toNat y.toNat = (f x y).toNat) : RowP i a f := by
  intro s t r
  unfold ByStrand Completes
  rw [h]
  refine r.byU hc he hi hm ho (alu64 a g) _ _ rfl (fun k hk => ?_)
  rw [r.pair hk ha ha1, r.pair hk hb hb1]
  simp [e]

/-! ## Which registers the fields name -/

theorem srcRegs_alu (i : Instr) (opc : Nat) (a : Alu) (d : Desc) (h : toRaw i = some (rawAlu opc a)) (hd : desc i = some d)
    (x : Nat) : (x ∈ d.a.regs a.va → x ∈ srcRegs i) ∧ ((∀ r, a.b = .reg r → x ∈ d.b.regs r → x ∈ srcRegs i)) := by
  unfold srcRegs hasImm
  rw [h, hd]
  constructor
  · intro hx
    cases hb : a.b <;> simp [rawAlu, hb, mkRaw, hx]
  · intro r hr hx
    simp [rawAlu, hr, mkRaw, hx]

theorem srcRegs_ter (i : Instr) (opc : Nat) (a : Ter) (d : Desc) (h : toRaw i = some (rawTer opc a)) (hd : desc i = some d)
    (ho : (BitVec.ofNat 10 opc).toNat / 128 ≠ 5) (hf : (d.bf == .either || d.bf == .imm) = false) :
    srcRegs i = d.a.regs a.va ++ d.b.regs a.vb ++ d.c.regs a.vc := by
  unfold srcRegs hasImm
  rw [h, hd]
  have hv : BitVec.ofNat 8 (bits (BitVec.ofNat 64 (a.vc.toNat + 2 ^ 8 * a.tg.toNat + 2 ^ 12 * a.x4.toNat + 2 ^ 16 * a.x8.toNat)).toNat 0 8)
      = a.vc := by
    apply BitVec.eq_of_toNat_eq
    have := a.vc.isLt; have := a.tg.isLt; have := a.x4.isLt; have := a.x8.isLt
    simp only [bits, BitVec.toNat_ofNat, Nat.pow_zero, Nat.div_one]
    omega
  simp only [rawTer, mkRaw, ho, if_false, hf, Bool.and_false, Bool.false_eq_true, hv]

end Sys2Proof.Machine
end

