-- ==== Sys2Proof/Laws/Ctrl.lean ====
section
/-! SUPPORT. How a control instruction retires (R134, R291), and how a target that passes its tests is taken (R159, R160). -/

namespace Sys2Proof.Machine

variable {i : Instr} {s : State} {t : Team}

theorem target_eq (t : Team) (off : Word) : targetOf t off = target t off := rfl

theorem withCtrs_eq (t : Team) (f : Nat → Byte → Byte) : t.ctrs f = withCtrs t f := by
  unfold Team.ctrs withCtrs Strand.exited
  simp only [beq_iff_eq]

theorem idle_iff (t : Team) : t.idle = true ↔ noneEnabled t := by
  simp [Team.idle, noneEnabled, Strand.enabled]

theorem tooDeep_iff (t : Team) : t.tooDeep = false ↔ roomBelow t := by
  simp [Team.tooDeep, roomBelow, Strand.exited, Ctr.depth]

theorem goodTarget_ok {x : Int} {n : Nat} (h : goodTarget x n) : targetTest x n = .ok (BitVec.ofInt 48 x) := by
  obtain ⟨h1, h2, h3⟩ := h
  unfold targetTest
  rw [if_neg (by simp [h1]), if_neg (by omega)]
  rfl

theorem ofInt_pair (p : DWord) : BitVec.ofInt 48 (p.toNat : Int) = p.setWidth 48 := by
  apply BitVec.eq_of_toNat_eq
  simp

theorem withCtrs_same (t : Team) (f : Nat → Byte → Byte) : (withCtrs t f).hnd = t.hnd ∧ (withCtrs t f).grp = t.grp ∧
    (withCtrs t f).preq = t.preq ∧ (withCtrs t f).nreg = t.nreg ∧ (withCtrs t f).yielded = t.yielded ∧
    (withCtrs t f).status = t.status := ⟨rfl, rfl, rfl, rfl, rfl, rfl⟩

namespace Ready

/-- A control instruction with the effect `u` on its team alone. -/
theorem goes (r : Ready i s t) (hc : isControl i = true) (he : isEnd i = false) (hi : isIllegal i = false) (hl : byteLength i = 16) (body : Run → Res)
    (d : Done) (u : Team) (hb : body ⟨s, t, i, t.active i⟩ = .done d) (e : d.s = s.putTeam u ∨ (d.s = s ∧ u = t))
    (hs : d.keepSigs = false) (hd : d.keepSigd = false) (ht : d.stepped = d.jump.isNone) (hh : u.hnd = t.hnd) (hg : u.grp = t.grp)
    (hq : u.preq = t.preq) (hn : u.nreg = t.nreg) (hy : u.yielded = t.yielded) (hr : u.status = t.status) :
    ∃ s', runI i body s = .next s' ∧
      RetiresTo i t u s s' (d.jump.getD (t.pc + 16)) 0 (sigdMask t.sigd (t.active i) t.passes) d.jump.isNone := by
  have ht' : d.s.team t.hnd = some u := by
    rcases e with e | ⟨e, e'⟩
    · rw [e]; exact State.team_putTeam_of r.self hh
    · rw [e, e']; exact r.self
  obtain ⟨s', h1, h2⟩ := r.done hi body d u hb ht' hg hq hn hy (by rw [hr]; exact r.running) (by rcases e with e | ⟨e, _⟩ <;> simp only [e, State.now, State.putTeam])
  refine ⟨s', h1, ?_⟩
  rw [hs, hd, ht] at h2
  simp only [Bool.false_eq_true, if_false, hc, if_true, sigd_plain he, hl] at h2
  rcases e with e | ⟨e, e'⟩
  · rw [e] at h2; exact RetiresTo.ofPut hh h2
  · rw [e] at h2; exact h2

/-- `ENDIF` and `ENDLOOP`, whose signature also counts the strands that resume. -/
theorem goesEnd (r : Ready i s t) (hc : isControl i = true) (he : isEnd i = true) (hi : isIllegal i = false) (hl : byteLength i = 16) (body : Run → Res)
    (d : Done) (u : Team) (hb : body ⟨s, t, i, t.active i⟩ = .done d) (e : d.s = s.putTeam u)
    (hs : d.keepSigs = false) (hd : d.keepSigd = false) (ht : d.stepped = d.jump.isNone) (hh : u.hnd = t.hnd) (hg : u.grp = t.grp)
    (hq : u.preq = t.preq) (hn : u.nreg = t.nreg) (hy : u.yielded = t.yielded) (hr : u.status = t.status) :
    ∃ s', runI i body s = .next s' ∧
      RetiresTo i t u s s' (d.jump.getD (t.pc + 16)) 0 (sigdEnd (sigdMask t.sigd (t.active i) t.passes) t u) d.jump.isNone := by
  obtain ⟨s', h1, h2⟩ := r.done hi body d u hb (by rw [e]; exact State.team_putTeam_of r.self hh) hg hq hn hy
    (by rw [hr]; exact r.running) (by rw [e]; rfl)
  refine ⟨s', h1, ?_⟩
  have hx : sigdAfter i t u (t.active i) = sigdEnd (sigdMask t.sigd (t.active i) t.passes) t u := by
    simp only [sigdAfter, he, sigdEnd, resumed, Strand.exited, if_true]
    congr 3
    apply List.filter_congr
    intro x _
    rw [Bool.eq_iff_iff]
    simp only [Bool.and_eq_true, Bool.not_eq_true', beq_eq_false_iff_ne, bne_iff_ne, beq_iff_eq, decide_eq_true_eq, and_assoc]
  rw [hs, hd, ht] at h2
  simp only [Bool.false_eq_true, if_false, hc, if_true, hx, hl] at h2
  rw [e] at h2
  exact RetiresTo.ofPut hh h2

end Ready

end Sys2Proof.Machine
end

