-- ==== Sys2Proof/Laws/Memory.lean ====
section
/-! SUPPORT. Laws of memories: every write keeps the canonical form (log entry 5), and a read after a write. -/

namespace Sys2Proof.Machine

/-! ## The canonical form -/

theorem Memory.wf_tail {c : Host.Cell} {m : Memory} (h : Memory.wf (c :: m) = true) : Memory.wf m = true := by
  cases m with
  | nil => rfl
  | cons d m => simp only [Memory.wf, Bool.and_eq_true] at h; exact h.2

theorem Memory.wf_head {c : Host.Cell} {m : Memory} (h : Memory.wf (c :: m) = true) : c.2 ≠ 0 := by
  cases m with
  | nil => simpa [Memory.wf] using h
  | cons d m => simp only [Memory.wf, Bool.and_eq_true] at h; simpa using h.1.1

/-- Below the first listed address of a canonical memory nothing is listed. -/
def Memory.above (a : Nat) : Memory → Prop
  | [] => True
  | c :: _ => a < c.1

theorem Memory.wf_cons {c : Host.Cell} {m : Memory} :
    Memory.wf (c :: m) = true ↔ c.2 ≠ 0 ∧ Memory.above c.1 m ∧ Memory.wf m = true := by
  cases m with
  | nil => simp [Memory.wf, Memory.above]
  | cons d m => simp [Memory.wf, Memory.above, and_assoc]

theorem Memory.above_of_lt {a b : Nat} {m : Memory} (h : a < b) (k : Memory.above b m) : Memory.above a m := by
  cases m with
  | nil => trivial
  | cons c m => exact Nat.lt_trans h k

theorem Memory.put_above {a k : Nat} {b : Byte} {m : Memory} (hk : k < a) (h : Memory.above k m) (w : Memory.wf m = true) :
    Memory.above k (m.put a b) := by
  cases m with
  | nil => simp only [Memory.put]; split <;> simp [Memory.above, hk]
  | cons c m =>
    have hm := (Memory.wf_cons.mp w).2.1
    simp only [Memory.put]
    split
    · split <;> [exact h; exact hk]
    · split
      · split <;> [exact Memory.above_of_lt h hm; exact hk]
      · exact h

/-- A write keeps the canonical form. -/
theorem Memory.put_wf {m : Memory} (a : Nat) (b : Byte) (w : Memory.wf m = true) : Memory.wf (m.put a b) = true := by
  induction m with
  | nil => simp only [Memory.put]; split <;> simp_all [Memory.wf]
  | cons c m ih =>
    obtain ⟨h0, h1, h2⟩ := Memory.wf_cons.mp w
    simp only [Memory.put]
    split
    · split <;> [exact w; exact Memory.wf_cons.mpr ⟨‹_›, ‹_›, w⟩]
    · split
      · rename_i e
        split <;> [exact h2; exact Memory.wf_cons.mpr ⟨‹_›, by simpa [e] using h1, h2⟩]
      · exact Memory.wf_cons.mpr ⟨h0, Memory.put_above (by omega) h1 h2, ih h2⟩

/-- Writes of many cells keep the canonical form. -/
theorem Memory.putAll_wf {m : Memory} (cs : List Host.Cell) (w : Memory.wf m = true) : Memory.wf (m.putAll cs) = true := by
  induction cs generalizing m with
  | nil => exact w
  | cons c cs ih => exact ih (Memory.put_wf _ _ w)

/-- After reset every memory is in canonical form. -/
theorem reset_memories_wf : Memory.wf State.reset.mem = true ∧ Memory.wf State.reset.scr = true ∧
    Memory.wf State.reset.slotm = true ∧ Memory.wf State.reset.crv = true := ⟨rfl, rfl, rfl, rfl⟩

/-! ## Reads after writes -/

theorem Memory.get_above {a : Nat} {m : Memory} (h : Memory.above a m) (w : Memory.wf m = true) : m.get a = 0 := by
  induction m with
  | nil => rfl
  | cons c m ih =>
    obtain ⟨_, h1, h2⟩ := Memory.wf_cons.mp w
    have h' : a < c.1 := h
    simp only [Memory.get]
    rw [if_neg (by omega)]
    exact ih (Memory.above_of_lt h' h1) h2

/-- A read of the address written gives the byte written. -/
theorem Memory.get_put_self {m : Memory} (a : Nat) (b : Byte) (w : Memory.wf m = true) : (m.put a b).get a = b := by
  induction m with
  | nil => simp only [Memory.put]; split <;> simp_all [Memory.get]
  | cons c m ih =>
    obtain ⟨_, h1, h2⟩ := Memory.wf_cons.mp w
    simp only [Memory.put]
    split
    · rename_i lt
      split
      · rename_i e; subst e; exact Memory.get_above (m := c :: m) lt w
      · simp [Memory.get]
    · split
      · rename_i e
        split
        · rename_i e2; subst e2 e; exact Memory.get_above h1 h2
        · simp [Memory.get]
      · rename_i ne
        simp only [Memory.get]
        rw [if_neg (fun e => ne e.symm)]
        exact ih h2

/-- A write leaves every other address alone. -/
theorem Memory.get_put_ne {m : Memory} {a k : Nat} (b : Byte) (h : k ≠ a) : (m.put a b).get k = m.get k := by
  have ha : ¬ a = k := fun e => h e.symm
  induction m with
  | nil => simp only [Memory.put]; split <;> simp [Memory.get, ha]
  | cons c m ih =>
    simp only [Memory.put]
    split
    · split <;> simp [Memory.get, ha]
    · split
      · rename_i e
        split <;> simp [Memory.get, ← e, ha]
      · simp [Memory.get, ih]

/-- Writes leave alone an address that none of them names. -/
theorem Memory.get_putAll_ne {m : Memory} {k : Nat} (cs : List Host.Cell) (h : ∀ c ∈ cs, c.1 ≠ k) :
    (m.putAll cs).get k = m.get k := by
  induction cs generalizing m with
  | nil => rfl
  | cons c cs ih =>
    have h1 : k ≠ c.1 := fun e => h c (by simp) e.symm
    exact (ih (m := m.put c.1 c.2) (fun d hd => h d (by simp [hd]))).trans (Memory.get_put_ne _ h1)

/-- Two canonical memories that read alike everywhere are the same memory. -/
theorem Memory.ext_get {m n : Memory} (wm : Memory.wf m = true) (wn : Memory.wf n = true) (h : ∀ a, m.get a = n.get a) : m = n := by
  induction m generalizing n with
  | nil =>
    cases n with
    | nil => rfl
    | cons d n =>
      have := h d.1
      simp only [Memory.get, if_true] at this
      exact absurd this.symm (Memory.wf_cons.mp wn).1
  | cons c m ih =>
    obtain ⟨c0, c1, c2⟩ := Memory.wf_cons.mp wm
    cases n with
    | nil =>
      have := h c.1
      simp only [Memory.get, if_true] at this
      exact absurd this c0
    | cons d n =>
      obtain ⟨d0, d1, d2⟩ := Memory.wf_cons.mp wn
      have e : c.1 = d.1 := by
        rcases Nat.lt_trichotomy c.1 d.1 with lt | e | lt
        · have := h c.1
          rw [Memory.get_above (m := d :: n) lt wn] at this
          simp only [Memory.get, if_true] at this
          exact absurd this c0
        · exact e
        · have := h d.1
          rw [Memory.get_above (m := c :: m) lt wm] at this
          simp only [Memory.get, if_true] at this
          exact absurd this.symm d0
      have e2 : c.2 = d.2 := by
        have := h c.1
        simpa [Memory.get, e] using this
      have hcd : c = d := Prod.ext e e2
      subst hcd
      congr 1
      refine ih c2 d2 (fun a => ?_)
      by_cases ha : c.1 = a
      · subst ha; rw [Memory.get_above c1 c2, Memory.get_above d1 d2]
      · have := h a
        simpa [Memory.get, ha] using this

end Sys2Proof.Machine
end

