-- ==== Sys2Proof/Tests/Slice0.lean ====
section
/-! SUPPORT. Tests: instructions that break each well-formedness rule, words of the spec and what they decode to, witnesses for the
hypotheses of the statements, and single steps whose results the spec states. -/

namespace Sys2Proof.Tests
open Machine

/-! ## Instructions and states for the tests -/

/-- A header of class `c`, without guards. -/
def hd (c : BitVec 2) : Hdr := ⟨c, 0, false, 0, 63, 63⟩
/-- Register and immediate forms; `c` is the class. -/
def rr (c : BitVec 2) (m : BitVec 4) (d a b : RegField) : Alu := ⟨hd c, m, d, a, .reg b⟩
def ri (c : BitVec 2) (m : BitVec 4) (d a : RegField) (w : Word) : Alu := ⟨hd c, m, d, a, .imm w⟩
def r3 (c : BitVec 2) (m : BitVec 4) (d a b x : RegField) : Ter := ⟨hd c, m, d, a, b, x, 0, 0, 0⟩
/-- A control instruction. -/
def ct (d a : RegField) (off : Word) : Ctl := ⟨hd 0, d, a, 0, off, 0⟩
/-- A memory instruction of 64 bits, and one of form M. -/
def mm (m : BitVec 4) (d a b : RegField) : Mem := ⟨hd 1, m, d, a, b, none⟩
def me (m : BitVec 4) (d a b : RegField) (e : MExt) : Mem := ⟨hd 1, m, d, a, b, some e⟩

/-- A machine with one team of one pass and 32 registers at address 0: strands 0 and 1 are enabled, the others have exited; every
strand's registers hold the values given, with tag `tag`, and 0 elsewhere. -/
def oneTeam (tag : BitVec 4) (rs : List (Nat × Word)) : State :=
  let s := State.reset.withFetchWord 64 0
  { s with
    agenda := []
    teams := s.teams.map (fun t => { t with
      nreg := 32
      strands := (List.range 32).map (fun k =>
        ⟨(List.range 32).map (fun r => ⟨(aget r rs).getD 0, tag, false⟩), if k < 2 then 0 else 0xff, 0⟩) }) }
/-- Its team. -/
def theTeam (s : State) : Team := (s.teams.head?).getD (startTeam 0 0 0 1 1 0 0 0 ⟨0, 0, 0, 0, 0, 1, 8⟩ 0 0 0 false)

/-- Whether `i` is MMAWAIT. -/
def isMmawait (i : Instr) : Bool := match i with
  | .mmawait _ => true
  | _ => false

/-- `Ready`, as a computation. -/
def readyB (i : Instr) (s : State) (t : Team) : Bool :=
  (s.team s.cur == some t) && canIssue s t && i.WellFormed && (!isPriv i || s.isSup t) && !sigDiffers t i && t.rmw.isNone &&
  (namedRegs i).all (fun r => decide (r < t.nreg) && (!t.lock.contains r || isMmawait i) && !t.pend.contains r) &&
  t.enabled.all (fun k => (guardRegs (hdrF i)).all (fun r => !((t.strand k).reg r).psn)) &&
  (t.reads i).all (fun k => (srcRegs i).all (fun r => !((t.strand k).reg r).psn)) && (!bitAt t.tctl.toNat 3 || t.prod.isEmpty)

theorem isMmawait_spec {i : Instr} (h : isMmawait i = true) : ∃ x, i = .mmawait x := by
  unfold isMmawait at h
  split at h
  · exact ⟨_, rfl⟩
  · cases h

theorem ready_of {i : Instr} {s : State} {t : Team} (h : readyB i s t = true) : Ready i s t := by
  simp only [readyB, Bool.and_eq_true, List.all_eq_true, beq_iff_eq, Bool.or_eq_true, Bool.not_eq_true', decide_eq_true_eq,
    List.isEmpty_iff, decide_eq_false_iff_not, List.contains_eq_mem, Option.isNone_iff_eq_none] at h
  obtain ⟨⟨⟨⟨⟨⟨⟨⟨⟨h1, h2⟩, h3⟩, h4⟩, h5⟩, h0⟩, h6⟩, h7⟩, h8⟩, h9⟩ := h
  exact ⟨h1, h2, h3, fun p => h4.resolve_left (by simp [p]), h5, h0,
    fun r hr => ⟨(h6 r hr).1.1, (h6 r hr).1.2.imp_right isMmawait_spec, (h6 r hr).2⟩,
    h7, h8, fun p => h9.resolve_left (by simp [p])⟩

/-- Every instruction of a list is ready. -/
theorem ready_all {l : List Instr} {s : State} {t : Team} (h : (l.all (fun i => readyB i s t)) = true) : ∀ i ∈ l, Ready i s t :=
  fun i hi => ready_of (List.all_eq_true.mp h i hi)


/-- `Located` for global memory, as a computation: where the `n` bytes at address `x` lie. -/
def globAt (s : State) (t : Team) (nd : Need) (x n : Nat) : List Loc :=
  (List.range n).map (fun i => match transFor s (s.ctxOf t) (s.isSup t) nd (x + i) with
    | .ok f => .mem (f.pa + (x + i - f.va)) f
    | .error _ => .scr 0)

theorem located_glob {s : State} {t : Team} {nd : Need} {x n : Nat} (hx : x + n ≤ 2 ^ 48) (h0 : x < 2 ^ 48)
    (h : (List.range n).all (fun i => match transFor s (s.ctxOf t) (s.isSup t) nd (x + i) with
      | .ok f => decide ((f.pa + (x + i - f.va)) / 4096 ∉ s.memPsn ∧ (0, f.pa + (x + i - f.va)) ∉ s.flaws)
      | .error _ => false) = true) :
    Located s t nd (tagged 0 0 x) n (globAt s t nd x n) := by
  refine ⟨by simp [globAt], fun i hi => ?_⟩
  have hin : i < n := by simpa [globAt] using hi
  have := List.all_eq_true.mp h i (List.mem_range.mpr hin)
  cases e : transFor s (s.ctxOf t) (s.isSup t) nd (x + i) with
  | error c => simp [e] at this
  | ok f =>
    simp only [e, decide_eq_true_eq] at this
    exact ⟨0, 0, x, Or.inl ⟨rfl, rfl, h0⟩, Or.inl ⟨rfl, rfl, by omega⟩, rfl,
      Or.inl ⟨rfl, f, e, by simp [globAt, e], fun _ => ⟨this.1, fun _ => this.2⟩⟩⟩

/-- The registers most witnesses use: v6:v7 is a pointer to address 64, v10:v11 to 0, v12 to v14 hold 1.0 as KA80. -/
def regs0 : List (Nat × Word) := [(4, 7), (5, 1), (6, 64), (14, 0x3ff83ff8)]
/-- User teams whose registers carry tag 0, 1, 5 and 13. -/
def sA : State := oneTeam 0 regs0
def tA : Team := theTeam sA
def sB : State := oneTeam 1 regs0
def tB : Team := theTeam sB
def sC : State := oneTeam 5 regs0
def tC : Team := theTeam sC
def sP : State := oneTeam 13 regs0
def tP : Team := theTeam sP
/-- The same as a team of the supervisor's queue (R346). -/
def sS : State := { sA with supq := some 1 }
def tS : Team := theTeam sS

set_option Elab.async false
set_option maxRecDepth 20000

/-! ## Witnesses: the hypotheses of the statements are met -/

theorem witness_IntegerInstructions : ∀ i ∈ [
    Instr.iadd (rr 0 0 8 4 6), .isub (rr 0 0 8 4 6), .iadds (rr 0 0 8 4 6), .isubs (rr 0 0 8 4 6), .imin (rr 0 0 8 4 6),
    .imax (rr 0 0 8 4 6), .umin (rr 0 0 8 4 6), .umax (rr 0 0 8 4 6), .imul (rr 1 0 8 4 6), .imulhi (rr 1 0 8 4 6),
    .umulhi (rr 1 0 8 4 6), .idiv (rr 3 0 8 4 6), .udiv (rr 3 0 8 4 6), .irem (rr 3 0 8 4 6), .urem (rr 3 0 8 4 6),
    .andI (rr 0 0 8 4 6), .orI (rr 0 0 8 4 6), .xorI (rr 0 0 8 4 6), .andn (rr 0 0 8 4 6), .shl (rr 0 0 8 4 6),
    .shr (rr 0 0 8 4 6), .sar (rr 0 0 8 4 6), .rol (rr 0 0 8 4 6), .ror (rr 0 0 8 4 6), .permb (rr 0 0 8 4 6),
    .iadd (ri 0 0 8 4 7), .umax (ri 0 0 8 4 7), .udiv (ri 3 0 8 4 7), .iadd (rr 0 8 8 4 6), .ineg (rr 0 0 8 4 0),
    .iabs (rr 0 0 8 4 0), .popc (rr 0 0 8 4 0), .clz (rr 0 0 8 4 0), .ctz (rr 0 0 8 4 0), .brev (rr 0 0 8 4 0),
    .imad (r3 1 0 8 4 6 5), .bfi (r3 0 0 8 4 6 5), .bfx (r3 0 0 8 4 6 0), .iadd64 (rr 0 0 8 4 6), .isub64 (rr 0 0 8 4 6),
    .imul64 (rr 3 0 8 4 6), .umulw (rr 3 0 8 4 6), .imulw (rr 3 0 8 4 6), .shl64 (rr 0 0 8 4 6), .shr64 (rr 0 0 8 4 6),
    .sar64 (rr 0 0 8 4 6), .icmp64 (rr 0 0 8 4 6), .ucmp64 (rr 0 0 8 4 6)],
    Ready i sA tA := ready_all (by decide +kernel)

theorem witness_CompareSelectMove : ∀ i ∈ [
    Instr.icmp (rr 0 2 8 4 6), .ucmp (rr 0 2 8 4 6), .sel (r3 0 0 8 4 6 5), .mov (rr 0 0 8 4 0), .movi (ri 0 0 8 0 7),
    .movi64 ⟨hd 0, 0, 8, 7⟩, .movr (rr 0 0 8 4 0), .movw (rr 0 0 0 4 5)],
    Ready i sA tA := ready_all (by decide +kernel)

theorem witness_CompareSelectMove_indices : (∀ k ∈ tA.reads (.movr (rr 0 0 8 4 0)), (tA.val k 4).toNat < tA.nreg ∧ (tA.val k 4).toNat ∉ tA.lock ∧
      (tA.val k 4).toNat ∉ tA.pend ∧ tA.clean k (tA.val k 4).toNat) ∧
    ∀ k ∈ tA.reads (.movw (rr 0 0 0 4 5)), (tA.val k 5).toNat < tA.nreg ∧ (tA.val k 5).toNat ∉ tA.lock ∧ (tA.val k 5).toNat ∉ tA.pend := by
  unfold Team.clean; decide +kernel

theorem witness_Pointers : ∀ i ∈ [
    Instr.lea (rr 1 1 8 6 4), .ptr (rr 1 0 8 6 0), .ptr (rr 1 1 8 6 4), .pfield (ri 1 0 8 6 3)],
    Ready i sA tA := ready_all (by decide +kernel)

theorem witness_Pointers_values : (∀ k ∈ tA.reads (.lea (rr 1 1 8 6 4)), PtrFields 0 0 64 ∧ tA.pair k 6 = tagged 0 0 64 ∧
      (78 : Int) = ((64 : Nat) : Int) + (if subOf3 1 < 4 then (tA.srcB k (.reg 4)).toInt else (tA.srcB k (.reg 4)).toNat) * 2 ^ (subOf3 1 % 4) ∧
      (0 : Int) ≤ 78 ∧ PtrFields 0 0 78) ∧
    PtrFields 1 11 (2 ^ 19 - 1) ∧ PtrFields 2 3 (2 ^ 34 - 1) ∧ PtrFields 0 0 (2 ^ 48 - 1) ∧
    (∀ k ∈ tA.reads (.ptr (rr 1 1 8 6 4)), PtrFields 1 (tA.srcB k (.reg 4)).toNat (tA.pair k 6).toNat) := by
  unfold PtrFields
  exact ⟨by decide +kernel, by decide, by decide, by decide, by decide +kernel⟩

theorem witness_StructuredControl : ∀ i ∈ [
    Instr.ifI (ct 0 4 16), .elseI (ct 0 0 16), .endif (ct 0 0 0), .loop (ct 0 0 16), .breakI (ct 0 0 0), .contI (ct 0 0 0),
    .endloop (ct 0 0 16), .exit (ct 0 0 0)],
    Ready i sA tA := ready_all (by decide +kernel)

theorem witness_StructuredControl_depths : roomBelow tA ∧
    ¬noneEnabled (withCtrs tA (fun k c => if c = 0 then (if k ∈ tA.active (.ifI (ct 0 4 16)) ∧ (tA.val k 4).getLsbD 0 = true then 0 else 1) else c + 1)) ∧
    noneEnabled (withCtrs tA (fun k c => if c = 0 then (if k ∈ tA.active (.ifI (ct 0 6 16)) ∧ (tA.val k 6).getLsbD 0 = true then 0 else 1) else c + 1)) ∧
    Ready (.ifI (ct 0 6 16)) sA tA ∧ ¬noneEnabled (withCtrs tA (fun _ c => if c = 0x81 then 0 else c)) ∧ target tA 16 % 64 = 0 ∧
    roomBelow (withCtrs tA (fun _ _ => 125)) ∧ ¬roomBelow (withCtrs tA (fun _ _ => 126)) ∧
    noneEnabled (withCtrs tA (fun _ _ => 0xfe)) := by
  refine ⟨?_, ?_, ?_, ready_of (by decide +kernel), ?_, ?_, ?_, ?_, ?_⟩ <;> (try unfold roomBelow) <;> (try unfold noneEnabled) <;> decide +kernel

theorem witness_TeamTransfers : ∀ i ∈ [
    Instr.bra (ct 0 0 16), .brx (ct 0 6 0), .call (ct 8 0 16), .callx (ct 8 6 0), .ret (ct 0 6 0), .nop ⟨hd 0, 1⟩,
    .yieldI ⟨⟨0, 0, true, 0, 63, 63⟩, 0, 0, 0, .reg 0⟩],
    Ready i sA tA := ready_all (by decide +kernel)

theorem witness_TeamTransfers_targets : goodTarget (target tA 16) 64 ∧ (∀ l, (tA.active (.brx (ct 0 6 0))).head? = some l → goodTarget (tA.pair l 6).toNat 64) ∧
    tA.active (.bra (ct 0 0 16)) = [0, 1] ∧ tA.all.find? (fun k => (tA.strand k).ctr != 0xff) = some 0 ∧ goodTarget (tA.pair 0 6).toNat 4 ∧
    tA.active (.bra { ct 0 0 16 with h := { hd 0 with g1 := 6 } }) = [] ∧ Ready (.bra { ct 0 0 16 with h := { hd 0 with g1 := 6 } }) sA tA := by
  refine ⟨?_, ?_, ?_, ?_, ?_, ?_, ready_of (by decide +kernel)⟩ <;> (try unfold goodTarget) <;> (try intro l h) <;> first
    | decide +kernel
    | (rw [show (tA.active (.brx (ct 0 6 0))).head? = some 0 by decide +kernel] at h; cases h; decide +kernel)

theorem witness_Fp32Arithmetic : ∀ i ∈ [
    Instr.fadd (rr 1 0 8 4 6), .fsub (rr 1 0 8 4 6), .fmul (rr 1 0 8 4 6), .fmin (rr 1 0 8 4 6), .fmax (rr 1 0 8 4 6),
    .fcmp (rr 1 0 8 4 6), .fscale (rr 1 0 8 4 6), .fcopys (rr 1 0 8 4 6), .fclass (rr 1 0 8 4 0), .frnd (rr 1 0 8 4 0),
    .ffma (r3 1 0 8 4 6 5)],
    Ready i sA tA := ready_all (by decide +kernel)

theorem witness_Fp64AndConversions : ∀ i ∈ [
    Instr.dadd (rr 1 0 8 4 6), .dsub (rr 1 0 8 4 6), .dmul (rr 1 0 8 4 6), .dmin (rr 1 0 8 4 6), .dmax (rr 1 0 8 4 6),
    .dcmp (rr 1 0 8 4 6), .dfma (r3 1 0 8 4 6 10), .drnd (rr 1 0 8 4 0), .fcvti (rr 1 0 8 4 0), .icvtf (rr 1 0 8 4 0),
    .dcvtf (rr 1 0 8 4 0), .fcvtd (rr 1 0 8 4 0), .dcvtl (rr 1 0 8 4 0), .lcvtd (rr 1 0 8 4 0)],
    Ready i sA tA := ready_all (by decide +kernel)

theorem witness_SpecialFunctionsAndDivisions : ∀ i ∈ [
    Instr.fsqrt (rr 3 0 8 4 0), .dsqrt (rr 3 0 8 4 0), .frsq (rr 3 0 8 4 0), .fexp2 (rr 3 0 8 4 0), .flog2 (rr 3 0 8 4 0),
    .fsinpi (rr 3 0 8 4 0), .fcospi (rr 3 0 8 4 0), .ftanh (rr 3 0 8 4 0), .frcp (rr 3 0 8 4 0), .fdiv (rr 3 0 8 4 6),
    .ddiv (rr 3 0 8 4 6)],
    Ready i sA tA := ready_all (by decide +kernel)

theorem witness_PackedArithmetic : ∀ i ∈ [
    Instr.padd (rr 2 0 8 4 6), .psub (rr 2 0 8 4 6), .pmul (rr 2 0 8 4 6), .pmin (rr 2 0 8 4 6), .pmax (rr 2 0 8 4 6),
    .pcmp (rr 2 0 8 4 6), .pabs (rr 2 0 8 4 0), .pfma (r3 2 0 8 4 6 5), .psel (r3 2 0 8 4 6 5), .pclamp (r3 2 0 8 4 6 5)],
    Ready i sB tB := ready_all (by decide +kernel)

theorem witness_PackedArithmetic_tags : (∀ k ∈ tB.reads (.padd (rr 2 0 8 4 6)), ∃ T ∈ packTags, ∀ r ∈ [(4 : RegField), 6], (tB.tag k r.toNat).toNat = T) ∧
    ∀ k ∈ tB.reads (.pfma (r3 2 0 8 4 6 5)), ∃ T ∈ packTags, ∀ r ∈ [(4 : RegField), 6, 5], (tB.tag k r.toNat).toNat = T := by
  decide +kernel

theorem witness_PackedDotShiftAccess : Ready (.pdot2 (r3 2 0 8 4 6 5)) sB tB ∧ TagsFit tB (.pdot2 (r3 2 0 8 4 6 5)) [4, 6] [1, 2, 3, 4] ∧
    Ready (.pdot4 (r3 2 0 8 4 6 5)) sC tC ∧ TagsFit tC (.pdot4 (r3 2 0 8 4 6 5)) [4, 6] [5, 6, 7, 8] ∧
    TagsFit tB (.unpk (rr 2 0 8 4 0)) [4] packTags ∧ (∀ k ∈ tB.reads (.unpk (rr 2 1 8 4 0)), subOf3 1 < laneCount (tagOf tB k 4)) ∧
    ∀ k ∈ tB.reads (.insrt (r3 2 0 8 4 0 5)), (1 : Nat) < laneCount (tagOf tB k 5) := by
  refine ⟨ready_of (by decide +kernel), ?_, ready_of (by decide +kernel), ?_, ?_, ?_, ?_⟩ <;> (try unfold TagsFit) <;> decide +kernel

theorem witness_PackedDotShiftAccess_ready : ∀ i ∈ [
    Instr.pshrr (rr 2 1 8 4 6), .pshrr (rr 2 0 8 4 6), .packh (rr 2 0 8 4 6), .unpk (rr 2 0 8 4 0), .insrt (r3 2 0 8 4 0 5),
    .tagset (rr 0 5 8 4 0), .tagget (rr 0 0 8 4 0)],
    Ready i sB tB := ready_all (by decide +kernel)

theorem witness_LaneMovesAndVotes : ∀ i ∈ [
    Instr.shfl (rr 0 0 8 4 6), .readl (rr 0 0 8 4 6), .swz (ri 0 0 8 4 1), .ballot (rr 0 0 8 4 6), .vany (rr 0 0 8 4 0),
    .vall (rr 0 0 8 4 0), .first (rr 0 0 8 4 0), .mbcnt (rr 0 0 8 4 0)],
    Ready i sA tA := ready_all (by decide +kernel)

theorem witness_LaneMovesAndVotes_clean : (∀ k ∈ tA.active (.shfl (rr 0 0 8 4 6)), tA.clean k 6 ∧ tA.clean (tA.srcB k (.reg 6)).toNat 4) ∧
    (tA.active (.readl (rr 0 0 8 4 6))).head? = some 0 ∧ tA.clean (tA.srcB 0 (.reg 6)).toNat 4 ∧ ¬((tA.srcB 0 (.reg 6)).toNat < tA.count) ∧
    (tA.srcB 0 (.reg 4)).toNat < tA.count ∧ Ready (.shfl (rr 0 0 8 4 4)) sA tA := by
  refine ⟨?_, ?_, ?_, ?_, ?_, ready_of (by decide +kernel)⟩ <;> (try unfold Team.clean) <;> decide +kernel

theorem witness_SlidesAndReductions : ∀ i ∈ [
    Instr.slideup (ri 0 0 8 4 1), .slidedn (ri 0 0 8 4 1), .redadd (rr 1 0 8 4 0), .redmin (rr 1 0 8 4 0),
    .redmax (rr 1 0 8 4 0), .scan (rr 1 0 8 4 0)],
    Ready i sA tA := ready_all (by decide +kernel)

theorem witness_SlidesAndReductions_reads : (∀ y ∈ slideReads tA (.slideup (ri 0 0 8 4 1)) true false 0 1, tA.clean (y / eltN 0) 4 ∧ tagOf tA (y / eltN 0) 4 = 0) ∧
    (∀ y ∈ slideReads tA (.slidedn (ri 0 1 8 4 1)) false true 0 1, tA.clean (y / eltN 0) 4 ∧ tagOf tA (y / eltN 0) 4 = 0) ∧
    (∃ T ∈ packTags, ∀ k ∈ tB.active (.redadd (rr 1 4 8 4 0)), tagOf tB k 4 = T) ∧ Ready (.redadd (rr 1 4 8 4 0)) sB tB := by
  refine ⟨?_, ?_, ?_, ready_of (by decide +kernel)⟩ <;> (try unfold Team.clean) <;> decide +kernel

theorem witness_PairTree : (∀ x y z : Nat, x + y + z = x + (y + z)) ∧ pairTree (· + ·) [some 1, none, some 2] = some 3 :=
  ⟨Nat.add_assoc, by decide⟩

theorem witness_RoundTo : Fmt.f32 ∈ fpFormats ∧ (0 : Nat) < 4 ∧ (3 : Nat) < 4 ∧ (1 : Nat) ≠ 0 := by decide

theorem witness_ExactArithmetic : (FV.fin false 1 0).isFin = true ∧ (FV.fin true 0 0).isFin = true := by decide

theorem witness_ConversionsAndBlocks : ∀ i ∈ [
    Instr.cvt ⟨hd 2, 0, 8, 4, 0, 0, 0, 0, 0⟩, .pbpack ⟨hd 2, 0, 8, 4, 6, 0, 12, 0, 13⟩,
    .pbpacks ⟨hd 2, 0, 8, 4, 6, 12, 0, 0, 13⟩, .pbunpk ⟨hd 2, 0, 8, 4, 0, 12, 0, 0, 0⟩],
    Ready i sP tP := ready_all (by decide +kernel)

theorem witness_ConversionsAndBlocks_values : Ready (.cvt ⟨hd 2, 0, 8, 4, 0, 0, 0, 0, 0⟩) sA tA ∧
    (∀ k ∈ tA.active (.cvt ⟨hd 2, 0, 8, 4, 0, 0, 0, 0, 0⟩), ∀ j < cvtRegs ⟨hd 2, 0, 8, 4, 0, 0, 0, 0, 0⟩, tA.clean k (4 + j)) ∧
    listGood sP tP (.pbpack ⟨hd 2, 0, 8, 4, 6, 0, 12, 0, 13⟩) 6 ∧
    noOutlier tP (.pbpack ⟨hd 2, 0, 8, 4, 6, 0, 12, 0, 13⟩) 4 13 (chosenScale tP (.pbpack ⟨hd 2, 0, 8, 4, 6, 0, 12, 0, 13⟩) 4 13) ∧
    (∀ p < tP.passes, inPass tP (.pbunpk ⟨hd 2, 0, 8, 4, 0, 12, 0, 0, 0⟩) p ≠ [] →
      tP.clean ((inPass tP (.pbunpk ⟨hd 2, 0, 8, 4, 0, 12, 0, 0, 0⟩) p).headD 0) 12 ∧
      ∀ w < 8, tP.clean (32 * p + w) 4 ∧ tagOf tP (32 * p + w) 4 = 13) := by
  refine ⟨ready_of (by decide +kernel), ?_, ?_, ?_, ?_⟩
  · unfold Team.clean; decide +kernel
  · intro l h
    rw [show (tP.active (.pbpack ⟨hd 2, 0, 8, 4, 6, 0, 12, 0, 13⟩)).head? = some 0 by decide +kernel] at h
    cases h
    refine ⟨by unfold Team.clean; decide +kernel, by unfold Team.clean; decide +kernel, 0, 0, 64, Or.inl ⟨rfl, rfl, by decide⟩,
      by decide, by decide, by decide +kernel, fun _ tr e => ?_⟩
    rw [show leafFor sP (sP.ctxOf tP) 64 = .ok ⟨0, 0, 4096, 2 ^ 30, true, true, false, 0, 0⟩ by decide +kernel] at e
    cases e; rfl
  · unfold noOutlier; decide +kernel
  · unfold Team.clean; decide +kernel

theorem witness_LoadsAndStores : ∀ i ∈ [
    Instr.ld (mm 2 8 6 0), .ldx (mm 2 8 6 4), .st (mm 2 0 6 4), .stx (me 2 0 6 4 ⟨0, 0, 0, 0, 0, 0, 5⟩)],
    Ready i sA tA := ready_all (by decide +kernel)

theorem witness_LoadsAndStores_places : (∀ k ∈ tA.active (.ld (mm 2 8 6 0)), ownPtr (mm 2 8 6 0) tA k (tagged 0 0 64) ∧ Located sA tA Need.rd (tagged 0 0 64) 4 (globAt sA tA Need.rd 64 4)) ∧
    (∀ k ∈ tA.active (.ldx (mm 2 8 6 4)), indexPtr (.ldx (mm 2 8 6 4)) (mm 2 8 6 4) 4 4 tA k (tagged 0 0 92)) ∧
    (∀ k ∈ tA.active (.st (mm 2 0 6 4)), Located sA tA Need.wr (tagged 0 0 64) 4 (globAt sA tA Need.wr 64 4)) ∧
    (prepAccess sA tA false (cached tA (mm 2 8 6 0) true)
      (accesses (tA.active (.ld (mm 2 8 6 0))) (fun _ => globAt sA tA Need.rd 64 4) (fun _ => []))).2 = true ∧
    (releasePrep sA tA (cached tA (mm 2 0 6 4) false)
      (accesses (tA.active (.st (mm 2 0 6 4))) (fun _ => globAt sA tA Need.wr 64 4) (fun k => stored tA k 4 4))).2 = true ∧
    onOrd 1 (placesOf (accesses (tA.active (.st (mm 2 0 6 4))) (fun _ => globAt sA tA Need.wr 64 4) (fun k => stored tA k 4 4))) = false := by
  refine ⟨fun k hk => ⟨⟨0, 0, 64, 64, Or.inl ⟨rfl, rfl, by decide⟩, Or.inl ⟨rfl, rfl, by decide⟩, ?_, rfl, by decide⟩,
      located_glob (by decide) (by decide) (by decide +kernel)⟩,
    fun k hk => ⟨0, by decide +kernel, by unfold Team.clean; decide +kernel, by unfold Team.clean; decide +kernel, ?_,
      0, 0, 64, 92, Or.inl ⟨rfl, rfl, by decide⟩, Or.inl ⟨rfl, rfl, by decide⟩, by decide +kernel, rfl, ?_⟩,
    fun k hk => located_glob (by decide) (by decide) (by decide +kernel), by decide +kernel, by decide +kernel, by decide +kernel⟩
  · revert k hk; decide +kernel
  · revert k hk; unfold Team.clean; decide +kernel
  · revert k hk; decide +kernel

theorem witness_StrongAccesses : ∀ i ∈ [
    Instr.lda (me 0 8 6 0 ⟨0, 2, 0, 0, 3, 1, 0⟩), .stl (me 0 0 6 4 ⟨0, 2, 0, 0, 3, 2, 0⟩),
    .atom (me 0 8 6 4 ⟨0, 2, 0, 0, 3, 0, 0⟩), .red (me 0 0 6 4 ⟨0, 2, 0, 0, 3, 0, 0⟩),
    .atomcas (me 0 8 6 4 ⟨0, 2, 0, 0, 3, 0, 5⟩), .fence (me 0 0 0 0 ⟨0, 0, 0, 0, 3, 3, 0⟩)],
    Ready i sA tA := ready_all (by decide +kernel)

theorem witness_StrongAccesses_places : (tagged 0 0 64).toNat % 4 = 0 ∧
    (∀ k ∈ tA.active (.atom (me 0 8 6 4 ⟨0, 2, 0, 0, 3, 0, 0⟩)), ownPtr (me 0 8 6 4 ⟨0, 2, 0, 0, 3, 0, 0⟩) tA k (tagged 0 0 64)) ∧
    Located sA tA (needStrong true true) (tagged 0 0 64) 4 (globAt sA tA (needStrong true true) 64 4) ∧
    OrderMet sA tA (me 0 0 6 4 ⟨0, 2, 0, 0, 3, 4, 0⟩) (globAt sA tA (needStrong true true) 64 4) ∧
    (let a := me 0 8 6 4 ⟨0, 2, 0, 0, 3, 0, 0⟩
     let xs := accesses (tA.active (.atom a)) (fun _ => globAt sA tA (needStrong true true) 64 4) (fun _ => [])
     (releasePrep sA tA (cachedStrong tA a true) xs).2 = true ∧
     (inTurn tA (cachedStrong tA a true) (fun _ o _ => (some (o + 1), 0)) ((tA.active (.atom a)).map (fun k => (k, globAt sA tA (needStrong true true) 64 4, 0)))
       (turnStart (releasePrep sA tA (cachedStrong tA a true) xs).1 tA xs)).isSome = true) ∧
    ¬OrderMet { sA with throughs := [⟨1, tA.hnd, 0, 5, [], false, false, false⟩] } tA (me 0 0 6 4 ⟨0, 2, 0, 0, 3, 4, 0⟩) [] := by
  refine ⟨by decide, fun k hk => ⟨0, 0, 64, 64, Or.inl ⟨rfl, rfl, by decide⟩, Or.inl ⟨rfl, rfl, by decide⟩, ?_, rfl, by decide⟩,
    located_glob (by decide) (by decide) (by decide +kernel), fun _ => ⟨by decide +kernel, by decide +kernel, by decide +kernel⟩,
    ⟨by decide +kernel, by decide +kernel⟩, fun h => ?_⟩
  · revert k hk; decide +kernel
  · exact absurd ((h (by decide)).2.2 _ (List.mem_singleton.mpr rfl) rfl).1 (by decide)

theorem witness_StoresReachTheirBytesOnly : let s : State := { sA with secs := [(2 ^ 24 + 1, { DieSec.absent with st := .m })] }
    SectorsSound s ∧ Live s ∧ s.current (dieOf 0) = true ∧ (s.sec (dieOf 0) ((2 ^ 30 + 64) / 64)).st = .m ∧
    (⟨0, 0, 4096, 2 ^ 30, true, true, false, 0, 0⟩ : Tlb).coh = 0 ∧ sA.team tA.hnd = some tA ∧ globAddrs (globAt sA tA Need.wr 64 4) ≠ [] ∧
    bitAt tA.tctl.toNat 5 = false := by
  unfold SectorsSound Live; decide +kernel

theorem witness_CoherenceKeepsValues : Owned sA ∧ sA.current (dieOf tA.core) = true ∧ ∀ pa, noSmDirty sA tA.core pa := by
  refine ⟨by unfold Owned SectorsSound Live; decide +kernel, by decide +kernel, ?_⟩
  unfold noSmDirty; rw [show (sA.core tA.core).blocks = [] by decide +kernel]; simp

theorem witness_RangeOperations : ∀ i ∈ [
    Instr.cwb (me 8 8 6 4 ⟨0, 0, 0, 0, 0, 0, 0⟩), .cinv (me 8 8 6 4 ⟨0, 0, 0, 0, 0, 0, 0⟩),
    .cwbi (me 8 8 6 4 ⟨0, 0, 0, 0, 0, 0, 0⟩), .cprf (me 8 8 6 4 ⟨0, 0, 0, 0, 0, 0, 0⟩)],
    Ready i sA tA := ready_all (by decide +kernel)

theorem witness_RangeOperations_range : (tA.active (.cwb (me 8 8 6 4 ⟨0, 0, 0, 0, 0, 0, 0⟩))).head? = some 0 ∧ RangeAt tA 0 (me 8 8 6 4 ⟨0, 0, 0, 0, 0, 0, 0⟩) 64 7 ∧
    pagesOf 64 7 = [(64, 7)] ∧ (∃ f, transFor sA (sA.ctxOf tA) (sA.isSup tA) ⟨true, false, false, false, false⟩ 64 = .ok f) ∧
    (∃ f, transFor sA (sA.ctxOf tA) (sA.isSup tA) ⟨false, false, false, false, false⟩ 64 = .ok f) ∧ tA.pending = [] ∧ sA.throughs = [] ∧
    memRoom sA tA.core (sA.qOf tA) (sA.recOf tA).mbw = true ∧ missRoom sA tA.core [0] = true ∧ sA.current (dieOf tA.core) = true ∧ sA.behind = [] := by
  refine ⟨by decide +kernel, ⟨⟨0, 0, 64, 64, Or.inl ⟨rfl, rfl, by decide⟩, Or.inl ⟨rfl, rfl, by decide⟩, by decide +kernel, rfl, by decide⟩,
    by decide, by decide +kernel, by decide⟩, by decide +kernel,
    ⟨⟨0, 0, 4096, 2 ^ 30, true, true, false, 0, 0⟩, by decide +kernel⟩, ⟨⟨0, 0, 4096, 2 ^ 30, true, true, false, 0, 0⟩, by decide +kernel⟩,
    by decide +kernel⟩

theorem witness_PrecisionSubscription : ∀ i ∈ [
    Instr.subs (rr 1 2 8 6 4), .unsub (rr 1 0 0 6 4), .supg (rr 1 0 0 6 4)],
    Ready i sA tA := ready_all (by decide +kernel)

theorem witness_PrecisionSubscription_run : (tA.active (.subs (rr 1 2 8 10 5))).head? = some 0 ∧ RunOf sA tA 0 (rr 1 2 8 10 5) [2 ^ 22] ∧ SubReady sA tA ∧
    lineAsk sA (dieOf tA.core) (2 ^ 22) = none ∧ lineAsk { sA with asks := [⟨0, 2 ^ 22, .sub, none⟩] } (dieOf tA.core) (2 ^ 22) ≠ none ∧
    Ready (.subs (rr 1 2 8 10 5)) sA tA := by
  refine ⟨by decide +kernel, ⟨0, Or.inl ⟨rfl, rfl, by decide⟩, by decide +kernel, by decide, by decide +kernel, fun i h => ?_⟩,
    by unfold SubReady Live; decide +kernel, by decide +kernel, by decide +kernel, ready_of (by decide +kernel)⟩
  have hi : i = 0 := by simpa using h
  subst hi
  exact ⟨by decide, ⟨0, 0, 4096, 2 ^ 30, true, true, false, 0, 0⟩, by decide +kernel, by norm_num⟩

theorem witness_BarriersAndWaits : ∀ i ∈ [
    Instr.bar (rr 1 2 0 4 0), .arrive (rr 1 2 8 4 0), .waitb (rr 1 2 0 4 5), .waitne (me 0 8 6 4 ⟨0, 0, 0, 0, 0, 0, 0⟩)],
    Ready i sA tA := ready_all (by decide +kernel)

theorem witness_BarriersAndWaits_names : ∃ g, Names sA tA (rr 1 2 8 4 0) 0 g false 7 ∧ MayArrive sA tA g false 7 ∧ (sA.groups.map (·.id)).Nodup ∧ scopeOk sA tA (rr 1 2 8 4 0) ∧
    7 < g.bars.length ∧ (∀ x, (instBars sA x).length = 4) ∧ tA.bwt = none := by
  cases e : sA.grpOf tA with
  | none => exact absurd e (by decide +kernel)
  | some g =>
    have hg : g = (sA.grpOf tA).getD g := by simp [e]
    refine ⟨g, ⟨e, by decide +kernel, fun h => absurd h (by decide), by decide +kernel⟩, ⟨⟨by decide +kernel, by decide +kernel⟩, ?_⟩, by decide +kernel,
      ⟨g, e, fun h => absurd h (by decide)⟩, ?_, fun x => ?_, by decide +kernel⟩
    · have : (sA.grpOf tA).all (fun g => decide ((tA.grp, tA.idx) ∉ (barOf sA g false 7).arr)) = true := by decide +kernel
      simpa [e] using this
    · have : (sA.grpOf tA).all (fun g => decide (7 < g.bars.length)) = true := by decide +kernel
      simpa [e] using this
    · have : sA.cbars = [] := by decide +kernel
      simp [instBars, this]

theorem witness_StakeChannels : ∀ i ∈ [
    Instr.skpush (rr 1 0 0 4 0), .skpop (rr 1 0 8 0 0), .skfree (rr 1 0 8 0 0)],
    Ready i sA tA := ready_all (by decide +kernel)

theorem witness_StakeChannels_open : chanOpen sA tA (rr 1 0 0 4 0) ∧ (isLower tA.core = true ↔ (0 : BitVec 4).toNat % 4 < 2) ∧
    (isLower tA.core = true ↔ ¬(2 : BitVec 4).toNat % 4 < 2) ∧ (passesOf tA (.skpush (rr 1 0 0 4 0))).length ≤ 16 ∧ Ready (.skpop (rr 1 2 8 0 0)) sA tA := by
  refine ⟨fun x h => ?_, by decide +kernel, by decide +kernel, by decide +kernel, ready_of (by decide +kernel)⟩
  rw [show (sA.chan (channel tA (rr 1 0 0 4 0))).owner = none by decide +kernel] at h
  cases h

theorem witness_SlotsAndFences : ∀ i ∈ [
    Instr.claim (rr 0 0 8 4 0), .release (rr 0 0 0 4 5), .opfence (rr 0 0 0 0 0), .mmawait (rr 0 0 0 0 0)],
    Ready i sA tA := ready_all (by decide +kernel)

theorem witness_SlotsAndFences_room : (tA.active (.claim (rr 0 0 8 4 0))).head? = some 0 ∧ (sA.core tA.core).slots = [] ∧ 1 ≤ (tA.val 0 4).toNat ∧ 0 + (tA.val 0 4).toNat ≤ 128 ∧
    tA.val 0 10 = 0 ∧ Ready (.claim (rr 0 0 8 10 0)) sA tA ∧ tA.mat = [] := by
  refine ⟨by decide +kernel, by decide +kernel, by decide +kernel, by decide +kernel, by decide +kernel, ready_of (by decide +kernel), by decide +kernel⟩

/-- `sA` with the slots 7 and 0 owned by its group, a matrix token, and a scratchpad allocation of 4,096 bytes with the record `cs`. -/
def sM (cs : Memory) : State :=
  { (sA.setCore 0 (fun c => { c with slots := [(7, tA.grp), (0, tA.grp)], tok := true })) with
    groups := sA.groups.map (fun g => { g with sbytes := 4096 })
    scr := cs }
/-- A matrix result outstanding, and a machine whose team has it. -/
def oneResult (ox : Bool) : MatPend := ⟨ox, 8, 1, [(0, [5])], .nop ⟨hd 0, 1⟩, 0, false, 0, [(0, 0)], [], 0⟩
def sR (ox : Bool) : State := sA.putTeam { tA with mat := [oneResult ox] }

theorem witness_MatrixMultiply : ∀ i ∈ [
    Instr.mma ⟨hd 2, 8, 6, 4, true, true, 0⟩, .oxmm ⟨hd 2, 0, 8, 6, 4, 10, 0, 0, 0⟩, .acccvt (rr 2 0 8 12 0),
    .accset (rr 2 0 8 4 0)],
    Ready i (sM []) tA := ready_all (by decide +kernel)

theorem witness_MatrixMultiply_operands : (tA.active (.mma ⟨hd 2, 8, 6, 4, true, true, 0⟩)).head? = some 0 ∧ FormatOk (tA.pair 0 6) true ∧
    owns (sM []) tA ((tA.val 0 4).toNat % 128 + 0 / 32) ∧ owns (sM []) tA ((tA.val 0 4).toNat / 256 % 128) ∧ scaleAt (tA.pair 0 6) false = none ∧
    scaleAt (tA.pair 0 6) true = none ∧ ((sM []).core tA.core).tok = true ∧ tA.opf = [] ∧ (sA.core tA.core).tok = false ∧
    AccumGood tA [0, 1] false 12 1 ∧ fenceOpen { sM [] with throughs := [⟨3, 0, 0, 5, [], false, false, true⟩] } tA 3 = true := by
  refine ⟨by decide +kernel, by unfold FormatOk; decide +kernel, by unfold owns; decide +kernel, by unfold owns; decide +kernel, by decide +kernel,
    by decide +kernel, by decide +kernel, by decide +kernel, by decide +kernel, by unfold AccumGood Team.clean; decide +kernel, by decide +kernel⟩

theorem witness_MatrixMultiply_completion : ((sR false).team 0).bind (fun t => t.mat.find? (fun y => !y.ox)) = some (oneResult false) ∧ (oneResult false).replays = 0 ∧ (3 : Nat) < 32 ∧
    ((sR false).core 0).spare ≠ some 3 ∧ 3 ∉ ((sR false).core 0).covered ∧ (0, 0) ∈ (oneResult false).rot ∧ 3 / 4 = 0 := by decide +kernel

theorem witness_OutlierCorrections : let a : Ter := ⟨hd 2, 0, 8, 6, 4, 10, 0, 0, 0⟩
    Ready (.oxmm a) (sM []) tA ∧ (tA.active (.oxmm a)).head? = some 0 ∧ listGood (sM []) tA (.oxmm a) 6 ∧ MovedBy (tA.pair 0 6) 8 (tagged 0 0 72) ∧
    Located (sM []) tA (needStrong false true) (tA.pair 0 6) 8 (globAt (sM []) tA (needStrong false true) 64 8) ∧
    leNat (bytesRead (sM []) tA (globAt (sM []) tA (needStrong false true) 64 8)) = 0 ∧ Located (sM []) tA (needStrong false true) (tagged 0 0 72) 0 [] ∧
    fbField (tA.pair 0 10) 48 4 < 7 ∧ fbField (tA.pair 0 10) 52 4 < 7 ∧ scaleAt (tA.pair 0 10) true = none ∧ owns (sM []) tA 0 ∧
    AccumGood tA [0, 1] false 12 1 ∧
    (prepAccess (sM []) tA false ⟨1, 0, tA.pc.toNat / 8 % 256, false⟩ [⟨0, globAt (sM []) tA (needStrong false true) 64 8, []⟩]).2 = true ∧
    ((sR true).team 0).bind (fun t => t.mat.find? (fun y => y.ox)) = some (oneResult true) := by
  refine ⟨ready_of (by decide +kernel), by decide +kernel, fun l h => ?_,
    ⟨0, 0, 64, 72, Or.inl ⟨rfl, rfl, by decide⟩, Or.inl ⟨rfl, rfl, by decide⟩, by decide +kernel, rfl, by decide⟩, ?_, by decide +kernel,
    ⟨rfl, fun i h => absurd h (by simp)⟩, by decide +kernel, by decide +kernel, by decide +kernel, by unfold owns; decide +kernel,
    by unfold AccumGood Team.clean; decide +kernel, by decide +kernel, by decide +kernel⟩
  · rw [show (tA.active (.oxmm ⟨hd 2, 0, 8, 6, 4, 10, 0, 0, 0⟩)).head? = some 0 by decide +kernel] at h
    cases h
    refine ⟨by unfold Team.clean; decide +kernel, by unfold Team.clean; decide +kernel, 0, 0, 64, Or.inl ⟨rfl, rfl, by decide⟩,
      by decide, by decide, by decide +kernel, fun _ tr e => ?_⟩
    rw [show leafFor (sM []) ((sM []).ctxOf tA) 64 = .ok ⟨0, 0, 4096, 2 ^ 30, true, true, false, 0, 0⟩ by decide +kernel] at e
    cases e; rfl
  · rw [show tA.pair 0 6 = tagged 0 0 64 by decide +kernel]
    exact located_glob (by decide) (by decide) (by decide +kernel)

theorem witness_AccumulatorFormat : Ready (.acccvt (rr 2 0 8 12 0)) sA tA ∧ (∀ k ∈ tA.active (.acccvt (rr 2 0 8 12 0)), (accumElt tA false 12 k 0).isSome) ∧
    Ready (.accset (rr 2 0 8 4 0)) sA tA ∧ (Fmt.f32.dec 0x3f800000).isFin = true := by
  exact ⟨ready_of (by decide +kernel), by decide +kernel, ready_of (by decide +kernel), by decide +kernel⟩

theorem witness_CopyCommands : ∀ i ∈ [
    Instr.xcG2s (⟨hd 1, 8, 6, 10, true⟩), .xcS2g (⟨hd 1, 8, 6, 10, true⟩), .xcS2s (⟨hd 1, 8, 6, 10, true⟩),
    .xcG2o (⟨hd 1, 8, 6, 10, true⟩), .xcS2o (⟨hd 1, 8, 6, 10, true⟩), .xcC2d (⟨hd 1, 8, 6, 10, true⟩),
    .xcGath (⟨hd 1, 8, 6, 10, true⟩), .xcRscat (⟨hd 1, 8, 6, 10, true⟩), .xcAgath (⟨hd 1, 8, 6, 10, true⟩),
    .xcAredu (⟨hd 1, 8, 6, 10, true⟩), .xcPut (⟨hd 1, 8, 6, 10, true⟩), .xcGet (⟨hd 1, 8, 6, 10, true⟩),
    .xcGcond (⟨hd 1, 8, 6, 10, true⟩), .xcGstat (⟨hd 1, 8, 0, 0, true⟩), .xcGstart (⟨hd 1, 8, 6, 0, true⟩)],
    Ready i sA tA := ready_all (by decide +kernel)

/-- The group of `sM`. -/
def gM (cs : Memory) : Group := ((sM cs).groups.head?).getD ⟨0, 0, 0, 0, 0, 0, 0, 0, 0, [], [], 0, 0, [], .resident, [], none, none, false, 0⟩

theorem witness_CopyCommands_operands : CopyArgs false false true (sM []) tA (gM []) 0 (tagged 0 0 64) (BitVec.ofNat 64 (4 * 2 ^ 32)) (.move [(.glob 64, .scr 0 0, 4)] false)
      (eRange (.glob 64) 4) (eRange (.scr 0 0) 4) (sM []) ∧
    CopyArgs true false false (sM []) tA (gM []) 0 (tagged 1 0 64) (BitVec.ofNat 64 (4 * 2 ^ 32)) (.move [(.scr 0 0, .scr 0 64, 4)] true)
      (eRange (.scr 0 0) 4) (eRange (.scr 0 64) 4) (sM []) ∧
    CopyArgs false true true (sM []) tA (gM []) 0 (tagged 0 0 64) (BitVec.ofNat 64 (4 * 2 ^ 32 + 7 * 2 ^ 12)) (.move [(.glob 64, .slot 7 0, 4)] false)
      (eRange (.glob 64) 4) (eRange (.slot 7 0) 4) (sM []) := by
  refine ⟨⟨rfl, .glob 64, .scr 0 0, Or.inl ⟨64, Or.inl ⟨rfl, rfl, by decide⟩, rfl, rfl⟩, ⟨fun _ => ⟨64, rfl⟩, fun _ => rfl⟩,
      ⟨0, 0, ⟨by decide +kernel, by decide +kernel, by decide +kernel, by decide +kernel⟩, rfl⟩, by decide +kernel, by decide +kernel, trivial, ?_, ?_⟩,
    ⟨rfl, .scr 0 64, .scr 0 0, Or.inr ⟨0, 64, Or.inr (Or.inl ⟨rfl, by decide, by decide⟩), by decide, by decide +kernel⟩,
      ⟨fun h => absurd h (by decide), fun h => by obtain ⟨x, h⟩ := h; cases h⟩,
      ⟨0, 0, ⟨by decide +kernel, by decide +kernel, by decide +kernel, by decide +kernel⟩, rfl⟩, by decide +kernel, by decide +kernel, ?_, ?_, ?_⟩,
    ⟨rfl, .glob 64, .slot 7 0, Or.inl ⟨64, Or.inl ⟨rfl, rfl, by decide⟩, rfl, rfl⟩, ⟨fun _ => ⟨64, rfl⟩, fun _ => rfl⟩,
      ⟨7, 0, ⟨by decide +kernel, by decide +kernel, Or.inl (by decide +kernel)⟩, rfl⟩, by decide +kernel, by decide +kernel, trivial, ?_, ?_⟩⟩ <;>
    (try unfold LocalOk) <;> decide +kernel

theorem witness_CopyCommands_records : GridArgs (sM [(6, 4), (8, 1)]) tA (gM [(6, 4), (8, 1)]) 0 (tagged 0 0 64) (tagged 1 0 0) (.move [(.glob 64, .scr 0 0, 4)] false) []
      (eRange (.scr 0 0) 4) (sM [(6, 4), (8, 1)]) ∧
    GatherArgs (sM [(12, 1)]) tA (gM [(12, 1)]) 0 (tagged 0 0 64) (tagged 1 0 0) (.gather 64 0 1 1 (.scr 0 0)) [(129, 0, 4)] (eRange (.scr 0 0) 1) (sM [(12, 1)]) := by
  have desc : ∀ (g : Group) (v : Nat), field v 32 1 = 0 → (field v 0 32 = 0 ∧ g.core = 0) →
      DescAt g (decide (field v 32 1 = 1)) (field v 0 32) (.scr 0 0) := by
    intro g v h0 h1
    rw [h0, h1.1]
    exact ⟨0, 0, ⟨by decide, by decide, by rw [h1.2]; decide, by decide⟩, rfl⟩
  refine ⟨⟨rfl, 64, 0, 2 ^ 64 + 4 * 2 ^ 48, .scr 0 0, rfl, Or.inl ⟨rfl, rfl, by decide⟩,
      ⟨by decide +kernel, Or.inr (Or.inl ⟨rfl, by decide, by decide⟩), by decide, by decide +kernel, by decide +kernel⟩,
      ⟨by decide +kernel, by decide +kernel⟩, fun i _ _ => by simp [show ∀ cs, (sM cs).flaws = [] from fun _ => rfl], desc _ _ (by decide +kernel) (by decide +kernel),
      by decide +kernel, by decide +kernel, by decide +kernel, ?_, fun k o h => (by cases h), by decide +kernel, rfl, by decide +kernel⟩,
    ⟨rfl, 64, 0, 2 ^ 96, .scr 0 0, rfl, Or.inl ⟨rfl, rfl, by decide⟩,
      ⟨by decide +kernel, Or.inr (Or.inl ⟨rfl, by decide, by decide⟩), by decide, by decide +kernel, by decide +kernel⟩,
      ⟨by decide +kernel, by decide +kernel⟩, fun i _ _ => by simp [show ∀ cs, (sM cs).flaws = [] from fun _ => rfl], desc _ _ (by decide +kernel) (by decide +kernel),
      by decide +kernel, by decide +kernel, by decide +kernel, by decide +kernel, by decide +kernel, by decide +kernel,
      by decide +kernel, by decide +kernel, by decide +kernel, ?_, by decide +kernel, by decide +kernel, by decide +kernel⟩⟩
  · intro r hr
    have : r = 0 := by
      have h2 : field (2 ^ 64 + 4 * 2 ^ 48) 64 16 = 1 := by decide +kernel
      omega
    subst this; unfold LocalOk ELoc.plus; decide +kernel
  · unfold LocalOk; decide +kernel

theorem witness_CollectiveAndWeaverCommands : (∃ op rd wr, CollArgs 0x12 (sM [(16, 1)]) tA (gM [(16, 1)]) 0 (tagged 1 0 0) 0 op rd wr (sM [(16, 1)])) ∧
    (∃ op rd wr, TransferArgs true (sM [(16, 1)]) tA (gM [(16, 1)]) 0 (tagged 1 0 0) 0 op rd wr (sM [(16, 1)])) ∧
    OwnAt (gM []) (tagged 1 0 32) 32 32 32 ∧ OwnAt (gM []) (tagged 1 0 4092) 4 4 4092 := by
  have own : OwnAt (gM [(16, 1)]) (tagged 1 0 0) 32 8 0 :=
    ⟨by decide +kernel, Or.inr (Or.inl ⟨rfl, by decide, by decide⟩), by decide, by decide +kernel, by decide +kernel⟩
  have rcd : Record32 (sM [(16, 1)]) tA (gM [(16, 1)]) 0 (tagged 1 0 0) (2 ^ 128) (sM [(16, 1)]) :=
    Or.inl ⟨0, own, ⟨by decide +kernel, by decide +kernel⟩, fun i _ _ => by simp [show ∀ cs, (sM cs).flaws = [] from fun _ => rfl], rfl⟩
  have p0 : PtrAt (gM [(16, 1)]) (BitVec.ofNat 64 (field (2 ^ 128) 0 64)) (.glob 0) := Or.inl ⟨0, Or.inl ⟨rfl, rfl, by decide⟩, by decide +kernel, rfl⟩
  have p1 : PtrAt (gM [(16, 1)]) (BitVec.ofNat 64 (field (2 ^ 128) 64 64)) (.glob 0) := Or.inl ⟨0, Or.inl ⟨rfl, rfl, by decide⟩, by decide +kernel, rfl⟩
  refine ⟨⟨_, _, _, 2 ^ 128, .glob 0, .glob 0, rcd, p0, p1, by decide +kernel, by decide +kernel, by decide +kernel, by decide +kernel, trivial, trivial,
      rfl, rfl, rfl⟩,
    ⟨_, _, _, 2 ^ 128, .glob 0, 0, rcd, p0, by decide +kernel, Or.inl ⟨rfl, rfl, by decide⟩, by decide +kernel, trivial, rfl, rfl, rfl⟩,
    ⟨by decide +kernel, Or.inr (Or.inl ⟨rfl, by decide, by decide⟩), by decide, by decide +kernel, by decide +kernel⟩,
    ⟨by decide +kernel, Or.inr (Or.inl ⟨rfl, by decide, by decide⟩), by decide, by decide +kernel, by decide +kernel⟩⟩

/-- `sM` with the page of its team at an address that device 1 is home of. -/
def sV : State := { sM [] with tlb := [⟨0, 0, 4096, 2 ^ 39, true, true, false, 0, 0⟩] }

theorem witness_CollectiveAndWeaverCommands_away : RecordAway sV tA (tagged 0 0 64) (globAt sV tA Need.rd 64 32) ∧ (recordPrep sV tA 0 (globAt sV tA Need.rd 64 32)).2 = false ∧
    Ready (.xcPut ⟨hd 3, 8, 6, 10, true⟩) sV tA ∧ tA.pair 0 6 = tagged 0 0 64 ∧ sV.ecmds = [] := by
  exact ⟨⟨64, rfl, Or.inl ⟨rfl, rfl, by decide⟩, by decide, located_glob (by decide) (by decide) (by decide +kernel)⟩, by decide +kernel,
    ready_of (by decide +kernel), by decide +kernel, by decide +kernel⟩

/-- `sM` with one command of its team. -/
def sE (op : EOp) : State :=
  { sM [] with ecmds := [{ id := 9, op := op, issuer := .team 0, grp := tA.grp, q := 1, ctx := 0, core := 0, pc := 0, sup := false, rep := some 8,
                           rd := [], wr := [], moved := 0, wait := none, tries := 0, sent := false, peer := none, fin := none }] }
/-- The same, waiting for a translation. -/
def sW : State :=
  { sE (.gstat 0) with ecmds := (sE (.gstat 0)).ecmds.map (fun e => { e with wait := some ⟨4096, 4, 0, false⟩ }) }

theorem witness_EngineCommandsRun : (∀ op ∈ [EOp.move [(.scr 0 0, .scr 0 64, 4)] false, .gcond 0 5, .gstat 3, .gstart 0, .coll 0x12 0 0 0 0 1 (.glob 0) (.glob 0),
      .xfer true 0 0 0 (.glob 0) 1 false 0, .move [(.glob 8192, .scr 0 0, 4)] false],
      ((sE op).ecmd 9).any (fun e => decide (e.op = op ∧ e.wait = none ∧ blocked (sE op) e = false ∧ engineReady (sE op) e = true ∧ e.issuer = .team 0 ∧ e.moved = 0 ∧ e.tries = 0)) = true ∧
        aget 0 (sE op).comms = none) ∧
    (sE (.gstat 0)).throughs = [] ∧ isLocal (.scr 0 0) 4 ∧ isLocal (.slot 127 2300) 4 ∧ overlaps (.scr 0 0) (.scr 0 64) 4 = false ∧ (sE (.gstat 0)).scrPsn = [] ∧
    (match transFor (sE (.gstat 0)) 0 false Need.rd 8192 with | .error _ => true | .ok _ => false) = true ∧
    (sW.ecmd 9).any (fun e => decide (e.wait = some ⟨4096, 4, 0, false⟩ ∧ sW.supq ≠ some e.q)) = true ∧ sW.frWr - sW.frRd < 4096 ∧ sW.frWait = [] := by
  refine ⟨?_, by decide +kernel, by unfold isLocal; decide, by unfold isLocal; decide, by decide +kernel, by decide +kernel,
    by decide +kernel, by decide +kernel, by decide +kernel, by decide +kernel⟩
  decide +kernel

theorem witness_WorkDistribution : ∀ i ∈ [
    Instr.fetchwork (rr 1 0 0 6 0), .refill (rr 1 0 8 4 0), .itemset (rr 1 0 0 4 5)],
    Ready i (sM []) tA := ready_all (by decide +kernel)

theorem witness_WorkDistribution_mailbox : (sM []).grpOf tA = some (gM []) ∧ (gM []).core = tA.core ∧ OwnAt (gM []) (tagged 1 0 4064) 32 4 4064 ∧ ScrValue (sM []) (gM []) 4064 4 0 ∧
    tA.withdrawn = [] ∧ tA.pc.toNat % 64 = 0 ∧ ((sM []).groups.map (·.id)).Nodup ∧
    (sE (.fetch 0)).ecmd 9 ≠ none ∧ ((sE (.fetch 0)).group tA.grp).bind (fun g => (sE (.fetch 0)).launch g.launch) ≠ none := by
  refine ⟨by decide +kernel, by decide +kernel,
    ⟨by decide +kernel, Or.inr (Or.inl ⟨rfl, by decide, by decide⟩), by decide, by decide +kernel, by decide +kernel⟩,
    ⟨by decide +kernel, by decide +kernel⟩, by decide +kernel, by decide +kernel, by decide +kernel, by decide +kernel, by decide +kernel⟩

theorem witness_SpecialState : ∀ i ∈ [
    Instr.movs (rr 0 0 8 0 25), .movs (rr 0 0 8 0 24), .movs (rr 0 0 8 0 8), .movsw (rr 0 0 0 4 32), .movsw (rr 0 0 0 4 33),
    .movsw (rr 0 0 0 4 42)],
    Ready i sA tA := ready_all (by decide +kernel)

theorem witness_SpecialState_names : (∀ sel ∈ [0, 1, 2, 3, 0x10, 0x11, 0x12, 0x20, 0x21, 0x28, 0x29, 0x2a, 0x30], (nameWord sA tA sel 0).isSome) ∧
    (sA.launch ((sA.grpOf tA).elim 0 (·.launch))).elim 9 (·.lr.levels.length) ≤ 8 ∧ ¬knownName 0x1f ∧
    Ready (.movsw (rr 0 0 0 4 40)) sS tS ∧ sS.isSup tS = true ∧ sA.isSup tA = false := by
  refine ⟨by decide +kernel, by decide +kernel, by unfold knownName; decide, ready_of (by decide +kernel), by decide +kernel, by decide +kernel⟩

theorem witness_SleepEventsAndChecks : ∀ i ∈ [
    Instr.sigchk (rr 0 0 0 0 0), .chkreq (rr 0 0 0 0 0), .sleep (rr 0 0 8 4 0), .evsend (rr 0 0 0 0 0)],
    Ready i sA tA := ready_all (by decide +kernel)

theorem witness_SleepEventsAndChecks_cases : (tA.active (.sleep (rr 0 0 8 4 0))).head? = some 0 ∧ tA.evf = false ∧ tA.nosleep = false ∧ tA.val 0 4 ≠ 0 ∧ tA.val 0 10 = 0 ∧
    (∀ d, tA.status ≠ .slept d) ∧ ReleaseDone sA tA 2 ∧ Ready (.sleep (rr 0 0 8 10 0)) sA tA := by
  refine ⟨by decide +kernel, by decide +kernel, by decide +kernel, by decide +kernel, by decide +kernel, fun d => ?_, ⟨by decide +kernel, by decide +kernel⟩,
    ready_of (by decide +kernel)⟩
  rw [show tA.status = .run by decide +kernel]
  exact fun h => by cases h

theorem witness_SupervisorInstructions : ∀ i ∈ [
    Instr.tlbinv (rr 1 0 0 6 4), .ctxsave (rr 1 0 8 6 4), .ctxload (rr 1 0 8 6 4), .poisonclr (rr 1 0 0 4 0),
    .poisonclr (rr 1 1 0 6 0), .hostmsg (rr 1 0 8 6 4), .rasrd (rr 0 0 8 4 0), .movsw (rr 0 0 0 4 40), .movsw (rr 0 0 0 4 41)],
    Ready i sS tS := ready_all (by decide +kernel)

/-- `sS` with a second team, stopped with a fault, at handle 2048. -/
def stoppedTeam : Team :=
  { tA with hnd := 2048, status := .stopped { trap := ⟨4, 0x09, some 0, 0, 0⟩, pc := 0, amsum := 3, eng := false, hnd := 2048, q := 1, ctx := 0 } }
def sT : State := { sS with teams := sS.teams ++ [stoppedTeam] }

theorem witness_SupervisorInstructions_pointers : SupPtr tS 0 10 false 256 ∧ SupPtr tS 0 10 true 16 ∧ (tS.active (.ctxsave (rr 1 0 8 10 4))).head? = some 0 ∧ (sT.team 2048) = some stoppedTeam ∧
    Located sS tS Need.rd (tagged 0 0 0) 64 (globAt sS tS Need.rd 0 64) ∧ ReleaseDone sS tS 6 ∧
    (∀ k ∈ tS.active (.poisonclr (rr 1 0 0 4 0)), (tS.val k 4).toNat < tS.nreg) ∧ tS.nreg ≤ (tS.val 0 6).toNat ∧ (tS.pair 0 10).toNat % 4096 = 0 ∧
    Ready (.poisonclr (rr 1 0 0 6 0)) sS tS ∧ Ready (.poisonclr (rr 1 1 0 10 0)) sS tS := by
  have p : SupPtr tS 0 10 false 256 := ⟨0, 0, 0, Or.inl ⟨rfl, rfl, by decide⟩, Or.inl rfl, by decide, by decide +kernel⟩
  refine ⟨p, ⟨0, 0, 0, Or.inl ⟨rfl, rfl, by decide⟩, Or.inl rfl, by decide, by decide +kernel⟩, by decide +kernel, by decide +kernel,
    located_glob (by decide) (by decide) (by decide +kernel), ⟨by decide +kernel, by decide +kernel⟩, by decide +kernel, by decide +kernel, by decide +kernel,
    ready_of (by decide +kernel), ready_of (by decide +kernel)⟩

/-- `sT` with a page of 64 KiB. -/
def sT2 : State := { sT with tlb := [⟨0, 0, 2 ^ 16, 2 ^ 30, true, true, false, 0, 0⟩] }

theorem witness_SupervisorInstructions_image : (imageBytes stoppedTeam stoppedTeam.nreg true).length = 7424 ∧ Quiet sT2 stoppedTeam ∧
    (releasePrep sT2 tS ⟨0, 0, tS.pc.toNat / 8 % 256, false⟩ [⟨0, globAt sT2 tS Need.wr 0 64, []⟩]).2 = true ∧
    (prepAccess sT2 tS false ⟨0, 0, tS.pc.toNat / 8 % 256, true⟩ [⟨0, globAt sT2 tS Need.rd 0 64, []⟩]).2 = true ∧
    tS.inval = none ∧ ¬Unperformed sS 2 0 5 ∧ Unperformed { sS with throughs := [⟨3, 0, 0, 5, [], false, false, false⟩] } 2 0 5 := by
  refine ⟨by decide +kernel, by unfold Quiet; decide +kernel, by decide +kernel, by decide +kernel, by decide +kernel, fun h => ?_,
    Or.inl ⟨_, List.mem_singleton.mpr rfl, by decide, fun _ _ => Or.inl rfl⟩⟩
  rcases h with ⟨x, hx, _⟩ | ⟨t, ht, _, h⟩
  · exact absurd hx (by rw [show sS.throughs = [] by decide +kernel]; simp)
  · have : sS.teams.all (fun t => decide (t.rel = [] ∧ t.ranges = [])) = true := by decide +kernel
    have := List.all_eq_true.mp this t ht
    simp only [decide_eq_true_eq] at this
    simp [this.1, this.2] at h

/-- A team in its handler activation. -/
def tAct : Team := { tA with act := some ⟨64, List.replicate 32 0, 1, 2, true⟩ }
def sAct : State := sA.putTeam tAct

theorem witness_TrapsAndReturn : (∀ i ∈ [
    Instr.trap (rr 0 0 0 0 7), .eret (rr 0 0 0 0 0), .illegal 0],
      Ready i sA tA) ∧ (tA.active (.trap (rr 0 0 0 0 7))).head? = some 0 ∧ tA.act = none ∧
    Ready (.eret (rr 0 0 0 0 0)) sAct tAct ∧ tAct.act ≠ none :=
  ⟨ready_all (by decide +kernel), by decide +kernel, by decide +kernel, ready_of (by decide +kernel), by decide⟩

/-- `sA` with its team changed. -/
def withT (f : Team → Team) : State := sA.putTeam (f tA)
def adds : Instr := .iadd { rr 0 0 8 4 6 with h := { hd 0 with g1 := 3 } }

theorem witness_WhatStopsAnInstruction : ofTeam adds ∧ sA.team sA.cur = some tA ∧ canIssue sA tA = true ∧ adds.WellFormed = true ∧ (Instr.iadd (rr 0 1 8 4 6)).WellFormed = false ∧
    isPriv (.rasrd (rr 0 0 8 4 0)) = true ∧ sA.isSup tA = false ∧
    sigDiffers { tA with pc := 4, sigs := 5, stepped := true } (.exit (ct 0 0 0)) = true ∧
    (33 ∈ namedRegs (.iadd (rr 0 0 33 4 6)) ∧ tA.nreg ≤ 33) ∧ (∃ r ∈ namedRegs adds, r ∈ ({ tA with lock := [8] } : Team).lock) ∧
    (0 ∈ tA.enabled ∧ 3 ∈ guardRegs (hdrF adds) ∧ 3 < tA.nreg) ∧
    ¬({ tA with strands := tA.strands.map (fun x => { x with regs := x.regs.set 3 ⟨0, 0, true⟩ }) } : Team).clean 0 3 ∧
    (∃ r ∈ namedRegs adds, r ∈ ({ tA with pend := [8] } : Team).pend) ∧
    ((withT (fun t => { t with pend := [8] })).team 0 = some { tA with pend := [8] }) := by
  refine ⟨by unfold ofTeam; decide +kernel, by decide +kernel, by decide +kernel, by decide +kernel, by decide +kernel, by decide +kernel, by decide +kernel,
    by decide +kernel, by decide +kernel, by decide +kernel, by decide +kernel, by unfold Team.clean; decide +kernel, by decide +kernel, by decide +kernel⟩

/-- A context with a handler at address 128, and stack pointers at 1,024. -/
def sH : State :=
  let s := oneTeam 0 [(16, 1024)]
  { s with ctxs := s.ctxs.map (fun c => (c.1, { c.2 with desc := { c.2.desc with uhnd := 128 } })) }
def tH : Team := theTeam sH
def faultOf (cause : Nat) : Trap := ⟨1, cause, none, 0, 0⟩

theorem witness_HandlerEntry : sH.team tH.hnd = some tH ∧ HasHandler sH tH 128 ∧ (∀ c ∈ handlerCauses, (faultOf c).cause ∈ handlerCauses) ∧ tH.enabled.Nodup ∧
    (∀ k ∈ handlerStrands tH (faultOf 1) tH.enabled, k < tH.strands.length ∧ (tH.strand k).ctr ≠ 0xff ∧ 17 < (tH.strand k).regs.length ∧
      tH.clean k 16 ∧ tH.clean k 17 ∧ frameTop tH k = tagged 0 0 960) ∧
    Located sH tH Need.wr (tagged 0 0 960) 64 (globAt sH tH Need.wr 960 64) ∧
    (releasePrep { sH with told := some (faultOf 1) } tH ⟨0, 0, tH.pc.toNat / 8 % 256, false⟩
      (accesses (handlerStrands tH (faultOf 1) tH.enabled) (fun _ => globAt sH tH Need.wr 960 64) (trapFrame tH.pc (faultOf 1)))).2 = true ∧
    tH.pend = [] ∧ tH.mat = [] := by
  refine ⟨by decide +kernel, ⟨?_, by decide, by decide +kernel, by decide +kernel, by decide +kernel⟩, by decide, by decide +kernel, ?_,
    located_glob (by decide) (by decide) (by decide +kernel), by decide +kernel, by decide +kernel⟩
  · have : (sH.ctx (sH.ctxOf tH)).any (fun c => decide (c.desc.uhnd = 128)) = true := by decide +kernel
    cases e : sH.ctx (sH.ctxOf tH) with
    | none => simp [e] at this
    | some c => exact ⟨c, rfl, by simpa [e] using this⟩
  · unfold Team.clean; decide +kernel

theorem witness_SupervisorDelivery : (faultOf 4).cause ∈ supervisorCauses ∧ (faultOf 1).cause ∈ handlerCauses ∧ (∀ uh, ¬HasHandler sA tA uh) ∧ sA.isSup tA = false ∧
    sS.isSup tS = true ∧ sA.frWr - sA.frRd < 4096 ∧ sA.frWait = [] := by
  refine ⟨by decide, by decide, fun uh h => ?_, by decide +kernel, by decide +kernel, by decide +kernel, by decide +kernel⟩
  obtain ⟨⟨c, hc, hu⟩, hn, _⟩ := h
  have : (sA.ctx (sA.ctxOf tA)).all (fun c => decide (c.desc.uhnd = 0)) = true := by decide +kernel
  rw [hc] at this
  exact hn (hu ▸ by simpa using this)

/-- The machine of `withFetchWord` with `IADD v14, v14, 1` next, and with a word that is no instruction; its leaf. -/
def sF : State := State.reset.withFetchWord 96 0x000000010000E0E001FBF102
def sX : State := State.reset.withFetchWord 64 0
def leaf0 : Tlb := ⟨0, 0, 4096, 2 ^ 30, true, true, false, 0, 0⟩

theorem witness_StepRunsTheDecodedInstruction : sF.agenda = [.issue 0] ∧ ({ sF with agenda := [] } : State).team 0 = some (theTeam sF) ∧ canIssue { sF with agenda := [] } (theTeam sF) = true ∧
    FetchAt { sF with agenda := [] } (theTeam sF) leaf0 ∧
    foundAt { sF with agenda := [] } (theTeam sF) leaf0 = some (.iadd ⟨{ hd 0 with y := true }, 0, 14, 14, .imm 1⟩) ∧ foundAt { sX with agenda := [] } (theTeam sX) leaf0 = none ∧
    (match transFor { sF with agenda := [] } 0 false Need.fetch 4096 with | .error _ => true | .ok _ => false) = true ∧
    ({ sF with agenda := [.dev .tokenGrant] } : State).agenda = .dev .tokenGrant :: [] := by
  refine ⟨by decide +kernel, by decide +kernel, by decide +kernel, by unfold FetchAt; decide +kernel, by decide +kernel, by decide +kernel,
    by decide +kernel, rfl⟩

/-- `sF` without turns to come, its team, and the claim of its main core for the instruction there. -/
def sF0 : State :=
  { sF with agenda := [], teams := sF.teams.map (fun t => { t with strands := t.strands.mapIdx (fun k x => { x with ctr := if k = 0 then 0 else 0xff }) }) }
def tF : Team := theTeam sF0
def iF : Instr := .iadd ⟨{ hd 0 with y := true }, 0, 14, 14, .imm 1⟩
def cF : Claim :=
  ⟨0, 0, fetchedWord sF0 tF, [1], 1, [(0, 14, 0, 0)], [(0, 14, 1, 0)], [], [], 12, [], [], [], none,
    sigdAfter iF tF tF [0], none, false⟩

theorem witness_CheckedExecution : sF0.team 0 = some tF ∧ canIssue sF0 tF = true ∧ tF.chk = none ∧ FetchAt sF0 tF leaf0 ∧ foundAt sF0 tF leaf0 = some iF ∧
    (fetchFill sF0 tF).2 = true ∧ Unclaimed sF0 0 ∧ Oldest { sF0 with claims := [(0, [cF])] } 0 cF ∧ cF.ecc = false ∧
    (sF.team 1) = none ∧ (differed { tF with seq := [true, true, true] }).chk = some 4096 ∧ (differed { tF with seq := [true, true] }).chk = none := by
  refine ⟨by decide +kernel, by decide +kernel, by decide +kernel, by unfold FetchAt; decide +kernel, by decide +kernel, by decide +kernel,
    fun q h => absurd h (by rw [show sF0.claims = [] by decide +kernel]; simp), ?_, by decide +kernel, by decide +kernel, by decide +kernel,
    by decide +kernel⟩
  unfold Oldest; decide +kernel

def sC1 : State := (fetchFill { sF0 with claims := [(0, [cF])] } tF).1
def meetsF : Bool :=
  match exec iF { sC1 with cur := 0, sample := cF.samp, told := none } with
  | .next s' => (s'.team 0).any (fun t' => claimMeets sC1 tF iF cF && t'.checks != tF.checks && claimAgrees s' tF (some t') iF s'.told cF)
  | _ => false

theorem witness_CheckedExecution_match : meetsF = true := by decide +kernel

theorem witness_EncodingIsReadBack : ofTeam adds ∧ adds.WellFormed = true ∧ ofTeam (.illegal 0xFFC000001) ∧ (Instr.illegal 0xFFC000001).WellFormed = true ∧
    (0xFFC000001 : DWord).toNat % 4 = 1 ∧ (0xFFC000001 : DWord).toNat / 2 ^ 26 % 1024 = 0x3ff := by
  refine ⟨by unfold ofTeam; decide +kernel, by decide +kernel, by unfold ofTeam; decide +kernel, by decide +kernel, by decide +kernel, by decide +kernel⟩

theorem witness_DecodingDropsNothing : (decode (encode adds)) = some (adds, 8) := by decide +kernel

theorem witness_MemoryStaysCanonical : Canonical State.reset ∧ Canonical sF ∧ (match step sF with | .next s => Memory.wf s.mem | _ => false) = true := by
  refine ⟨by unfold Canonical; decide +kernel, by unfold Canonical; decide +kernel, by decide +kernel⟩

/-- `sM` with a graph running whose one walk stands at a node record of value `v`, and an `XC_GSTART` as its command. -/
def sG (v : Nat) (cs : Memory) : State :=
  { (sM cs).setCore 0 (fun c => { c with weaver := ⟨some (tA.grp, 9), [⟨1, 0, v, .ready⟩], [], 0, 0, 0⟩ }) with
    ecmds := (sE (.gstart 0)).ecmds
    ctxs := sA.ctxs.map (fun c => (c.1, { c.2 with desc := { c.2.desc with stkn := 64 } })) }

theorem mem_turn4 (k j : Nat) (h : j < 4) : j ∈ turn k 4 :=
  List.mem_map.mpr ⟨(j + (4 - k % 4)) % 4, List.mem_range.mpr (by omega), by omega⟩
theorem mem_turn16 (k j : Nat) (h : j < 16) : j ∈ turn k 16 :=
  List.mem_map.mpr ⟨(j + (16 - k % 16)) % 16, List.mem_range.mpr (by omega), by omega⟩
theorem turn_lt (k n x : Nat) (h : x ∈ turn k n) (hn : 0 < n) : x < n := by
  obtain ⟨i, _, rfl⟩ := List.mem_map.mp h
  exact Nat.mod_lt _ hn
/-- A seat is open where a section has room and every section has a free slot, whichever is taken. -/
theorem openSeat_some {s : State} {c n r : Nat} (h : ∃ x < 4, secRoom s c x n r = true)
    (h2 : ∀ x < 4, ∃ k < 16, (!(secTeams s c x).any (fun t => hndSlot t.hnd == k)) = true) : (openSeat s c n r).isSome := by
  obtain ⟨x, hx, hr⟩ := h
  unfold openSeat
  cases e : (turn (Config.place s.fresh) 4).find? (fun sec => secRoom s c sec n r) with
  | none => exact absurd hr (by simpa using List.find?_eq_none.mp e x (mem_turn4 _ x hx))
  | some y =>
    obtain ⟨k, hk, hf⟩ := h2 y (turn_lt _ _ _ (List.mem_of_find?_eq_some e) (by decide))
    simp only [Option.bind_some, Option.isSome_map]
    exact List.find?_isSome.mpr ⟨k, mem_turn16 _ k hk, hf⟩

theorem witness_GraphNodes : (∀ kind ∈ [0, 1, 2, 3, 4, 5], ((sG kind []).core 0).weaver.run = some (tA.grp, 9) ∧ (sG kind []).group tA.grp = some (gM []) ∧ (gM []).core = 0 ∧
      ((sG kind []).core 0).weaver.walks.find? (fun y => y.id == 1 && y.st == .ready) = some ⟨1, 0, kind, .ready⟩ ∧
      ((sG kind []).core 0).weaver.st ≠ 7 ∧ field kind 0 4 = kind ∧ ((sG kind []).core 0).weaver.forks = [] ∧
      (((sG kind []).core 0).weaver.walks.map (·.id)).Nodup) ∧
    CondIs (sG 3 []) (gM []) 3 0 ∧ (nodeBits (sG 4 []) (gM []) 0).isSome ∧ (nextIndex (sG 1 []) (gM [])).isSome ∧ (freeStk (sG 1 []) (gM []).ctx).isSome ∧
    (openSeat (sG 1 []) 0 32 1).isSome ∧ (graphCmd (sG 2 []) 0).isSome ∧
    ((sE (.gstart 0)).core 0).weaver.walks = [] ∧ ((sE (.gstart 0)).ecmd 9).any (fun e => decide (e.core = 0 ∧ e.issuer = .team 0 ∧ e.rep = some 8)) = true := by
  refine ⟨by decide +kernel, ⟨by decide +kernel, by decide +kernel⟩, by decide +kernel, by decide +kernel, by decide +kernel,
    openSeat_some (by decide +kernel) (by decide +kernel), by decide +kernel, by decide +kernel, by decide +kernel⟩

/-- A machine of one core with context 0 and a launch of one group of one team, queue 1, not yet placed. -/
def sL : State :=
  { sA with teams := [], groups := [], launches := sA.launches.map (fun l => { l with next := 0 }), offCores := (List.range 383).map (· + 1),
            ctxs := sA.ctxs.map (fun c => (c.1, { c.2 with desc := { c.2.desc with stkn := 64 } })) }
def lL : Launch := (sL.launches.head?).getD ⟨0, 0, 0, ⟨0, 0, 0, 0, false, false, 0, 0, 0, 0, 0, []⟩, QRec.zero, ⟨0, 0, 0, 0, false⟩, 0, 0, 0, [], false, [], [], none⟩
/-- The group as placement adds it. -/
def sL1 : State :=
  { sL with names := sL.names + 1, fresh := sL.fresh + 2,
            groups := [{ id := sL.names, launch := lL.id, gid := 0, q := lL.q, ctx := lL.ctx, core := 0, sbase := 0, sbytes := 0, used := 1,
                         live := [0], bars := List.replicate 16 Barrier.fresh, iqn := 0, iqc := 0, chans := [], res := .placed, kept := [], pre := none,
                         sav := none, started := false, born := sL.fresh }] }

theorem seat_some : (seatTeam lL.lr lL.ctx 0 sL.names 0 0 sL1).isSome := by
  have h := @openSeat_some sL1 0 lL.lr.strands lL.lr.nregs (by decide +kernel) (by decide +kernel)
  obtain ⟨p, hp⟩ := Option.isSome_iff_exists.mp h
  obtain ⟨k, hk⟩ := Option.isSome_iff_exists.mp (show (freeStk sL1 lL.ctx).isSome by decide +kernel)
  obtain ⟨c, hc⟩ := Option.isSome_iff_exists.mp (show (sL1.ctx lL.ctx).isSome by decide +kernel)
  simp [seatTeam, hp, hk, hc]

theorem try_some : (tryGroup lL sL 0 0).isSome := by
  have h1 : (!enabledCore sL 0 || !clusterOpen sL 0 || gateFirst sL 0) = false := by decide +kernel
  have h2 : scrPlaces sL 0 0 = [0] := by simp [scrPlaces]
  have h3 : sL.groups = [] := by decide +kernel
  have h4 : 256 * lL.lr.scr = 0 := by decide +kernel
  have h5 : lL.lr.tpg = 1 := by decide +kernel
  have h := seat_some
  simp only [sL1] at h
  simp [tryGroup, h1, h2, h3, h4, h5, Nat.mod_one, List.range_succ]
  simpa [List.range_succ] using h

theorem unit_some : (placeUnit sL lL).isSome := by
  have h1 : candidates sL lL = [0] := by decide +kernel
  have h2 : lL.lr.bound = [] := by decide +kernel
  have h3 : lL.next = 0 := by decide +kernel
  have h4 : lL.lr.hash = false := by decide +kernel
  obtain ⟨x, hx⟩ := Option.isSome_iff_exists.mp try_some
  simp [placeUnit, h1, h2, h3, h4, placeRun, placeGroup, inDom, List.range_succ, hx]

theorem witness_PlacementStartAndRetirement : nextLaunch sL 1 = some lL ∧ 1 ≤ lL.lr.unit ∧ (placeUnit sL lL).isSome ∧ savedOf sL 1 = false ∧ serveOrder sL = [1] ∧
    (∀ g ∈ sL.groups, g.id < sL.names) ∧ nextLaunch sL 2 = none ∧
    (nextLaunch { sL with offCores := List.range 384 } 1).any (fun l => (placeUnit { sL with offCores := List.range 384 } l).isNone) = true ∧
    (theTeam sA).done = false ∧ ({ tA with strands := tA.strands.map (fun x => { x with ctr := 0xff }) } : Team).done = true ∧
    nothingOut sA { tA with strands := tA.strands.map (fun x => { x with ctr := 0xff }) } = true ∧ (sA.group tA.grp).isSome ∧ tA.node = false := by
  refine ⟨by decide +kernel, by decide +kernel, unit_some, by decide +kernel, by decide +kernel, by decide +kernel, by decide +kernel, by decide +kernel,
    by decide +kernel, by decide +kernel, by decide +kernel, by decide +kernel, by decide +kernel⟩

/-- A group placed and not started, on a running cluster. -/
def sPG : State := { sA with teams := [], groups := sA.groups.map (fun g => { g with res := .placed, kept := [tA] }) }

theorem witness_PlacementStartAndRetirement_start : (sPG.group tA.grp).any (fun x => decide (x.res = .placed) && (sPG.launch x.launch).any (fun l => (aget (dieOf x.core) l.lastStart).isNone) &&
      clusterRuns sPG x.core) = true := by decide +kernel

theorem witness_MemorySideSteps : SectorsSound sA ∧ Live sA ∧ Memory.wf sA.mem = true ∧ ({ tA with status := .parked [5] } : Team).status = .parked [5] ∧ sA.team 0 = some tA ∧
    ((withT (fun t => { t with status := .waiting })).team 0).any (fun t => decide (t.status = .waiting ∧ t.rel = [])) = true ∧
    ((withT (fun t => { t with rel := [⟨1, [64], []⟩] })).team 0).any (fun t => decide (t.rel = [⟨1, [64], []⟩])) = true ∧
    ((withT (fun t => { t with ranges := [⟨1, some 8, 0⟩], subs := [⟨2, none, 0, 1, 0⟩] })).team 0).any
      (fun t => decide (t.ranges = [⟨1, some 8, 0⟩] ∧ t.subs.find? (fun r => r.left == 0) = some ⟨2, none, 0, 1, 0⟩)) = true ∧
    ((sF0.putTeam { tF with status := .waiting }).team tF.hnd = some { tF with status := .waiting } ∧
      (match fetchAt (sF0.putTeam { tF with status := .waiting }) { tF with status := .waiting } with | .instr _ => true | _ => false) = true) ∧
    (sA.team (0 * 2048 + 0 * 512 + 0)) = some tA ∧ devOf (2 ^ 30) = sA.devid ∧ 2 ^ 30 % 2 ^ 39 < devBytes ∧ sA.memPsn = [] := by
  refine ⟨by unfold SectorsSound; decide +kernel, by unfold Live; decide +kernel, by decide +kernel, rfl, by decide +kernel, by decide +kernel,
    by decide +kernel, by decide +kernel, by decide +kernel, by decide +kernel, by decide +kernel, by decide +kernel, by decide +kernel⟩

/-- `sA` with the host command `e` open on ring 2, whose port is the admin port; `me2` its header. -/
def me2 : CmdHdr := ⟨2, 0, 5, 0, false⟩
def sQ (e : Event) : State :=
  { sA with queues := [(2, ⟨QRec.zero, true, 0, 64, 8, 1, [⟨e, me2, false⟩], false, 0, 0, false⟩)], boot := { sA.boot with admin := some 8 } }

theorem mayRun (e : Event) : MayRun (sQ e) me2 e := by
  have q : ((sQ e).queue 2).cmds = [⟨e, me2, false⟩] := rfl
  refine ⟨⟨⟨e, me2, false⟩, ?_, ?_⟩, ?_⟩
  · simp [findCmd, q, show me2.q = 2 from rfl]
  · simp [mayStart, q, show me2.q = 2 from rfl]
  · exact ⟨Or.inl rfl, by simp [q, show me2.q = 2 from rfl]⟩

/-- The same with the command started. -/
def sOn (e : Event) : State := { sQ e with queues := [(2, ⟨QRec.zero, true, 0, 64, 8, 1, [⟨e, me2, true⟩], false, 0, 0, false⟩)] }
theorem openOn (e : Event) : Open (sOn e) me2 e := by
  refine ⟨⟨e, me2, true⟩, ?_, rfl⟩
  have q : ((sOn e).queue 2).cmds = [⟨e, me2, true⟩] := rfl
  simp [findCmd, q, show me2.q = 2 from rfl]

/-- `sA` with its cluster 0 changed. -/
def sCl (f : Cluster → Cluster) : State := { sA with clusters := [(0, f (sA.cluster 0))], groups := [], teams := [] }

theorem witness_PowerSteps : (let s : State := { sA with power := { sA.power with queue := [3, 4] } }
      s.power.queue = 3 :: [4] ∧ (s.cores.filter (fun x => x.2.tok)).length < s.power.pool ∧ s.power.hold = false ∧ s.power.excess = 0) ∧
    (let s := sCl (fun c => { c with sw := some true }); (s.cluster 0).sw = some true) ∧
    (let s := sCl (fun c => { c with gating := true }); (s.cluster 0).gating = true ∧ s.groups = []) ∧
    (let s := sCl (fun c => { c with retaining := true }); (s.cluster 0).retaining = true ∧ s.groups = []) ∧
    (∃ x, ({ sA with power := { sA.power with expiry := some 0 } } : State).power.expiry = some x ∧ x ≤ sA.now) ∧ sA.power.lastSeq = none ∧
    (let s := sA.putTeam { tA with mat := [oneResult false] }; ∃ t ∈ s.teams, t.core = 0 ∧ ∃ m ∈ t.mat, m.ox = false) ∧
    (let s := sOn (.powerRail me2 0 1); Open s me2 (.powerRail me2 0 1) ∧ (((sQ (.powerRail me2 0 1)).queue me2.q).cmds.map (·.hdr)).Nodup) ∧ NoneWaits sA := by
  refine ⟨by decide +kernel, by decide +kernel, by decide +kernel, by decide +kernel, ⟨0, rfl, by decide +kernel⟩, by decide +kernel, by decide +kernel,
    ⟨openOn _, (mayRun _).2.2⟩, by decide +kernel, by decide +kernel⟩

theorem witness_PowerCommands : (∀ e : Event, MayRun (sQ e) me2 e ∧ (sQ e).boot.admin = some ((sQ e).queue me2.q).owner) ∧
    (∀ e : Event, MayRun { sQ e with boot := sA.boot } me2 e ∧ ({ sQ e with boot := sA.boot } : State).boot.admin ≠ some ((sQ e).queue me2.q).owner) ∧
    (384 : Nat) ≤ 384 ∧ ¬(385 : Nat) ≤ 384 ∧ (2400 : Nat) ≤ 2400 ∧ ¬(2401 : Nat) ≤ 2400 ∧ (100000 : Nat) ≤ 100000 ∧ ¬1 ≤ (0 : Nat) ∧ ¬(100001 : Nat) ≤ 100000 ∧
    (31 : Nat) < 32 ∧ ¬(32 : Nat) < 32 ∧ ¬2 ^ 32 < (2 : Nat) ^ 32 ∧ (191 : Nat) < 192 ∧ ¬192 ≤ (191 : Nat) ∧ (127 : Nat) < 128 ∧
    ((sA.cluster 0).gated = false ∧ (sA.cluster 0).gating = false ∧ (sA.cluster 0).ret = false ∧ (sA.cluster 0).retaining = false ∧ (sA.cluster 0).recs = []) ∧
    (∀ g ∈ sA.groups, g.core / 12 ≠ 1 ∧ g.pre = none) ∧ (sA.spares.filter (fun x => x.1 == 0)).length < 2 ∧ pairBusy sA 0 = true ∧ pairBusy sA 5 = false := by
  refine ⟨fun e => ⟨mayRun e, rfl⟩, fun e => ⟨mayRun e, (by
    rw [show ((sQ e).queue me2.q).owner = 8 from rfl, show ({ sQ e with boot := sA.boot } : State).boot = sA.boot from rfl]; decide +kernel)⟩, by decide, by decide, by decide, by decide, by decide, by decide, by decide,
    by decide, by decide, by decide, by decide, by decide, by decide, by decide +kernel, by decide +kernel, by decide +kernel, by decide +kernel, by decide +kernel⟩

/-- A team of one register that is asked to leave and stands at a yield point, its group, and a context with a save area at address
`4096` and pages there; `sY` before the save. -/
def tY : Team := { tA with nreg := 1, strands := tA.strands.map (fun x => { x with regs := [⟨7, 0, false⟩] }), preq := some 0, yielded := some (1, false) }
def gY : Group := { gM [] with pre := some .sched, sbytes := 0 }
def withPages (s : State) : State :=
  { s with tlb := [⟨0, 0, 2 ^ 16, 2 ^ 30, true, true, false, 0, 0⟩]
           ctxs := s.ctxs.map (fun c => (c.1, { c.2 with desc := { c.2.desc with sav := 4096, savsz := 16384, stkn := 64 } })) }
def sY : State := { withPages sA with teams := [tY], groups := [gY] }

theorem witness_PreemptionSaveAndRestore : (sY.group gY.id = some gY) ∧ (sY.groups.map (·.id)).Nodup ∧ (unitOf sY gY).filter (fun y => !isSaved y) = [gY] ∧
    (keepPlaces sY [gY]).isSome = true ∧ (keepPlaces { sY with ctxs := sA.ctxs } [gY]).isNone = true ∧ gY.sav = none ∧
    ((sY.team tY.hnd).bind sY.grpOf = some gY) ∧ unitReady sY (unitOf sY gY) = true ∧ unitOf sY gY = [gY] ∧ (sY.ctx gY.ctx).isSome ∧
    (∀ t ∈ teamsOf sY gY, ImageFits t) ∧ (∀ t ∈ sY.teams, t.grp = gY.id → t.idx < 16) ∧ gY.bars.length = 16 ∧ gY.iqc < 2 ^ 32 ∧
    gY.sbytes % 256 = 0 ∧ gY.sbase % 256 = 0 ∧ (teamsOf sY gY).all (fun t => (saveKind t).1 ≤ t.nreg) = true ∧ (∀ b ∈ gY.bars, b.arr.Nodup) ∧
    teamsOf sY gY ≠ [] ∧ (recordPlace sY gY (recordBytes sY gY (teamsOf sY gY) saveKind).length).any (fun r => r.2 == 0) = true ∧
    Owned sY ∧ unitReady sY (hereOf { sY with teams := [{ tY with yielded := none }] } gY) = true ∧
    (tY.rmw = none ∧ ∃ t0, tY.preq = some t0 ∧ ({ tY with yielded := none } : Team).yielded = none ∧ t0 + preTimeout sY tY ≤ ({ sY with time := 2 ^ 40 } : State).now) := by
  refine ⟨by decide +kernel, by decide +kernel, by decide +kernel, by decide +kernel, by decide +kernel, by decide +kernel, by decide +kernel, by decide +kernel,
    by decide +kernel, by decide +kernel, ?_, by decide +kernel, by decide +kernel, by decide +kernel, by decide +kernel, by decide +kernel, by decide +kernel,
    by decide +kernel, by decide +kernel, by decide +kernel, ⟨by decide +kernel, by unfold SectorsSound; decide +kernel, by unfold Live; decide +kernel, by decide +kernel,
      by decide +kernel⟩, by decide +kernel, ⟨rfl, 0, rfl, rfl, by decide +kernel⟩⟩
  have h : (teamsOf sY gY) = [tY] := by decide +kernel
  rw [h]
  intro t ht
  rw [List.mem_singleton.mp ht]
  exact ⟨by decide +kernel, by decide +kernel, by decide +kernel, by decide +kernel, by decide +kernel, by decide +kernel, by decide +kernel,
    fun w h => (by rw [show tY.bwt = none by decide +kernel] at h; cases h),
    fun w h => (by rw [show tY.act = none by decide +kernel] at h; cases h)⟩

/-- The same group saved: its record of one team with all strands enabled and 7 in one register stands in the save area. -/
def gZ : Group := { gY with res := .saved 0, kept := [{ tY with status := .run }] }
def zLen : Nat := 2720
def sZ : State :=
  { withPages sA with teams := [], groups := [gZ]
                      secs := (List.range 43).map (fun i => (2 ^ 24 + 64 + i, { DieSec.absent with st := .s }))
                      ctxs := (withPages sA).ctxs.map (fun c => (c.1, { c.2 with savUsed := [(0, zLen)] }))
                      mem := [(7, 1), (44, 1), (265, 1), (266, 1), (268, 1), (284, 1), (320, 3), (2560, 7)].map (fun c => (2 ^ 30 + 4096 + c.1, BitVec.ofNat 8 c.2)) }

theorem witness_PreemptionSaveAndRestore_restore : sZ.group gZ.id = some gZ ∧ gZ.pre ≠ some .host ∧ (gZ.pre = some .sched → launchFirst sZ gZ = false) ∧ unitOf sZ gZ = [gZ] ∧ gZ.res = .saved 0 ∧ (sZ.groups.map (·.id)).Nodup ∧
    gZ.kept ≠ [] ∧ (∀ t ∈ gZ.kept, t.status = .run ∧ t.strands.length = 32 * t.passes) ∧ gZ.sbytes % 256 = 0 ∧ gZ.sbase % 256 = 0 ∧
    (sZ.core gZ.core).slots.all (fun y => y.2 ≠ gZ.id) = true ∧ Memory.wf sZ.scr = true ∧ Memory.wf sZ.slotm = true := by
  refine ⟨by decide +kernel, by decide +kernel, by decide +kernel, by decide +kernel, by decide +kernel, by decide +kernel, by decide +kernel, by decide +kernel,
    by decide +kernel, by decide +kernel, by decide +kernel, by decide +kernel, by decide +kernel⟩

/-- Whether a group's record is read and is bad, or good. -/
def recordIs (s : State) (bad : Bool) : Bool := match recordRead s gZ 0 with
  | (s1, .bytes bs) => recordBad s1 gZ (fun o => nth 0 bs o) == bad
  | _ => false

theorem witness_PreemptionSaveAndRestore_record : recordIs sZ false = true ∧ recordIs { sZ with ctxs := sZ.ctxs.map (fun c => (c.1, { c.2 with savUsed := [(0, 64)] })), mem := [] } true = true := ⟨by decide +kernel, by decide +kernel⟩

/-- Whether what the device reads has to wait, cannot be read, or is these bytes. -/
def waits (g : State × Got) : Bool := match g.2 with
  | .wait => true
  | _ => false
def isBad (g : State × Got) : Bool := match g.2 with
  | .bad => true
  | _ => false
def gives (g : State × Got) (bs : List Byte) : Bool := match g.2 with
  | .bytes x => x == bs
  | _ => false
/-- Sectors of die 0 that it may read and write: the first `n` of the page at 2^30, and those listed. -/
def mSecs (n : Nat) (xs : List Nat) : List (Nat × DieSec) := ((List.range n) ++ xs).map (fun i => (2 ^ 24 + i, { DieSec.absent with st := .m }))

/-- `sA` with device 3 in recovery since 0, the limit passed, and the given commands, team and write-throughs. -/
def sPe (es : List ECmd) (asks : List Ask) (t : Team) (ths : List Through) : State :=
  { sA with recovery := [(3, (0, false))], time := 2 ^ 40, deadMs := 10, ecmds := es, asks := asks, teams := [t], throughs := ths,
            comms := [(5, ⟨0, [(0, 0, 0, 0), (3, 0, 0, 0)]⟩)] }
def peerCmd : ECmd :=
  { id := 9, op := .xfer true 5 1 0 (.glob 0) 1 false 0, issuer := .team 0, grp := tA.grp, q := 1, ctx := 0, core := 0, pc := 0, sup := false, rep := some 8,
    rd := [], wr := [], moved := 0, wait := none, tries := 0, sent := false, peer := none, fin := none }
/-- A sector of device 3, and a read asked of it. -/
def away : Nat := 3 * 2 ^ 33
def askRead : List Ask := [⟨0, away, .exact, none⟩]
def uPark : Team := { tA with status := .parked [away] }
def sPark : State := { sPe [] askRead uPark [] with mem := (State.reset.withFetchWord 128 0x00000011000000402001404A01FBF007).mem }

theorem witness_PeersWatchdogAndDeath : (let s := sPe [peerCmd] [] tA [];
      aget 3 s.recovery = some (0, false) ∧ 0 + peerLimit s 1 ≤ s.now ∧ stuckOn s 1 3 = ([peerCmd], [], []) ∧ peerCmd.rep ≠ none ∧
        ¬(s.deadMs = 0 ∨ s.now < 0 + s.deadMs * 1000000) ∧ s.devid ≠ 3) ∧
    stuckOn (sPe [] [] tA []) 1 3 = ([], [], []) ∧
    (stuckOn sPark 1 3 = ([], [uPark], []) ∧ sPark.team uPark.hnd = some uPark ∧ sPark.isSup uPark = false ∧ waitsFetch sPark uPark = true) ∧
    (let u := { tA with rel := [⟨1, [3 * 2 ^ 39], []⟩] };
      stuckOn (sPe [] [] u [⟨1, 0, 0, away, [], false, false, false⟩]) 1 3 = ([], [], [u])) := by
  refine ⟨by decide +kernel, by decide +kernel, by decide +kernel, by decide +kernel⟩

/-- Ring 2 with its watchdog run out, and with the tail in memory `n` entries on from the head 1. -/
def sDog : State :=
  { sA with queues := [(2, ⟨QRec.zero, true, 0, 64, 8, 1, [⟨.launch me2 0, me2, true⟩], false, 2000000000, 0, false⟩)] }
def sTk (n : Nat) (torn : Bool) : State :=
  { sA with queues := [(2, ⟨QRec.zero, true, 2 ^ 30, 2, 8, 1, [], torn, 0, 0, false⟩)], mem := [(2 ^ 30 + 128, BitVec.ofNat 8 (n + 1))]
            secs := mSecs 66 [] }
/-- How many commands a ring holds for the device, as far as it can read them. -/
def took (s : State) : Option (Nat × Nat) := (ringTake s 2).2.map (fun r => ((r.1 - (s.queue 2).head).toNat, r.2.length))

theorem witness_PeersWatchdogAndDeath_more : (sDog.queue 2).cmds = [⟨.launch me2 0, me2, true⟩] ∧ dogLimit sDog 2 ≤ (sDog.queue 2).wd ∧ me2.q = 2 ∧ (∀ t ∈ sDog.teams, t.pending = []) ∧
    (sA.dir = [] ∧ sA.txns = [] ∧ 0 / 16 = sA.devid ∧ EntriesSound sA 5) ∧ (8191 : Nat) < 8192 ∧ ¬(8192 : Nat) < 8192 ∧ (11 : Nat) % 16 < 12 ∧ ¬(12 : Nat) % 16 < 12 ∧
    sA.current 0 = true ∧ (let s := { sA with epochs := [(agentOf sA 0, 1)] }; s.current 0 = false ∧ SectorsSound s ∧ ∀ t ∈ s.teams, s.qOf t < 64) ∧
    (0 : Nat) < 8 ∧ ¬(8 : Nat) < 8 := by
  refine ⟨by decide +kernel, by decide +kernel, rfl, by decide +kernel, ⟨by decide +kernel, by decide +kernel, by decide +kernel, ?_⟩, by decide, by decide, by decide, by decide,
    by decide +kernel, ⟨by decide +kernel, by unfold SectorsSound; decide +kernel, by decide +kernel⟩, by decide, by decide⟩
  have h : sA.dir = [] := by decide +kernel
  exact ⟨by simp [h], by simp [h]⟩

/-- Bytes with zeros elsewhere, and `sQ` with them in memory behind address 256. -/
def sparse (n : Nat) (cs : List (Nat × Nat)) : List Byte := (List.range n).map (fun i => BitVec.ofNat 8 ((aget i cs).getD 0))
def sQm (e : Event) (cs : List (Nat × Nat)) : State := { sQ e with mem := cs.map (fun c => (2 ^ 30 + 256 + c.1, BitVec.ofNat 8 c.2)), secs := mSecs 66 [] }
/-- The same with the page of address 0 on device 3. -/
def afar (s : State) : State := { s with tlb := [{ leaf0 with pa := 3 * 2 ^ 39 }], secs := [], throughs := [] }
/-- A launch record: one group of one team of one pass (Table 2-1); a context descriptor with stacks of 8 KiB (Table 21-4). -/
def lCells : List (Nat × Nat) := [(9, 1), (10, 1), (11, 3), (14, 1), (32, 4), (128, 32), (132, 16), (144, 1), (148, 33), (160, 1), (164, 50)]
def dCells : List (Nat × Nat) := [(44, 8)]

theorem owned (s : State) (h1 : Memory.wf s.mem = true) (h2 : SectorsSound s) (h3 : Live s) (h4 : s.behind = []) (h5 : ∀ x ∈ s.secs, x.2.dirty = []) :
    Owned s := ⟨h1, h2, h3, h4, fun x hx h => absurd (h5 x hx) h⟩

theorem witness_HostQueueCommands_reads : NoneWaits sA ∧ PlainReads (sTk 2 false) ∧ (sA.queue 9).bound = false ∧ ((sTk 2 false).queue 2).bound = true ∧ took (sTk 2 false) = some (2, 2) ∧
    took (sTk 0 false) = some (0, 0) ∧ took (sTk 1 false) = some (1, 1) ∧ took (sTk 3 false) = some (3, 0) ∧ ((sTk 3 true).queue 2).torn = true ∧
    ((sTk 2 true).queue 2).cmds = [] ∧
    took { sTk 2 false with queues := [(2, ⟨QRec.zero, true, 3 * 2 ^ 39, 64, 8, 1, [], false, 0, 0, false⟩)] } = none ∧ Owned (sTk 2 false) := by
  have o : Owned (sTk 2 false) :=
    owned _ (by decide +kernel) (by unfold SectorsSound; decide +kernel) (by unfold Live; decide +kernel) (by decide +kernel) (by decide +kernel)
  refine ⟨⟨by decide +kernel, by decide +kernel⟩, ⟨o, by decide +kernel, by decide +kernel, ?_⟩, by decide +kernel, by decide +kernel, by decide +kernel,
    by decide +kernel, by decide +kernel, by decide +kernel, by decide +kernel, by decide +kernel, by decide +kernel, o⟩
  intro line
  have h : (sTk 2 false).dir = [] := by decide +kernel
  simp [State.dirE, h, aget, DirEntry.subscribed, DirEntry.empty]

theorem witness_HostQueueCommands : (∀ e : Event, MayRun (sQ e) me2 e ∧ Runs (sQ e) me2 e) ∧
    gives (cmdGet me2 256 256 (sQm (.launch me2 256) lCells)) (sparse 256 lCells) = true ∧ ((sQm (.launch me2 256) lCells).ctx 0).isSome = true ∧
    waits (cmdGet me2 256 256 (afar (sQ (.launch me2 256)))) = true ∧ isBad (cmdGet me2 4096 256 (sQ (.launch me2 4096))) = true ∧
    LaunchValid (fun i => nth 0 (sparse 256 lCells) i) 8 ∧ ¬LaunchValid (fun i => nth 0 (sparse 256 []) i) 8 ∧
    256 ≤ 256 * bytesNat (fun i => nth 0 (sparse 256 lCells) i) 14 2 ∧ ctxCan (sQm (.launch me2 256) lCells) 0 0 8 = true ∧
    ctxCan (sQ (.launch me2 256)) 0 4096 8 = false ∧
    WritableAt (sQm (.signal me2 64 1) []) 0 64 ((List.range 8).map (2 ^ 30 + 64 + ·)) ∧ Owned (sQm (.signal me2 64 1) []) ∧ me2.crec = 0 ∧
    gives (cmdGet me2 256 8 (sQm (.wait me2 256 7) [(0, 6)])) (sparse 8 [(0, 6)]) = true ∧ leNat (sparse 8 [(0, 6)]) < (7 : DWord).toNat ∧
    (6 : DWord).toNat ≤ leNat (sparse 8 [(0, 6)]) ∧
    gives (cmdGet me2 256 128 (sQm (.queue me2 63 256) [])) (sparse 128 []) = true ∧ QueueValid (sQ (.queue me2 63 256)) 63 (fun i => nth 0 (sparse 128 []) i) ∧
    ¬QueueValid (sQ (.queue me2 63 256)) 63 (fun i => nth 0 (sparse 128 [(0, 8)]) i) := by
  have z : ∀ n i : Nat, nth 0 (sparse n []) i = (0 : Byte) := by
    intro n i
    simp [sparse, nth, aget, List.getD]
  refine ⟨fun e => ⟨mayRun e, Or.inl (mayRun e)⟩,
    by decide +kernel, by decide +kernel, by decide +kernel, by decide +kernel, ?_, fun h => absurd h.1 (by decide +kernel), by decide +kernel, by decide +kernel,
    by decide +kernel, ⟨by decide +kernel, by decide +kernel, fun i hi => ⟨leaf0, ?_⟩⟩,
    owned _ (by decide +kernel) (by unfold SectorsSound; decide +kernel) (by unfold Live; decide +kernel) (by decide +kernel) (by decide +kernel), rfl,
    by decide +kernel, by decide +kernel, by decide +kernel, by decide +kernel, ?_,
    fun h => absurd h.1 (by decide +kernel)⟩
  · unfold LaunchValid
    repeat' apply And.intro
    all_goals first
      | decide +kernel
      | skip
    · intro i h
      rw [show ((fun i => nth 0 (sparse 256 lCells) i) 11).toNat = 3 by decide +kernel] at h
      have h2 : i = 0 ∨ i = 1 := by omega
      rcases h2 with rfl | rfl <;> decide +kernel
    · intro i h
      refine ⟨fun x => absurd x.1 (by decide +kernel), fun _ => ?_⟩
      revert i; decide +kernel
  · revert i
    decide +kernel
  · rw [show (fun i => nth 0 (sparse 128 []) i) = fun _ => 0 from funext (z 128)]
    unfold QueueValid
    repeat' apply And.intro
    all_goals first
      | decide +kernel
      | exact fun _ _ => rfl

theorem witness_HostContextCommands : (∀ e : Event, MayRun (sQ e) me2 e ∧ (sQ e).boot.admin = some ((sQ e).queue me2.q).owner ∧ Runs (sQ e) me2 e) ∧
    gives (cmdGet me2 256 64 (sQm (.context me2 65535 256) dCells)) (sparse 64 dCells) = true ∧ DescValid (fun i => nth 0 (sparse 64 dCells) i) ∧
    ¬DescValid (fun i => nth 0 (sparse 64 []) i) ∧ (aget 0 (sQm (.context me2 0 256) dCells).ctxs).isSome ∧
    (∃ g ∈ (sQm (.context me2 0 256) dCells).groups, ctxId g.ctx = 0 ∧ isSaved g = false ∧ g.ctx = 0) ∧
    waits (cmdGet me2 256 64 (afar (sQ (.context me2 0 256)))) = true ∧ isBad (cmdGet me2 4096 64 (sQ (.context me2 0 4096))) = true ∧
    gives (cmdGet me2 256 32 (sQm (.communicator me2 5 1 0 256) [])) (sparse 32 []) = true ∧
    (∀ i < 1, bytesNat (fun i => nth 0 (sparse 32 []) i) (32 * i) 2 < 512 ∧ (nth 0 (sparse 32 []) (32 * i + 4)).toNat < 4 ∧
      ∀ j, 5 ≤ j → j < 16 → nth 0 (sparse 32 []) (32 * i + j) = 0) ∧
    (let s := withPages (sQ (.preEmpt me2 1));
      s.groups.filter (fun g => g.q == 1 && !isSaved g) ≠ [] ∧ (∀ g ∈ s.groups, g.pre = none) ∧ (keepPlaces s s.groups).isSome = true ∧
        (keepPlaces (sQ (.preEmpt me2 1)) s.groups).isNone = true ∧ (s.groups.map (·.id)).Nodup ∧ s.groups.filter (fun g => g.q == 63 && !isSaved g) = []) ∧
    (let s := { sQ (.restore me2 1) with groups := [gZ] }; s.groups.filter (fun g => g.q == 1 && isSaved g) ≠ []) := by
  refine ⟨fun e => ⟨mayRun e, rfl, Or.inl (mayRun e)⟩, by decide +kernel, by unfold DescValid; decide +kernel, fun h => absurd h.2.2.2.2.2.2.2.2.2.1 (by decide +kernel),
    by decide +kernel, by decide +kernel, by decide +kernel, by decide +kernel, by decide +kernel, by decide +kernel, by decide +kernel, by decide +kernel⟩

theorem witness_ManagementFunctions : (∀ e : Event, MayRun (sQ e) me2 e ∧ (sQ e).boot.admin = some ((sQ e).queue me2.q).owner) ∧
    ¬(0 : DWord).toNat < sA.now ∧ (0 : DWord).toNat < ({ sA with time := 1 } : State).now ∧ (63 : Nat) < 64 ∧ ¬64 ≤ (63 : Nat) ∧ me2.crec = 0 ∧
    (let s := sTk 2 true; (s.queue 2).bound = true ∧ gives (physGet ((List.range 4).map (2 ^ 30 + 128 + ·)) s) [3, 0, 0, 0] = true ∧ (s.queue 9).bound = false) ∧
    waits (physGet ((List.range 4).map (3 * 2 ^ 39 + ·)) sA) = true ∧
    ((∃ i, i ≤ 10 ∧ 64 = 2 ^ (6 + i)) ∧ (∃ i, i ≤ 10 ∧ 65536 = 2 ^ (6 + i)) ∧ (sA.queue 5).cmds = [] ∧ (∀ l ∈ sA.launches, l.q ≠ 5)) ∧
    gives (cmdGet me2 64 32 (sQm (.attest me2 64 128) [])) (sparse 32 []) = true ∧ isBad (cmdGet me2 4090 32 (sQm (.attest me2 64 128) [])) = true ∧ sA.boot.image.length ≤ 64 ∧
    WritableAt (sQm (.identity me2 128) []) 0 128 ((List.range 64).map (2 ^ 30 + 128 + ·)) ∧ (ctxWrite sA 0 4096 [7]).isNone = true ∧
    (sA.asks = [] ∧ sA.txns = [] ∧ sA.behind = [] ∧ sA.throughs = [] ∧ sA.dwq = []) ∧
    (511 < 512 ∧ 10 ≤ 10 ∧ 10000 ≤ 10000 ∧ sA.traffic = false) ∧ (sA.boot.svn < 1 ∧ 2 ^ 32 - 1 < 2 ^ 32) ∧
    (383999995904 % 4096 = 0 ∧ 383999995904 / 2 ^ 39 = sA.devid ∧ 383999995904 % 2 ^ 39 < 384 * 10 ^ 9) := by
  refine ⟨fun e => ⟨mayRun e, rfl⟩, by decide +kernel, by decide +kernel, by decide, by decide, rfl, by decide +kernel, by decide +kernel,
    ⟨⟨0, by decide, by decide⟩, ⟨10, by decide, by decide⟩, by decide +kernel, by decide +kernel⟩,
    by decide +kernel, by decide +kernel, by decide +kernel, ⟨by decide +kernel, by decide +kernel, fun i hi => ⟨leaf0, ?_⟩⟩, by decide +kernel, by decide +kernel,
    by decide +kernel, by decide +kernel, by decide +kernel⟩
  revert i
  decide +kernel

/-- Event ring 8 of 256 entries with `w` events waiting and the device's write index at `n`. -/
def sEv (n : Nat) (w : List (List Byte)) : State :=
  { sA with
    events := [(8, ⟨true, 2 ^ 30, 256, BitVec.ofNat 32 n, w⟩)]
    secs := mSecs 0 [256]
    dir := [(2 ^ 22 + 64, ⟨none, [], 0, [some ⟨0, agentOf sA 0, false⟩, none, none, none],
      ⟨false, 2, [true, false, false, false]⟩ :: List.replicate 3 ⟨false, 0, [false, false, false, false]⟩⟩)] }

theorem witness_EventsResetAndBoot : (let s := sEv 255 []; (s.evring 8).bound = true ∧ ReadIndex s 8 0 ∧ unread s 8 0 < (s.evring 8).entries ∧ (s.evring 8).waiting = []) ∧
    ¬unread (sEv 256 []) 8 0 < ((sEv 256 []).evring 8).entries ∧ (sA.evring 9).bound = false ∧
    (let s := sEv 256 [List.replicate 64 1];
      ReadIndex (hostReads s 8 1) 8 1 ∧ (∀ bs ∈ (s.evring 8).waiting, bs.length = 64) ∧ (s.evring 8).entries < 2 ^ 32 ∧ 2 ^ 32 % (s.evring 8).entries = 0 ∧
        1 ≤ min (s.evring 8).waiting.length ((s.evring 8).entries - unread s 8 1) ∧ Owned (hostReads s 8 1) ∧ Owned s) ∧
    (let r : EvRing := ⟨true, 3 * 2 ^ 39, 256, 0, []⟩; (ringGet { sA with events := [(8, r)] } r).2 = none) ∧
    State.reset.boot.boot ≠ 0 ∧ ({ State.reset with boot := { State.reset.boot with boot := 0 } } : State).boot.boot = 0 ∧
    PlainReads { State.reset with secs := (List.range 4).map (fun i => (i, { DieSec.absent with st := .m })) } ∧
    (bootImage { State.reset with secs := (List.range 4).map (fun i => (i, { DieSec.absent with st := .m })) }).2.isSome = true ∧
    ¬ImageAccepted State.reset (fun _ => 0) := by
  have o : ∀ s : State, (decide (Memory.wf s.mem = true) && s.behind.isEmpty && s.secs.all (fun x => x.2.dirty.isEmpty)) = true → SectorsSound s → Live s → Owned s := by
    intro s h a b
    simp only [Bool.and_eq_true, decide_eq_true_eq, List.isEmpty_iff, List.all_eq_true] at h
    exact owned s h.1.1 a b h.1.2 h.2
  refine ⟨⟨by decide +kernel, by unfold ReadIndex; decide +kernel, by decide +kernel, by decide +kernel⟩, by decide +kernel, by decide +kernel,
    ⟨by unfold ReadIndex; decide +kernel, by decide +kernel, by decide +kernel, by decide +kernel, by decide +kernel, ?_,
      o _ (by decide +kernel) (by unfold SectorsSound; decide +kernel) (by unfold Live; decide +kernel)⟩,
    by decide +kernel, by decide +kernel, by decide +kernel,
    ⟨o _ (by decide +kernel) (by unfold SectorsSound; decide +kernel) (by unfold Live; decide +kernel), by decide +kernel, by decide +kernel, ?_⟩,
    by decide +kernel, fun h => absurd h.1 (by decide +kernel)⟩
  · refine ⟨by decide +kernel, by unfold SectorsSound; decide +kernel, by unfold Live; decide +kernel, by decide +kernel, by decide +kernel⟩
  · intro line
    simp [State.dirE, show State.reset.dir = [] by decide +kernel, aget, DirEntry.subscribed, DirEntry.empty]

/-- `sA` as home of line 2^22 (address 2^30) with the entry of given coarse groups, slots and first sector field. -/
def sHc (co : Option (List Nat)) (sl : List (Option Sharer)) (st : Nat) (hold : List Bool) : State :=
  { sA with dir := [(2 ^ 22, ⟨co, [], 0, sl, ⟨false, st, hold⟩ :: List.replicate 3 ⟨false, 0, [false, false, false, false]⟩⟩)] }
def sHm : List (Option Sharer) → Nat → List Bool → State := sHc none
def held0 : List Bool := [true, false, false, false]
/-- An agent of device 3. -/
def far : MsgHdr := ⟨48, 0⟩
def four (f g : Nat) : List (Option Sharer) := [some ⟨f, 64, false⟩, some ⟨g, 80, true⟩, some ⟨0, 0, false⟩, some ⟨0, 96, false⟩]

theorem homeReady (co : Option (List Nat)) (sl : List (Option Sharer)) (st : Nat) (hold : List Bool) (h1 : sl.length = 4) (h2 : hold.length = 4) :
    HomeReady (sHc co sl st hold) (2 ^ 24) := by
  have e : (sHc co sl st hold).dirE (2 ^ 24 / 4) = ⟨co, [], 0, sl, ⟨false, st, hold⟩ :: List.replicate 3 ⟨false, 0, [false, false, false, false]⟩⟩ := rfl
  have z : (sHc co sl st hold).secs = [] := rfl
  refine ⟨⟨by rw [e]; exact h1, by rw [e]; rfl, ?_⟩, ⟨by rw [show (sHc co sl st hold).mem = sA.mem from rfl]; decide +kernel, by unfold SectorsSound; simp [z],
    by unfold Live; simp [z], rfl, by simp [z]⟩, rfl, Or.inl ⟨_, List.mem_singleton.mpr rfl, rfl⟩, by simp [z]⟩
  · rw [e]; intro f hf
    rcases List.mem_cons.mp hf with rfl | hf
    · exact h2
    · rw [List.eq_of_mem_replicate hf]; rfl

theorem witness_HomeMessages : (devOf (2 ^ 24 * 64) = sA.devid ∧ devOf (3 * 2 ^ 33 * 64) ≠ sA.devid ∧ far.epoch = epochOf sA far.agent ∧ localDie sA far.agent = none ∧
      far.epoch ≠ epochOf { sA with epochs := [(48, 1)] } far.agent ∧ far.agent ∈ ({ sA with dead := [48] } : State).dead ∧ far.agent ∉ sA.dead ∧ sA.behind = []) ∧
    (let s := sHm [none, none, none, none] 0 [false, false, false, false];
      HomeReady s (2 ^ 24) ∧ mOwner s (2 ^ 24) ≠ some 48 ∧ toRecall s (2 ^ 24) = [] ∧ isPend s (2 ^ 24) = false ∧ s.txns = [] ∧ RoomFor s 48 (2 ^ 22) ∧
        (s.dirE (2 ^ 22)).hasSub = false ∧ (s.dirE (2 ^ 22)).coarse = none ∧ exactHolders s 48 (2 ^ 24) = [] ∧ (s.dirE (2 ^ 22)).subscribed 48 = false) ∧
    (let s := sHm [some ⟨0, 64, false⟩, some ⟨1, 48, false⟩, none, none] 2 held0;
      HomeReady s (2 ^ 24) ∧ mOwner s (2 ^ 24) ≠ some 48 ∧ toRecall s (2 ^ 24) = [64] ∧ (s.dirE (2 ^ 22)).slotOf 48 = some 1 ∧
        (s.dirE (2 ^ 22)).slot 1 = some ⟨1, 48, false⟩ ∧ (s.dirE (2 ^ 22)).hasSub = true ∧ mOwner s (2 ^ 24) = some 64 ∧ (s.dirE (2 ^ 22)).subscribed 48 = true) ∧
    (let s := sHm (four 0 1) 1 [true, true, true, true];
      HomeReady s (2 ^ 24) ∧ ¬RoomFor s 48 (2 ^ 22) ∧ (∀ q < 4, mOwner s (2 ^ 24 / 4 * 4 + q) = none) ∧ mOwner s (2 ^ 24) ≠ some 48) ∧
    (let s := sHc (some [1]) [none, none, none, none] 1 [false, false, false, false];
      HomeReady s (2 ^ 24) ∧ RoomFor s 48 (2 ^ 22) ∧ (s.dirE (2 ^ 22)).coarse.isSome = true ∧ (s.dirE (2 ^ 22)).hasSub = false) ∧
    (let s := sHm [some ⟨0, 64, false⟩, some ⟨1, 80, false⟩, none, none] 1 [true, true, false, false];
      dirHolds s 48 (2 ^ 24) = false ∧ EntryShape s (2 ^ 22) ∧ s.secs = [] ∧ s.dead = [] ∧ exactHolders s 48 (2 ^ 24) = [64] ∧
        (s.dirE (2 ^ 22)).slot 1 = some ⟨1, 80, false⟩ ∧ nth false ((s.dirE (2 ^ 22)).field 0).hold 1 = true) ∧
    (let s := sHm [some ⟨0, 64, false⟩, none, none, none] 1 held0;
      (s.dirE (2 ^ 22)).hasSub = false ∧ exactHolders s 48 (2 ^ 24) = [64] ∧ localDie s 64 = none ∧ EntriesSound s 48 ∧ RoomFor s 48 (2 ^ 22)) := by
  refine ⟨by decide +kernel, ⟨homeReady _ _ _ _ rfl rfl, by decide +kernel, by decide +kernel, by decide +kernel, by decide +kernel, by unfold RoomFor; decide +kernel,
      by decide +kernel, by decide +kernel, by decide +kernel, by decide +kernel⟩,
    ⟨homeReady _ _ _ _ rfl rfl, by decide +kernel, by decide +kernel, by decide +kernel, by decide +kernel, by decide +kernel, by decide +kernel, by decide +kernel⟩,
    ⟨homeReady _ _ _ _ rfl rfl, by unfold RoomFor; decide +kernel, by decide +kernel, by decide +kernel⟩,
    ⟨homeReady _ _ _ _ rfl rfl, by unfold RoomFor; decide +kernel, by decide +kernel, by decide +kernel⟩,
    ⟨by decide +kernel, (homeReady _ _ _ _ rfl rfl).1, by decide +kernel, by decide +kernel, by decide +kernel, by decide +kernel, by decide +kernel⟩,
    ⟨by decide +kernel, by decide +kernel, by decide +kernel, by unfold EntriesSound; decide +kernel, by unfold RoomFor; decide +kernel⟩⟩

theorem witness_HomeMessages_waits : (let s := startTxn sA ⟨2 ^ 24, [2 ^ 24], .free, [⟨64, 2 ^ 24, .inval⟩], [], false⟩;
      AllWait s ∧ (2 ^ 24 ∈ concerns s (.exactRead far (2 ^ 24)) ∧ isPend s (2 ^ 24) = true)) ∧
    (64, 2 ^ 24) ∈ ({ sA with late := [(64, 2 ^ 24)] } : State).late ∧ sA.late = [] ∧ sA.txns = [] ∧
    (let s := startTxn (sHm [some ⟨0, 64, false⟩, none, none, none] 2 held0) ⟨2 ^ 24, [2 ^ 24], .again (.exactRead far (2 ^ 24)), [⟨64, 2 ^ 24, .recall⟩], [], false⟩;
      s.late = [] ∧ localDie s 48 = none ∧ 48 ∉ s.dead ∧ EntryShape s (2 ^ 22) ∧ (s.dirE (2 ^ 22)).coarse = none ∧ (s.dirE (2 ^ 22)).hasSub = false ∧
        (∀ e ∈ s.dir, e.1 = 2 ^ 24 / 4) ∧ mOwner s (2 ^ 24) = some 64 ∧ RoomFor s 48 (2 ^ 22)) ∧
    (let s := startTxn (sHm [some ⟨0, 64, false⟩, none, none, none] 1 held0) ⟨2 ^ 24, [2 ^ 24], .through 48 false, [⟨64, 2 ^ 24, .inval⟩], [], false⟩;
      s.late = [] ∧ EntryShape s (2 ^ 22) ∧ exactHolders s 48 (2 ^ 24) = [64] ∧ EntriesSound s 64 ∧ RoomFor s 48 (2 ^ 22)) := by
  refine ⟨⟨by unfold AllWait; decide +kernel, by decide +kernel, by decide +kernel⟩, by decide, by decide +kernel, by decide +kernel,
    ⟨by decide +kernel, by decide +kernel, by decide +kernel, by unfold EntryShape; decide +kernel, by decide +kernel, by decide +kernel, by decide +kernel, by decide +kernel,
      by unfold RoomFor; decide +kernel⟩,
    ⟨by decide +kernel, by unfold EntryShape; decide +kernel, by decide +kernel, by unfold EntriesSound; decide +kernel, by unfold RoomFor; decide +kernel⟩⟩

theorem witness_HomeMessages_subscribe : (let s := sHm [none, none, none, none] 0 [false, false, false, false];
      grantsFormat s 48 (2 ^ 22) 1 false ∧ ¬grantsFormat s 48 (2 ^ 22) 1 true ∧ grantsFormat s 48 (2 ^ 22) 4 true ∧ NothingFreed s (2 ^ 22) ∧ EntryShape s (2 ^ 22) ∧
        (∀ q < 4, mOwner s (2 ^ 22 * 4 + q) = none) ∧ (s.dirE (2 ^ 22)).slotOf 48 = none) ∧
    (let s := sHm [some ⟨0, 64, false⟩, some ⟨2, 48, false⟩, none, none] 2 held0;
      mOwner s (2 ^ 22 * 4) = some 64 ∧ (64 : Nat) < 8192 ∧ localDie s 64 = none ∧ 64 ∉ s.dead ∧ (s.dirE (2 ^ 22)).slotOf 48 = some 1 ∧ EntriesSound s 48 ∧
        (s.dirE (2 ^ 22)).subscribed 48 = true) := by
  refine ⟨⟨⟨by decide +kernel, fun h => by simp_all [sHm, sHc, State.dirE, DirEntry.slot, nth, aget], Or.inr (by decide +kernel)⟩, fun h => h.2.1 ⟨rfl, Or.inl rfl⟩,
    ⟨by decide +kernel, by simp, Or.inr (by decide +kernel)⟩, (homeReady _ _ _ _ rfl rfl).2.2.2.1, (homeReady _ _ _ _ rfl rfl).1, by decide +kernel, by decide +kernel⟩,
    ⟨by decide +kernel, by decide, by decide +kernel, by decide +kernel, by decide +kernel, by unfold EntriesSound; decide +kernel, by decide +kernel⟩⟩

/-- `sA` with one sector of die 0: of its own memory (2^24) or of device 3. -/
def sDi (x : Nat) (d : DieSec) (as : List Ask) : State := { sA with secs := [(x, d)], asks := as }

theorem witness_DieMessages : (let d := { DieSec.absent with st := .m };
      (aget 0 ({ d with fails := [(0, 7)] } : DieSec).fails).getD 0 + 1 = 8 ∧ dieAllows ((sDi (2 ^ 24) d []).sec 0 (2 ^ 24)) true = true ∧
        ((sDi (2 ^ 24) d []).sec 0 (2 ^ 24)).tokOf 96 ≥ 1 ∧ ((sDi (2 ^ 24) d []).sec 0 (2 ^ 24)).persist = [] ∧
        dieAllows (sA.sec 0 away) true = false ∧ devOf (away * 64) ≠ sA.devid ∧ 0 ∉ sA.barred ∧ dieSubscribes sA 0 away = false ∧ asked sA 0 away .write = false ∧
        (0 : Nat) < 8 ∧ (47 : Nat) < 48 ∧ ¬(48 : Nat) < 48 ∧ SectorsSound (sDi (2 ^ 24) d []) ∧ Owned (sDi away d []) ∧ sA.dwq = []) ∧
    (nextPersist { DieSec.absent with persist := [(3, true), (5, false)] }).isSome = true ∧
    (let s := sDi away { DieSec.absent with st := .m } [];
      (s.sec 0 away).st ≠ .i ∧ (s.sec 0 away).tokOf 96 = 128 ∧ (s.sec 0 away).persist = [] ∧ secReady s 0 away = true ∧ leftLine s 0 (away / 4) = false ∧
        SectorsSound s ∧ Memory.wf s.mem = true ∧ (0 : Byte) = s.ownEpoch 0 ∧ (1 : Byte) ≠ s.ownEpoch 0) ∧
    (let s := { sDi (2 ^ 24) { DieSec.absent with st := .m } [] with dir := (sHm [some ⟨0, agentOf sA 0, false⟩, none, none, none] 2 held0).dir };
      devOf (2 ^ 24 * 64) = s.devid ∧ (s.sec 0 (2 ^ 24)).st ≠ .i ∧ (s.sec 0 (2 ^ 24)).tokOf 96 = 128 ∧ secReady s 0 (2 ^ 24) = true ∧ s.txns = [] ∧ Owned s ∧
        (s.dirE (2 ^ 22)).coarse = none ∧ EntriesSound s (agentOf s 0)) ∧
    ((sDi away { DieSec.absent with st := .u } []).sec 0 away).st = .u ∧ ((sDi away { DieSec.absent with st := .s } []).sec 0 away).st = .s ∧
    (away % 4 = 0 ∧ lineAsk (sDi away DieSec.absent [⟨0, away / 4, .sub, some (0, 2)⟩]) 0 (away / 4) = some ⟨0, away / 4, .sub, some (0, 2)⟩ ∧
      lineAsk sA 0 (away / 4) = none ∧ exactAsk sA 0 away = none ∧ asked sA 0 away .rounded = false) ∧
    exactAsk { sA with asks := [⟨0, away, .exact, none⟩] } 0 away = some .exact ∧ exactAsk { sA with asks := [⟨0, away, .peek, none⟩] } 0 away = some .peek ∧
    exactAsk { sA with asks := [⟨0, away / 4, .upg, none⟩] } 0 away = some .upg ∧ asked { sA with asks := [⟨0, away, .write, none⟩] } 0 away .write = true ∧
    (let s := { sA with asks := [⟨0, away, .rounded, none⟩], subsc := [⟨0, away / 4, 0, 1⟩] }; asked s 0 away .rounded = true ∧ dieSubscribes s 0 away = true) ∧
    (let th : Through := ⟨4, 0, 0, away, [], true, false, false⟩; let s := { sDi away { DieSec.absent with busy := some 4 } [] with throughs := [th] };
      openThrough s 0 away = some th ∧ (s.sec 0 away).busy = some 4) ∧ openThrough sA 0 away = none ∧
    (3 < 4 ∧ 32 ≤ 32 ∧ 32 * 7340032 ≤ 32 * 7340032 ∧ 0 ≤ 32 * 7340032) ∧ ¬(33 : Nat) ≤ 32 ∧ (sA.ctx 0).isSome ∧
    (WritableAt sA 0 64 [2 ^ 30 + 64, 2 ^ 30 + 65]) ∧ (ctxWrite sA 0 4096 [7]).isNone = true := by
  refine ⟨⟨by decide +kernel, by decide +kernel, by decide +kernel, by decide +kernel, by decide +kernel, by decide +kernel, by decide +kernel, by decide +kernel,
      by decide +kernel, by decide, by decide, by decide, by unfold SectorsSound; decide +kernel,
      owned _ (by decide +kernel) (by unfold SectorsSound; decide +kernel) (by unfold Live; decide +kernel) (by decide +kernel) (by decide +kernel), by decide +kernel⟩,
    by decide +kernel,
    ⟨by decide +kernel, by decide +kernel, by decide +kernel, by decide +kernel, by decide +kernel, by unfold SectorsSound; decide +kernel, by decide +kernel,
      by decide +kernel, by decide +kernel⟩,
    ⟨by decide +kernel, by decide +kernel, by decide +kernel, by decide +kernel, by decide +kernel,
      owned _ (by decide +kernel) (by unfold SectorsSound; decide +kernel) (by unfold Live; decide +kernel) (by decide +kernel) (by decide +kernel), by decide +kernel,
      by unfold EntriesSound; decide +kernel⟩,
    by decide +kernel, by decide +kernel, by decide +kernel, by decide +kernel, by decide +kernel, by decide +kernel, by decide +kernel, by decide +kernel, by decide +kernel,
    by decide +kernel, by decide, by decide, by decide +kernel, ⟨by decide, by decide, fun i hi => ⟨leaf0, ?_⟩⟩, by decide +kernel⟩
  revert i
  decide +kernel

theorem witness_ExactFunctionValues : (Fmt.f32.dec 0x40000000).isFin = true ∧ (Fmt.f32.dec 0x40000000).rat = ((2 : Int) : ℚ) ∧ (Fmt.f32.dec 0x40000000).rat = 2 ^ (1 : Int) ∧
    (Fmt.f32.dec 0x3f000000).isFin = true ∧ (Fmt.f32.dec 0x3f000000).rat = ((0 : Int) : ℚ) + 1 / 2 ∧ -149 ≤ (2 : Int) ∧ (2 : Int) ≤ 127 := by
  refine ⟨by decide +kernel, by decide +kernel, by decide +kernel, by decide +kernel, by decide +kernel, by decide, by decide⟩

/-! ## Instructions that break one rule of the encoding each (R124 to R136, Table 7-13) -/

/-- A memory extension with nothing in it. -/
def e0 : MExt := ⟨0, 0, 0, 0, 0, 0, 0⟩
def illFormed : List Instr := [
  .fadd (rr 0 4 8 4 6),                                            -- C0 below the opcode's class (R127)
  .iadd { rr 0 0 8 4 6 with h := { hd 0 with g1 := 127 } },        -- guard 127 (R126)
  .iadd { rr 0 0 8 4 6 with h := { hd 0 with g2 := 127 } },
  .ineg { rr 0 0 8 4 0 with h := { hd 0 with hold := 2 } },        -- a source held that is not read (R131)
  .iadd { ri 0 0 8 4 5 with h := { hd 0 with hold := 2 } },        -- an immediate held
  .iadd (rr 0 1 8 4 6),                                            -- a reserved `mod` value (R124)
  .icmp (rr 0 6 8 4 6),                                            -- a reserved condition
  .iadd64 (rr 0 0 9 4 6),                                          -- an odd pair (R58, R125)
  .ineg (rr 0 0 8 4 6),                                            -- a field without use that is not 0 (R125)
  .imul64 (ri 1 0 8 4 6),                                          -- an immediate where the opcode takes none (R135)
  .imad ⟨hd 1, 0, 8, 4, 5, 6, 1, 0, 0⟩,                            -- a field of form S without use (R132)
  .elseI ⟨{ hd 0 with g1 := 5 }, 0, 0, 0, 0, 0⟩,                   -- ELSE with a guard (R156)
  .breakI ⟨hd 0, 0, 0, 126, 0, 0⟩,                                 -- k over 125 (Table 7-9)
  .ifI ⟨hd 0, 0, 0, 1, 0, 0⟩,                                      -- k where the opcode has none
  .exit ⟨hd 0, 0, 0, 0, 1, 0⟩,                                     -- off where the opcode has none
  .nop ⟨hd 0, 0⟩,                                                  -- length 0 (R120)
  .yieldI (rr 0 0 0 0 0),                                          -- YIELD without y (R163)
  .ld (me 2 8 4 0 { e0 with ord := 1 }),                           -- an order LD does not list (Table 10-1)
  .ld (me 2 8 4 0 { e0 with vc := 1 }),                            -- a third register without use
  .lda (me 0 8 4 0 { e0 with ord := 1, hint := 2, scope := 7 }),   -- scope 7 (R132)
  .lda (me 0 8 4 0 { e0 with ord := 1, hint := 1 }),               -- a strong width that is neither W nor D (R195)
  .lda (mm 0 8 4 0),                                               -- a strong access of 64 bits (R195)
  .cwb (me 0 0 4 6 { e0 with hint := 1 }),                         -- a hint of CWB (Table 10-1)
  .atom (me 14 8 4 6 { e0 with hint := 2 }),                       -- operation 14 (Table 10-3)
  .atom (me 9 8 4 6 { e0 with hint := 3 }),                        -- INC of 64 bits
  .red (me 8 0 4 6 { e0 with hint := 2 }),                         -- RED with an exchange (R197)
  .fence (me 0 0 0 0 { e0 with ord := 1, off := 4 }),              -- FENCE with an offset (R199)
  .cvt ⟨hd 2, 0, 8, 4, 0, 0, 0xf0, 0, 0⟩,                          -- a reserved destination format (R178)
  .mma ⟨hd 2, 8, 6, 4, true, true, 3⟩,                             -- N code 3 (R217)
  .oxmm ⟨hd 2, 0, 8, 6, 4, 10, 8, 0, 0⟩,                           -- a reserved bit of OXMM (R222)
  .movs (rr 0 0 8 0 0x7f),                                         -- no such name (Table 4-3)
  .movsw (rr 0 0 0 4 0x19),                                        -- a name that is only read
  .permb (ri 0 0 8 4 0x10000),                                     -- a selector of over 16 bits (R145)
  .pfield (ri 1 0 8 4 4)]                                          -- a field number of over 2 bits (R154)

theorem test_illFormed : (illFormed.all (fun i => !i.WellFormed)) = true := by decide +kernel
/-- What is left of three of them once their fault is mended is well-formed. -/
theorem test_wellFormed : ([Instr.iadd (rr 0 0 8 4 6), .iadd64 (rr 0 0 8 4 6), .cwb (me 0 0 4 6 e0), .lda (me 0 8 4 0 { e0 with ord := 1, hint := 2, scope := 6 })].all
    (fun i => i.WellFormed)) = true := by decide +kernel

/-! ## Words of the spec -/

/-- The number of an instruction's words, the first lowest. -/
def words (l : List Nat) : Nat := l.foldr (fun w a => w + 2 ^ 32 * a) 0
/-- The base word of the fields of Table 7-1, without guards, holds or a stall count. -/
def base (len cls opc vd va vb md : Nat) : Nat :=
  len + 4 * cls + 63 * 2 ^ 12 + 63 * 2 ^ 19 + opc * 2 ^ 26 + vd * 2 ^ 36 + va * 2 ^ 44 + vb * 2 ^ 52 + md * 2 ^ 60

/-- `LD.W` of the example of R193, `CINV.R` of 20_program_die_handoff.md, `LD.D` of 15_program_pointer_walk.md. -/
theorem test_words_memory : decodeTableWord 128 (words [0x01FBF007, 0x2001404A, 0x40, 0x11]) = some (.ld (me 2 4 20 0 { e0 with off := 0x40, hint := 1, tg := 1 })) ∧
    decodeTableWord 128 (words [0x45FBF007, 0x806040CA, 6, 0]) = some (.cinv (me 8 12 4 6 { e0 with off := 6 })) ∧
    decodeTableWord 64 0x3000202A01FBF005 = some (.ld (mm 3 2 2 0)) := by decide +kernel
/-- `MMA` of R217's example, `OXMM` and `PBPACKS` of 25_program_matrix_tile.md. -/
theorem test_words_matrix : decodeTableWord 128 (words [0x09FBF00B, 0x01E1840C, 0x81, 0]) = some (.mma ⟨hd 2, 64, 24, 30, true, false, 2⟩) ∧
    decodeTableWord 96 (words [0x15FBF00A, 0x03F1E40C, 0x0002003C]) = some (.oxmm ⟨hd 2, 0, 64, 30, 63, 60, 2, 0, 0⟩) ∧
    decodeTableWord 96 (words [0x85FBF00A, 0x01E090B6, 0x00000D06]) = some (.pbpacks ⟨hd 2, 0, 11, 9, 30, 6, 0, 0, 13⟩) := by decide +kernel
/-- `CVT.E4M3.F32` of R179, and the packed and lane instructions of 24_program_layer_norm.md and 26_program_filter.md. -/
theorem test_words_packed : decodeTableWord 96 (words [0x41FBF00A, 0x01804086, 0x00500500]) = some (.cvt ⟨hd 2, 0, 8, 4, 24, 0, 0x50, 0, 5⟩) ∧
    decodeTableWord 96 (words [0x41FBF05A, 0x0000A0C6, 0x0030D300]) = some (.cvt ⟨{ hd 2 with stall := 5 }, 0, 12, 10, 0, 0, 0x30, 13, 3⟩) ∧
    decodeTableWord 96 (words [0x25FBF00A, 0x009080A6, 0xA]) = some (.pdot2 (r3 2 0 10 8 9 10)) ∧
    decodeTableWord 96 (words [0x2DFBF00A, 0x1000A0A6, 0xF]) = some (.pshrr (ri 2 1 10 10 15)) ∧
    decodeTableWord 96 (words [0x09FBF002, 0x00008088, 1]) = some (.slidedn (ri 0 0 8 8 1)) ∧
    decodeTableWord 96 (words [0x0DFBF002, 0x000181A8, 1]) = some (.swz (ri 0 0 26 24 1)) := by decide +kernel
/-- `SKPOP` and `SKFREE` of 22_program_stake_channel.md; `IADD64`, `DADD`, `PTR`, `BAR`, `SUBS`, `CLAIM`, `XC.G2S.R` and `TLBINV.CTX` from
their opcodes (Table 7-12) and the fields of Tables 7-1 and 7-7. -/
theorem test_words_other : decodeTableWord 64 0x0000008A85FBF005 = some (.skpop (rr 1 0 8 0 0)) ∧
    decodeTableWord 64 0x000000AA89FBF005 = some (.skfree (rr 1 0 10 0 0)) ∧
    decodeTableWord 64 (base 1 0 0x40 8 4 6 0) = some (.iadd64 (rr 0 0 8 4 6)) ∧
    decodeTableWord 64 (base 1 1 0x120 8 4 6 0) = some (.dadd (rr 1 0 8 4 6)) ∧
    decodeTableWord 64 (base 1 1 0x28A 0 5 0 2) = some (.bar (rr 1 2 0 5 0)) ∧
    decodeTableWord 64 (base 1 1 0x298 8 4 6 9) = some (.subs (rr 1 9 8 4 6)) ∧
    decodeTableWord 64 (base 1 0 0x300 8 4 0 0) = some (.claim (rr 0 0 8 4 0)) ∧
    decodeTableWord 96 (base 2 1 0x310 8 4 6 0 + 0x80 * 2 ^ 64) = some (.xcG2s ⟨hd 1, 8, 4, 6, true⟩) ∧
    decodeTableWord 64 (base 1 1 0x389 0 0 6 1) = some (.tlbinv (rr 1 1 0 0 6)) := by decide +kernel
/-- Every instruction of these tests is read back from its own words (R120). -/
theorem test_encode : ([Instr.iadd64 (rr 0 0 8 4 6), .xcG2s ⟨hd 1, 8, 4, 6, true⟩, .ld (me 2 4 20 0 { e0 with off := 0x40, hint := 1, tg := 1 })].all
    (fun i => decode (encode i) == some (i, byteLength i))) = true := by decide +kernel

/-! ## Single steps whose results the spec states -/

/-- What a register of strand 0 of the team holds after one instruction: value and tag. -/
def after (i : Instr) (s : State) (r : Nat) : Option (Word × BitVec 4) :=
  match exec i s with
  | .next u => (u.team 0).map (fun t => let c := (t.strand 0).reg r; (c.val, c.tag))
  | _ => none
/-- The same, and the sticky flags of strand 0 as a number (R63). -/
def flagsAfter (i : Instr) (s : State) : Option Nat :=
  match exec i s with
  | .next u => (u.team 0).map (fun t => (t.strand 0).nsr.toNat)
  | _ => none
/-- The team with two register values and `rm` RNE. -/
def two (a b : Word) : State := oneTeam 0 [(4, a), (6, b)]

/-- Table 8-2: saturating addition and subtraction. -/
theorem test_saturates : after (.iadds (rr 0 0 8 4 6)) (two 0x7ffffff0 0x20) 8 = some (0x7fffffff, 0) ∧
    after (.iadds (rr 0 1 8 4 6)) (two 0xfffffff0 0x20) 8 = some (0xffffffff, 0) ∧
    after (.isubs (rr 0 1 8 4 6)) (two 5 7) 8 = some (0, 0) := by decide +kernel
/-- Table 8-2: division at its edges; the destination may be a source. -/
theorem test_divides : after (.idiv (rr 3 0 4 4 6)) (two 0xfffffff9 2) 4 = some (0xfffffffd, 0) ∧ after (.irem (rr 3 0 8 4 6)) (two 0xfffffff9 2) 8 = some (0xffffffff, 0) ∧
    after (.idiv (rr 3 0 8 4 6)) (two 0x80000000 0xffffffff) 8 = some (0x80000000, 0) ∧ after (.urem (rr 3 0 8 4 6)) (two 9 0) 8 = some (9, 0) := by decide +kernel
/-- Table 8-2: shifts by the width and more, rotation and a count of zeros. -/
theorem test_shifts : after (.shl (rr 0 0 8 4 6)) (two 1 32) 8 = some (0, 0) ∧ after (.sar (rr 0 0 8 4 6)) (two 0x80000000 40) 8 = some (0xffffffff, 0) ∧
    after (.rol (rr 0 0 8 4 6)) (two 0x80000001 33) 8 = some (3, 0) ∧ after (.clz (rr 0 0 8 4 0)) (two 0 0) 8 = some (32, 0) := by decide +kernel
/-- 24_program_layer_norm.md: 1/√512. -/
theorem test_frsq : after (.frsq (rr 3 0 8 4 0)) (two 0x44000000 0) 8 = some (0x3d3504f3, 0) := by decide +kernel
/-- The example of R92: four strands with 1.0 and three times 2^−24. -/
def sRed : State := { sA with teams := sA.teams.map (fun t => { t with strands := t.strands.mapIdx (fun k x =>
  { x with ctr := if k < 4 then 0 else 0xff, regs := x.regs.set 4 ⟨if k = 0 then 0x3f800000 else 0x33800000, 0, false⟩ }) }) }
theorem test_redadd : after (.redadd (rr 1 2 8 4 0)) sRed 8 = some (0x3f800001, 0) := by decide +kernel
/-- The example of R179 with `om` = 0. -/
theorem test_cvt : after (.cvt ⟨hd 2, 0, 8, 4, 24, 0, 0x50, 0, 5⟩)
    (oneTeam 0 [(4, 0x3f800000), (5, 0x43fa0000), (6, 0xbe99999a), (7, 0x7fc00000)]) 8 = some (0x7faa7e38, 5) ∧
    flagsAfter (.urem (rr 3 0 8 4 6)) (two 9 0) = some 2 ∧ flagsAfter (.frsq (rr 3 0 8 4 0)) (two 0x44000000 0) = some 0x10 := by decide +kernel
/-- R175: a right shift that rounds, of −3 and of 3. -/
theorem test_pshrr : after (.pshrr (ri 2 1 8 4 1)) (two 0xfffffffd 0) 8 = some (0xffffffff, 0) ∧ after (.pshrr (ri 2 1 8 4 1)) (two 3 0) 8 = some (2, 0) := by decide +kernel

/-- Table 23-5: rack messages; a repeated and an expired one are ignored, and the safe budget stands from the expiry on. -/
def rackAt (s : State) (us : Nat) : State := { s with time := BitVec.ofNat 64 (us * 1000) }
def rackNext (r : Host.Outcome State Fault Refusal) : State := match r with
  | .next u => u
  | _ => State.reset
def afterSeven : State := rackNext (execRackPowerMessage 7 2000 10000000 (rackAt State.reset 1000))
theorem test_rackMessages : afterSeven.power.rack = 2000 ∧ (rackNext (exec (.rackPowerMessage 7 1 10000000) (rackAt afterSeven 3000))).power.rack = 2000 ∧
    (rackNext (exec (.rackPowerMessage 10 1900 21000000) (rackAt afterSeven 22000))).power.rack = 2000 ∧
    (rackNext (exec .rackBudgetExpiry (rackAt afterSeven 10000))).power.rack = State.reset.power.safe := by decide +kernel

end Sys2Proof.Tests
end

section
/-! PROOF. O43 fails: a fetch that reaches a home also serves what waits behind there (R332), and an answer that such a request brings
counts in a team's result (R207). -/

namespace Sys2Proof.Machine

/-- A context without page tables, save area or handler; stacks of 8 KiB (Table 21-4). -/
def bareCtx : CtxDesc := ⟨0, 0, 0, 0, 0, 1, 8⟩
/-- A team of one pass at address 0 that is owed the answer about one line of its `UNSUB`, numbered 7 (R207). -/
def unsubTeam : Team := { startTeam 0 0 0 1 32 0 0 0 bareCtx 0 0 0 false with subs := [⟨7, none, 0, 0, 1⟩] }
/-- It has its turn. Its page lies at 2^30 on a coherent page of this device, whose sector its die has not read yet; the unsubscribe
request of its die for line 1 still waits at the home (R332, R337). -/
def unsubWaits : State :=
  { State.reset with
    agenda := [.issue 0]
    teams := [unsubTeam]
    tlb := [⟨0, 0, 4096, 2 ^ 30, true, true, false, 0, 0⟩]
    asks := [⟨0, 1, .unsub, some (0, 7)⟩]
    behind := [.unsubscribeRequest ⟨0, 0⟩ 1] }

/-- The team may issue, and no claim of it waits. -/
theorem unsubWaits_turn : ({ unsubWaits with agenda := [] } : State).team 0 = some unsubTeam ∧
    canIssue { unsubWaits with agenda := [] } unsubTeam = true ∧ Unclaimed unsubWaits 0 :=
  ⟨by decide +kernel, by decide +kernel, fun _ hq => absurd hq (by simp [unsubWaits, State.reset])⟩

/-- The home gives the sector, and on the way answers the unsubscribe request: the line counts as exact in the team's result. -/
theorem fetchFill_answers_unsub : (fetchFill { unsubWaits with agenda := [] } unsubTeam).2 = true ∧
    (fetchFill { unsubWaits with agenda := [] } unsubTeam).1.teams = [{ unsubTeam with subs := [⟨7, none, 0, 1, 0⟩] }] := by
  decide +kernel

/-- Refutes O43: its clause that a successful fetch leaves every team as it was lacks the premise `s.behind = []`, that no request
waits at a home. In `unsubWaits` the fetch of team 0 succeeds, and the request served with it changes what the team is owed. -/
theorem not_stepRunsTheDecodedInstruction : ¬ Obligations.StepRunsTheDecodedInstruction := by
  rintro ⟨teamTurn, -⟩
  obtain ⟨hteam, hissue, hclaim⟩ := unsubWaits_turn
  obtain ⟨hfill, hteams⟩ := fetchFill_answers_unsub
  obtain ⟨hfetched, -⟩ := teamTurn unsubWaits 0 [] unsubTeam rfl hteam hissue hclaim
  obtain ⟨hsame, -⟩ := hfetched hfill
  exact absurd (hteams.symm.trans hsame) (by decide +kernel)

end Sys2Proof.Machine
end

section
/-! PROOF. O52 fails: a pair that is mapped out writes the dirty bytes of its L1s home before its command completes (R11, R111), and on a
software-managed page these can be page-table entries, so the completion record is translated by other tables than those that stood
when the command started. -/

namespace Sys2Proof.Machine

/-- The header of a command of ring 2 with tag 5 that asks for a completion record at address 0x3000. -/
def mapOutHdr : CmdHdr := ⟨2, 0, 5, 0x3000, false⟩
/-- The pages of context 0: the root table at 4096 names the table at 8192 (0x2001), whose first entry (0x0B) is a leaf of 1 GiB at
physical address 0, valid and writable (Table 21-5). -/
def tableBytes : Memory := [(4096, 0x01), (4097, 0x20), (8192, 0x0B)]
/-- The leaf that entry maps. -/
def lowLeaf : Tlb := ⟨0, 0, 2 ^ 30, 0, true, false, false, 0, 0⟩
/-- A dirty block of a software-managed page in an L1: the store of 0 to the first byte of the table at 8192 has not gone home yet (R111). -/
def tableBlock : Block := ⟨32, 0, 0, true, [(0, 0), (1, 0), (2, 0), (3, 0)], [0], 0, none, 1⟩
/-- The map-out of core pair 0 heads the admin port's ring, its completion record on those pages, and core 0 of the pair holds the dirty
block. -/
def mapOutPending : State :=
  { State.reset with
    queues := [(2, ⟨QRec.zero, true, 0, 64, 8, 1, [⟨.mapOutCorePair mapOutHdr 0, mapOutHdr, false⟩], false, 0, 0, false⟩)]
    ctxs := [(0, ⟨⟨4096, 0, 0, 0, 0, 1, 8⟩, [], [], [], []⟩)]
    cores := [(0, { Core.reset with blocks := [tableBlock] })]
    mem := tableBytes
    boot := ⟨0, some 8, [], 0, 0⟩ }
/-- The addresses of its completion record. -/
def recordAddrs : List Nat := (List.range 16).map (0x3000 + ·)

theorem mapOutPending_mayRun : MayRun mapOutPending mapOutHdr (.mapOutCorePair mapOutHdr 0) :=
  ⟨⟨⟨.mapOutCorePair mapOutHdr 0, mapOutHdr, false⟩, by decide +kernel, by decide +kernel⟩, .inl rfl, by decide +kernel⟩

theorem mapOutPending_owned : Owned mapOutPending :=
  ⟨by decide +kernel, ⟨.nil, by simp [mapOutPending, State.reset], by simp [mapOutPending, State.reset]⟩,
    by simp [Live, mapOutPending, State.reset], rfl, by simp [mapOutPending, State.reset]⟩

/-- The pages of the record allow its write when the command starts. -/
theorem mapOutPending_writable : WritableAt mapOutPending (cmdCtx mapOutPending mapOutHdr) mapOutHdr.crec recordAddrs := by
  have leaf : ∀ i < 16, transFor mapOutPending 0 true Need.wr (0x3000 + i) = .ok lowLeaf := by decide +kernel
  exact ⟨by decide +kernel, by decide +kernel, fun i hi =>
    ⟨lowLeaf, leaf i (by simpa [recordAddrs] using hi), rfl, by simp [recordAddrs, lowLeaf, mapOutHdr], List.not_mem_nil⟩⟩

/-- Once no write of the device waits and no write-through is under way, what reaches an address is its present value. -/
theorem Reaches.cohByte_eq {s : State} {pa : Nat} {v : Byte} (hw : s.dwq = []) (ht : s.throughs = []) (r : Reaches s pa v) :
    cohByte s pa = v := by
  rcases r with r | ⟨cs, hcs, -⟩ | ⟨x, hx, -⟩
  · exact r
  · simp [hw] at hcs
  · simp [ht] at hx

/-- The pair's write-back makes the table entry invalid before the record is written: nothing of it is on its way, and the byte of
its tag stays 0. -/
theorem mapOut_writes_no_record {s' : State} (h : exec (.mapOutCorePair mapOutHdr 0) mapOutPending = .next s') :
    s'.dwq = [] ∧ s'.throughs = [] ∧ cohByte s' 0x3004 = 0 := by
  have run : (match exec (.mapOutCorePair mapOutHdr 0) mapOutPending with
      | .next u => decide (u.dwq = [] ∧ u.throughs = [] ∧ cohByte u 0x3004 = 0)
      | _ => false) = true := by decide +kernel
  rw [h] at run
  exact of_decide_eq_true run

/-- Refutes O52: its clause for MAP_OUT_CORE_PAIR promises the completion record on the pages that allow it when the command starts
(`Answered` of the state before). In `mapOutPending` the pair's own write-back takes these pages away first, and no record is written. -/
theorem not_powerCommands : ¬ Obligations.PowerCommands := by
  rintro ⟨-, -, -, -, -, -, -, -, mapOut, -⟩
  obtain ⟨-, permitted⟩ := mapOut mapOutHdr 0 mapOutPending mapOutPending_mayRun
  obtain ⟨s', hrun, -, moved⟩ := permitted (by decide +kernel)
  have idle : ¬ pairBusy mapOutPending 0 = true := by decide +kernel
  have answered := moved (by decide) (by decide +kernel)
  rw [if_neg idle] at answered
  obtain ⟨⟨-, -, record⟩, -⟩ := answered
  obtain ⟨-, reaches⟩ := record (by decide) mapOutPending_owned recordAddrs (by decide) mapOutPending_writable
  obtain ⟨hw, ht, hbyte⟩ := mapOut_writes_no_record hrun
  have tag : cohByte s' 0x3004 = 5 := (reaches 4 (by decide)).cohByte_eq hw ht
  exact absurd (hbyte.symm.trans tag) (by decide)

end Sys2Proof.Machine
end

section
/-! PROOF. O42: the machine after reset. -/

namespace Sys2Proof.Machine

/-- Settles O42: the lists of `State.reset` are empty, so that every queue, core and cluster reads as its own reset value. -/
theorem resetState : Obligations.ResetState := by
  have lists : ∀ q c, State.reset.queue q = Queue.reset ∧ State.reset.core c = Core.reset ∧ State.reset.cluster c = Cluster.reset :=
    fun _ _ => ⟨rfl, rfl, rfl⟩
  refine ⟨rfl, rfl, rfl, rfl, rfl, rfl, rfl, rfl, rfl, rfl, rfl, rfl, rfl, rfl, rfl, rfl, fun q => ?_, fun c => ?_, fun c => ?_,
    rfl, rfl, rfl, rfl, rfl, reset_memories_wf⟩
  · rw [(lists q 0).1]
    exact ⟨rfl, rfl⟩
  · rw [(lists 0 c).2.1]
    exact ⟨rfl, rfl, rfl, rfl, rfl, rfl⟩
  · rw [(lists 0 c).2.2]
    exact ⟨rfl, rfl, rfl, rfl⟩

end Sys2Proof.Machine
end

section
/-! PROOF. O4: structured control (R43 to R46, R156 to R158, R161, Table 2-5). Every one of these instructions changes the counters of
its team's live strands by a function of strand and counter; what differs is that function and where control passes. -/

namespace Sys2Proof.Machine

variable {i : Instr} {s : State} {t : Team}

/-- What all structured control instructions have in common: control instructions of 16 bytes, not the reserved encoding. -/
def ControlForm (i : Instr) (closes : Bool) : Prop :=
  isControl i = true ∧ isEnd i = closes ∧ isIllegal i = false ∧ byteLength i = 16

/-- A change of counters after which control passes where the effect says. -/
theorem Ready.goes_withCtrs (r : Ready i s t) (form : ControlForm i false) {body : Run → Res} (hx : exec i s = runI i body s) (f : Nat → Byte → Byte)
    (d : Done) (hb : body ⟨s, t, i, t.active i⟩ = .done d) (e : d.s = s.putTeam (withCtrs t f)) (hs : d.keepSigs = false) (hd : d.keepSigd = false)
    (ht : d.stepped = d.jump.isNone) : Goes i s t (withCtrs t f) d.jump := by
  obtain ⟨hc, he, hi, hl⟩ := form
  obtain ⟨hh, hg, hq, hn, hy, hst⟩ := withCtrs_same t f
  unfold Goes
  rw [hx]
  exact r.goes hc he hi hl body d _ hb (.inl e) hs hd ht hh hg hq hn hy hst

/-- The same for `ENDIF` and `ENDLOOP`, whose effect on the counters may be made in two steps. -/
theorem Ready.goesEnd_withCtrs (r : Ready i s t) (form : ControlForm i true) {body : Run → Res} (hx : exec i s = runI i body s) (f : Nat → Byte → Byte)
    (d : Done) (hb : body ⟨s, t, i, t.active i⟩ = .done d) (e : d.s = s.putTeam (withCtrs t f)) (hs : d.keepSigs = false) (hd : d.keepSigd = false)
    (ht : d.stepped = d.jump.isNone) : GoesEnd i s t (withCtrs t f) d.jump := by
  obtain ⟨hc, he, hi, hl⟩ := form
  obtain ⟨hh, hg, hq, hn, hy, hst⟩ := withCtrs_same t f
  unfold GoesEnd
  rw [hx]
  exact r.goesEnd hc he hi hl body d _ hb e hs hd ht hh hg hq hn hy hst

/-- A change of counters after which control skips to the target when no strand is enabled (R156, R157). -/
theorem Ready.skips (r : Ready i s t) (form : ControlForm i false) {body : Run → Res} (hx : exec i s = runI i body s) (f : Nat → Byte → Byte)
    (off : Word) (rd : Option (List (Nat × Nat)))
    (hb : body ⟨s, t, i, t.active i⟩ = .done { skipIfIdle ⟨s, t, i, t.active i⟩ (withCtrs t f) off with reads := rd }) :
    (noneEnabled (withCtrs t f) → Goes i s t (withCtrs t f) (some (BitVec.ofInt 48 (target t off)))) ∧
      (¬ noneEnabled (withCtrs t f) → Goes i s t (withCtrs t f) none) := by
  by_cases idle : noneEnabled (withCtrs t f)
  · have skip : skipIfIdle ⟨s, t, i, t.active i⟩ (withCtrs t f) off = goTo (s.putTeam (withCtrs t f)) (BitVec.ofInt 48 (target t off)) := by
      unfold skipIfIdle
      rw [if_pos ((idle_iff _).mpr idle)]
      rfl
    rw [skip] at hb
    exact ⟨fun _ => r.goes_withCtrs form hx f _ hb rfl rfl rfl rfl, fun h => absurd idle h⟩
  · have go : skipIfIdle ⟨s, t, i, t.active i⟩ (withCtrs t f) off = stay (s.putTeam (withCtrs t f)) := by
      unfold skipIfIdle
      rw [if_neg (fun h => idle ((idle_iff _).mp h))]
      rfl
    rw [go] at hb
    exact ⟨fun h => absurd h idle, fun _ => r.goes_withCtrs form hx f _ hb rfl rfl rfl rfl⟩

/-- Lowering a depth but for a counter of 0 is lowering it. -/
theorem down_eq_shallower (c : Byte) : (if c = 0 then c else Ctr.down c) = shallower c := by
  have depth : Ctr.depth c = 0 ↔ c.extractLsb' 0 7 = 0 := by
    rw [← BitVec.toNat_inj]
    simp [Ctr.depth, BitVec.extractLsb'_toNat]
  unfold shallower Ctr.down
  by_cases zero : c = 0
  · subst zero; decide
  · simp only [zero, if_false, depth]

/-- `ENDIF` lowers every counter that is not 0. -/
theorem endif_ctrs (t : Team) : t.ctrs (fun _ c => if c = 0 then c else Ctr.down c) = withCtrs t (fun _ c => if c = 0 then c else shallower c) := by
  rw [withCtrs_eq]
  congr 1
  funext _ c
  by_cases zero : c = 0
  · rw [if_pos zero, if_pos zero]
  · rw [if_neg zero, if_neg zero, ← down_eq_shallower, if_neg zero]

/-- Where no strand is enabled once 0x81 has become 0, no strand's counter was 0x81: the change has left the team as it was. -/
theorem withCtrs_continue_idle (h : noneEnabled (withCtrs t (fun _ c => if c = 0x81 then 0 else c))) :
    withCtrs t (fun _ c => if c = 0x81 then 0 else c) = t := by
  have same : ∀ x ∈ t.strands, x.ctr ≠ 0x81 := by
    intro x hx cont
    obtain ⟨k, hk, rfl⟩ := List.getElem_of_mem hx
    refine h ((withCtrs t (fun _ c => if c = 0x81 then 0 else c)).strands[k]'(by simpa [withCtrs] using hk)) (List.getElem_mem _) ?_
    simp [withCtrs, cont]
  unfold withCtrs
  have strands : t.strands.mapIdx (fun k x => if x.ctr = 0xff then x else { x with ctr := if x.ctr = 0x81 then 0 else x.ctr }) = t.strands := by
    apply List.ext_getElem (by simp)
    intro k _ hk
    rw [List.getElem_mapIdx, if_neg (same _ (List.getElem_mem hk)), ite_self]
  rw [strands]

theorem bitAt_zero (w : Word) : bitAt w.toNat 0 = w.getLsbD 0 := by
  rw [Bool.eq_iff_iff]
  simp [bitAt, BitVec.getLsbD, Nat.testBit_zero]

/-- The strands that `IF` finds true among those it reads. -/
theorem contains_true_strands (ks : List Nat) (v : Nat → Word) (k : Nat) :
    ((((ks.zip (ks.map v)).filter (fun x => bitAt x.2.toNat 0)).map (·.1)).contains k = true) ↔ (k ∈ ks ∧ (v k).getLsbD 0 = true) := by
  have pairs : ks.zip (ks.map v) = ks.map (fun k => (k, v k)) := by
    induction ks with
    | nil => rfl
    | cons x xs ih => simp [ih]
  rw [pairs, ← bitAt_zero]
  simp [List.mem_filter]

/-! The arm of each structured control instruction, and its form. -/

theorem exec_ifI (a : Ctl) (s : State) : exec (.ifI a) s = execIf a s := rfl
theorem exec_elseI (a : Ctl) (s : State) : exec (.elseI a) s = execElse a s := rfl
theorem exec_endif (a : Ctl) (s : State) : exec (.endif a) s = execEndif a s := rfl
theorem exec_loop (a : Ctl) (s : State) : exec (.loop a) s = execLoop a s := rfl
theorem exec_breakI (a : Ctl) (s : State) : exec (.breakI a) s = execBreak a s := rfl
theorem exec_contI (a : Ctl) (s : State) : exec (.contI a) s = execCont a s := rfl
theorem exec_endloop (a : Ctl) (s : State) : exec (.endloop a) s = execEndloop a s := rfl
theorem exec_exit (a : Ctl) (s : State) : exec (.exit a) s = execExit a s := rfl
theorem controlForm_ifI (a : Ctl) : ControlForm (.ifI a) false := ⟨rfl, rfl, rfl, rfl⟩
theorem controlForm_elseI (a : Ctl) : ControlForm (.elseI a) false := ⟨rfl, rfl, rfl, rfl⟩
theorem controlForm_endif (a : Ctl) : ControlForm (.endif a) true := ⟨rfl, rfl, rfl, rfl⟩
theorem controlForm_loop (a : Ctl) : ControlForm (.loop a) false := ⟨rfl, rfl, rfl, rfl⟩
theorem controlForm_breakI (a : Ctl) : ControlForm (.breakI a) false := ⟨rfl, rfl, rfl, rfl⟩
theorem controlForm_contI (a : Ctl) : ControlForm (.contI a) false := ⟨rfl, rfl, rfl, rfl⟩
theorem controlForm_endloop (a : Ctl) : ControlForm (.endloop a) true := ⟨rfl, rfl, rfl, rfl⟩
theorem controlForm_exit (a : Ctl) : ControlForm (.exit a) false := ⟨rfl, rfl, rfl, rfl⟩

/-- Every active strand reads its own condition at an `IF`. -/
theorem leaderReads_ifI (a : Ctl) : leaderReads (.ifI a) = false := by
  have fields : toRaw (.ifI a) = some (rawCtl 0x80 a) := rfl
  unfold leaderReads
  simp only [fields]
  simp [rawCtl, mkRaw, topBit, bitAt]

/-- `IF` (R156). -/
theorem ifI_skips (a : Ctl) (r : Ready (.ifI a) s t) (room : roomBelow t) :
    let u := withCtrs t (fun k c =>
      if c = 0 then (if k ∈ t.active (.ifI a) ∧ (t.val k a.va.toNat).getLsbD 0 = true then 0 else 1) else c + 1)
    (noneEnabled u → Goes (.ifI a) s t u (some (BitVec.ofInt 48 (target t a.off)))) ∧ (¬ noneEnabled u → Goes (.ifI a) s t u none) := by
  refine r.skips (controlForm_ifI a) (exec_ifI a s) _ a.off
    (some ((t.active (.ifI a)).map (fun k => (k, a.va.toNat)))) ?_
  have read : V.all ((t.active (.ifI a)).map (fun k => Run.reg ⟨s, t, .ifI a, t.active (.ifI a)⟩ k a.va)) =
      .ok ((t.active (.ifI a)).map (fun k => t.val k a.va.toNat)) :=
    V.all_ok _ _ _ (fun k hk => r.reg (by rw [reads_eq t _ rfl, leaderReads_ifI]; exact hk) (List.mem_append_left _ (List.mem_append_left _ (List.mem_singleton.mpr rfl))))
  simp only [read, V.res_ok, (tooDeep_iff t).mpr room, Bool.false_eq_true, if_false, withCtrs_eq, contains_true_strands, Ctr.up]

/-- `LOOP` (R157). -/
theorem loop_skips (a : Ctl) (r : Ready (.loop a) s t) (room : roomBelow t) :
    let u := withCtrs t (fun _ c => if c = 0 then c else c + 1)
    (noneEnabled u → Goes (.loop a) s t u (some (BitVec.ofInt 48 (target t a.off)))) ∧ (¬ noneEnabled u → Goes (.loop a) s t u none) := by
  refine r.skips (controlForm_loop a) (exec_loop a s) _ a.off (some []) ?_
  simp only [(tooDeep_iff t).mpr room, Bool.false_eq_true, if_false, withCtrs_eq, Ctr.up]
  unfold skipIfIdle
  split <;> rfl

/-- `ELSE` (R156). -/
theorem elseI_skips (a : Ctl) (r : Ready (.elseI a) s t) :
    let u := withCtrs t (fun _ c => if c = 0 then 1 else if c = 1 then 0 else c)
    (noneEnabled u → Goes (.elseI a) s t u (some (BitVec.ofInt 48 (target t a.off)))) ∧ (¬ noneEnabled u → Goes (.elseI a) s t u none) := by
  refine r.skips (controlForm_elseI a) (exec_elseI a s) _ a.off (some []) ?_
  simp only [withCtrs_eq]
  unfold skipIfIdle
  split <;> rfl

/-- `ENDLOOP` (R157): back to the target while some strand continues, else out of the loop. -/
theorem endloop_goes (a : Ctl) (r : Ready (.endloop a) s t) :
    let u := withCtrs t (fun _ c => if c = 0x81 then 0 else c)
    (¬ noneEnabled u → target t a.off % 64 = 0 → GoesEnd (.endloop a) s t u (some (BitVec.ofInt 48 (target t a.off)))) ∧
    (noneEnabled u → GoesEnd (.endloop a) s t (withCtrs t (fun _ c => shallower c)) none) := by
  intro u
  constructor
  · intro busyTeam aligned
    refine r.goesEnd_withCtrs (controlForm_endloop a) (exec_endloop a s) _ (goTo (s.putTeam u) (BitVec.ofInt 48 (target t a.off))) ?_ rfl rfl rfl rfl
    have busy : ¬ u.idle = true := fun h => busyTeam ((idle_iff _).mp h)
    have even : ¬ targetOf t a.off % 64 ≠ 0 := fun h => h aligned
    simp only [withCtrs_eq]
    rw [if_neg busy, if_neg even]
    rfl
  · intro idleAfter
    have same : u = t := withCtrs_continue_idle idleAfter
    refine r.goesEnd_withCtrs (controlForm_endloop a) (exec_endloop a s) _ (stay (s.putTeam (withCtrs t (fun _ c => shallower c)))) ?_ rfl rfl rfl rfl
    simp only [withCtrs_eq]
    rw [if_pos ((idle_iff _).mpr idleAfter)]
    have down : (fun (_ : Nat) (c : Byte) => if c = 0 then c else Ctr.down c) = fun _ c => shallower c := by
      funext _ c
      exact down_eq_shallower c
    rw [down]
    exact congrArg (fun x => Res.done (stay (s.putTeam (withCtrs x _)))) same

/-- Settles O4: one lemma for each instruction that may skip or return, and the common one for the others. -/
theorem structuredControl : Obligations.StructuredControl := by
  refine ⟨fun a s t r => ifI_skips a r, fun a s t r => elseI_skips a r, fun a s t r => ?_, fun a s t r => loop_skips a r,
    fun a s t r => ?_, fun a s t r => ?_, fun a s t r => endloop_goes a r, fun a s t r => ?_⟩
  · exact r.goesEnd_withCtrs (controlForm_endif a) (exec_endif a s) _ (stay _) rfl (congrArg s.putTeam (endif_ctrs t)) rfl rfl rfl
  · refine r.goes_withCtrs (controlForm_breakI a) (exec_breakI a s) _ (stay _) rfl ?_ rfl rfl rfl
    simp only [stay, Done.seq, Run.put, withCtrs_eq, List.contains_eq_mem, decide_eq_true_eq]
  · refine r.goes_withCtrs (controlForm_contI a) (exec_contI a s) _ (stay _) rfl ?_ rfl rfl rfl
    simp only [stay, Done.seq, Run.put, withCtrs_eq, List.contains_eq_mem, decide_eq_true_eq]
  · refine r.goes_withCtrs (controlForm_exit a) (exec_exit a s) _ (stay _) rfl ?_ rfl rfl rfl
    simp only [stay, Done.seq, Run.put, withCtrs_eq, List.contains_eq_mem, decide_eq_true_eq]

end Sys2Proof.Machine
end

section
/-! PROOF. O33 fails: a team that joined its group after the context's descriptor changed issues its commands under the newest descriptor,
while its group still stands under an older version of it (R347). -/

namespace Sys2Proof.Machine

/-- A resident group of core 0 in version 1 of context 0, with 256 bytes of scratchpad from offset 0 on. -/
def olderGroup : Group :=
  { id := 0, launch := 0, gid := 0, q := 1, ctx := 65536, core := 0, sbase := 0, sbytes := 256, used := 1, live := [0],
    bars := List.replicate 16 Barrier.fresh, iqn := 0, iqc := 0, chans := [], res := .resident, kept := [], pre := none, sav := none,
    started := true, born := 0 }
/-- A team of it that started under the newest descriptor; v22:v23 point to the group's scratchpad (R36). -/
def newerTeam : Team := { startTeam 0 0 0 24 32 0 0 1 bareCtx 0 0 0 false with newer := some 0 }
/-- It has its turn. -/
def newerTurn : State := { State.reset with teams := [newerTeam], groups := [olderGroup], ctxs := [(0, ⟨bareCtx, [(1, bareCtx)], [], [], [0]⟩)] }
/-- `FETCHWORK` with its mailbox at v22:v23. -/
def mailFetch : Alu := ⟨⟨1, 0, false, 0, 63, 63⟩, 0, 0, 22, .reg 0⟩

theorem newerTurn_ready : Ready (.fetchwork mailFetch) newerTurn newerTeam where
  team := by decide +kernel
  issues := by decide +kernel
  wf := by decide +kernel
  level := by decide +kernel
  sig := by decide +kernel
  fresh := rfl
  named := by
    have below : ∀ r ∈ namedRegs (.fetchwork mailFetch), r < newerTeam.nreg := by decide +kernel
    exact fun r hr => ⟨below r hr, .inl List.not_mem_nil, List.not_mem_nil⟩
  guard := by unfold Team.clean; decide +kernel
  clean := by unfold Team.clean; decide +kernel
  stall := fun _ => rfl

/-- Its mailbox is the start of the group's allocation. -/
theorem newerTurn_mailbox : OwnAt olderGroup (newerTeam.pair 0 mailFetch.va.toNat) 32 4 0 :=
  ⟨by decide +kernel, .inr (.inl ⟨rfl, by decide, by decide⟩), rfl, Nat.le_refl _, by decide⟩

/-- The command is issued in the team's context 0. -/
theorem newerTurn_issues {s' : State} (h : exec (.fetchwork mailFetch) newerTurn = .next s') : s'.ecmds.map (·.ctx) = [0] := by
  have run : (match exec (.fetchwork mailFetch) newerTurn with
      | .next u => u.ecmds.map (·.ctx) == [0]
      | _ => false) = true := by decide +kernel
  rw [h] at run
  exact eq_of_beq run

/-- The start of a group issues no command. -/
theorem noteStart_ecmds (s : State) (t : Team) : (noteStart s t).ecmds = s.ecmds := by
  unfold noteStart
  split
  · rfl
  · split <;> rfl

/-- An instruction retires with the engine commands that its effect leaves. -/
theorem RetiresTo.ecmds {i : Instr} {t u : Team} {s1 s' : State} {pc : BitVec 48} {a b : BitVec 16} {st : Bool}
    (h : RetiresTo i t u s1 s' pc a b st) : s'.ecmds = s1.ecmds := by
  obtain ⟨ps, ev, rfl⟩ := h
  exact noteStart_ecmds _ _

/-- Refutes O33: its clause for FETCHWORK gives the command the context of the group. The team of `newerTurn` issues its command in its own,
newer context. -/
theorem not_workDistribution : ¬ Obligations.WorkDistribution := by
  rintro ⟨fetch, -⟩
  obtain ⟨-, issue⟩ := fetch mailFetch newerTurn newerTeam newerTurn_ready
  have command := issue 0 olderGroup 0 0 (by decide +kernel) (by decide +kernel) rfl newerTurn_mailbox ⟨by decide +kernel, by decide +kernel⟩
    (fun _ _ _ => List.not_mem_nil) rfl
  rw [if_neg (by decide)] at command
  obtain ⟨s1, ⟨s', hrun, retires⟩, -, -, effect⟩ := command
  have groupCtx : s1.ecmds.map (·.ctx) = [65536] := by rw [effect]; rfl
  have teamCtx : s1.ecmds.map (·.ctx) = [0] := retires.ecmds ▸ newerTurn_issues hrun
  exact absurd (teamCtx.symm.trans groupCtx) (by decide)

end Sys2Proof.Machine
end

section
/-! PROOF. O49 fails: a slot that an engine command of the core still names stays claimed when its group retires, until that command is
complete (R47, R100), whatever group the command belongs to. -/

namespace Sys2Proof.Machine

/-- A resident group of core 0 with one team left. -/
def lastGroup : Group :=
  { id := 0, launch := 0, gid := 0, q := 1, ctx := 0, core := 0, sbase := 0, sbytes := 0, used := 1, live := [0],
    bars := List.replicate 16 Barrier.fresh, iqn := 0, iqc := 0, chans := [], res := .resident, kept := [], pre := none, sav := none,
    started := true, born := 0 }
/-- Its team, whose strands have all exited. -/
def exitedTeam : Team :=
  let t := startTeam 0 0 0 1 32 0 0 0 bareCtx 0 0 0 false
  { t with strands := t.strands.map (fun x => { x with ctr := 0xff }) }
/-- A copy of 4 bytes from slot 5 of core 0, issued by team 512 of group 1. -/
def slotCopy : ECmd :=
  { id := 2, op := .move [(.slot 5 0, .scr 0 0, 4)] true, issuer := .team 512, grp := 1, q := 1, ctx := 0, core := 0, pc := 0, sup := false,
    rep := none, rd := [(5, 0, 4)], wr := [(129, 0, 4)], moved := 0, wait := none, tries := 0, sent := false, peer := none, fin := none }
/-- Group 0 holds slot 5, from which the copy reads. -/
def slotNamed : State :=
  { State.reset with
    teams := [exitedTeam]
    groups := [lastGroup]
    ecmds := [slotCopy]
    ctxs := [(0, ⟨bareCtx, [], [], [], [0]⟩)]
    cores := [(0, { Core.reset with slots := [(5, 0)] })] }

theorem exitedTeam_quiet : Quiet slotNamed exitedTeam := by
  refine ⟨?_, rfl, rfl, rfl, rfl, rfl, fun x hx => absurd hx List.not_mem_nil⟩
  decide +kernel

/-- The last team retires and its group is gone, but slot 5 is still the group's. -/
theorem slotNamed_keeps_slot {s' : State} (h : exec (.teamRetire 0) slotNamed = .next s') : (5, 0) ∈ (s'.core 0).slots := by
  have run : (match exec (.teamRetire 0) slotNamed with
      | .next u => decide ((5, 0) ∈ (u.core 0).slots)
      | _ => false) = true := by decide +kernel
  rw [h] at run
  exact of_decide_eq_true run

/-- Refutes O49: its clause for the last team of a group promises that none of the group's slots is claimed any more, with no premise on the
engine commands of other groups. In `slotNamed` such a command reads slot 5, and the slot is kept for it. -/
theorem not_placementStartAndRetirement : ¬ Obligations.PlacementStartAndRetirement := by
  rintro ⟨-, -, -, -, -, -, -, retire⟩
  obtain ⟨s', hrun, -, -, last⟩ := retire 0 slotNamed exitedTeam lastGroup (by decide +kernel) (by decide +kernel) exitedTeam_quiet
    (by decide +kernel) rfl rfl
  obtain ⟨-, free⟩ := last (by decide) rfl (by decide +kernel) (by decide +kernel)
  exact free (5, 0) (slotNamed_keeps_slot hrun) rfl

end Sys2Proof.Machine
end

section
/-! PROOF. O55 fails: when the reading of a launch record finds an uncorrectable error, the page of the error is poisoned (R117), and a
completion record on the same page cannot be written any more (R118, R380). -/

namespace Sys2Proof.Machine

/-- The header of a command of ring 2 with tag 5 that asks for a completion record at address 64. -/
def samePageHdr : CmdHdr := ⟨2, 0, 5, 64, false⟩
/-- The page of addresses 0 to 4095, at physical address 2^30, which may be written. -/
def samePage : Tlb := ⟨0, 0, 4096, 2 ^ 30, true, false, false, 0, 0⟩
/-- A launch whose record stands at address 256, behind the completion record on the same page; its first byte holds an error that nobody
has found yet. -/
def flawedLaunch : State :=
  { State.reset with
    queues := [(2, ⟨QRec.zero, true, 2 ^ 31, 64, 8, 1, [⟨.launch samePageHdr 256, samePageHdr, false⟩], false, 0, 0, false⟩)]
    ctxs := [(0, ⟨bareCtx, [], [], [], []⟩)]
    tlb := [samePage]
    flaws := [(0, 2 ^ 30 + 256)] }
/-- Where its completion record lies. -/
def samePageRecord : List Nat := (List.range 16).map (2 ^ 30 + 64 + ·)

theorem flawedLaunch_mayRun : MayRun flawedLaunch samePageHdr (.launch samePageHdr 256) :=
  ⟨⟨⟨.launch samePageHdr 256, samePageHdr, false⟩, by decide +kernel, by decide +kernel⟩, .inl rfl, by decide +kernel⟩

theorem flawedLaunch_owned : Owned flawedLaunch :=
  ⟨rfl, ⟨.nil, by simp [flawedLaunch, State.reset], by simp [flawedLaunch, State.reset]⟩, by simp [Live, flawedLaunch, State.reset], rfl,
    by simp [flawedLaunch, State.reset]⟩

/-- The page allows the completion record when the launch starts. -/
theorem flawedLaunch_writable : WritableAt flawedLaunch (cmdCtx flawedLaunch samePageHdr) samePageHdr.crec samePageRecord := by
  have leaf : ∀ i < 16, transFor flawedLaunch 0 true Need.wr (64 + i) = .ok samePage := by decide +kernel
  refine ⟨by decide +kernel, by decide, fun i hi => ⟨samePage, leaf i (by simpa [samePageRecord] using hi), rfl, ?_, List.not_mem_nil⟩⟩
  simp only [samePageRecord, samePage, samePageHdr, List.getElem_map, List.getElem_range]
  omega

/-- The record cannot be read. -/
theorem flawedLaunch_bad : (cmdGet samePageHdr 256 256 flawedLaunch).2 = .bad := by decide +kernel

/-- Nothing of the completion record is written or on its way: its first byte stays 0. -/
theorem flawedLaunch_writes_no_record {s' : State} (h : exec (.launch samePageHdr 256) flawedLaunch = .next s') :
    s'.dwq = [] ∧ s'.throughs = [] ∧ cohByte s' (2 ^ 30 + 64) = 0 := by
  have run : (match exec (.launch samePageHdr 256) flawedLaunch with
      | .next u => decide (u.dwq = [] ∧ u.throughs = [] ∧ cohByte u (2 ^ 30 + 64) = 0)
      | _ => false) = true := by decide +kernel
  rw [h] at run
  exact of_decide_eq_true run

/-- Refutes O55: its clause for LAUNCH promises the completion record with status 0x0B wherever the page allows it before the launch record
is read. In `flawedLaunch` that reading poisons the page first, and no record is written. -/
theorem not_hostQueueCommands : ¬ Obligations.HostQueueCommands := by
  rintro ⟨-, -, -, -, -, launch, -⟩
  obtain ⟨s', hrun, -, -, -, -, bad, -⟩ := launch samePageHdr 256 flawedLaunch flawedLaunch_mayRun
  obtain ⟨⟨-, -, record⟩, -⟩ := bad flawedLaunch_bad (by decide)
  obtain ⟨-, reaches⟩ := record (by decide) flawedLaunch_owned samePageRecord (by decide) flawedLaunch_writable
  obtain ⟨hw, ht, hbyte⟩ := flawedLaunch_writes_no_record hrun
  have status : cohByte s' (2 ^ 30 + 64) = 0x0b := (reaches 0 (by decide)).cohByte_eq hw ht
  exact absurd (hbyte.symm.trans status) (by decide)

end Sys2Proof.Machine
end

section
/-! PROOF. O53 fails: a record in a save area is bytes that others can write, and R70 rejects no image whose `pmask` marks a copy with value
bytes other than 0 (Table 4-8). Its restore gives the copy the value 0, so that the restored team is not what those bytes say. -/

namespace Sys2Proof.Machine

/-! ## A seat for a restored team -/

/-- Where nobody is seated, the first section and the first slot in turn are open. -/
theorem openSeat_of_none_seated {s : State} (core strands nreg : Nat) (none_seated : seatedTeams s = []) (fits : strands * allocRegs nreg ≤ 65536) :
    openSeat s core strands nreg = some (Config.place s.fresh % 4, Config.place (s.fresh + 1) % 16) := by
  have empty : ∀ sec, secTeams s core sec = [] := fun sec => by rw [secTeams, none_seated]; rfl
  have room : ∀ sec, secRoom s core sec strands nreg = true := fun sec => by simp [secRoom, empty, fits]
  have first : ∀ (k n : Nat) (p : Nat → Bool), (∀ x, p x = true) → (turn k (n + 1)).find? p = some (k % (n + 1)) := by
    intro k n p all
    simp [turn, List.range_succ_eq_map, all]
  unfold openSeat
  rw [first _ 3 _ room, Option.bind_some, first _ 15 _ (fun k => by rw [empty]; rfl), Option.map_some]

/-- A group of one saved team is restored where the core is open, nobody is seated, and the team's image is good. -/
theorem restoreGroup_isSome {s : State} {g : Group} {t : Team} {c : Ctx} (addr : Nat) (f : Nat → Byte) (one : g.kept = [t])
    (ctx : s.ctx (ctxId g.ctx) = some c)
    (free : (!enabledCore s g.core || !clusterOpen s g.core || !scrFree s g.core g.sbase g.sbytes ||
      (bitSet (numAt f 0x10 16) 128).any (fun n => !(s.core g.core).slotFree n)) = false)
    (none_seated : seatedTeams s = []) (fits : t.strands.length * allocRegs t.nreg ≤ 65536)
    (good : (readImage (fun i => f (256 + i)) c.desc.stkn).isSome = true) :
    (restoreGroup s g addr f).isSome = true := by
  obtain ⟨m, hm⟩ := Option.isSome_iff_exists.mp good
  have seat := openSeat_of_none_seated g.core t.strands.length t.nreg none_seated fits
  unfold restoreGroup
  dsimp only
  rw [if_neg (by rw [free]; decide), Option.isSome_map, ctx]
  unfold seatSaved
  rw [one]
  simp only [List.foldl_cons, List.foldl_nil, Option.bind_some, show alignUp 256 256 = 256 from rfl, seat, hm, Option.isSome_some]

/-! ## Reading a software-managed page -/

/-- Reading nothing coherent asks no home and changes nothing. -/
theorem devReady_nil (s : State) : devReady s [] = (s, true) := by
  simp [devReady, ownAccess, acquireAll, distinct]

/-- Where every byte lies on one software-managed page, the device reads memory as it is, and the state stays. -/
theorem ctxGet_managed {s : State} {ctx va n : Nat} {page : Tlb} {pa : Nat → Nat} (managed : page.coh ≠ 0)
    (found : ∀ k ∈ List.range n, locByte s ctx 0 true Need.rd none (BitVec.ofNat 64 va) n k = .ok (.mem (pa k) page)) :
    ctxGet s ctx va n = (s, .bytes ((List.range n).map (fun k => s.mem.get (pa k)))) := by
  have located : locate s ctx 0 true Need.rd none (BitVec.ofNat 64 va) n = .ok ((List.range n).map (fun k => .mem (pa k) page)) :=
    V.all_ok _ _ _ found
  have none_coherent : cohAddrs ((List.range n).map (fun k => .mem (pa k) page)) = [] := by simp [cohAddrs, managed]
  have undisturbed : devDone s [] = s := rfl
  unfold ctxGet
  rw [located]
  simp [none_coherent, devReady_nil, undisturbed, managed]

/-- The value of a test that was passed. -/
def okValue {α : Type} : V α → Option α
  | .ok a => some a
  | .bad _ => none

theorem okValue_eq_some {α : Type} {v : V α} {a : α} : okValue v = some a ↔ v = .ok a := by
  cases v <;> simp [okValue]

/-- An address without a cell reads 0. -/
theorem Memory.get_of_no_cell {m : Memory} {a : Nat} (h : ∀ c ∈ m, c.1 ≠ a) : m.get a = 0 := by
  induction m with
  | nil => rfl
  | cons c m ih => rw [Memory.get, if_neg (h c (by simp)), ih fun x hx => h x (by simp [hx])]

/-! ## A record with a marked copy -/

/-- A group of queue 1 and context 0, saved at the start of the context's save area for the distributor; its one team has one register. -/
def markedGroup : Group :=
  { id := 0, launch := 0, gid := 0, q := 1, ctx := 0, core := 0, sbase := 0, sbytes := 0, used := 1, live := [0],
    bars := List.replicate 16 Barrier.fresh, iqn := 0, iqc := 0, chans := [], res := .saved 0,
    kept := [startTeam 0 0 0 1 32 0 0 0 bareCtx 0 0 0 false], pre := some .sched, sav := none, started := true, born := 0 }
/-- What differs from 0 in its record: the group uses one team, index 0 (bytes 7 and 44); the image at 256 has one pass, N = 1 and L = 1;
strand 0's copy of v0 is marked in `pmask` (byte 2,704) and has the value bytes 7, 0, 0, 0 (byte 2,560). -/
def markedRecord : Memory := [(7, 1), (44, 1), (265, 1), (266, 1), (268, 1), (2560, 7), (2704, 1)]
/-- The page of addresses 4096 to 8191 of context 0, software-managed, at physical address 2^30. -/
def managedPage : Tlb := ⟨0, 4096, 4096, 2 ^ 30, true, false, false, 1, 0⟩
/-- The group is saved. Its context's save area lies at address 4096, on `managedPage`. -/
def markedSaved : State :=
  { State.reset with
    groups := [markedGroup]
    ctxs := [(0, ⟨{ bareCtx with sav := 4096, savsz := 4096 }, [], [], [(0, 2720)], [0]⟩)]
    tlb := [managedPage]
    mem := markedRecord.map (fun c => (2 ^ 30 + c.1, c.2)) }
/-- The byte at an offset of the record, and the bytes that are read of it. -/
def markedByte (o : Nat) : Byte := markedSaved.mem.get (2 ^ 30 + o)
def markedBytes : List Byte := (List.range 2720).map markedByte

/-- Every byte of the record lies on the page. -/
theorem markedRecord_located : ∀ k ∈ List.range 2720,
    locByte markedSaved 0 0 true Need.rd none (BitVec.ofNat 64 4096) 2720 k = .ok (.mem (2 ^ 30 + k) managedPage) := by
  have computed : (List.range 2720).all (fun k =>
      okValue (locByte markedSaved 0 0 true Need.rd none (BitVec.ofNat 64 4096) 2720 k) == some (.mem (2 ^ 30 + k) managedPage)) = true := by decide +kernel
  exact fun k hk => okValue_eq_some.mp (eq_of_beq (List.all_eq_true.mp computed k hk))

theorem markedRecord_read : recordRead markedSaved markedGroup 0 = (markedSaved, .bytes markedBytes) := by
  have read : recordRead markedSaved markedGroup 0 = ctxGet markedSaved 0 4096 2720 := rfl
  rw [read, ctxGet_managed (by decide) markedRecord_located]
  rfl

/-- After the bytes that are read, the record has no byte other than 0. -/
theorem markedByte_beyond {o : Nat} (ho : 2720 ≤ o) : markedByte o = 0 := by
  refine Memory.get_of_no_cell fun c hc => ?_
  obtain ⟨r, hr, rfl⟩ := List.mem_map.mp hc
  have inside : ∀ x ∈ markedRecord, x.1 < 2720 := by decide
  have := inside r hr
  dsimp only
  omega

theorem nth_markedBytes : nth 0 markedBytes = markedByte := by
  funext o
  by_cases inside : o < 2720
  · simp [nth, markedBytes, inside]
  · simp [nth, markedBytes, inside, markedByte_beyond (Nat.le_of_not_lt inside)]

/-- The record is good, as R70 and R357 say. -/
theorem markedRecord_good : recordBad markedSaved markedGroup markedByte = false := by decide +kernel

/-- The group has room. -/
theorem markedGroup_restored : (restoreGroup markedSaved markedGroup 0 markedByte).isSome = true :=
  restoreGroup_isSome 0 markedByte rfl rfl (by decide +kernel) (by decide +kernel) (by decide) (by decide +kernel)

/-- What the record says of the team: one pass, one saved register, a marked copy, and its value bytes. -/
theorem markedRecord_image : bytesNat markedByte (256 + 9) 1 = 1 ∧ bytesNat markedByte (256 + 12) 2 = 1 ∧
    bitAt (bytesNat markedByte (256 + 0x900 + 144) 4) 0 = true ∧ bytesNat markedByte (256 + 0x900) 4 = 7 := by decide +kernel

/-- `ImageAt` holds only of bytes in which a marked copy of strand 0 and register 0 has value bytes 0. -/
theorem ImageAt.marked_value {f : Nat → Byte} {o L : Nat} {t : Team} (h : ImageAt f o t L) (pass : 1 ≤ bytesNat f (o + 9) 1) (reg : 1 ≤ L)
    (marked : bitAt (bytesNat f (o + 0x900 + 144) 4) 0 = true) : bytesNat f (o + 0x900) 4 = 0 := by
  obtain ⟨-, passes, -, -, -, -, -, -, -, -, -, -, -, -, strands⟩ := h
  have first : 0 < 32 * t.passes := by omega
  obtain ⟨-, -, regs⟩ := strands 0 first
  obtain ⟨psn, value, -⟩ := regs 0 reg
  simp only [Nat.zero_mul, Nat.zero_div, Nat.add_zero, Nat.mul_zero, Nat.zero_mod] at psn value
  rw [value, ← psn, if_pos marked]

/-- Refutes O53: its clause for a restore says of every good record that the restored teams hold what its bytes say. The record of
`markedSaved` is good and gives the marked copy the value bytes of 7, where the restored copy, and `ImageAt`, have 0. -/
theorem not_preemptionSaveAndRestore : ¬ Obligations.PreemptionSaveAndRestore := by
  rintro ⟨-, -, -, -, -, -, -, -, restore⟩
  obtain ⟨-, -, back⟩ := restore 0 markedSaved markedGroup 0 rfl (by decide) (fun _ => rfl) (by decide +kernel) rfl
  rw [markedRecord_read] at back
  have back := back markedBytes rfl
  simp only [nth_markedBytes] at back
  obtain ⟨s', -, teams, -⟩ := back (by decide) markedRecord_good (by decide) (by decide +kernel) rfl rfl (by decide +kernel) rfl rfl
  obtain ⟨u, hu⟩ := Option.isSome_iff_exists.mp markedGroup_restored
  obtain ⟨new, -, indices, images, -⟩ := teams u hu
  have one : new.length = 1 := by simpa [markedGroup] using congrArg List.length indices
  obtain ⟨image, -, -⟩ := images 0 (by omega)
  obtain ⟨pass, live, marked, seven⟩ := markedRecord_image
  have zero : bytesNat markedByte (256 + 0x900) 4 = 0 := image.marked_value pass.ge live.ge marked
  exact absurd (seven.symm.trans zero) (by decide)

end Sys2Proof.Machine
end

section
/-! PROOF. The tests at issue, whatever comes of them: what `runI` does with an instruction that is held, with one that is not well-formed,
and with a body that faults. -/

namespace Sys2Proof.Machine

variable {i : Instr} {s : State} {t : Team}

/-- An instruction that is being held already goes on with its effect: it was tested when it was issued. -/
theorem runI_goesOn (turn : s.team s.cur = some t) (issues : canIssue s t = true) (acted : t.rmw.isSome = true) (body : Run → Res) :
    runI i body s = .next (finish ⟨s, t, i, t.active i⟩ (body ⟨s, t, i, t.active i⟩)) := by
  unfold runI
  simp [turn, issues, acted, Team.active]

/-- The first test at issue: an encoding that no rule of Table 7-2 allows raises the illegal-instruction fault (R136, R288). -/
theorem runI_illegal (turn : s.team s.cur = some t) (issues : canIssue s t = true) (fresh : t.rmw = none)
    (ill : (isIllegal i || !i.WellFormed) = true) (body : Run → Res) :
    runI i body s = .next (takeTrap (noteStart s t) t trapIllegal (t.active i) false i) := by
  unfold runI
  simp only [turn, issues, fresh, ill]
  rfl

/-- A body that faults faults (R61). -/
theorem finish_trap (c : Run) (tr : Trap) : finish c (.trap tr) = takeTrap (noteStart c.s c.t) c.t tr c.act false c.i := rfl

end Sys2Proof.Machine
end

section
/-! PROOF. O34: the special names (Table 4-3) as `MOVS` reads them and as `MOVSW` writes them. -/

namespace Sys2Proof.Machine

variable {i : Instr} {s : State} {t : Team}

/-- What the rules of the shape `Alu` ask of the destination field. -/
theorem aluOk_dest {d : Desc} {a : Alu} (ok : aluOk d a = true) : d.d.ok a.vd = true := by
  unfold aluOk at ok
  cases hb : a.b <;> simp only [hb, Bool.and_eq_true] at ok <;> exact ok.1.1.2

/-- An opcode that takes a register only as source b. -/
theorem aluOk_reg {d : Desc} {a : Alu} (form : d.bf = .reg) (ok : aluOk d a = true) : ∃ r, a.b = .reg r := by
  cases hb : a.b with
  | reg r => exact ⟨r, rfl⟩
  | imm w => simp [aluOk, hb, form] at ok

/-- `MOVS` is well-formed for a name of Table 4-3 alone, into an even pair for one of 64 bits. -/
theorem movs_wellFormed {a : Alu} (wf : (Instr.movs a).WellFormed = true) :
    selKnown (srcField a.b).toNat = true ∧ (selWide (srcField a.b).toNat = true → a.vd.toNat % 2 = 0) := by
  simp only [Instr.WellFormed, encodable, desc, Bool.and_eq_true] at wf
  obtain ⟨fields, known⟩ := wf
  refine ⟨known, fun wide => ?_⟩
  have dest := aluOk_dest fields
  rw [if_pos wide] at dest
  simpa [RU.p, RU.ok] using dest

/-- `MOVSW` is well-formed for a name that some level may write, given in a register field. -/
theorem movsw_wellFormed {a : Alu} (wf : (Instr.movsw a).WellFormed = true) :
    selWritable (srcField a.b).toNat = true ∧ ∃ r, a.b = .reg r := by
  simp only [Instr.WellFormed, encodable, desc, Bool.and_eq_true] at wf
  exact ⟨wf.2, aluOk_reg rfl wf.1⟩

/-- The names of 32 bits whose value no read may find different. -/
def plainNames : List Nat := [0x00, 0x01, 0x02, 0x03, 0x10, 0x11, 0x12, 0x20, 0x21, 0x28, 0x29, 0x2a]

/-- These are the names that `nameWord` gives a value, but for the token name (R66). -/
theorem mem_plainNames {v : Word} {sel : Nat} (named : nameWord s t sel 0 = some v) (plain : sel ≠ 0x30) : sel ∈ plainNames := by
  unfold nameWord at named
  split at named
  case h_13 => exact absurd rfl plain
  case h_14 => cases named
  all_goals decide

theorem word_eq : word = BitVec.ofNat 32 := rfl

/-- `MOVS` reads what `nameWord` says. -/
theorem specialOf_plain {sel : Nat} (h : sel ∈ plainNames) (act : List Nat) :
    specialOf ⟨s, t, i, act⟩ sel = some (.word32 (fun k => (nameWord s t sel k).getD 0)) := by
  simp only [plainNames, List.mem_cons, List.not_mem_nil, or_false] at h
  rcases h with rfl | rfl | rfl | rfl | rfl | rfl | rfl | rfl | rfl | rfl | rfl | rfl <;>
    simp [specialOf, nameWord, word_eq, hndSec, rankOf, dieOf, sigsAt, Run.core]

/-- The number of places in nested levels is the product of their extents. -/
theorem extents_cons (l : Level) (ls : List Level) : extents (l :: ls) = l.extent * extents ls := by
  have scale : ∀ (ls : List Level) (p : Nat), ls.foldl (fun p l => p * l.extent) p = p * extents ls := by
    intro ls
    induction ls with
    | nil => intro p; simp [extents]
    | cons m ls ih =>
      intro p
      unfold extents
      rw [List.foldl_cons, List.foldl_cons, ih, ih, Nat.one_mul, Nat.mul_assoc]
  unfold extents
  rw [List.foldl_cons, scale, Nat.one_mul]
  rfl

/-- Below its first level a launch has the coordinates of what that level's digit leaves (R33). -/
theorem lvlCoord_succ (lr : LaunchRec) (l : Level) (ls : List Level) (i x j g : Nat) :
    lvlCoord { lr with levels := l :: ls } (i + 1) x j g = lvlCoord { lr with levels := ls } i (if l.domain = 0 then x / l.extent else x)
      (if l.domain = 1 then j / l.extent else j) (if 2 ≤ l.domain then g / l.extent else g) := by
  unfold lvlCoord
  simp only [List.getElem?_cons_succ, List.take_succ_cons, List.filter_cons]
  cases ls[i]? with
  | none => rfl
  | some m =>
    by_cases same : min l.domain 2 = min m.domain 2
    · simp only [same, beq_self_eq_true, if_true, extents_cons, ← Nat.div_div_eq_div_mul]
      grind
    · simp only [beq_eq_false_iff_ne.mpr same, Bool.false_eq_true, if_false]
      grind

/-- The coordinate at a level is the digit there (R33). -/
theorem levelDigits_eq_lvlCoord (lr : LaunchRec) (ls : List Level) (i x j g : Nat) :
    nth 0 (levelDigits ls x j g) i = lvlCoord { lr with levels := ls } i x j g := by
  induction ls generalizing i x j g with
  | nil => simp [levelDigits, nth, lvlCoord]
  | cons l ls ih =>
    cases i with
    | zero =>
      unfold levelDigits lvlCoord
      by_cases strand : l.domain = 0
      · simp [strand, nth, extents]
      · by_cases team : l.domain = 1 <;> simp [strand, team, nth, extents]
    | succ i =>
      rw [lvlCoord_succ, ← ih]
      rw [levelDigits]
      by_cases strand : l.domain = 0
      · simp [strand, nth]
      · by_cases team : l.domain = 1
        · simp [team, nth]
        · have above : 2 ≤ l.domain := by omega
          simp [strand, team, above, nth]

/-- With both indices 0 a launch's coordinates are 0 but at the levels above group. -/
theorem lvlCoord_inner_zero {lr : LaunchRec} {i g : Nat} (inner : ∀ m, lr.levels[i]? = some m → m.domain < 2) : lvlCoord lr i 0 0 g = 0 := by
  unfold lvlCoord
  cases h : lr.levels[i]? with
  | none => rfl
  | some m =>
    have low := inner m h
    by_cases strand : m.domain = 0
    · simp [strand]
    · have team : m.domain = 1 := by omega
      simp [team]

/-- `%lvl`i as `MOVS` computes it (R33, R240). -/
theorem lvlWord_eq_levelOf {i : Instr} {s : State} {t : Team} {g : Group} {l : Launch} (group : s.grpOf t = some g)
    (launch : s.launch g.launch = some l) (act : List Nat) (lvl k : Nat) : lvlWord ⟨s, t, i, act⟩ lvl k = BitVec.ofNat 32 (levelOf l.lr g t lvl k) := by
  have coord : ∀ x j, nth 0 (levelDigits l.lr.levels x j g.gid) lvl = lvlCoord l.lr lvl x j g.gid := fun x j =>
    levelDigits_eq_lvlCoord l.lr l.lr.levels lvl x j g.gid
  unfold lvlWord levelOf word
  simp only [group, launch, Option.bind_some, Option.map_some, coord]
  cases h : l.lr.levels[lvl]? with
  | none =>
    have zero : lvlCoord l.lr lvl 0 0 g.gid = 0 := lvlCoord_inner_zero (by simp [h])
    simp [zero]
  | some m =>
    by_cases inner : m.domain < 2
    · have zero : lvlCoord l.lr lvl 0 0 g.gid = 0 := lvlCoord_inner_zero (by simpa [h] using inner)
      simp [inner, zero]
    · simp [inner]

/-- Results in every active strand (R138), for an instruction that also changes the machine beside its teams and what its team notes of
sampled names. -/
theorem Ready.lanesIn (r : Ready i s t) (hc : isControl i = false) (he : isEnd i = false) (hi : isIllegal i = false) (body : Run → Res)
    (s1 : State) (v : Team) (o : Nat → Out) (teams : s1.teams = s.teams) (time : s1.now = s.now) (notes : v = { t with samps := v.samps })
    (hb : body ⟨s, t, i, t.active i⟩ = lanes ⟨s1, v, i, t.active i⟩ (fun k => .ok (o k))) :
    ∃ s', runI i body s = .next s' ∧ Retires i t (perStrand v (t.active i) o) s1 s' := by
  have self : s1.team t.hnd = some t := by
    unfold State.team
    rw [teams]
    exact r.self
  have running : ∀ d, v.status ≠ .stopped d := by
    rw [notes]
    exact r.running
  obtain ⟨hnd, grp, preq, nreg, yielded⟩ : v.hnd = t.hnd ∧ v.grp = t.grp ∧ v.preq = t.preq ∧ v.nreg = t.nreg ∧ v.yielded = t.yielded := by
    rw [notes]
    exact ⟨rfl, rfl, rfl, rfl, rfl⟩
  exact r.seq hc he hi body _ (perStrand v (t.active i) o) s1
    (by rw [hb, lanes_ok _ _ o (active_nodup t i) (fun _ _ => rfl)]) rfl rfl rfl rfl rfl ⟨t, self⟩ hnd grp preq nreg yielded running time

theorem rawAlu_opc (opc : Nat) (a : Alu) : (rawAlu opc a).opc = BitVec.ofNat 10 opc := by
  unfold rawAlu
  split <;> rfl

theorem opcOf_movs (a : Alu) : opcOf (.movs a) = 0x380 := congrArg BitVec.toNat (rawAlu_opc 0x380 a)
theorem opcOf_movsw (a : Alu) : opcOf (.movsw a) = 0x381 := congrArg BitVec.toNat (rawAlu_opc 0x381 a)
theorem isControl_movs (a : Alu) : isControl (.movs a) = false := by rw [isControl, opcOf_movs]; rfl
theorem isControl_movsw (a : Alu) : isControl (.movsw a) = false := by rw [isControl, opcOf_movsw]; rfl
theorem exec_movs (a : Alu) (s : State) : exec (.movs a) s = execMovs a s := rfl
theorem exec_movsw (a : Alu) (s : State) : exec (.movsw a) s = execMovsw a s := rfl

/-- A team without an active strand keeps its registers. -/
theorem perStrand_nil (t : Team) (o : Nat → Out) : perStrand t [] o = t := by
  simp [perStrand, List.mapIdx_eq_ofFn]

/-- What a name gives a strand. -/
def movsOut (a : Alu) (x : Special) (k : Nat) : Out := match x with | .word32 f => Out.one a.vd (f k) 0 | .word64 v => Out.pair a.vd v.toNat 0
/-- The team with what it notes of a read of a name, where a strand reads it (R282). -/
def movsTeam (t : Team) (act : List Nat) (sel : Nat) (x : Special) : Team :=
  match sampledName sel with
  | some n => if act = [] then t else t.sampled n (specialNat x)
  | none => t
/-- The state in which a name is read: `%cycles` is sampled first (R64). -/
def movsState (s : State) (t : Team) (act : List Nat) (sel : Nat) : State := if sel = 0x18 ∧ act ≠ [] then sampleCycles s t.core else s

/-- `execMovs` first samples the counter it reads, if a strand reads it (R64). -/
theorem movs_samples (s : State) (t : Team) (a : Alu) :
    (if (srcField a.b).toNat = 0x18 ∧ !(t.active (.movs a)).isEmpty then
        { (⟨s, t, .movs a, t.active (.movs a)⟩ : Run) with s := sampleCycles s t.core } else ⟨s, t, .movs a, t.active (.movs a)⟩) =
      (⟨movsState s t (t.active (.movs a)) (srcField a.b).toNat, t, .movs a, t.active (.movs a)⟩ : Run) := by
  unfold movsState
  simp only [Bool.not_eq_true', List.isEmpty_eq_false_iff]
  split <;> rfl

/-- `execMovs` then notes the value read (R282). -/
theorem notes_eq (c : Run) (sel : Nat) (x : Special) :
    (match sampledName sel with
      | some n => if c.act.isEmpty then c else { c with t := c.t.sampled n (specialNat x) }
      | none => c) = { c with t := movsTeam c.t c.act sel x } := by
  unfold movsTeam
  cases sampledName sel with
  | none => rfl
  | some n =>
    by_cases empty : c.act = []
    · have skip : c.act.isEmpty = true := List.isEmpty_iff.mpr empty
      dsimp only
      rw [if_pos skip, if_pos empty]
    · have reads : c.act.isEmpty = false := List.isEmpty_eq_false_iff.mpr empty
      simp only [reads, empty, Bool.false_eq_true, if_false]

/-- `MOVS` of a known name gives its content, noted where two reads may differ (R245, R282). -/
theorem movs_completes {a : Alu} (r : Ready (.movs a) s t) {x : Special}
    (content : specialOf ⟨movsState s t (t.active (.movs a)) (srcField a.b).toNat, t, .movs a, t.active (.movs a)⟩ (srcField a.b).toNat = some x)
    (even : ∀ v, x = .word64 v → a.vd.toNat % 2 = 0) :
    Completes (.movs a) s t (perStrand (movsTeam t (t.active (.movs a)) (srcField a.b).toNat x) (t.active (.movs a)) (movsOut a x))
      (movsState s t (t.active (.movs a)) (srcField a.b).toNat) := by
  unfold Completes
  rw [exec_movs]
  unfold execMovs
  refine r.lanesIn (isControl_movs a) rfl rfl _ _ _ _ ?_ ?_ ?_ ?_
  · unfold movsState; split <;> rfl
  · unfold movsState; split <;> rfl
  · unfold movsTeam; split
    · split <;> rfl
    · rfl
  · dsimp only [Run.core]
    rw [movs_samples]
    simp only [content]
    have noted := notes_eq ⟨movsState s t (t.active (.movs a)) (srcField a.b).toNat, t, .movs a, t.active (.movs a)⟩ (srcField a.b).toNat x
    cases x with
    | word32 f => exact congrArg (lanes · _) noted
    | word64 v => exact (if_neg (by have := even v rfl; omega)).trans (congrArg (lanes · _) noted)

/-! ## Which content each name has -/

/-- A name whose value no read may find different. -/
theorem movs_plain {a : Alu} (r : Ready (.movs a) s t) {v : Word} (named : nameWord s t (srcField a.b).toNat 0 = some v)
    (plain : (srcField a.b).toNat ≠ 0x30) :
    EachStrand (.movs a) s t (fun k => Out.one a.vd ((nameWord s t (srcField a.b).toNat k).getD 0) 0) := by
  have mem := mem_plainNames named plain
  obtain ⟨unsampled, same⟩ : sampledName (srcField a.b).toNat = none ∧ (srcField a.b).toNat ≠ 0x18 := by
    generalize (srcField a.b).toNat = sel at mem
    revert sel
    decide
  have state : movsState s t (t.active (.movs a)) (srcField a.b).toNat = s := if_neg (fun h => same h.1)
  have done := movs_completes r (by rw [state]; exact specialOf_plain mem _) (by simp)
  rw [state] at done
  simp only [movsTeam, unsampled] at done
  exact done

/-- `%lvl`i is a name of 32 bits, and no read may find it different. -/
theorem specialOf_level {sel : Nat} (low : 8 ≤ sel) (high : sel ≤ 15) (c : Run) :
    specialOf c sel = some (.word32 (lvlWord c (sel - 8))) ∧ sampledName sel = none ∧ sel ≠ 0x18 := by
  obtain rfl | rfl | rfl | rfl | rfl | rfl | rfl | rfl : sel = 8 ∨ sel = 9 ∨ sel = 10 ∨ sel = 11 ∨ sel = 12 ∨ sel = 13 ∨ sel = 14 ∨ sel = 15 := by omega
  all_goals exact ⟨rfl, by decide, by decide⟩

/-- `%lvl`i (R33). -/
theorem movs_level {a : Alu} (r : Ready (.movs a) s t) (low : 8 ≤ (srcField a.b).toNat) (high : (srcField a.b).toNat ≤ 15) {g : Group} {l : Launch}
    (group : s.grpOf t = some g) (launch : s.launch g.launch = some l) :
    EachStrand (.movs a) s t (fun k => Out.one a.vd (BitVec.ofNat 32 (levelOf l.lr g t ((srcField a.b).toNat - 8) k)) 0) := by
  obtain ⟨content, unsampled, same⟩ := specialOf_level low high ⟨s, t, .movs a, t.active (.movs a)⟩
  have state : movsState s t (t.active (.movs a)) (srcField a.b).toNat = s := if_neg (fun h => same h.1)
  have done := movs_completes r (by rw [state]; exact content) (by simp)
  rw [state] at done
  have level : lvlWord ⟨s, t, .movs a, t.active (.movs a)⟩ ((srcField a.b).toNat - 8) =
      fun k => BitVec.ofNat 32 (levelOf l.lr g t ((srcField a.b).toNat - 8) k) := funext fun k => lvlWord_eq_levelOf group launch _ _ k
  simp only [movsTeam, unsampled, level] at done
  exact done

theorem toNat_append_add {m n : Nat} (x : BitVec m) (y : BitVec n) : (x ++ y).toNat = x.toNat * 2 ^ n + y.toNat := by
  rw [BitVec.toNat_append, ← Nat.shiftLeft_add_eq_or_of_lt y.isLt, Nat.shiftLeft_eq]

/-- The fields of `%tok` (Table 4-6), side by side. -/
theorem tokWord_eq (s : State) (core : Nat) : tokWord s core = BitVec.ofNat 16 s.power.pool ++ (0 : BitVec 14) ++
    (if wantsToken s core then (1 : BitVec 1) else 0) ++ (if (s.core core).tok then (1 : BitVec 1) else 0) := by
  apply BitVec.eq_of_toNat_eq
  unfold tokWord word
  simp only [toNat_append_add, BitVec.toNat_ofNat]
  split <;> split <;> simp <;> omega

/-- `%tok` (R68), sampled. -/
theorem movs_tok {a : Alu} (r : Ready (.movs a) s t) (sel : (srcField a.b).toNat = 0x30) {v : Word} (named : nameWord s t 0x30 0 = some v) :
    Completes (.movs a) s t (perStrand (if t.active (.movs a) = [] then t else { t with samps := aset 2 (BitVec.ofNat 32 (s.sample.getD v.toNat)).toNat t.samps })
      (t.active (.movs a)) (fun _ => Out.one a.vd (BitVec.ofNat 32 (s.sample.getD v.toNat)) 0)) s := by
  have tok : tokWord s t.core = v := Option.some.inj ((congrArg some (tokWord_eq s t.core)).trans named)
  have state : movsState s t (t.active (.movs a)) (srcField a.b).toNat = s := if_neg (fun h => by omega)
  have done := movs_completes r (x := .word32 (fun _ => word (sampleOf s (tokWord s t.core).toNat))) (by rw [state, sel]; rfl) (by simp)
  rw [state, tok, sel] at done
  exact done

/-- `%time` (R64), sampled. -/
theorem movs_time {a : Alu} (r : Ready (.movs a) s t) (sel : (srcField a.b).toNat = 0x19) (even : a.vd.toNat % 2 = 0) :
    Completes (.movs a) s t (perStrand (if t.active (.movs a) = [] then t else
        { t with samps := aset 1 (BitVec.ofNat 64 (s.sample.getD s.time.toNat)).toNat t.samps })
      (t.active (.movs a)) (fun _ => Out.pair a.vd (BitVec.ofNat 64 (s.sample.getD s.time.toNat)).toNat 0)) s := by
  have state : movsState s t (t.active (.movs a)) (srcField a.b).toNat = s := if_neg (fun h => by omega)
  have done := movs_completes r (x := .word64 (BitVec.ofNat 64 (sampleOf s s.now))) (by rw [state, sel]; rfl) (fun _ _ => even)
  rw [state, sel] at done
  exact done

/-- `%cycles` (R64), which a read samples, where a strand reads it. -/
theorem movs_cycles {a : Alu} (r : Ready (.movs a) s t) (sel : (srcField a.b).toNat = 0x18) (even : a.vd.toNat % 2 = 0) :
    if t.active (.movs a) = [] then Completes (.movs a) s t t s
    else ∃ d : DWord, let c := (s.core t.core).cyc + d
      let x : DWord := BitVec.ofNat 64 (s.sample.getD c.toNat)
      Completes (.movs a) s t (perStrand (if t.active (.movs a) = [] then t else { t with samps := aset 0 x.toNat t.samps }) (t.active (.movs a))
        (fun _ => Out.pair a.vd x.toNat 0)) { s.setCore t.core (fun k => { k with cyc := c }) with fresh := s.fresh + 1 } := by
  by_cases empty : t.active (.movs a) = []
  · have state : movsState s t (t.active (.movs a)) (srcField a.b).toNat = s := if_neg (fun h => h.2 empty)
    have done := movs_completes r (x := .word64 (BitVec.ofNat 64 (sampleOf s (s.core t.core).cyc.toNat))) (by rw [state, sel]; rfl) (fun _ _ => even)
    rw [if_pos empty]
    rw [state, sel, empty] at done
    rw [perStrand_nil] at done
    exact done
  · have state : movsState s t (t.active (.movs a)) (srcField a.b).toNat = sampleCycles s t.core := if_pos ⟨sel, empty⟩
    have count : ((sampleCycles s t.core).core t.core).cyc = (s.core t.core).cyc + (Config.coreEdges s.fresh).zeroExtend 64 := by
      simp [sampleCycles, State.setCore, State.core]
    have done := movs_completes r (x := .word64 (BitVec.ofNat 64 (sampleOf s ((s.core t.core).cyc + (Config.coreEdges s.fresh).zeroExtend 64).toNat)))
      (by rw [state, sel, ← count]; rfl) (fun _ _ => even)
    rw [state, sel] at done
    rw [if_neg empty]
    exact ⟨_, done⟩

/-! ## `MOVSW` -/

/-- Strands changed one after another, each once. -/
theorem foldl_setStrand (ks : List Nat) (h : ks.Nodup) (f : Nat → Strand → Strand) (t : Team) :
    ks.foldl (fun t k => t.setStrand k (f k)) t = { t with strands := t.strands.mapIdx (fun k x => if k ∈ ks then f k x else x) } := by
  induction ks generalizing t with
  | nil => simp [List.mapIdx_eq_ofFn]
  | cons k ks ih =>
    obtain ⟨new, rest⟩ := List.nodup_cons.mp h
    rw [List.foldl_cons, ih rest]
    simp only [Team.setStrand, upd, Team.mk.injEq, true_and, and_true]
    apply List.ext_getElem?
    intro j
    rw [List.getElem?_mapIdx, List.getElem?_mapIdx, List.getElem?_modify]
    by_cases same : k = j
    · subst same
      cases t.strands[k]? <;> simp [new]
    · have other : ¬ j = k := fun e => same e.symm
      cases t.strands[j]? <;> simp [same, other]

/-- `MOVSW` reads its source a. -/
theorem movsw_source (a : Alu) : a.va.toNat ∈ srcRegs (.movsw a) :=
  (srcRegs_alu (.movsw a) 0x381 a _ rfl rfl _).1 (by simp [RU.regs, RU.r])

/-- The strands that read it: the leader alone, but for `%nsr` (R246). -/
theorem reads_movsw (t : Team) (a : Alu) :
    t.reads (.movsw a) = if (srcField a.b).toNat ≠ 0x20 then (t.active (.movsw a)).take 1 else t.active (.movsw a) := by
  rw [reads_eq t _ (by rw [ownReads, opcOf_movsw]; rfl)]
  simp [leaderReads]

theorem ofNat_toNat_low (n : Nat) (v : Word) : BitVec.ofNat n v.toNat = v.extractLsb' 0 n := by
  apply BitVec.eq_of_toNat_eq
  simp

/-- `%nsr` takes the low byte of each active strand's register (R65). -/
theorem movsw_nsr {a : Alu} (r : Ready (.movsw a) s t) (sel : (srcField a.b).toNat = 0x20) :
    Completes (.movsw a) s t { t with strands := t.strands.mapIdx (fun k x =>
      if k ∈ t.active (.movsw a) then { x with nsr := (t.val k a.va.toNat).extractLsb' 0 8 } else x) } s := by
  have read : V.all ((t.active (.movsw a)).map (fun k => (Run.reg ⟨s, t, .movsw a, t.active (.movsw a)⟩ k a.va).map (fun x => (k, x)))) =
      .ok ((t.active (.movsw a)).map (fun k => (k, t.val k a.va.toNat))) :=
    V.all_ok _ _ _ (fun k hk => by rw [r.reg (by rw [reads_movsw, if_neg (by simp [sel])]; exact hk) (movsw_source a)]; rfl)
  unfold Completes
  rw [exec_movsw]
  unfold execMovsw
  refine r.seq (isControl_movsw a) rfl rfl _ (Done.seq (s.putTeam _)) _ s ?_ rfl rfl rfl rfl rfl ⟨t, r.self⟩ rfl rfl rfl rfl rfl r.running rfl
  simp only [sel, read, V.res_ok, List.foldl_map, Run.put, ofNat_toNat_low]
  rw [foldl_setStrand _ (active_nodup t _) (fun k y => { y with nsr := (t.val k a.va.toNat).extractLsb' 0 8 })]

/-- A team name is written by the leader alone (R246): without one nothing is written. -/
theorem movswTeam_idle {a : Alu} (idle : t.active (.movsw a) = []) (f : Word → Res) :
    movswTeam a ⟨s, t, .movsw a, t.active (.movsw a)⟩ f = .done { Done.seq s with reads := some [] } := by
  unfold movswTeam withActive Run.lead
  rw [idle]
  rfl

/-- With a leader, the leader's value is written. -/
theorem movswTeam_leader {a : Alu} (r : Ready (.movsw a) s t) (own : (srcField a.b).toNat ≠ 0x20) {l : Nat}
    (lead : (t.active (.movsw a)).head? = some l) (f : Word → Res) : movswTeam a ⟨s, t, .movsw a, t.active (.movsw a)⟩ f = f (t.val l a.va.toNat) := by
  have read : l ∈ t.reads (.movsw a) := by
    rw [reads_movsw, if_pos own, List.take_one, lead]
    exact List.mem_singleton.mpr rfl
  unfold movswTeam withActive Run.lead
  simp only [lead, r.reg read (movsw_source a), V.res_ok]

/-- Without an active strand nothing is written (R246). -/
theorem movsw_idle {a : Alu} (r : Ready (.movsw a) s t) (sel : (srcField a.b).toNat = 0x21 ∨ (srcField a.b).toNat = 0x2a)
    (idle : t.active (.movsw a) = []) : Completes (.movsw a) s t t s := by
  unfold Completes
  rw [exec_movsw]
  unfold execMovsw
  refine r.seqIn (isControl_movsw a) rfl rfl _ { Done.seq s with reads := some [] } _ ?_ rfl rfl rfl rfl r.self rfl rfl rfl rfl r.running rfl
  obtain sel | sel := sel <;> simp only [sel, movswTeam_idle idle]

/-- `%mism` takes the leader's value (R67). -/
theorem movsw_mism {a : Alu} (r : Ready (.movsw a) s t) (sel : (srcField a.b).toNat = 0x2a) {l : Nat} (lead : (t.active (.movsw a)).head? = some l) :
    Completes (.movsw a) s t { t with mism := t.val l a.va.toNat } s := by
  unfold Completes
  rw [exec_movsw]
  unfold execMovsw
  refine r.seq (isControl_movsw a) rfl rfl _ { Done.seq (s.putTeam _) with reads := leadRead ⟨s, t, .movsw a, t.active (.movsw a)⟩ a.va } _ s
    ?_ rfl rfl rfl rfl rfl ⟨t, r.self⟩ rfl rfl rfl rfl rfl r.running rfl
  simp only [sel, movswTeam_leader r (by omega) lead]
  rfl

/-- `%tctl` takes the leader's value where the reserved bits hold 0 (R66). -/
theorem movsw_tctl {a : Alu} (r : Ready (.movsw a) s t) (sel : (srcField a.b).toNat = 0x21) {l : Nat} (lead : (t.active (.movsw a)).head? = some l)
    (fits : (t.val l a.va.toNat).toNat < 64) : Completes (.movsw a) s t { t with tctl := t.val l a.va.toNat } s := by
  unfold Completes
  rw [exec_movsw]
  unfold execMovsw
  refine r.seq (isControl_movsw a) rfl rfl _ { Done.seq (s.putTeam _) with reads := leadRead ⟨s, t, .movsw a, t.active (.movsw a)⟩ a.va } _ s
    ?_ rfl rfl rfl rfl rfl ⟨t, r.self⟩ rfl rfl rfl rfl rfl r.running rfl
  simp only [sel, movswTeam_leader r (by omega) lead]
  rw [if_neg (by omega)]
  rfl

/-- A reserved bit in `%tctl` faults (R66). -/
theorem movsw_fault {a : Alu} (r : Ready (.movsw a) s t) (sel : (srcField a.b).toNat = 0x21) {l : Nat} (lead : (t.active (.movsw a)).head? = some l)
    (wide : 64 ≤ (t.val l a.va.toNat).toNat) : Faults (.movsw a) s t trapIllegal := by
  unfold Faults
  rw [exec_movsw]
  unfold execMovsw
  rw [r.runs rfl]
  simp only [sel, movswTeam_leader r (by omega) lead]
  rw [if_pos wide, finish_trap]

/-- At user level the signature names may not be written (R63). -/
theorem movsw_priv {a : Alu} (r : Ready (.movsw a) s t) (sel : (srcField a.b).toNat ∈ [0x28, 0x29]) (user : s.isSup t = false) :
    Faults (.movsw a) s t trapIllegal := by
  have user' : Run.sup ⟨s, t, .movsw a, t.active (.movsw a)⟩ = false := user
  unfold Faults
  rw [exec_movsw]
  unfold execMovsw
  rw [r.runs rfl]
  simp only [List.mem_cons, List.not_mem_nil, or_false] at sel
  obtain sel | sel := sel <;> simp only [sel, user', Bool.not_false, if_true, finish_trap]

theorem movsw_length {a : Alu} (r : Ready (.movsw a) s t) : byteLength (.movsw a) = 8 := by
  obtain ⟨-, x, reg⟩ := movsw_wellFormed r.wf
  have fields : toRaw (.movsw a) = some (rawAlu 0x381 a) := rfl
  unfold byteLength
  simp only [fields, rawAlu, reg]
  rfl

/-- What a supervisor's write of a signature half comes to, where the body of the instruction does that (R134). -/
theorem movsw_half {a : Alu} (r : Ready (.movsw a) s t) (body : Run → Res) (u : Team) (kg kd : Bool) (sigs sigd : BitVec 16)
    (reads : Option (List (Nat × Nat)))
    (half : u = { t with sigs := u.sigs, sigd := u.sigd })
    (hb : body ⟨s, t, .movsw a, t.active (.movsw a)⟩ = .done { Done.seq (s.putTeam u) with keepSigs := kg, keepSigd := kd, reads := reads })
    (hg : sigs = if kg then u.sigs else sigsFold (sigsAt t) (lowWord (.movsw a)))
    (hd : sigd = if kd then u.sigd else sigdMask t.sigd (t.active (.movsw a)) t.passes) :
    ∃ s', runI (.movsw a) body s = .next s' ∧ RetiresTo (.movsw a) t t s s' (t.pc + 8) sigs sigd true := by
  obtain ⟨hnd, grp, preq, nreg, yielded, status⟩ : u.hnd = t.hnd ∧ u.grp = t.grp ∧ u.preq = t.preq ∧ u.nreg = t.nreg ∧ u.yielded = t.yielded ∧
      u.status = t.status := by
    rw [half]
    exact ⟨rfl, rfl, rfl, rfl, rfl, rfl⟩
  obtain ⟨s', run, back⟩ := r.done rfl body _ u hb (State.team_putTeam_of r.self hnd) grp preq nreg yielded (by rw [status]; exact r.running) rfl
  have retired := RetiresTo.ofPut hnd back
  rw [isControl_movsw, Ready.sigd_plain rfl, movsw_length r] at retired
  refine ⟨s', run, ?_⟩
  rw [hg, hd]
  rw [half] at retired
  exact retired

/-- A supervisor writes `%sigs`, which stands as written (R67, R134). -/
theorem movsw_sigs {a : Alu} (r : Ready (.movsw a) s t) (sel : (srcField a.b).toNat = 0x28) (sup : s.isSup t = true) {l : Nat}
    (lead : (t.active (.movsw a)).head? = some l) : ∃ s', exec (.movsw a) s = .next s' ∧
      RetiresTo (.movsw a) t t s s' (t.pc + 8) ((t.val l a.va.toNat).extractLsb' 0 16) (sigdMask t.sigd (t.active (.movsw a)) t.passes) true := by
  have sup' : Run.sup ⟨s, t, .movsw a, t.active (.movsw a)⟩ = true := sup
  rw [exec_movsw]
  unfold execMovsw
  refine movsw_half r _ { t with sigs := (t.val l a.va.toNat).extractLsb' 0 16 } true false _ _ (leadRead ⟨s, t, .movsw a, t.active (.movsw a)⟩ a.va) rfl ?_ rfl rfl
  simp only [sel, sup', movswTeam_leader r (by omega) lead, Bool.not_true, Bool.false_eq_true, if_false, ofNat_toNat_low]
  rfl

/-- A supervisor writes `%sigd`, which stands as written (R67, R291). -/
theorem movsw_sigd {a : Alu} (r : Ready (.movsw a) s t) (sel : (srcField a.b).toNat = 0x29) (sup : s.isSup t = true) {l : Nat}
    (lead : (t.active (.movsw a)).head? = some l) : ∃ s', exec (.movsw a) s = .next s' ∧
      RetiresTo (.movsw a) t t s s' (t.pc + 8) (sigsFold (sigsAt t) (lowWord (.movsw a))) ((t.val l a.va.toNat).extractLsb' 0 16) true := by
  have sup' : Run.sup ⟨s, t, .movsw a, t.active (.movsw a)⟩ = true := sup
  rw [exec_movsw]
  unfold execMovsw
  refine movsw_half r _ { t with sigd := (t.val l a.va.toNat).extractLsb' 0 16 } false true _ _ (leadRead ⟨s, t, .movsw a, t.active (.movsw a)⟩ a.va) rfl ?_ rfl rfl
  simp only [sel, sup', movswTeam_leader r (by omega) lead, Bool.not_true, Bool.false_eq_true, if_false, ofNat_toNat_low]
  rfl

theorem selKnown_iff (sel : Nat) : selKnown sel = true ↔ knownName sel := decide_eq_true_iff

/-- Only the names of Table 4-3 have a content. -/
theorem specialOf_unknown {sel : Nat} (unknown : ¬knownName sel) (c : Run) : specialOf c sel = none := by
  rw [← selKnown_iff] at unknown
  unfold specialOf
  split
  case h_16 => exact if_neg fun level => unknown (by unfold selKnown; simp only [List.mem_cons, List.not_mem_nil, or_false, decide_eq_true_eq]; omega)
  all_goals exact absurd (by decide) unknown

/-- Whatever else stands in its way, `MOVS` of no name of Table 4-3, or of a 64-bit name into an odd pair, is illegal (R63, R136). -/
theorem movs_illegal {a : Alu} (turn : s.team s.cur = some t) (issues : canIssue s t = true)
    (wrong : ¬knownName (srcField a.b).toNat ∨ ((srcField a.b).toNat ∈ [0x18, 0x19] ∧ a.vd.toNat % 2 = 1)) : Faults (.movs a) s t trapIllegal := by
  unfold Faults
  rw [exec_movs]
  unfold execMovs
  cases acted : t.rmw with
  | none =>
    have ill : (Instr.movs a).WellFormed = false := by
      by_contra formed
      obtain ⟨known, even⟩ := movs_wellFormed (Bool.eq_true_of_not_eq_false formed)
      obtain unknown | ⟨wide, odd⟩ := wrong
      · exact unknown ((selKnown_iff _).mp known)
      · have := even (decide_eq_true (by simpa using wide))
        omega
    exact runI_illegal turn issues acted (by rw [ill, Bool.not_false, Bool.or_true]) _
  | some x =>
    rw [runI_goesOn turn issues (by rw [acted]; rfl)]
    obtain unknown | ⟨wide, odd⟩ := wrong
    · simp only [specialOf_unknown unknown, finish_trap]
    · simp only [List.mem_cons, List.not_mem_nil, or_false] at wide
      have word : ∀ c : Run, ∃ v, specialOf c (srcField a.b).toNat = some (.word64 v) := by
        obtain sel | sel := wide <;> rw [sel] <;> exact fun c => ⟨_, rfl⟩
      dsimp only [Run.core]
      rw [movs_samples]
      obtain ⟨v, content⟩ := word ⟨movsState s t (t.active (.movs a)) (srcField a.b).toNat, t, .movs a, t.active (.movs a)⟩
      simp only [content, odd, if_true, finish_trap]

/-- Whatever else stands in its way, `MOVSW` to a name that no level may write is illegal (R63, R136). -/
theorem movsw_illegal {a : Alu} (turn : s.team s.cur = some t) (issues : canIssue s t = true)
    (closed : (srcField a.b).toNat ∉ [0x20, 0x21, 0x2a, 0x28, 0x29]) : Faults (.movsw a) s t trapIllegal := by
  unfold Faults
  rw [exec_movsw]
  unfold execMovsw
  cases acted : t.rmw with
  | none =>
    have ill : (Instr.movsw a).WellFormed = false := by
      by_contra formed
      have writable := of_decide_eq_true (movsw_wellFormed (Bool.eq_true_of_not_eq_false formed)).1
      simp only [List.mem_cons, List.not_mem_nil, or_false] at writable closed
      omega
    exact runI_illegal turn issues acted (by rw [ill, Bool.not_false, Bool.or_true]) _
  | some x =>
    rw [runI_goesOn turn issues (by rw [acted]; rfl)]
    dsimp only
    split
    case h_6 => rfl
    all_goals simp_all

/-- Settles O34: each name of Table 4-3 as `MOVS` reads it, and each that `MOVSW` may write. -/
theorem specialState : Obligations.SpecialState := by
  refine ⟨fun a s t r => ⟨fun v plain named => movs_plain r named plain, fun v sel named => ?_, fun low high g l group launch _ => ?_,
      fun sel even => movs_time r sel even, fun sel even => movs_cycles r sel even⟩,
    fun a s t turn issues => ⟨movs_illegal turn issues, movsw_illegal turn issues⟩,
    fun a s t r => ⟨movsw_nsr r, movsw_idle r, fun l lead => ⟨fun sel => movsw_mism r sel lead, fun sel => ?_, fun sup sel => movsw_sigs r sel sup lead,
      fun sup sel => movsw_sigd r sel sup lead⟩, movsw_priv r⟩⟩
  · exact movs_tok r sel (by rw [← sel]; exact named)
  · exact movs_level r low high group launch
  · split
    · next fits => exact movsw_tctl r sel lead fits
    · next wide => exact movsw_fault r sel lead (Nat.le_of_not_lt wide)

end Sys2Proof.Machine
end

section
/-! PROOF. O57 fails: when the reading of an attestation's nonce finds an uncorrectable error, the page of the error is poisoned (R117), and a
completion record on the same page cannot be written any more (R118, R380), as with the launch record of `flawedLaunch`. -/

namespace Sys2Proof.Machine

/-- An attestation of the admin port whose nonce stands at address 256, behind the completion record on the same page; its first byte holds
an error that nobody has found yet. -/
def flawedNonce : State :=
  { flawedLaunch with
    queues := [(2, ⟨QRec.zero, true, 2 ^ 31, 64, 8, 1, [⟨.attest samePageHdr 256 512, samePageHdr, false⟩], false, 0, 0, false⟩)]
    boot := { State.reset.boot with admin := some 8 } }

theorem flawedNonce_mayRun : MayRun flawedNonce samePageHdr (.attest samePageHdr 256 512) :=
  ⟨⟨⟨.attest samePageHdr 256 512, samePageHdr, false⟩, rfl, rfl⟩, .inl rfl, by decide⟩

theorem flawedNonce_owned : Owned flawedNonce :=
  ⟨rfl, ⟨.nil, by simp [flawedNonce, flawedLaunch, State.reset], by simp [flawedNonce, flawedLaunch, State.reset]⟩,
    by simp [Live, flawedNonce, flawedLaunch, State.reset], rfl, by simp [flawedNonce, flawedLaunch, State.reset]⟩

/-- The page allows the completion record when the attestation starts. -/
theorem flawedNonce_writable : WritableAt flawedNonce (cmdCtx flawedNonce samePageHdr) samePageHdr.crec samePageRecord :=
  flawedLaunch_writable

/-- The nonce cannot be read. -/
theorem flawedNonce_bad : (cmdGet samePageHdr 256 32 flawedNonce).2 = .bad := by decide

/-- Nothing of the completion record is written or on its way: its first byte stays 0. -/
theorem flawedNonce_writes_no_record {s' : State} (h : exec (.attest samePageHdr 256 512) flawedNonce = .next s') :
    s'.dwq = [] ∧ s'.throughs = [] ∧ cohByte s' (2 ^ 30 + 64) = 0 := by
  have run : (match exec (.attest samePageHdr 256 512) flawedNonce with
      | .next u => decide (u.dwq = [] ∧ u.throughs = [] ∧ cohByte u (2 ^ 30 + 64) = 0)
      | _ => false) = true := by decide
  rw [h] at run
  exact of_decide_eq_true run

/-- Refutes O57: its clause for ATTEST promises the completion record with status 0x08 wherever the page allows it before the nonce is read.
In `flawedNonce` that reading poisons the page first, and no record is written. -/
theorem not_managementFunctions : ¬ Obligations.ManagementFunctions := by
  rintro ⟨-, -, -, -, -, -, attest, -⟩
  obtain ⟨-, asked⟩ := attest samePageHdr 256 512 flawedNonce flawedNonce_mayRun
  obtain ⟨s', hrun, -, bad, -⟩ := asked rfl
  obtain ⟨⟨-, -, record⟩, -⟩ := bad flawedNonce_bad
  obtain ⟨-, reaches⟩ := record (by decide) flawedNonce_owned samePageRecord (by decide) flawedNonce_writable
  obtain ⟨hw, ht, hbyte⟩ := flawedNonce_writes_no_record hrun
  have status : cohByte s' (2 ^ 30 + 64) = 8 := (reaches 0 (by decide)).cohByte_eq hw ht
  exact absurd (hbyte.symm.trans status) (by decide)

end Sys2Proof.Machine
end

section
/-! PROOF. O50 fails: a teardown makes the late writes of the teams it discards (R293, R300), and a home that has left their die behind
drops and logs each such message (R339), beside the record of the containment. -/

namespace Sys2Proof.Machine

/-- A team of core 48, which is on die 1, with a released store to a software-managed page, of which a byte has not performed yet. -/
def lateStorer : Team :=
  { startTeam 48 0 0 1 32 0 0 0 bareCtx 0 0 0 false with rel := [⟨0, [2 ^ 30], [(.mem (2 ^ 30) managedPage, 7)]⟩] }
/-- The homes have counted die 1 an epoch further than it counts itself; die 0, through which the device writes, they know. -/
def staleDie : State :=
  { State.reset with
    teams := [lateStorer]
    groups := [{ lastGroup with core := 48 }]
    ctxs := [(0, ⟨bareCtx, [], [], [], [0]⟩)]
    epochs := [(1, 1)] }

/-- The containment of queue 1 enters two records. -/
theorem staleDie_logs_twice {s' : State} (h : exec (.hwErrorContainment 48 0 (some 1)) staleDie = .next s') : s'.rasSeq = staleDie.rasSeq + 2 := by
  have run : (match exec (.hwErrorContainment 48 0 (some 1)) staleDie with
      | .next u => decide (u.rasSeq = staleDie.rasSeq + 2)
      | _ => false) = true := by decide
  rw [h] at run
  exact of_decide_eq_true run

/-- Refutes O50: its clause for the containment of a queue's error promises one record where the homes know the die that the device writes
through. In `staleDie` the queue's team is on another die, whose late write is dropped with a record of its own. -/
theorem not_memorySideSteps : ¬ Obligations.MemorySideSteps := by
  rintro ⟨-, -, -, -, -, -, contained, -⟩
  obtain ⟨s', hrun, -, -, once⟩ := contained 48 0 1 staleDie
  have one : s'.rasSeq = staleDie.rasSeq + 1 := once rfl
  have two := staleDie_logs_twice hrun
  omega

end Sys2Proof.Machine
end

section
/-! PROOF. O38: what stops an instruction of a team before its effect. Every instruction of a team is executed by `runI` with a body of its
own, and `runI` makes the tests in their order; where several tests find a fault, the order of R342 says which of them is reported. -/

namespace Sys2Proof.Machine

variable {i : Instr} {s : State} {t : Team}

/-! ## The order of faults (R342) -/

/-- What R342 compares of two faults, in order. -/
def Trap.rank (x : Trap) : Nat ×ₗ Nat ×ₗ Nat ×ₗ Nat :=
  toLex (x.prio, toLex (match x.rstr with | none => 0 | some k => k + 1, toLex (x.addr.toNat, x.cause)))

/-- `Trap.le` is the linear order of the ranks. -/
theorem Trap.le_iff_rank {x y : Trap} : x.le y = true ↔ x.rank ≤ y.rank := by
  simp only [Trap.le, Trap.rank, Prod.Lex.toLex_le_toLex, Bool.or_eq_true, Bool.and_eq_true, decide_eq_true_eq, beq_iff_eq] <;> rfl

theorem Trap.le_refl (x : Trap) : x.le x = true := Trap.le_iff_rank.mpr le_rfl
theorem Trap.le_trans {x y z : Trap} (first : x.le y = true) (second : y.le z = true) : x.le z = true :=
  Trap.le_iff_rank.mpr ((Trap.le_iff_rank.mp first).trans (Trap.le_iff_rank.mp second))
theorem Trap.le_of_not {x y : Trap} (not : x.le y ≠ true) : y.le x = true := by
  rw [ne_eq, Trap.le_iff_rank, not_le] at not
  exact Trap.le_iff_rank.mpr not.le

/-- Of two faults the one reported is no later than either. -/
theorem Trap.first_le (x y : Trap) : (if x.le y then x else y).le x = true ∧ (if x.le y then x else y).le y = true := by
  by_cases before : x.le y = true
  · rw [if_pos before]
    exact ⟨x.le_refl, before⟩
  · rw [if_neg before]
    exact ⟨Trap.le_of_not before, y.le_refl⟩

/-! ## Tests that fail -/

/-- A test finds a fault that is reported no later than `u`. -/
def V.Raises {α : Type} (v : V α) (u : Trap) : Prop := ∃ tr, v = .bad tr ∧ tr.le u = true

variable {α β : Type} {u : Trap}

/-- The fault stays when the result is changed. -/
theorem V.Raises.map {v : V α} (h : v.Raises u) (f : α → β) : (v.map f).Raises u := by
  obtain ⟨tr, rfl, le⟩ := h
  exact ⟨tr, rfl, le⟩

/-- A second test can only bring the report forward. -/
theorem V.Raises.both_left {v : V α} (h : v.Raises u) (w : V β) : (V.both v w).Raises u := by
  obtain ⟨tr, rfl, le⟩ := h
  cases w with
  | ok b => exact ⟨tr, rfl, le⟩
  | bad x => exact ⟨_, rfl, Trap.le_trans (Trap.first_le tr x).1 le⟩

theorem V.Raises.both_right {w : V β} (h : w.Raises u) (v : V α) : (V.both v w).Raises u := by
  obtain ⟨tr, rfl, le⟩ := h
  cases v with
  | ok a => exact ⟨tr, rfl, le⟩
  | bad x => exact ⟨_, rfl, Trap.le_trans (Trap.first_le x tr).2 le⟩

/-- Of a list of tests, each is made. -/
theorem V.Raises.all {vs : List (V α)} {v : V α} (h : v.Raises u) (mem : v ∈ vs) : (V.all vs).Raises u := by
  induction vs with
  | nil => cases mem
  | cons x xs ih =>
    obtain rfl | later := List.mem_cons.mp mem
    · exact (h.both_left _).map _
    · exact ((ih later).both_right _).map _

/-- A test whose condition fails. -/
theorem V.raises_test {c : Bool} (fails : c = false) (x : Trap) : (V.test c x).Raises x := ⟨x, by rw [fails]; rfl, x.le_refl⟩

/-- Whatever the body comes to, a failed test beside it is reported. -/
theorem V.Raises.also {v : V Unit} (h : v.Raises u) (r : Res) : ∃ tr, r.also v = .trap tr ∧ tr.le u = true := by
  obtain ⟨x, rfl, le⟩ := h
  cases r with
  | trap y => exact ⟨_, rfl, Trap.le_trans (Trap.first_le x y).1 le⟩
  | done d => exact ⟨x, rfl, le⟩
  | hold s => exact ⟨x, rfl, le⟩
  | soft y => exact ⟨x, rfl, le⟩

/-! ## The tests of `runI` -/

/-- A register field at or beyond N (R58). -/
theorem fieldTests_bound (beyond : ∃ r ∈ namedRegs i, t.nreg ≤ r) : (fieldTests t i).Raises (trapBound none) := by
  obtain ⟨r, named, le⟩ := beyond
  have fails : ((namedRegs i).all (fun r => decide (r < t.nreg))) = false :=
    List.all_eq_false.mpr ⟨r, named, by simpa using le⟩
  exact ((V.raises_test fails _).both_left _).map _

/-- A locked register (R221). -/
theorem fieldTests_hazard (locked : ∃ r ∈ namedRegs i, r ∈ t.lock) (other : ∀ a, i ≠ .mmawait a) : (fieldTests t i).Raises (trapHazard none) := by
  obtain ⟨r, named, mem⟩ := locked
  have wait : isMmawait i = false := by
    unfold isMmawait
    split
    · exact absurd rfl (other _)
    · rfl
  have fails : (isMmawait i || (namedRegs i).all (fun r => !t.lock.contains r)) = false := by
    rw [wait, Bool.false_or]
    exact List.all_eq_false.mpr ⟨r, named, by simpa using mem⟩
  exact ((V.raises_test fails _).both_right _).map _

/-- A guard register that is poisoned in a strand (R61). -/
theorem guardOk_poison {g : BitVec 7} {k : Nat} (named : g.toNat % 64 < 63) (below : g.toNat % 64 < t.nreg)
    (poisoned : ¬t.clean k (g.toNat % 64)) : (guardOk t g k).Raises (trapRegPoison (some k)) := by
  refine ⟨_, ?_, Trap.le_refl _⟩
  have mark : ((t.strand k).reg (g.toNat % 64)).psn = true := Bool.eq_true_of_not_eq_false poisoned
  unfold guardOk
  rw [if_neg named.ne, if_neg (not_le.mpr below)]
  exact if_pos mark

/-- A poisoned guard register of an enabled strand, in either guard field (R126, R61). -/
theorem guardFaults_poison {h : Hdr} {k : Nat} (enabled : k ∈ t.enabled) (poisoned : ∃ r ∈ guardRegs h, r < t.nreg ∧ ¬t.clean k r) :
    (guardFaults t h).Raises (trapRegPoison (some k)) := by
  obtain ⟨r, named, below, unclean⟩ := poisoned
  have strand : (guardsOk t h k).Raises (trapRegPoison (some k)) := by
    simp only [guardRegs, List.mem_filter, List.mem_map, List.mem_cons, List.not_mem_nil, or_false, decide_eq_true_eq] at named
    obtain ⟨⟨g, rfl | rfl, rfl⟩, field⟩ := named
    · exact ((guardOk_poison field below unclean).both_left _).map _
    · exact ((guardOk_poison field below unclean).both_right _).map _
  exact (strand.all (List.mem_map.mpr ⟨k, enabled, rfl⟩)).map _

/-- The tests made beside the body. -/
def issueTests (t : Team) (i : Instr) : V (Unit × Unit × Unit) :=
  V.both (fieldTests t i) (V.both (guardFaults t (hdrF i)) (V.test (!sigDiffers t i) trapSig))

/-! ## `runI`, test by test -/

/-- The second test: the privilege (R244). -/
theorem runI_priv (turn : s.team s.cur = some t) (issues : canIssue s t = true) (fresh : t.rmw = none)
    (formed : (isIllegal i || !i.WellFormed) = false) (low : (isPriv i && !s.isSup t) = true) (body : Run → Res) :
    runI i body s = .next (takeTrap (noteStart s t) t trapPriv (t.active i) false i) := by
  unfold runI
  simp only [turn, issues, fresh, formed, low]
  rfl

/-- The third: a register that a reply is owed to (R129). -/
theorem runI_waits (turn : s.team s.cur = some t) (issues : canIssue s t = true) (fresh : t.rmw = none)
    (formed : (isIllegal i || !i.WellFormed) = false) (level : (isPriv i && !s.isSup t) = false) (owed : waitsReply t i = true)
    (body : Run → Res) : runI i body s = .next (finish ⟨s, t, i, t.active i⟩ (.hold s)) := by
  unfold runI
  simp only [turn, issues, fresh, formed, level, owed]
  rfl

/-- The fourth: the signature, outside checked-only mode (R134, R286, R287). -/
theorem runI_differs (turn : s.team s.cur = some t) (issues : canIssue s t = true) (fresh : t.rmw = none)
    (formed : (isIllegal i || !i.WellFormed) = false) (level : (isPriv i && !s.isSup t) = false) (replied : waitsReply t i = false)
    (differs : (sigDiffers t i && t.chk.isNone) = true) (body : Run → Res) :
    runI i body s = .next (dropClaims (noteStart (s.putTeam t.mismatch) t) t.hnd) := by
  unfold runI
  simp only [turn, issues, fresh, formed, level, replied, differs]
  rfl

/-- The others are made together, and beside the body (R342). -/
theorem runI_tests (turn : s.team s.cur = some t) (issues : canIssue s t = true) (fresh : t.rmw = none)
    (formed : (isIllegal i || !i.WellFormed) = false) (level : (isPriv i && !s.isSup t) = false) (replied : waitsReply t i = false)
    (same : (sigDiffers t i && t.chk.isNone) = false) (body : Run → Res) :
    runI i body s = .next (finish ⟨s, t, i, t.active i⟩ ((body ⟨s, t, i, t.active i⟩).also ((issueTests t i).map (fun _ => ())))) := by
  unfold runI
  simp only [turn, issues, fresh, formed, level, replied, same]
  rfl

/-! ## Every instruction of a team runs by `runI` -/

/-- But for `MMA`, which first asks for a token (R224). -/
theorem exec_eq_runI (team : ofTeam i) (other : ∀ a, i ≠ .mma a) : ∃ body, ∀ s, exec i s = runI i body s := by
  unfold exec
  cases i
  case mma a => exact absurd rfl (other a)
  -- A step of the device is no instruction of a team.
  all_goals try exact absurd team Bool.false_ne_true
  all_goals dsimp only; exact ⟨_, fun _ => rfl⟩

/-- `MMA` asks for no token where its words are ill-formed or its core holds one. -/
theorem wantsMma_none {a : MmaF} (turn : s.team s.cur = some t) (settled : (Instr.mma a).WellFormed = false ∨ (s.core t.core).tok = true) :
    wantsMma a s = none := by
  unfold wantsMma
  rw [turn]
  obtain settled | settled := settled <;> simp [settled]

/-- Every instruction of a team, an `MMA` that asks for no token. -/
theorem exec_runs (turn : s.team s.cur = some t) (team : ofTeam i) (settled : (∃ a, i = .mma a) → i.WellFormed = false ∨ (s.core t.core).tok = true) :
    ∃ body, exec i s = runI i body s := by
  by_cases mma : ∃ a, i = .mma a
  · have settled := settled mma
    obtain ⟨a, rfl⟩ := mma
    have run : exec (.mma a) s = execMma a s := rfl
    rw [run]
    unfold execMma
    rw [wantsMma_none turn settled]
    exact ⟨_, rfl⟩
  · obtain ⟨body, run⟩ := exec_eq_runI team (fun a h => mma ⟨a, h⟩)
    exact ⟨body, run s⟩

/-! ## The clauses of O38 -/

/-- What the model does of a mismatch is what R67, R286 and R287 say. -/
theorem mismatch_eq_differed (t : Team) : t.mismatch = differed t := by
  have full (l : List Bool) : (l.filter id).length = l.count true := by
    rw [List.count, List.countP_eq_length_filter]
    exact congrArg List.length (List.filter_congr fun b _ => by simp)
  have held : (if t.mism = 0xffffffff then t.mism else t.mism + 1) = if t.mism = 0xffffffff then 0xffffffff else t.mism + 1 :=
    if_ctx_congr Iff.rfl id fun _ => rfl
  unfold Team.mismatch differed Team.withSeq Team.mismUp
  simp only [full, held, and_comm, ge_iff_le]

/-- A well-formed instruction is not the illegal encoding unless it is named so. -/
theorem isIllegal_or_malformed {i : Instr} (wf : i.WellFormed = true) (known : ∀ w, i ≠ .illegal w) : (isIllegal i || !i.WellFormed) = false := by
  rw [wf, Bool.not_true, Bool.or_false]
  unfold isIllegal
  split
  · exact absurd rfl (known _)
  · rfl

/-- No privileged instruction is the illegal encoding, or `MMA`. -/
theorem isPriv_named (priv : isPriv i = true) : (∀ w, i ≠ .illegal w) ∧ ¬∃ a, i = .mma a := by
  refine ⟨?_, ?_⟩
  · rintro w rfl
    cases priv
  · rintro ⟨a, rfl⟩
    cases priv

/-- The privilege fault (R244). -/
theorem priv_faults (turn : s.team s.cur = some t) (team : ofTeam i) (issues : canIssue s t = true) (fresh : t.rmw = none)
    (wf : i.WellFormed = true) (priv : isPriv i = true) (user : s.isSup t = false) : Faults i s t trapPriv := by
  obtain ⟨known, other⟩ := isPriv_named priv
  obtain ⟨body, run⟩ := exec_runs turn team (fun mma => absurd mma other)
  exact run.trans (runI_priv turn issues fresh (isIllegal_or_malformed wf known) (by rw [priv, user]; rfl) body)

/-- What stands before the tests of an instruction that are left. -/
structure Tested (i : Instr) (s : State) (t : Team) : Prop where
  turn : s.team s.cur = some t
  issues : canIssue s t = true
  fresh : t.rmw = none
  formed : (isIllegal i || !i.WellFormed) = false
  level : (isPriv i && !s.isSup t) = false
  runs : ∃ body, exec i s = runI i body s

theorem waitsReply_iff : waitsReply t i = true ↔ ∃ r ∈ namedRegs i, r ∈ t.pend := by
  simp [waitsReply]

/-- A register that a reply is owed to (R129). -/
theorem Tested.waits (h : Tested i s t) (owed : ∃ r ∈ namedRegs i, r ∈ t.pend) : Waits i s t id s := by
  obtain ⟨body, run⟩ := h.runs
  exact run.trans (runI_waits h.turn h.issues h.fresh h.formed h.level (waitsReply_iff.mpr owed) body)

theorem waitsReply_eq_false (owed : ∀ r ∈ namedRegs i, r ∉ t.pend) : waitsReply t i = false := by
  rw [Bool.eq_false_iff, ne_eq, waitsReply_iff]
  rintro ⟨r, named, mem⟩
  exact owed r named mem

/-- A signature that differs outside checked-only mode (R134, R286, R287). -/
theorem Tested.differs (h : Tested i s t) (owed : ∀ r ∈ namedRegs i, r ∉ t.pend) (differs : sigDiffers t i = true) (mode : t.chk = none) :
    exec i s = .next (dropClaims (noteStart (s.putTeam (differed t)) t) t.hnd) := by
  obtain ⟨body, run⟩ := h.runs
  rw [run, ← mismatch_eq_differed]
  exact runI_differs h.turn h.issues h.fresh h.formed h.level (waitsReply_eq_false owed) (by rw [differs, mode]; rfl) body

/-- Any fault that the tests find comes to a fault of the instruction, the first of all that are found (R342). -/
theorem Tested.faults (h : Tested i s t) (owed : ∀ r ∈ namedRegs i, r ∉ t.pend) (goes : sigDiffers t i = false ∨ t.chk ≠ none) {u : Trap}
    (raises : (issueTests t i).Raises u) : ∃ tr, Faults i s t tr ∧ tr.le u = true := by
  obtain ⟨body, run⟩ := h.runs
  have same : (sigDiffers t i && t.chk.isNone) = false := by
    obtain same | mode := goes
    · rw [same, Bool.false_and]
    · rw [Option.isNone_eq_false_iff.mpr (Option.isSome_iff_ne_none.mpr mode), Bool.and_false]
  obtain ⟨tr, outcome, le⟩ := (raises.map (fun _ => ())).also (body ⟨s, t, i, t.active i⟩)
  refine ⟨tr, ?_, le⟩
  unfold Faults
  rw [run, runI_tests h.turn h.issues h.fresh h.formed h.level (waitsReply_eq_false owed) same, outcome, finish_trap]

/-- Settles O38: the tests of `runI` in their order, and the order of faults. -/
theorem whatStopsAnInstruction : Obligations.WhatStopsAnInstruction := by
  intro i s t team turn issues fresh
  refine ⟨fun ill => ?_, fun wf priv user => priv_faults turn team issues fresh wf priv user, fun wf level known token => ?_⟩
  · obtain ⟨body, run⟩ := exec_runs turn team (fun _ => .inl ill)
    exact run.trans (runI_illegal turn issues fresh (by rw [ill, Bool.not_false, Bool.or_true]) body)
  · have tested : Tested i s t := ⟨turn, issues, fresh, isIllegal_or_malformed wf known, by
      cases priv : isPriv i
      · rfl
      · rw [level priv]; rfl, exec_runs turn team (fun mma => .inr (token mma))⟩
    refine ⟨tested.waits, fun owed => ⟨tested.differs owed, fun differs mode => tested.faults owed (.inr mode) ?_, fun goes => ⟨fun beyond => ?_,
      fun locked other => ?_, fun k enabled poisoned => ?_⟩⟩⟩
    · exact ((V.raises_test (by rw [differs]; rfl) _).both_right _).both_right _
    · exact tested.faults owed goes ((fieldTests_bound beyond).both_left _)
    · exact tested.faults owed goes ((fieldTests_hazard locked other).both_left _)
    · exact tested.faults owed goes (((guardFaults_poison enabled poisoned).both_left _).both_right _)

end Sys2Proof.Machine
end

section
/-! PROOF. O16: `pair_tree` (R91). A round keeps the fold of the entries present, and the rounds come to their end within the fuel. -/

namespace Sys2Proof.Machine

theorem pairUp_cons_cons (op : Nat → Nat → Nat) (a b : Option Nat) (r : List (Option Nat)) :
    pairUp op (a :: b :: r) = combined op a b :: pairUp op r := by
  cases a <;> cases b <;> rfl

theorem pairUp_length (op : Nat → Nat → Nat) (l : List (Option Nat)) : (pairUp op l).length = (l.length + 1) / 2 := by
  induction l using pairUp.induct with
  | case1 => rfl
  | case2 x => simp [pairUp]
  | case3 a b r ih => rw [pairUp_cons_cons, List.length_cons, ih, List.length_cons, List.length_cons]; omega

/-- One round, entry by entry. -/
theorem pairUp_eq_map (op : Nat → Nat → Nat) (l : List (Option Nat)) :
    pairUp op l = (List.range ((l.length + 1) / 2)).map (fun i =>
      if 2 * i + 1 < l.length then combined op (nth none l (2 * i)) (nth none l (2 * i + 1)) else nth none l (2 * i)) := by
  induction l using pairUp.induct with
  | case1 => rfl
  | case2 x => simp [pairUp, nth]
  | case3 a b r ih =>
    have half : ((a :: b :: r).length + 1) / 2 = (r.length + 1) / 2 + 1 := by rw [List.length_cons, List.length_cons]; omega
    rw [pairUp_cons_cons, ih, half, List.range_succ_eq_map, List.map_cons, List.map_map]
    congr 1
    refine List.map_congr_left fun i _ => ?_
    have inside : 2 * i + 1 < r.length ↔ 2 * i.succ + 1 < (a :: b :: r).length := by rw [List.length_cons, List.length_cons]; omega
    simp only [inside]
    rfl

/-- Any fuel from the length on gives the same result. -/
theorem pairLoop_fuel (op : Nat → Nat → Nat) (n m : Nat) (l : List (Option Nat)) (hn : l.length ≤ n) (hm : l.length ≤ m) :
    pairLoop op n l = pairLoop op m l := by
  induction n generalizing m l with
  | zero => obtain rfl := List.length_eq_zero_iff.mp (Nat.le_zero.mp hn); cases m <;> rfl
  | succ n ih =>
    match l, m with
    | [], m => cases m <;> rfl
    | [x], m + 1 => rfl
    | a :: b :: r, m + 1 =>
      have shorter := pairUp_length op (a :: b :: r)
      rw [List.length_cons, List.length_cons] at hn hm shorter
      exact ih m _ (by omega) (by omega)

theorem pairTree_eq (op : Nat → Nat → Nat) (l : List (Option Nat)) :
    pairTree op l = if l.length ≤ 1 then nth none l 0 else pairTree op (pairUp op l) := by
  match l with
  | [] => rfl
  | [x] => rfl
  | a :: b :: r =>
    have shorter := pairUp_length op (a :: b :: r)
    rw [List.length_cons, List.length_cons] at shorter
    rw [if_neg (by rw [List.length_cons, List.length_cons]; omega)]
    exact pairLoop_fuel op _ _ (pairUp op (a :: b :: r)) (by rw [List.length_cons, List.length_cons]; omega) (Nat.le_succ _)

section
variable {op : Nat → Nat → Nat} (assoc : ∀ x y z, op (op x y) z = op x (op y z))
include assoc

theorem combined_assoc (a b c : Option Nat) : combined op (combined op a b) c = combined op a (combined op b c) := by
  match a, b, c with
  | none, _, _ => rfl
  | some _, none, _ => rfl
  | some _, some _, none => rfl
  | some x, some y, some z => exact congrArg some (assoc x y z)

theorem foldr_combined_pairUp (l : List (Option Nat)) : (pairUp op l).foldr (combined op) none = l.foldr (combined op) none := by
  induction l using pairUp.induct with
  | case1 => rfl
  | case2 => rfl
  | case3 a b r ih => rw [pairUp_cons_cons, List.foldr_cons, ih, combined_assoc assoc]; rfl

theorem pairLoop_eq_foldr (n : Nat) (l : List (Option Nat)) (hn : l.length ≤ n) :
    pairLoop op n l = l.foldr (combined op) none := by
  induction n generalizing l with
  | zero => obtain rfl := List.length_eq_zero_iff.mp (Nat.le_zero.mp hn); rfl
  | succ n ih =>
    match l with
    | [] => rfl
    | [x] => cases x <;> rfl
    | a :: b :: r =>
      have shorter := pairUp_length op (a :: b :: r)
      rw [List.length_cons, List.length_cons] at hn shorter
      exact (ih _ (by omega)).trans (foldr_combined_pairUp assoc _)

/-- Combining all entries is the fold of those present, in their order. -/
theorem foldr_combined (l : List (Option Nat)) :
    l.foldr (combined op) none = (match l.filterMap id with
      | [] => none
      | x :: xs => some (xs.foldl op x)) := by
  have : Std.Associative op := ⟨assoc⟩
  induction l with
  | nil => rfl
  | cons a l ih =>
    cases a with
    | none => exact ih
    | some x =>
      rw [List.foldr_cons, ih, List.filterMap_cons_some (f := id) (a := some x) rfl]
      cases l.filterMap id with
      | nil => rfl
      | cons y ys => exact congrArg some List.foldl_assoc.symm

end

/-- Settles O16: `pairTree_eq` with the round of `pairUp_eq_map`, and the fold that every round keeps. -/
theorem pairTree_by_rounds_and_fold : Obligations.PairTree := by
  refine ⟨fun op l => ?_, fun op assoc l => ?_⟩
  · rw [← pairUp_eq_map]
    exact pairTree_eq op l
  · exact (pairLoop_eq_foldr assoc _ l (Nat.le_succ _)).trans (foldr_combined assoc l)

end Sys2Proof.Machine
end

section
/-! SUPPORT. Finite values as rational numbers. A finite value is a whole number of units 2^e0, for any e0 at most its exponent. -/

namespace Sys2Proof.Machine

theorem FV.exists_of_isFin {x : FV} (h : x.isFin = true) : ∃ neg m e, x = .fin neg m e := by
  cases x with
  | fin neg m e => exact ⟨neg, m, e, rfl⟩
  | nan | inf => cases h

@[simp] theorem FV.rat_zero (neg : Bool) (e : Int) : (FV.fin neg 0 e).rat = 0 := by simp [FV.rat]

/-- A signed whole number of units. -/
theorem FV.rat_ofInt (v e : Int) : (FV.fin (decide (v < 0)) v.natAbs e).rat = v * 2 ^ e := by
  have magnitude : ((v.natAbs : ℕ) : ℚ) = |(v : ℚ)| := by rw [Nat.cast_natAbs, Int.cast_abs]
  obtain neg | pos := lt_or_ge v 0
  · simp [FV.rat, magnitude, neg, abs_of_neg (Int.cast_lt_zero.mpr neg)]
  · simp [FV.rat, magnitude, not_lt.mpr pos, abs_of_nonneg (Int.cast_nonneg pos)]

/-- The scaled significand counts the units of 2^e0 in a value. -/
theorem FV.rat_eq_scaled {neg : Bool} {m : Nat} {e e0 : Int} (h : m ≠ 0 → e0 ≤ e) :
    (FV.fin neg m e).rat = (FV.scaled e0 (.fin neg m e) : ℚ) * 2 ^ e0 := by
  obtain rfl | pos := Nat.eq_zero_or_pos m
  · cases neg <;> simp [FV.scaled]
  · have units : (2 : ℚ) ^ (e - e0).toNat * 2 ^ e0 = 2 ^ e := by
      rw [← zpow_natCast, Int.toNat_of_nonneg (Int.sub_nonneg.mpr (h pos.ne')), ← zpow_add₀ two_ne_zero, Int.sub_add_cancel]
    cases neg <;> simp [FV.rat, FV.scaled, mul_assoc, units]

theorem units_pos {m : Nat} (pos : m ≠ 0) (e : Int) : 0 < (m : ℚ) * 2 ^ e :=
  mul_pos (Nat.cast_pos.mpr (Nat.pos_of_ne_zero pos)) (by positivity)

theorem abs_rat_fin (neg : Bool) (m : Nat) (e : Int) : |(FV.fin neg m e).rat| = (m : ℚ) * 2 ^ e := by
  have nonneg : (0 : ℚ) ≤ (m : ℚ) * 2 ^ e := by positivity
  cases neg <;> simp [FV.rat, abs_of_nonneg nonneg]

theorem rat_fin_neg_iff {neg : Bool} {m : Nat} (pos : m ≠ 0) (e : Int) : (FV.fin neg m e).rat < 0 ↔ neg = true := by
  have value := units_pos pos e
  cases neg <;> simp [FV.rat, value, value.le]

theorem rat_fin_pos_iff {neg : Bool} {m : Nat} (pos : m ≠ 0) (e : Int) : 0 < (FV.fin neg m e).rat ↔ neg = false := by
  have value := units_pos pos e
  cases neg <;> simp [FV.rat, value, value.le]

end Sys2Proof.Machine
end

section
/-! PROOF. O10: exact sums, products and comparisons (R76, R166). What the model does with numbers of units, it does with the rational
numbers. -/

namespace Sys2Proof.Machine

/-! ## Sums -/

theorem foldl_le_of_mem {α : Type} {g : Int → α → Int} (down : ∀ a x, g a x ≤ a) {x : α} {k : Int} (bound : ∀ a, g a x ≤ k)
    {l : List α} (mem : x ∈ l) (a : Int) : l.foldl g a ≤ k := by
  have below : ∀ (l : List α) a, l.foldl g a ≤ a := fun l => by
    induction l with
    | nil => exact fun a => le_rfl
    | cons y l ih => exact fun a => (ih _).trans (down a y)
  induction l generalizing a with
  | nil => cases mem
  | cons y l ih =>
    obtain rfl | mem := List.mem_cons.mp mem
    · exact (below l _).trans (bound a)
    · exact ih mem _

theorem leastExp_le {ts : List FV} {neg : Bool} {m : Nat} {e : Int} (mem : FV.fin neg m e ∈ ts) (pos : m ≠ 0) : leastExp ts ≤ e := by
  refine foldl_le_of_mem (fun a t => ?_) (fun a => ?_) mem _
  · cases t with
    | nan | inf => exact le_rfl
    | fin _ n f =>
      dsimp only
      split
      · exact le_rfl
      · exact min_le_left a f
  · dsimp only
    rw [if_neg pos]
    exact min_le_right a e

/-- The sum of some terms in units of their least exponent. -/
def FV.total (ts : List FV) : Int := (ts.map (FV.scaled (leastExp ts))).sum

/-- The exact zero of R76: its sign is set where every term is a zero of sign −, and under RDN where not every term is a zero of
sign +. -/
def zeroSign (mode : Nat) (ts : List FV) : Bool :=
  ts.all (fun x => x.isZero && x.neg) || (mode == 3 && !ts.all (fun x => x.isZero && !x.neg))

theorem zeros_sum (mode : Nat) (ts : List FV) :
    (if ts.all FV.isZero && ts.all FV.neg then FV.fin true 0 0
      else if ts.all FV.isZero && !ts.any FV.neg then .fin false 0 0
      else .fin (mode == 3) 0 0) = .fin (zeroSign mode ts) 0 0 := by
  have minus : (ts.all FV.isZero && ts.all FV.neg) = ts.all (fun x => x.isZero && x.neg) := by
    rw [Bool.eq_iff_iff]; simp [forall_and]
  have plus : (ts.all FV.isZero && !ts.any FV.neg) = ts.all (fun x => x.isZero && !x.neg) := by
    rw [Bool.eq_iff_iff]; simp [forall_and]
  rw [minus, plus, zeroSign]
  cases ts.all (fun x => x.isZero && x.neg) <;> cases ts.all (fun x => x.isZero && !x.neg) <;> simp

section
variable {ts : List FV} (fin : ∀ x ∈ ts, x.isFin = true)
include fin

theorem FV.rat_sum_eq_total : (ts.map FV.rat).sum = (FV.total ts : ℚ) * 2 ^ leastExp ts := by
  have each : ∀ x ∈ ts, x.rat = (FV.scaled (leastExp ts) x : ℚ) * 2 ^ leastExp ts := fun x mem => by
    obtain ⟨neg, m, e, rfl⟩ := FV.exists_of_isFin (fin x mem)
    exact FV.rat_eq_scaled (leastExp_le mem)
  rw [List.map_congr_left each, List.sum_map_mul_right, FV.total, Int.cast_list_sum, List.map_map]
  rfl

theorem FV.sum_of_finite (mode : Nat) :
    FV.sum mode ts = if FV.total ts = 0 then .fin (zeroSign mode ts) 0 0
      else .fin (decide (FV.total ts < 0)) (FV.total ts).natAbs (leastExp ts) := by
  have plain : ∀ x ∈ ts, x.isNan = false ∧ x.isInf = false := fun x mem => by
    obtain ⟨neg, m, e, rfl⟩ := FV.exists_of_isFin (fin x mem)
    exact ⟨rfl, rfl⟩
  have noNan : ts.any FV.isNan = false := List.any_eq_false.mpr fun x mem => by simp [plain x mem]
  have noInf : ∀ p : FV → Bool, ts.any (fun t => t.isInf && p t) = false := fun p => List.any_eq_false.mpr fun x mem => by simp [plain x mem]
  have total : (ts.map (FV.scaled (leastExp ts))).foldl (· + ·) (0 : Int) = FV.total ts := List.sum_eq_foldl.symm
  simp only [FV.sum, noNan, noInf, total, zeros_sum, Bool.false_eq_true, if_false, Bool.and_false]

end

/-! ## Comparisons -/

theorem compare_units (a b : Int) {u : ℚ} (pos : 0 < u) : compare a b = compare ((a : ℚ) * u) (b * u) := by
  obtain lt | rfl | gt := lt_trichotomy a b
  · rw [compare_lt_iff_lt.mpr lt, compare_lt_iff_lt.mpr (mul_lt_mul_of_pos_right (Int.cast_lt.mpr lt) pos)]
  · rw [compare_eq_iff_eq.mpr rfl, compare_eq_iff_eq.mpr rfl]
  · rw [compare_gt_iff_gt.mpr gt, compare_gt_iff_gt.mpr (mul_lt_mul_of_pos_right (Int.cast_lt.mpr gt) pos)]

theorem FV.cmp_fin (a b : Bool) (m n : Nat) (e f : Int) :
    (FV.fin a m e).cmp (.fin b n f) = some (compare (FV.fin a m e).rat (FV.fin b n f).rat) := by
  rw [FV.rat_eq_scaled (fun _ => min_le_left e f), FV.rat_eq_scaled (fun _ => min_le_right e f), ← compare_units _ _ (by positivity)]
  rfl

theorem FV.rat_mul (a b : Bool) (m n : Nat) (e f : Int) :
    ((FV.fin a m e).mul (.fin b n f)).rat = (FV.fin a m e).rat * (FV.fin b n f).rat := by
  have sign : (if (a != b) = true then (-1 : ℚ) else 1) = (if a = true then -1 else 1) * (if b = true then -1 else 1) := by
    cases a <;> cases b <;> simp
  rw [FV.mul, FV.rat, FV.rat, FV.rat, sign, zpow_add₀ two_ne_zero, Nat.cast_mul]
  ring

/-- Settles O10: sums by `FV.sum_of_finite`, products by `FV.rat_mul`, comparisons by `FV.cmp_fin`. -/
theorem exactArithmetic : Obligations.ExactArithmetic := by
  refine ⟨fun mode ts fin => ?_, fun x y hx hy => ?_, fun x y hx hy => ?_⟩
  · have units : (2 : ℚ) ^ leastExp ts ≠ 0 := by positivity
    rw [FV.sum_of_finite fin, FV.rat_sum_eq_total fin]
    by_cases zero : FV.total ts = 0
    · rw [if_pos zero, FV.rat_zero, zero, Int.cast_zero, zero_mul]
      refine ⟨rfl, rfl, fun _ => ?_⟩
      simp [FV.neg, zeroSign]
    · rw [if_neg zero]
      exact ⟨rfl, FV.rat_ofInt _ _, fun none => absurd none (mul_ne_zero (Int.cast_ne_zero.mpr zero) units)⟩
  · obtain ⟨a, m, e, rfl⟩ := FV.exists_of_isFin hx
    obtain ⟨b, n, f, rfl⟩ := FV.exists_of_isFin hy
    exact ⟨rfl, FV.rat_mul a b m n e f, rfl⟩
  · obtain ⟨a, m, e, rfl⟩ := FV.exists_of_isFin hx
    obtain ⟨b, n, f, rfl⟩ := FV.exists_of_isFin hy
    exact FV.cmp_fin a b m n e f

end Sys2Proof.Machine
end

section
/-! SUPPORT. Rounding (R77, R78) in rational numbers: the significand of `roundCore` is the one R77 describes, it lies within the bounds of
an encoding, and the encoding decodes to it. -/

namespace Sys2Proof.Machine

/-! ## The binary exponent of a value -/

theorem mul_zpow_div_zpow (m : ℚ) (e q : Int) : m * 2 ^ e / 2 ^ q = m * 2 ^ (e - q) := by
  rw [zpow_sub₀ two_ne_zero, mul_div_assoc]

theorem topExp_eq_log {m : Nat} (pos : m ≠ 0) (e : Int) : Int.log 2 ((m : ℚ) * 2 ^ e) = topExp m e := by
  have value := units_pos pos e
  have low : (2 : ℚ) ^ Nat.log2 m ≤ m := mod_cast Nat.log2_self_le pos
  have high : (m : ℚ) < 2 ^ (Nat.log2 m + 1) := mod_cast Nat.lt_log2_self
  refine le_antisymm (Int.lt_add_one_iff.mp ?_) ?_
  · rw [← Int.lt_zpow_iff_log_lt one_lt_two value, topExp, add_right_comm, zpow_add₀ (by norm_num)]
    exact mul_lt_mul_of_pos_right (mod_cast high) (by positivity)
  · rw [← Int.zpow_le_iff_le_log one_lt_two value, topExp, zpow_add₀ (by norm_num)]
    exact mul_le_mul_of_nonneg_right (mod_cast low) (by positivity)

theorem topExp_bounds {m : Nat} (pos : m ≠ 0) (e : Int) :
    (2 : ℚ) ^ topExp m e ≤ m * 2 ^ e ∧ (m : ℚ) * 2 ^ e < 2 ^ (topExp m e + 1) := by
  rw [← topExp_eq_log pos]
  exact ⟨Int.zpow_log_le_self one_lt_two (units_pos pos e), Int.lt_zpow_succ_log_self one_lt_two _⟩

theorem topExp_lt_iff {m : Nat} (pos : m ≠ 0) (e k : Int) : topExp m e < k ↔ (m : ℚ) * 2 ^ e < 2 ^ k := by
  rw [← topExp_eq_log pos]
  exact (Int.lt_zpow_iff_log_lt one_lt_two (units_pos pos e)).symm

/-! ## Rounding a significand to an integer -/

/-- Whether R77 counts `n` one up, where `d` is cut off. -/
def roundsUp (mode : Nat) (neg : Bool) (n : Int) (d : ℚ) : Bool :=
  (mode == 0 && (decide (1 / 2 < d) || decide (d = 1 / 2) && n % 2 == 1)) || ((mode == 2 && !neg || mode == 3 && neg) && decide (0 < d))
/-- The rounded significand n of R77, from y. -/
def sigRound (mode : Nat) (neg : Bool) (y : ℚ) : Int := ⌊y⌋ + if roundsUp mode neg ⌊y⌋ (Int.fract y) then 1 else 0

theorem roundsUp_zero (mode : Nat) (neg : Bool) (n : Int) : roundsUp mode neg n 0 = false := by norm_num [roundsUp]

theorem sigRound_of_fract_eq_zero {mode : Nat} {neg : Bool} {y : ℚ} (whole : Int.fract y = 0) : (sigRound mode neg y : ℚ) = y := by
  rw [sigRound, whole, roundsUp_zero, if_neg Bool.false_ne_true, add_zero]
  rw [← Int.self_sub_fract, whole, sub_zero]

theorem sigRound_eq_iff {mode : Nat} {neg : Bool} {y : ℚ} : (sigRound mode neg y : ℚ) = y ↔ Int.fract y = 0 :=
  ⟨fun same => by rw [← same, Int.fract_intCast], sigRound_of_fract_eq_zero⟩

theorem le_sigRound {mode : Nat} {neg : Bool} {y : ℚ} {k : Int} (le : (k : ℚ) ≤ y) : k ≤ sigRound mode neg y := by
  have floor := Int.le_floor.mpr le
  unfold sigRound
  split <;> omega

theorem sigRound_le {mode : Nat} {neg : Bool} {y : ℚ} {k : Int} (le : y ≤ k) : sigRound mode neg y ≤ k := by
  by_cases whole : Int.fract y = 0
  · exact_mod_cast (sigRound_of_fract_eq_zero whole).trans_le le
  · have below : (⌊y⌋ : ℚ) < k := lt_of_lt_of_le (lt_of_le_of_ne (Int.floor_le y) fun same => whole (by rw [← same, Int.fract_intCast])) le
    have floor : ⌊y⌋ < k := mod_cast below
    unfold sigRound
    split <;> omega

theorem roundBits_eq {mode : Nat} (code : mode < 4) (neg : Bool) (m : Nat) {sh : Nat} (pos : 0 < sh) :
    (((roundBits mode neg m sh).1 : ℕ) : ℤ) = sigRound mode neg ((m : ℚ) / 2 ^ sh) ∧
    ((roundBits mode neg m sh).2 = true ↔ Int.fract ((m : ℚ) / 2 ^ sh) ≠ 0) := by
  have unit : (0 : ℚ) < ((2 ^ sh : ℕ) : ℚ) := mod_cast Nat.two_pow_pos sh
  have cast : (m : ℚ) / 2 ^ sh = (m : ℚ) / ((2 ^ sh : ℕ) : ℚ) := by rw [Nat.cast_pow, Nat.cast_ofNat]
  have floor : ⌊(m : ℚ) / 2 ^ sh⌋ = ((m / 2 ^ sh : ℕ) : ℤ) := by rw [cast, Rat.floor_natCast_div_natCast, Int.natCast_ediv]
  have fract : Int.fract ((m : ℚ) / 2 ^ sh) = ((m % 2 ^ sh : ℕ) : ℚ) / ((2 ^ sh : ℕ) : ℚ) := by
    rw [cast, Int.fract_div_natCast_eq_div_natCast_mod]
  have some_cut : 0 < Int.fract ((m : ℚ) / 2 ^ sh) ↔ 0 < m % 2 ^ sh := by rw [fract, div_pos_iff_of_pos_right unit, Nat.cast_pos]
  have above : 1 / 2 < Int.fract ((m : ℚ) / 2 ^ sh) ↔ 2 ^ sh < 2 * (m % 2 ^ sh) := by
    rw [fract, div_lt_div_iff₀ two_pos unit, one_mul, mul_comm]; exact_mod_cast Iff.rfl
  have tie : Int.fract ((m : ℚ) / 2 ^ sh) = 1 / 2 ↔ 2 * (m % 2 ^ sh) = 2 ^ sh := by
    rw [fract, div_eq_div_iff unit.ne' two_ne_zero, one_mul, mul_comm]; exact_mod_cast Iff.rfl
  refine ⟨?_, ?_⟩
  · have parity : (((m / 2 ^ sh : ℕ) : ℤ) % 2 == 1) = (m / 2 ^ sh % 2 == 1) := by rw [Bool.eq_iff_iff, beq_iff_eq, beq_iff_eq]; omega
    have count : ∀ (up : Bool) (n : Nat), ((if up = true then n + 1 else n : ℕ) : ℤ) = n + if up = true then 1 else 0 := by
      rintro (_ | _) n <;> rfl
    unfold roundBits
    rw [sigRound, floor, roundsUp, parity, count]
    simp only [some_cut, above, tie]
    obtain _ | _ | _ | _ | mode := mode
    · simp [pos]
    · simp
    · simp [pos]
    · simp [pos]
    · omega
  · rw [← (Int.fract_nonneg _).lt_iff_ne', some_cut]
    exact decide_eq_true_iff

/-! ## The rounded significand and its weight -/

/-- The weight of the last kept bit, as an exponent (q of R77). -/
def Fmt.quantum (f : Fmt) (m : Nat) (e : Int) : Int := max (topExp m e) (1 - f.bias) - f.fb
/-- The rounded significand of m × 2^e in units of 2^q (n of R77). -/
def Fmt.sig (f : Fmt) (mode : Nat) (neg : Bool) (m : Nat) (e : Int) : Int := sigRound mode neg ((m : ℚ) * 2 ^ e / 2 ^ f.quantum m e)

theorem sigRound_natCast (mode : Nat) (neg : Bool) (n : Nat) : sigRound mode neg n = n := by
  exact_mod_cast sigRound_of_fract_eq_zero (mode := mode) (neg := neg) (Int.fract_natCast n)

theorem zpow_eq_pow_toNat {k : Int} (nonneg : 0 ≤ k) : (2 : ℚ) ^ k = 2 ^ k.toNat := by
  rw [← zpow_natCast, Int.toNat_of_nonneg nonneg]

theorem roundCore_eq (f : Fmt) {mode : Nat} (code : mode < 4) (neg : Bool) (m : Nat) (e : Int) :
    roundCore f.fb f.bias mode neg m e = ((f.sig mode neg m e).natAbs, f.quantum m e,
      decide ((f.sig mode neg m e : ℚ) * 2 ^ f.quantum m e ≠ m * 2 ^ e)) := by
  have exact_iff : (f.sig mode neg m e : ℚ) * 2 ^ f.quantum m e = m * 2 ^ e ↔ Int.fract ((m : ℚ) * 2 ^ e / 2 ^ f.quantum m e) = 0 := by
    rw [← sigRound_eq_iff (mode := mode) (neg := neg), eq_div_iff (by positivity)]
    rfl
  simp only [ne_eq, exact_iff]
  rw [Fmt.sig, mul_zpow_div_zpow]
  change (if f.quantum m e ≤ e then (m * 2 ^ (e - f.quantum m e).toNat, f.quantum m e, false)
    else ((roundBits mode neg m (f.quantum m e - e).toNat).1, f.quantum m e, (roundBits mode neg m (f.quantum m e - e).toNat).2)) = _
  split
  next le =>
    have whole : (m : ℚ) * 2 ^ (e - f.quantum m e) = ((m * 2 ^ (e - f.quantum m e).toNat : ℕ) : ℚ) := by
      rw [zpow_eq_pow_toNat (by omega)]; push_cast; rfl
    rw [whole, sigRound_natCast, Int.fract_natCast, Int.natAbs_natCast, decide_eq_false (not_not_intro rfl)]
  next gt =>
    have parts : (m : ℚ) * 2 ^ (e - f.quantum m e) = m / 2 ^ (f.quantum m e - e).toNat := by
      rw [← zpow_eq_pow_toNat (by omega), ← neg_sub, zpow_neg, div_eq_mul_inv]
    obtain ⟨sig, cut⟩ := roundBits_eq code neg m (sh := (f.quantum m e - e).toNat) (by omega)
    rw [parts, ← sig, Int.natAbs_natCast, Bool.eq_iff_iff.mpr (cut.trans decide_eq_true_iff.symm)]

theorem sig_nonneg (f : Fmt) (mode : Nat) (neg : Bool) (m : Nat) (e : Int) : 0 ≤ f.sig mode neg m e :=
  le_sigRound (by positivity)

theorem quantum_ge (f : Fmt) (m : Nat) (e : Int) : 1 - f.bias - f.fb ≤ f.quantum m e := sub_le_sub_right (le_max_right _ _) _

/-- The rounded significand has at most one bit more than the fraction, or is the power of two above; it has all its bits, or its last bit
is worth as little as the format can say. -/
theorem sig_bounds (f : Fmt) (mode : Nat) (neg : Bool) {m : Nat} (pos : m ≠ 0) (e : Int) :
    (f.sig mode neg m e).natAbs ≤ 2 ^ (f.fb + 1) ∧ (2 ^ f.fb ≤ (f.sig mode neg m e).natAbs ∨ f.quantum m e = 1 - f.bias - f.fb) := by
  obtain ⟨low, high⟩ := topExp_bounds pos e
  have nonneg := sig_nonneg f mode neg m e
  constructor
  · have above : f.sig mode neg m e ≤ ((2 ^ (f.fb + 1) : ℕ) : ℤ) := sigRound_le (by
      rw [div_le_iff₀ (by positivity)]
      calc (m : ℚ) * 2 ^ e ≤ 2 ^ (topExp m e + 1) := high.le
        _ ≤ 2 ^ (((f.fb + 1 : ℕ) : ℤ) + f.quantum m e) := zpow_le_zpow_right₀ one_le_two (by unfold Fmt.quantum; push_cast; omega)
        _ = _ := by rw [zpow_add₀ two_ne_zero, zpow_natCast]; push_cast; rfl)
    omega
  · refine or_iff_not_imp_right.mpr fun normal => ?_
    have below : ((2 ^ f.fb : ℕ) : ℤ) ≤ f.sig mode neg m e := le_sigRound (by
      rw [le_div_iff₀ (by positivity)]
      calc (((2 ^ f.fb : ℕ) : ℤ) : ℚ) * 2 ^ f.quantum m e = 2 ^ ((f.fb : ℤ) + f.quantum m e) := by
            rw [zpow_add₀ two_ne_zero, zpow_natCast]; push_cast; rfl
        _ ≤ 2 ^ topExp m e := zpow_le_zpow_right₀ one_le_two (by unfold Fmt.quantum at normal ⊢; omega)
        _ ≤ m * 2 ^ e := low)
    omega

/-! ## Encodings of the values a format has -/

/-- The exponent of the last bit of the largest finite value. -/
def Fmt.maxExp (f : Fmt) : Int := (2 ^ f.eb : ℕ) - (if f.infs then 2 else 1) - f.bias - f.fb
/-- The significand of the largest finite value. -/
def Fmt.maxSig (f : Fmt) : Nat := 2 ^ (f.fb + 1) - (if f.infs then 1 else 2)
/-- n × 2^q as the format writes it: with all bits of a significand, or with the least exponent. -/
structure Fmt.Canonical (f : Fmt) (n : Nat) (q : Int) : Prop where
  small : n < 2 ^ (f.fb + 1)
  least : 1 - f.bias - f.fb ≤ q
  full : 2 ^ f.fb ≤ n ∨ q = 1 - f.bias - f.fb
/-- The encoding of n × 2^q. -/
def Fmt.code (f : Fmt) (neg : Bool) (n : Nat) (q : Int) : Nat :=
  f.sgn neg + if n < 2 ^ f.fb then n else (q + f.fb + f.bias).toNat * 2 ^ f.fb + (n - 2 ^ f.fb)
/-- The part of `Fmt.round` after its significand is rounded: a carry, the test for overflow, the encoding. -/
def Fmt.encode (f : Fmt) (mode : Nat) (neg : Bool) (n : Nat) (q : Int) (fl : Flags) : Nat × Flags :=
  if n < 2 ^ f.fb then (f.sgn neg + n, fl)
  else
    let (n, q) := if n = 2 ^ (f.fb + 1) then (2 ^ f.fb, q + 1) else (n, q)
    let ef := (q + f.fb + f.bias).toNat
    let fr := n - 2 ^ f.fb
    let top := 2 ^ f.eb - 1
    if ef > top ∨ (ef = top ∧ (f.infs ∨ fr = 2 ^ f.fb - 1)) then
      (if overflowInf mode neg then f.infEnc neg else f.maxEnc neg, flOf ||| flNx)
    else (f.sgn neg + ef * 2 ^ f.fb + fr, fl)

/-- What the flags of R78 say of a rounding without overflow. -/
def Fmt.roundFlags (f : Fmt) (mode : Nat) (neg : Bool) (m : Nat) (e : Int) : Flags :=
  let cut := decide ((f.sig mode neg m e : ℚ) * 2 ^ f.quantum m e ≠ m * 2 ^ e)
  flIf cut flNx ||| flIf (cut && decide (topExp m e < 1 - f.bias)) flUf

theorem round_fin (f : Fmt) {mode : Nat} (code : mode < 4) (neg : Bool) {m : Nat} (pos : m ≠ 0) (e : Int) :
    f.round mode (.fin neg m e) = f.encode mode neg (f.sig mode neg m e).natAbs (f.quantum m e) (f.roundFlags mode neg m e) := by
  simp only [Fmt.round, if_neg pos, roundCore_eq f code, Fmt.encode, Fmt.roundFlags]

/-- Fields of an encoding from its parts. -/
theorem encoding_fields {fb eb F E : Nat} (hF : F < 2 ^ fb) (hE : E < 2 ^ eb) (neg : Bool) :
    let x := (if neg then 2 ^ (eb + fb) else 0) + (E * 2 ^ fb + F)
    bits x 0 fb = F ∧ bits x fb eb = E ∧ bitAt x (eb + fb) = neg := by
  intro x
  obtain ⟨s, hs, hx⟩ : ∃ s, (s % 2 == 1) = neg ∧ x = F + 2 ^ fb * (E + 2 ^ eb * s) := by
    cases neg
    · exact ⟨0, rfl, by simp only [x]; simp; ring⟩
    · exact ⟨1, rfl, by simp only [x]; simp; ring⟩
  have high : x / 2 ^ fb = E + 2 ^ eb * s := by
    rw [hx, Nat.add_mul_div_left _ _ (Nat.two_pow_pos fb), Nat.div_eq_of_lt hF, Nat.zero_add]
  refine ⟨?_, ?_, ?_⟩
  · rw [bits, pow_zero, Nat.div_one, hx, Nat.add_mul_mod_self_left, Nat.mod_eq_of_lt hF]
  · rw [bits, high, Nat.add_mul_mod_self_left, Nat.mod_eq_of_lt hE]
  · rw [bitAt, Nat.add_comm eb, pow_add, ← Nat.div_div_eq_div_mul, high, Nat.add_mul_div_left _ _ (Nat.two_pow_pos eb), Nat.div_eq_of_lt hE,
      Nat.zero_add, hs]

/-- What the six formats of Table 5-2 have in common. -/
theorem fpFormats_widths : ∀ f ∈ fpFormats, 1 ≤ f.fb ∧ 2 ≤ f.eb := by decide

theorem dec_maxEnc : ∀ f ∈ fpFormats, f.dec (f.maxEnc false) = .fin false f.maxSig f.maxExp := by decide

theorem fpMax_eq {f : Fmt} (mem : f ∈ fpFormats) : fpMax f = (f.maxSig : ℚ) * 2 ^ f.maxExp := by
  rw [fpMax, dec_maxEnc f mem]; simp [FV.rat]

/-- Of two values whose significands have the same number of bits, the exponents decide first. -/
theorem normal_le_iff {k n M : Nat} {q Q : Int} (ln : 2 ^ k ≤ n) (un : n < 2 ^ (k + 1)) (lM : 2 ^ k ≤ M) (uM : M < 2 ^ (k + 1)) :
    (n : ℚ) * 2 ^ q ≤ M * 2 ^ Q ↔ q < Q ∨ q = Q ∧ n ≤ M := by
  have less : ∀ {a b : Nat} {s t : Int}, a < 2 ^ (k + 1) → 2 ^ k ≤ b → s < t → (a : ℚ) * 2 ^ s < b * 2 ^ t := fun {a b s t} ha hb lt => by
    calc (a : ℚ) * 2 ^ s < 2 ^ (k + 1) * 2 ^ s := mul_lt_mul_of_pos_right (mod_cast ha) (by positivity)
      _ = 2 ^ k * 2 ^ (s + 1) := by rw [zpow_add_one₀ two_ne_zero]; ring
      _ ≤ 2 ^ k * 2 ^ t := mul_le_mul_of_nonneg_left (zpow_le_zpow_right₀ one_le_two lt) (by positivity)
      _ ≤ b * 2 ^ t := mul_le_mul_of_nonneg_right (mod_cast hb) (by positivity)
  obtain lt | rfl | gt := lt_trichotomy q Q
  · exact iff_of_true (less un lM lt).le (.inl lt)
  · rw [mul_le_mul_iff_left₀ (by positivity), Nat.cast_le]
    simp
  · exact iff_of_false (not_le.mpr (less uM ln gt)) (by omega)

theorem maxSig_bounds {f : Fmt} (mem : f ∈ fpFormats) : 2 ^ f.fb ≤ f.maxSig ∧ f.maxSig < 2 ^ (f.fb + 1) := by
  have two : 2 ^ 1 ≤ 2 ^ f.fb := Nat.pow_le_pow_right two_pos (fpFormats_widths f mem).1
  rw [Fmt.maxSig, pow_succ]
  split <;> omega

theorem least_le_maxExp {f : Fmt} (mem : f ∈ fpFormats) : 1 - f.bias - f.fb ≤ f.maxExp := by
  have four : 2 ^ 2 ≤ 2 ^ f.eb := Nat.pow_le_pow_right two_pos (fpFormats_widths f mem).2
  rw [Fmt.maxExp]
  split <;> omega

/-- The exponent field of a value with all its bits is not 0, and meets the test for overflow in `Fmt.encode` exactly where the value is
beyond the largest. -/
theorem exponent_field {f : Fmt} {n : Nat} {q : Int} (canon : f.Canonical n q) (full : 2 ^ f.fb ≤ n) :
    let ef := (q + f.fb + f.bias).toNat
    0 < ef ∧ (ef : ℤ) = q + f.fb + f.bias ∧
    ((ef > 2 ^ f.eb - 1 ∨ (ef = 2 ^ f.eb - 1 ∧ (f.infs ∨ n - 2 ^ f.fb = 2 ^ f.fb - 1))) ↔
      ¬(q < f.maxExp ∨ q = f.maxExp ∧ n ≤ f.maxSig)) := by
  obtain ⟨small, least, -⟩ := canon
  have whole := Nat.two_pow_pos f.eb
  intro ef
  have cast : (ef : ℤ) = q + f.fb + f.bias := Int.toNat_of_nonneg (by omega)
  refine ⟨by omega, cast, ?_⟩
  rw [Fmt.maxExp, Fmt.maxSig, pow_succ]
  rw [pow_succ] at small
  clear_value ef
  generalize 2 ^ f.eb = top at *
  generalize 2 ^ f.fb = unit at *
  cases f.infs
  · simp only [Bool.false_eq_true, if_false, false_or]; omega
  · simp only [if_true, true_or, and_true]; omega

section
variable {f : Fmt} (mem : f ∈ fpFormats) {n : Nat} {q : Int} (canon : f.Canonical n q)
include mem canon

theorem le_fpMax_iff : (n : ℚ) * 2 ^ q ≤ fpMax f ↔ n < 2 ^ f.fb ∨ q < f.maxExp ∨ q = f.maxExp ∧ n ≤ f.maxSig := by
  obtain ⟨lM, uM⟩ := maxSig_bounds mem
  rw [fpMax_eq mem]
  obtain sub | full := lt_or_ge n (2 ^ f.fb)
  · refine iff_of_true ?_ (.inl sub)
    have exponent : q ≤ f.maxExp := (canon.full.resolve_left (not_le.mpr sub)).trans_le (least_le_maxExp mem)
    exact mul_le_mul (mod_cast (sub.trans_le lM).le) (zpow_le_zpow_right₀ one_le_two exponent) (by positivity) (by positivity)
  · rw [normal_le_iff full canon.small lM uM, or_iff_right (not_lt.mpr full)]

theorem dec_code (neg : Bool) (fits : (n : ℚ) * 2 ^ q ≤ fpMax f) : f.dec (f.code neg n q) = .fin neg n q := by
  rw [le_fpMax_iff mem canon] at fits
  obtain sub | full := lt_or_ge n (2 ^ f.fb)
  · obtain ⟨fraction, exponent, sign⟩ := encoding_fields (eb := f.eb) sub (Nat.two_pow_pos _) neg
    rw [Nat.zero_mul, Nat.zero_add] at fraction exponent sign
    rw [Fmt.code, if_pos sub, Fmt.sgn, Fmt.dec, fraction, exponent, sign, canon.full.resolve_left (not_le.mpr sub)]
    rfl
  · obtain ⟨positive, cast, range⟩ := exponent_field canon full
    have small := canon.small
    rw [pow_succ] at small
    have inside := range.not_left.mpr (fits.resolve_left (not_lt.mpr full))
    rw [not_or, not_lt, not_and, not_or] at inside
    obtain ⟨top, special⟩ := inside
    have whole := Nat.two_pow_pos f.eb
    obtain ⟨fraction, exponent, sign⟩ := encoding_fields (fb := f.fb) (eb := f.eb) (F := n - 2 ^ f.fb)
      (E := (q + f.fb + f.bias).toNat) (by omega) (by omega) neg
    rw [Fmt.code, if_neg (not_lt.mpr full), Fmt.sgn, Fmt.dec, fraction, exponent, sign, if_neg positive.ne',
      if_neg fun h => (special h.2).1 h.1, if_neg fun h => (special h.2.1).2 h.2.2, cast]
    congr 1 <;> omega

theorem encode_fits (mode : Nat) (neg : Bool) (fl : Flags) (fits : (n : ℚ) * 2 ^ q ≤ fpMax f) :
    f.encode mode neg n q fl = (f.code neg n q, fl) := by
  rw [le_fpMax_iff mem canon] at fits
  rw [Fmt.encode, Fmt.code]
  obtain sub | full := lt_or_ge n (2 ^ f.fb)
  · rw [if_pos sub, if_pos sub]
  · obtain ⟨-, -, range⟩ := exponent_field canon full
    rw [if_neg (not_lt.mpr full), if_neg (not_lt.mpr full), if_neg canon.small.ne]
    dsimp only
    rw [if_neg (range.not_left.mpr (fits.resolve_left (not_lt.mpr full))), Nat.add_assoc]

theorem encode_overflow (mode : Nat) (neg : Bool) (fl : Flags) (large : fpMax f < (n : ℚ) * 2 ^ q) :
    f.encode mode neg n q fl = (if overflowInf mode neg then f.infEnc neg else f.maxEnc neg, flOf ||| flNx) := by
  rw [← not_le, le_fpMax_iff mem canon, not_or, not_lt] at large
  obtain ⟨full, large⟩ := large
  obtain ⟨-, -, range⟩ := exponent_field canon full
  rw [Fmt.encode, if_neg (not_lt.mpr full), if_neg canon.small.ne]
  exact if_pos (range.mpr large)

end

/-! ## The rounded value and its encoding -/

/-- A rounded significand is canonical, but for the power of two that a carry leaves, which is the next exponent's least. -/
theorem exists_canonical (f : Fmt) {N : Nat} {q : Int} (small : N ≤ 2 ^ (f.fb + 1)) (least : 1 - f.bias - f.fb ≤ q)
    (full : 2 ^ f.fb ≤ N ∨ q = 1 - f.bias - f.fb) :
    ∃ n r, f.Canonical n r ∧ (n : ℚ) * 2 ^ r = N * 2 ^ q ∧ ∀ mode neg fl, f.encode mode neg N q fl = f.encode mode neg n r fl := by
  obtain lt | rfl := small.lt_or_eq
  · exact ⟨N, q, ⟨lt, least, full⟩, rfl, fun _ _ _ => rfl⟩
  · have grows : 2 ^ f.fb < 2 ^ (f.fb + 1) := Nat.pow_lt_pow_right one_lt_two (Nat.lt_succ_self _)
    refine ⟨2 ^ f.fb, q + 1, ⟨grows, by omega, .inl le_rfl⟩, ?_, fun mode neg fl => ?_⟩
    · rw [zpow_add_one₀ two_ne_zero]; push_cast; ring
    · rw [Fmt.encode, Fmt.encode, if_neg (not_lt.mpr grows.le), if_pos rfl, if_neg (lt_irrefl _), if_neg grows.ne]

theorem quantum_of_canonical {f : Fmt} {n : Nat} {q : Int} (canon : f.Canonical n q) (pos : n ≠ 0) : f.quantum n q = q := by
  obtain ⟨small, least, full⟩ := canon
  rw [Fmt.quantum, topExp]
  have upper : Nat.log2 n < f.fb + 1 := (Nat.log2_lt pos).mpr small
  obtain sub | full' := lt_or_ge n (2 ^ f.fb)
  · have log : Nat.log2 n < f.fb := (Nat.log2_lt pos).mpr sub
    omega
  · have log : f.fb ≤ Nat.log2 n := (Nat.le_log2 pos).mpr full'
    omega

theorem natAbs_sig (f : Fmt) (mode : Nat) (neg : Bool) (m : Nat) (e : Int) : (((f.sig mode neg m e).natAbs : ℕ) : ℚ) = f.sig mode neg m e := by
  rw [Nat.cast_natAbs, abs_of_nonneg (sig_nonneg f mode neg m e)]

theorem round_eq_encode (f : Fmt) {mode : Nat} (code : mode < 4) (neg : Bool) {m : Nat} (pos : m ≠ 0) (e : Int) :
    ∃ n q, f.Canonical n q ∧ (n : ℚ) * 2 ^ q = f.sig mode neg m e * 2 ^ f.quantum m e ∧
      f.round mode (.fin neg m e) = f.encode mode neg n q (f.roundFlags mode neg m e) := by
  obtain ⟨small, full⟩ := sig_bounds f mode neg pos e
  obtain ⟨n, q, canon, value, encode⟩ := exists_canonical f small (quantum_ge f m e) full
  exact ⟨n, q, canon, value.trans (by rw [natAbs_sig]), (round_fin f code neg pos e).trans (encode _ _ _)⟩

/-- A result is the encoding of `v` itself, and sets no flag. -/
structure Exactly (f : Fmt) (r : Nat × Flags) (v : ℚ) : Prop where
  finite : (f.dec r.1).isFin = true
  value : (f.dec r.1).rat = v
  flags : r.2 = 0

section
variable {f : Fmt} (mem : f ∈ fpFormats) {mode : Nat} (code : mode < 4) (neg : Bool) {m : Nat} (pos : m ≠ 0) {e : Int}
include mem code pos

/-- A value that the format has is encoded as it is, under every mode. -/
theorem round_of_canonical {n : Nat} {q : Int} (canon : f.Canonical n q) (fits : (n : ℚ) * 2 ^ q ≤ fpMax f)
    (value : (m : ℚ) * 2 ^ e = n * 2 ^ q) : f.round mode (.fin neg m e) = (f.code neg n q, 0) := by
  have posn : n ≠ 0 := by
    rintro rfl
    exact (units_pos pos e).ne' (by rw [value, Nat.cast_zero, zero_mul])
  have quantum : f.quantum m e = q := by
    rw [Fmt.quantum, ← topExp_eq_log pos, value, topExp_eq_log posn]
    exact quantum_of_canonical canon posn
  have sig : f.sig mode neg m e = n := by
    rw [Fmt.sig, quantum, value, mul_div_assoc, div_self (by positivity), mul_one, sigRound_natCast]
  rw [round_fin f code neg pos, Fmt.roundFlags, sig, quantum, Int.natAbs_natCast, Int.cast_natCast, value, encode_fits mem canon _ _ _ fits]
  simp [flIf]

/-- A value that needs no bit below the last kept one, and is not too large, is encoded as it is and sets no flag. -/
theorem round_exact (whole : f.quantum m e ≤ e) (fits : (m : ℚ) * 2 ^ e ≤ fpMax f) :
    Exactly f (f.round mode (.fin neg m e)) (FV.fin neg m e).rat := by
  obtain ⟨n, q, canon, value, -⟩ := round_eq_encode f code neg pos e
  have unchanged : f.sig mode neg m e * 2 ^ f.quantum m e = (m : ℚ) * 2 ^ e := by
    have units : (m : ℚ) * 2 ^ e / 2 ^ f.quantum m e = ((m * 2 ^ (e - f.quantum m e).toNat : ℕ) : ℚ) := by
      rw [mul_zpow_div_zpow, zpow_eq_pow_toNat (by omega)]; push_cast; rfl
    rw [Fmt.sig, units, sigRound_natCast, Int.cast_natCast, ← units, div_mul_cancel₀ _ (by positivity)]
  rw [unchanged] at value
  have decodes := dec_code mem canon neg (value ▸ fits)
  rw [round_of_canonical mem code neg pos canon (value ▸ fits) value.symm]
  exact ⟨by rw [decodes]; rfl, by rw [decodes, FV.rat, FV.rat, mul_assoc, mul_assoc, value], rfl⟩

end

end Sys2Proof.Machine
end

section
/-! PROOF. O9: `Fmt.round` is `round_to` as R77 writes it. -/

namespace Sys2Proof.Machine

/-- The two conditional steps by which R77 counts n up, of which at most one is taken. -/
theorem roundsUp_steps (mode : Nat) (neg : Bool) (n : Int) (d : ℚ) :
    (if (mode = 2 ∧ neg = false ∧ 0 < d) ∨ (mode = 3 ∧ neg = true ∧ 0 < d)
      then (if mode = 0 ∧ (1 / 2 < d ∨ (d = 1 / 2 ∧ n % 2 = 1)) then n + 1 else n) + 1
      else if mode = 0 ∧ (1 / 2 < d ∨ (d = 1 / 2 ∧ n % 2 = 1)) then n + 1 else n) =
    n + if roundsUp mode neg n d then 1 else 0 := by
  by_cases nearest : mode = 0
  · subst nearest
    simp [roundsUp, add_ite]
  · simp [roundsUp, nearest, add_ite, and_assoc, or_and_right]

theorem roundTo_fin (f : Fmt) (mode : Nat) (neg : Bool) {m : Nat} (pos : m ≠ 0) (e : Int) :
    roundTo f mode (FV.fin neg m e).rat =
      let v := (f.sig mode neg m e : ℚ) * 2 ^ f.quantum m e
      if v > fpMax f then
        (if mode = 0 ∨ (mode = 2 ∧ neg = false) ∨ (mode = 3 ∧ neg = true) then f.infEnc neg else f.maxEnc neg, flOf ||| flNx)
      else ((f.round 1 (.fin neg (f.sig mode neg m e).natAbs (f.quantum m e))).1,
        (if v = m * 2 ^ e then 0 else flNx) ||| (if v ≠ m * 2 ^ e ∧ (m : ℚ) * 2 ^ e < 2 ^ (1 - f.bias) then flUf else 0)) := by
  unfold roundTo
  simp only [abs_rat_fin, topExp_eq_log pos, gt_iff_lt, rat_fin_neg_iff pos, rat_fin_pos_iff pos, Bool.decide_eq_true, roundsUp_steps]
  rfl

theorem overflowInf_iff {mode : Nat} (code : mode < 4) (neg : Bool) :
    overflowInf mode neg = true ↔ mode = 0 ∨ (mode = 2 ∧ neg = false) ∨ (mode = 3 ∧ neg = true) := by
  obtain _ | _ | _ | _ | mode := mode
  · simp [overflowInf]
  · simp [overflowInf]
  · simp [overflowInf]
  · simp [overflowInf]
  · omega

/-- The encoding of a rounded significand is that of the number it is, cut to the format once more. -/
theorem round_of_rounded {f : Fmt} (mem : f ∈ fpFormats) {n N : Nat} {q r : Int} (canon : f.Canonical n q) (fits : (n : ℚ) * 2 ^ q ≤ fpMax f)
    (value : (N : ℚ) * 2 ^ r = n * 2 ^ q) {mode : Nat} (code : mode < 4) (neg : Bool) :
    (f.round mode (.fin neg N r)).1 = f.code neg n q := by
  obtain rfl | pos := eq_or_ne N 0
  · have zero : n = 0 := by
      rw [Nat.cast_zero, zero_mul, eq_comm, mul_eq_zero_iff_right (by positivity)] at value
      exact_mod_cast value
    rw [zero, Fmt.code, if_pos (Nat.two_pow_pos _)]
    rfl
  · rw [round_of_canonical mem code neg pos canon fits value]

/-- Settles O9: where the rounded value is not too large, both encode it from its significand. -/
theorem round_eq_roundTo : Obligations.RoundTo := by
  intro f mem mode code neg m e pos
  obtain ⟨n, q, canon, value, encode⟩ := round_eq_encode f code neg pos e
  have again : (((f.sig mode neg m e).natAbs : ℕ) : ℚ) * 2 ^ f.quantum m e = n * 2 ^ q := by rw [natAbs_sig, value]
  rw [encode, roundTo_fin f mode neg pos]
  simp only [← value, ← topExp_lt_iff pos, ← overflowInf_iff code]
  obtain fits | large := le_or_gt ((n : ℚ) * 2 ^ q) (fpMax f)
  · rw [encode_fits mem canon _ _ _ fits, if_neg (not_lt.mpr fits), round_of_rounded mem canon fits again (by decide) neg, Fmt.roundFlags, ← value]
    by_cases unchanged : (n : ℚ) * 2 ^ q = m * 2 ^ e <;> simp [unchanged, flIf]
  · rw [encode_overflow mem canon _ _ _ large, if_pos large]

end Sys2Proof.Machine
end

section
/-! PROOF. O11: the values that the functions of Table 5-5 give exactly (R80). -/

namespace Sys2Proof.Machine

/-! ## Binary32 values of the special functions -/

theorem dec_fin_bounds {x : Nat} {neg : Bool} {m : Nat} {e : Int} (h : Fmt.f32.dec x = .fin neg m e) : m < 2 ^ 24 ∧ -149 ≤ e ∧ e ≤ 104 := by
  have fraction : bits x 0 23 < 2 ^ 23 := Nat.mod_lt _ (Nat.two_pow_pos _)
  have exponent : bits x 23 8 < 2 ^ 8 := Nat.mod_lt _ (Nat.two_pow_pos _)
  simp only [Fmt.dec, Fmt.f32, Fmt.bias, Bool.not_true, Bool.false_eq_true, false_and, if_false, true_and] at h
  split at h
  next => injection h with _ significand weight; omega
  next =>
    split at h
    next => by_cases infinite : bits x 0 23 = 0 <;> simp [infinite] at h
    next => injection h with _ significand weight; omega

/-- 2^24 − 1 units of 2^104. -/
theorem fpMax_f32 : fpMax Fmt.f32 = (2 ^ 24 - 1) * 2 ^ 104 := by
  rw [fpMax_eq (f := Fmt.f32) (by decide), show Fmt.f32.maxSig = 16777215 by decide, show Fmt.f32.maxExp = 104 by decide]
  norm_num

/-- A binary32 value is encoded as it is and sets no flag. -/
theorem f32_round_exact (neg : Bool) {m : Nat} {e : Int} (small : m < 2 ^ 24) (least : -149 ≤ e) (fits : (m : ℚ) * 2 ^ e ≤ fpMax Fmt.f32) :
    Exactly Fmt.f32 (Fmt.f32.round 0 (.fin neg m e)) (FV.fin neg m e).rat := by
  obtain rfl | pos := eq_or_ne m 0
  · have zero : ∀ s, Fmt.f32.dec (Fmt.f32.sgn s) = .fin s 0 (-149) := by decide
    rw [Fmt.round, if_pos rfl]
    exact ⟨by rw [zero]; rfl, by rw [zero, FV.rat_zero, FV.rat_zero], rfl⟩
  · have log : Nat.log2 m < 24 := (Nat.log2_lt pos).mpr small
    have bias : Fmt.f32.bias = 127 := rfl
    have width : Fmt.f32.fb = 23 := rfl
    refine round_exact (by decide) (by decide) neg pos ?_ fits
    rw [Fmt.quantum, topExp, bias, width]
    omega

theorem f32_round_two_zpow (neg : Bool) {k : Int} (low : -149 ≤ k) (high : k ≤ 127) :
    Exactly Fmt.f32 (Fmt.f32.round 0 (.fin neg 1 k)) ((if neg then -1 else 1) * 2 ^ k) := by
  have fits : ((1 : ℕ) : ℚ) * 2 ^ k ≤ fpMax Fmt.f32 := by
    rw [Nat.cast_one, one_mul, fpMax_f32]
    calc (2 : ℚ) ^ k ≤ 2 ^ (127 : ℤ) := zpow_le_zpow_right₀ one_le_two high
      _ ≤ _ := by norm_num
  have encoded := f32_round_exact neg (by decide) low fits
  rwa [FV.rat, Nat.cast_one, mul_one] at encoded

theorem f32_round_intFV {n : Int} (small : n.natAbs < 2 ^ 24) :
    Exactly Fmt.f32 (Fmt.f32.round 0 (intFV n)) n := by
  have fits : (n.natAbs : ℚ) * 2 ^ (0 : ℤ) ≤ fpMax Fmt.f32 := by
    rw [zpow_zero, mul_one, fpMax_f32]
    calc (n.natAbs : ℚ) ≤ 2 ^ 24 := mod_cast small.le
      _ ≤ _ := by norm_num
  have encoded := f32_round_exact (decide (n < 0)) small (by decide) fits
  rwa [FV.rat_ofInt, zpow_zero, mul_one] at encoded

/-! ## The functions at the values they give exactly -/

theorem funOf_fin {g : FV → Nat × Flags} {x : Nat} {neg : Bool} {m : Nat} {e : Int} (h : Fmt.f32.dec x = .fin neg m e) :
    funOf g x = g (.fin neg m e) := by
  unfold funOf
  rw [h]

/-- The binary32 encoding of 1. -/
theorem exactly_one : Exactly Fmt.f32 (0x3f800000, flNone) 1 := by
  have decodes : Fmt.f32.dec 0x3f800000 = .fin false (2 ^ 23) (-23) := by decide
  exact ⟨by rw [decodes]; rfl, by rw [decodes]; norm_num [FV.rat], rfl⟩

/-- A whole value in units of its last bit. -/
theorem whole_of_rat_eq_int {neg : Bool} {m : Nat} {e n : Int} (value : (FV.fin neg m e).rat = n) :
    (if neg then -(m : Int) else m) * 2 ^ e.toNat = n * 2 ^ (-e).toNat := by
  have signed : (((if neg then -(m : Int) else m : Int) : ℚ)) * 2 ^ e = n := by rw [← value, FV.rat]; cases neg <;> simp
  have split : (2 : ℚ) ^ e * 2 ^ (-e).toNat = 2 ^ e.toNat := by
    rw [← zpow_natCast, ← zpow_natCast, ← zpow_add₀ two_ne_zero]
    congr 1; omega
  have cast : (((if neg then -(m : Int) else m : Int) : ℚ)) * 2 ^ e.toNat = n * 2 ^ (-e).toNat := by rw [← split, ← mul_assoc, signed]
  exact_mod_cast cast

theorem units_eq_natAbs {neg : Bool} {m : Nat} {e n : Int} (value : (FV.fin neg m e).rat = n) : (m : ℚ) * 2 ^ e = n.natAbs := by
  rw [← abs_rat_fin neg, value, Nat.cast_natAbs, Int.cast_abs]

theorem exp2Fin_of_int {neg : Bool} {m : Nat} {e n : Int} (pos : m ≠ 0) (value : (FV.fin neg m e).rat = n) (low : -149 ≤ n) (high : n ≤ 127) :
    exp2Fin neg m e = Fmt.f32.round 0 (.fin false 1 n) := by
  have units := units_eq_natAbs value
  have posn : n.natAbs ≠ 0 := fun zero => (units_pos pos e).ne' (by rw [units, zero, Nat.cast_zero])
  have below : topExp m e < 8 := (topExp_lt_iff pos e 8).mpr (by
    rw [units]; exact_mod_cast (show n.natAbs < 256 by omega))
  have above : ¬topExp m e < -26 := fun lt => by
    have tiny := (topExp_lt_iff pos e (-26)).mp lt
    rw [units] at tiny
    have one : (1 : ℚ) ≤ n.natAbs := mod_cast Nat.pos_of_ne_zero posn
    exact absurd (one.trans_lt tiny) (by norm_num)
  have whole := whole_of_rat_eq_int value
  rw [exp2Fin, if_neg (not_le.mpr below), if_neg above]
  obtain nonneg | negative := le_or_gt 0 e
  · rw [Int.toNat_of_nonpos (Int.neg_nonpos_of_nonneg nonneg), pow_zero, mul_one] at whole
    simp only [if_pos (show e ≥ 0 from nonneg), if_true, Nat.cast_pow, Nat.cast_ofNat, whole]
  · rw [Int.toNat_of_nonpos negative.le, pow_zero, mul_one] at whole
    have unit : (2 : ℤ) ^ (-e).toNat ≠ 0 := by positivity
    simp only [if_neg (show ¬e ≥ 0 from not_le.mpr negative), whole, Nat.cast_pow, Nat.cast_ofNat, Int.mul_emod_left, if_true,
      Int.mul_ediv_cancel _ unit]

theorem fexp2_exact {x : Nat} {n : Int} (fin : (Fmt.f32.dec x).isFin = true) (value : (Fmt.f32.dec x).rat = n) (low : -149 ≤ n) (high : n ≤ 127) :
    Exactly Fmt.f32 (fexp2N x) (2 ^ n) := by
  obtain ⟨neg, m, e, h⟩ := FV.exists_of_isFin fin
  rw [h] at value
  rw [fexp2N, funOf_fin h]
  obtain rfl | pos := eq_or_ne m 0
  · rw [FV.rat_zero] at value
    obtain rfl : n = 0 := by exact_mod_cast value.symm
    exact (zpow_zero (2 : ℚ)).symm ▸ exactly_one
  · dsimp only
    rw [if_neg pos, exp2Fin_of_int pos value low high]
    have encoded := f32_round_two_zpow false low high
    rwa [if_neg Bool.false_ne_true, one_mul] at encoded

theorem log2_add_of_zpow {m : Nat} {e n : Int} (pos : m ≠ 0) (value : (m : ℚ) * 2 ^ e = 2 ^ n) : (Nat.log2 m : Int) + e = n := by
  have top := topExp_eq_log pos e
  rw [value] at top
  exact top.symm.trans (Int.log_zpow one_lt_two n)

theorem log2Fin_of_zpow {m : Nat} {e n : Int} (pos : m ≠ 0) (value : (m : ℚ) * 2 ^ e = 2 ^ n) : log2Fin m e = Fmt.f32.round 0 (intFV n) := by
  have log := log2_add_of_zpow pos value
  have power : m = 2 ^ Nat.log2 m := by
    have units : (m : ℚ) * 2 ^ e = 2 ^ (Nat.log2 m) * 2 ^ e := by rw [value, ← log, zpow_add₀ two_ne_zero, zpow_natCast]
    exact_mod_cast mul_right_cancel₀ (by positivity) units
  rw [log2Fin, if_pos power, log]

theorem flog2_exact {x : Nat} {n : Int} (fin : (Fmt.f32.dec x).isFin = true) (value : (Fmt.f32.dec x).rat = 2 ^ n) :
    Exactly Fmt.f32 (flog2N x) n := by
  obtain ⟨neg, m, e, h⟩ := FV.exists_of_isFin fin
  rw [h] at value
  have positive : 0 < (FV.fin neg m e).rat := by rw [value]; positivity
  have pos : m ≠ 0 := by rintro rfl; exact positive.ne' (FV.rat_zero neg e)
  obtain rfl := (rat_fin_pos_iff pos e).mp positive
  have units : (m : ℚ) * 2 ^ e = 2 ^ n := by rw [← abs_rat_fin false, value, abs_of_pos (by positivity)]
  have log : (Nat.log2 m : Int) + e = n := log2_add_of_zpow pos units
  obtain ⟨significand, least, most⟩ := dec_fin_bounds h
  have bits : Nat.log2 m < 24 := (Nat.log2_lt pos).mpr significand
  rw [flog2N, funOf_fin h]
  dsimp only
  rw [if_neg pos, if_neg Bool.false_ne_true, log2Fin_of_zpow pos units]
  exact f32_round_intFV (by omega)

/-! ### Sine and cosine of multiples of π -/

/-- An odd number of halves has an odd significand over a proper fraction's denominator. -/
theorem significand_of_half {m a : Nat} {e : Int} (value : (m : ℚ) * 2 ^ e = a + 1 / 2) :
    e < 0 ∧ ∃ k : Nat, (-e).toNat = k + 1 ∧ m = (2 * a + 1) * 2 ^ k := by
  have negative : e < 0 := by
    by_contra nonneg
    rw [zpow_eq_pow_toNat (not_lt.mp nonneg)] at value
    have doubled : (2 : ℚ) * (m * 2 ^ e.toNat) = 2 * a + 1 := by rw [value]; ring
    have odd : 2 * (m * 2 ^ e.toNat) = 2 * a + 1 := mod_cast doubled
    omega
  obtain ⟨k, hk⟩ : ∃ k : Nat, (-e).toNat = k + 1 := ⟨(-e).toNat - 1, by omega⟩
  have scale : (2 : ℚ) ^ e * 2 ^ (k + 1) = 1 := by
    rw [← hk, ← zpow_natCast, ← zpow_add₀ two_ne_zero, Int.toNat_of_nonneg (by omega), add_neg_cancel, zpow_zero]
  have significand : (m : ℚ) = (2 * a + 1) * 2 ^ k := by
    calc (m : ℚ) = m * 2 ^ e * 2 ^ (k + 1) := by rw [mul_assoc, scale, mul_one]
      _ = (2 * a + 1) * 2 ^ k := by rw [value]; ring
  exact ⟨negative, k, hk, mod_cast significand⟩

theorem sinpiFin_of_half (neg : Bool) {m a : Nat} {e : Int} (value : (m : ℚ) * 2 ^ e = a + 1 / 2) :
    sinpiFin neg m e = Fmt.f32.round 0 (.fin (neg != (a % 2 == 1)) 1 0) := by
  obtain ⟨negative, k, hk, significand⟩ := significand_of_half value
  have half := Nat.two_pow_pos k
  have nonzero : m % 2 ^ (k + 1) ≠ 0 := by
    rw [significand, show (2 * a + 1) * 2 ^ k = 2 ^ k + 2 ^ (k + 1) * a by ring, Nat.add_mul_mod_self_left,
      Nat.mod_eq_of_lt (Nat.pow_lt_pow_right one_lt_two (Nat.lt_succ_self k))]
    exact half.ne'
  unfold sinpiFin
  rw [hk, if_neg (not_or.mpr ⟨not_le.mpr negative, nonzero⟩), pow_succ]
  generalize 2 ^ k = h at *
  obtain ⟨b, rfl | rfl⟩ := Nat.even_or_odd' a
  · have turn : m % (2 * (h * 2)) = h := by
      rw [significand, show (2 * (2 * b) + 1) * h = h + 2 * (h * 2) * b by ring, Nat.add_mul_mod_self_left, Nat.mod_eq_of_lt (by omega)]
    have first : ¬h > h * 2 := by omega
    simp [turn, first, Nat.mul_comm]
  · have turn : m % (2 * (h * 2)) = 3 * h := by
      rw [significand, show (2 * (2 * b + 1) + 1) * h = 3 * h + 2 * (h * 2) * b by ring, Nat.add_mul_mod_self_left, Nat.mod_eq_of_lt (by omega)]
    have second : 3 * h > h * 2 := by omega
    have reflected : 3 * h - h * 2 = h := by omega
    have odd : (2 * b + 1) % 2 = 1 := by omega
    simp only [turn, if_pos second, reflected, Nat.mul_comm 2 h, lt_irrefl, gt_iff_lt, if_false, if_true, odd, beq_self_eq_true, Bool.bne_true]

theorem cospiFin_of_nat {m a : Nat} {e : Int} (value : (m : ℚ) * 2 ^ e = a) :
    cospiFin m e = Fmt.f32.round 0 (.fin (a % 2 == 1) 1 0) := by
  unfold cospiFin
  obtain positive | nonpos := lt_or_ge 0 e
  · rw [if_pos positive]
    obtain ⟨k, hk⟩ : ∃ k : Nat, e.toNat = k + 1 := ⟨e.toNat - 1, by omega⟩
    have even : a = 2 * (m * 2 ^ k) := by
      rw [zpow_eq_pow_toNat positive.le, hk] at value
      have cast : (a : ℚ) = 2 * (m * 2 ^ k) := by rw [← value]; ring
      exact_mod_cast cast
    rw [even, Nat.mul_mod_right]
    rfl
  · rw [if_neg (not_lt.mpr nonpos)]
    have significand : m = a * 2 ^ (-e).toNat := by
      have cast : (m : ℚ) = a * 2 ^ (-e).toNat := by
        rw [← zpow_natCast, Int.toNat_of_nonneg (by omega), zpow_neg, ← value, mul_assoc, mul_inv_cancel₀ (by positivity), mul_one]
      exact_mod_cast cast
    have unit := Nat.two_pow_pos (-e).toNat
    generalize 2 ^ (-e).toNat = d at *
    obtain ⟨b, rfl | rfl⟩ := Nat.even_or_odd' a
    · have turn : m % (2 * d) = 0 := by rw [significand, show 2 * b * d = 2 * d * b by ring, Nat.mul_mod_right]
      simp [turn, unit.ne]
    · have turn : m % (2 * d) = d := by
        rw [significand, show (2 * b + 1) * d = d + 2 * d * b by ring, Nat.add_mul_mod_self_left, Nat.mod_eq_of_lt (by omega)]
      have above : 2 * d > d := by omega
      simp [turn, above, unit.ne]

/-- ±1, by the parity of n. -/
theorem f32_round_sign {neg : Bool} {n : Nat} (parity : neg = (n % 2 == 1)) :
    Exactly Fmt.f32 (Fmt.f32.round 0 (.fin neg 1 0)) ((-1) ^ n) := by
  have power : (if neg then -1 else 1 : ℚ) * 2 ^ (0 : ℤ) = (-1) ^ n := by
    obtain even | odd := Nat.even_or_odd n
    · simp [parity, even.neg_one_pow, Nat.even_iff.mp even]
    · simp [parity, odd.neg_one_pow, Nat.odd_iff.mp odd]
  exact power ▸ f32_round_two_zpow neg (by decide) (by decide)

theorem fsinpi_exact {x : Nat} {n : Int} (fin : (Fmt.f32.dec x).isFin = true) (value : (Fmt.f32.dec x).rat = n + 1 / 2) :
    Exactly Fmt.f32 (fsinpiN x) ((-1) ^ n.natAbs) := by
  obtain ⟨neg, m, e, h⟩ := FV.exists_of_isFin fin
  rw [h] at value
  have nonzero : (FV.fin neg m e).rat ≠ 0 := fun zero => by
    rw [value] at zero
    have odd : 2 * n + 1 = 0 := by
      have doubled : (2 : ℚ) * n + 1 = 0 := by linear_combination 2 * zero
      exact_mod_cast doubled
    omega
  have pos : m ≠ 0 := by rintro rfl; exact nonzero (FV.rat_zero neg e)
  rw [fsinpiN, funOf_fin h]
  dsimp only
  rw [if_neg pos]
  obtain nonneg | negative := le_or_gt 0 n
  · have sign : (0 : ℚ) < n + 1 / 2 := by have := Int.cast_nonneg (R := ℚ) nonneg; linarith
    obtain rfl := (rat_fin_pos_iff pos e).mp (value ▸ sign)
    have units : (m : ℚ) * 2 ^ e = (n.natAbs : ℕ) + 1 / 2 := by
      rw [← abs_rat_fin false, value, abs_of_pos sign, Nat.cast_natAbs, abs_of_nonneg nonneg]
    rw [sinpiFin_of_half false units]
    exact f32_round_sign (by simp)
  · have below : (n : ℚ) ≤ -1 := by exact_mod_cast Int.le_sub_one_of_lt negative
    have sign : (n : ℚ) + 1 / 2 < 0 := by linarith
    obtain rfl := (rat_fin_neg_iff pos e).mp (value ▸ sign)
    have units : (m : ℚ) * 2 ^ e = ((n.natAbs - 1 : ℕ) : ℚ) + 1 / 2 := by
      rw [← abs_rat_fin true, value, abs_of_neg sign, Nat.cast_sub (by omega), Nat.cast_natAbs, abs_of_neg negative]
      push_cast; ring
    rw [sinpiFin_of_half true units]
    refine f32_round_sign ?_
    rw [Bool.eq_iff_iff, bne_iff_ne, ne_eq, eq_comm, Bool.not_eq_true, beq_eq_false_iff_ne, beq_iff_eq]
    omega

theorem fcospi_exact {x : Nat} {n : Int} (fin : (Fmt.f32.dec x).isFin = true) (value : (Fmt.f32.dec x).rat = n) :
    Exactly Fmt.f32 (fcospiN x) ((-1) ^ n.natAbs) := by
  obtain ⟨neg, m, e, h⟩ := FV.exists_of_isFin fin
  rw [h] at value
  rw [fcospiN, funOf_fin h]
  obtain rfl | pos := eq_or_ne m 0
  · rw [FV.rat_zero] at value
    obtain rfl : n = 0 := by exact_mod_cast value.symm
    exact exactly_one
  · dsimp only
    rw [if_neg pos, cospiFin_of_nat (units_eq_natAbs value)]
    exact f32_round_sign rfl

/-- Settles O11: each function's argument of this kind is taken apart before any series, and its value is a binary32 value. -/
theorem exactFunctionValues : Obligations.ExactFunctionValues := by
  refine ⟨fun x n fin value low high => ?_, fun x n fin value => ?_, fun x n fin value => ?_, fun x n fin value => ?_⟩
  · have encoded := fexp2_exact fin value low high
    exact ⟨encoded.value, encoded.flags⟩
  · have encoded := flog2_exact fin value
    exact ⟨encoded.finite, encoded.value, encoded.flags⟩
  · have encoded := fsinpi_exact fin value
    exact ⟨encoded.value, encoded.flags⟩
  · have encoded := fcospi_exact fin value
    exact ⟨encoded.value, encoded.flags⟩

end Sys2Proof.Machine
end

section
/-! PROOF. O60 fails: a die that was declared dead and has not heard of it still acts under its own epoch (R326, R339). The value of
coherent memory leaves its dirty bytes out, and its answer to a recall puts them there. -/

namespace Sys2Proof.Machine

/-- The first sector of device 3. -/
def awaySector : Nat := 3 * 2 ^ 33
/-- Die 0 of device 0 was declared dead, which raised its epoch at this device's homes to 1. It has not heard of that: it goes by epoch 0
and holds the sector of device 3 in M with a dirty byte, 1. -/
def unheardDeath : State :=
  { State.reset with
    epochs := [(0, 1)]
    dead := [0]
    secs := [(awaySector, { DieSec.absent with st := .m, dirty := [(awaySector * 64, 1)] })] }

theorem unheardDeath_sound : SectorsSound unheardDeath := by unfold SectorsSound; decide +kernel

/-- The byte has the home's value, 0, before the recall. -/
theorem unheardDeath_byte : cohByte unheardDeath (awaySector * 64) = 0 := by decide +kernel

/-- The recall of device 3's home comes under the die's own epoch. The die answers it, and the byte is 1. -/
theorem recall_changes_byte {s' : State} (h : exec (.recall ⟨0, 0⟩ awaySector) unheardDeath = .next s') : cohByte s' (awaySector * 64) = 1 := by
  have run : (match exec (.recall ⟨0, 0⟩ awaySector) unheardDeath with
      | .next u => decide (cohByte u (awaySector * 64) = 1)
      | _ => false) = true := by decide +kernel
  rw [h] at run
  exact of_decide_eq_true run

/-- Refutes O60: its clause for RECALL keeps every byte of memory wherever the die sectors are sound and memory is in canonical form. It
lacks the premise that the die goes by the epoch its homes hold for it (`Live`), and in `unheardDeath` the recall changes a byte. -/
theorem not_dieMessages : ¬ Obligations.DieMessages := by
  rintro ⟨-, -, -, -, -, -, answers, -⟩
  obtain ⟨-, received⟩ := answers 0 0 awaySector unheardDeath
  obtain ⟨s', hrun, same, -⟩ := received (by decide) (by decide) rfl
  have kept : cohByte s' (awaySector * 64) = cohByte unheardDeath (awaySector * 64) := same unheardDeath_sound rfl _
  rw [recall_changes_byte hrun, unheardDeath_byte] at kept
  exact absurd kept (by decide)

end Sys2Proof.Machine
end

section
/-! PROOF. O22 fails: it says nothing of the blocks that an L1 may hold. A range operation acts on the blocks whose words the range meets
(R113), and so passes over one that marks a byte dirty outside the words it spans. -/

namespace Sys2Proof.Machine

/-- `CINV` without a reply, with its pointer at v20:v21 and its count in v20. -/
def cinvArgs : Mem := ⟨⟨1, 0, false, 0, 63, 63⟩, 0, 0, 20, 20, none⟩
/-- A team of one pass at address 0 whose argument pair is 4: the range is bytes 4 to 7 of its context. -/
def rangeTeam : Team := startTeam 0 0 0 22 32 0 0 0 bareCtx 0 0 4 false
/-- The page of addresses 0 to 4095, software-managed, at physical address 2^30, which may be written. -/
def rangePage : Tlb := ⟨0, 0, 4096, 2 ^ 30, true, false, false, 1, 0⟩
/-- A block of the first frame of that page that spans word 0, with byte 4 of the frame marked dirty. -/
def strayBlock : Block := ⟨2 ^ 22, 0, 0, true, [(4, 7)], [4], 0, none, 1⟩
/-- The team has its turn, and its core holds the block. -/
def strayDirty : State :=
  { State.reset with teams := [rangeTeam], tlb := [rangePage], cores := [(0, { Core.reset with blocks := [strayBlock] })] }

theorem strayDirty_ready : Ready (.cinv cinvArgs) strayDirty rangeTeam where
  team := by decide +kernel
  issues := by decide +kernel
  wf := by decide +kernel
  level := by decide +kernel
  sig := by decide +kernel
  fresh := rfl
  named := by
    have below : ∀ r ∈ namedRegs (.cinv cinvArgs), r < rangeTeam.nreg := by decide +kernel
    exact fun r hr => ⟨below r hr, .inl List.not_mem_nil, List.not_mem_nil⟩
  guard := by unfold Team.clean; decide +kernel
  clean := by unfold Team.clean; decide +kernel
  stall := fun _ => rfl

theorem rangeTeam_range : RangeAt rangeTeam 0 cinvArgs 4 4 := by
  have space : PtrFields 0 0 4 := .inl ⟨rfl, rfl, by decide⟩
  exact ⟨⟨0, 0, 4, 4, space, space, by decide +kernel, rfl, by decide⟩, by decide, by decide +kernel, by decide⟩

/-- The one page of the range may be written. -/
theorem strayDirty_page : transFor strayDirty (strayDirty.ctxOf rangeTeam) (strayDirty.isSup rangeTeam) ⟨true, false, false, false, false⟩ 4 =
    .ok rangePage := by decide +kernel

theorem pagesOf_range : pagesOf 4 4 = [(4, 4)] := by decide

/-- The dirty byte of the block lies in the range. -/
theorem strayDirty_inRange : InRange strayDirty rangeTeam true 4 4 1 (2 ^ 30 + 4) :=
  ⟨(4, 4), by simp [pagesOf_range], rangePage, strayDirty_page, rfl, by decide, by decide⟩

theorem strayDirty_sectorsSound : SectorsSound strayDirty :=
  ⟨.nil, by simp [strayDirty, State.reset], by simp [strayDirty, State.reset]⟩

/-- `CINV` leaves the block in the L1 as it is. -/
theorem cinv_leaves_strayBlock {s' : State} (h : exec (.cinv cinvArgs) strayDirty = .next s') : (s'.core 0).blocks = [strayBlock] := by
  have run : (match exec (.cinv cinvArgs) strayDirty with
      | .next u => decide ((u.core 0).blocks = [strayBlock])
      | _ => false) = true := by decide +kernel
  rw [h] at run
  exact of_decide_eq_true run

/-- The start of a group changes no core. -/
theorem noteStart_cores (s : State) (t : Team) : (noteStart s t).cores = s.cores := by
  unfold noteStart
  split
  · rfl
  · split <;> rfl

/-- An instruction retires with the cores that its effect leaves. -/
theorem RetiresTo.core {i : Instr} {t u : Team} {s1 s' : State} {pc : BitVec 48} {a b : BitVec 16} {st : Bool}
    (h : RetiresTo i t u s1 s' pc a b st) (c : Nat) : s'.core c = s1.core c := by
  obtain ⟨ps, ev, rfl⟩ := h
  unfold State.core
  rw [noteStart_cores]

/-- Refutes O22: its clause that no dirty byte of a software-managed page is left in the range lacks a premise that dirty bytes lie in the
words their block spans. In `strayDirty` one does not, and after `CINV` of its word it is still in the L1. -/
theorem not_rangeOperations : ¬ Obligations.RangeOperations := by
  rintro ⟨-, cinv, -⟩
  obtain ⟨-, range⟩ := cinv cinvArgs strayDirty rangeTeam strayDirty_ready
  have permitted : ∀ p ∈ pagesOf 4 4, ∃ f, transFor strayDirty (strayDirty.ctxOf rangeTeam) (strayDirty.isSup rangeTeam)
      ⟨true, false, false, false, false⟩ p.1 = .ok f := by
    rw [pagesOf_range]
    exact fun p hp => ⟨rangePage, by rw [List.mem_singleton.mp hp]; exact strayDirty_page⟩
  obtain ⟨-, completes⟩ := range 0 4 4 (by decide +kernel) rangeTeam_range permitted
  obtain ⟨_, _, _, s1, ⟨s', hrun, retires⟩, -, -, effect⟩ :=
    completes rfl (by simp [strayDirty, State.reset]) (by decide +kernel) (by decide +kernel) rfl
  obtain ⟨-, -, clean, -⟩ := effect strayDirty_sectorsSound (by simp [Live, strayDirty, State.reset]) rfl
  have left : (s1.core rangeTeam.core).blocks = [strayBlock] := (congrArg Core.blocks (retires.core 0)).symm.trans (cinv_leaves_strayBlock hrun)
  exact clean _ strayDirty_inRange strayBlock (by simp [left]) rfl (2 ^ 30 + 4, 7) (by decide) rfl

end Sys2Proof.Machine
end

section
/-! SUPPORT. Words and bytes: numbers and their little-endian bytes (R3), and the base word and its fields (Table 7-1). -/

namespace Sys2Proof

open Machine

theorem ofNat_eq_of_mod {w n : Nat} {x : BitVec w} (h : n % 2 ^ w = x.toNat) : BitVec.ofNat w n = x :=
  BitVec.eq_of_toNat_eq (by simpa using h)

/-! ## Little-endian bytes -/

@[simp] theorem leBytes_length (n v : Nat) : (leBytes n v).length = n := by
  induction n generalizing v with
  | zero => rfl
  | succ n ih => simp [leBytes, ih]

theorem leNat_leBytes (n v : Nat) : leNat (leBytes n v) = v % 256 ^ n := by
  induction n generalizing v with
  | zero => simp [leBytes, leNat, Nat.mod_one]
  | succ n ih => simp [leBytes, leNat, ih, Nat.pow_succ', Nat.mod_mul]

theorem leBytes_leNat {n : Nat} {bs : List Byte} (h : bs.length = n) : leBytes n (leNat bs) = bs := by
  subst h
  induction bs with
  | nil => rfl
  | cons b bs ih =>
    have low : BitVec.ofNat 8 (b.toNat + 256 * leNat bs) = b := ofNat_eq_of_mod (by omega)
    have high : (b.toNat + 256 * leNat bs) / 256 = leNat bs := by omega
    simp only [List.length_cons, leNat, leBytes, low, high, ih]

theorem leNat_lt {n : Nat} {bs : List Byte} (h : bs.length = n) : leNat bs < 256 ^ n := by
  subst h
  induction bs with
  | nil => simp [leNat]
  | cons b bs ih =>
    simp only [leNat, List.length_cons, Nat.pow_succ]
    omega

theorem toNat_bitAt (v i : Nat) : (bitAt v i).toNat = v / 2 ^ i % 2 := by
  unfold bitAt
  rcases Nat.mod_two_eq_zero_or_one (v / 2 ^ i) with h | h <;> simp [h]

theorem bitAt_eq {v i : Nat} {b : Bool} (h : v / 2 ^ i % 2 = b.toNat) : bitAt v i = b := by
  unfold bitAt
  rw [h]
  cases b <;> rfl

/-! ## The base word -/

theorem word_lt (r : Raw) : r.word < 2 ^ 64 := by
  have := Bool.toNat_lt r.h.y
  unfold Raw.word
  omega

/-- Every field of Table 7-1 is read back from the base word. -/
theorem rawOf_word (r : Raw) (e : Nat) : rawOf r.word e = { r with ext := BitVec.ofNat 64 e, base := BitVec.ofNat 64 r.word } := by
  obtain ⟨len, ⟨cls, stall, y, hold, g1, g2⟩, opc, vd, va, vb, m, ext, base⟩ := r
  have hy := Bool.toNat_lt y
  simp only [rawOf, Raw.word, Raw.mk.injEq, Hdr.mk.injEq, and_true]
  refine ⟨ofNat_eq_of_mod ?_,
    ⟨ofNat_eq_of_mod ?_, ofNat_eq_of_mod ?_, bitAt_eq ?_, ofNat_eq_of_mod ?_, ofNat_eq_of_mod ?_, ofNat_eq_of_mod ?_⟩,
    ofNat_eq_of_mod ?_, ofNat_eq_of_mod ?_, ofNat_eq_of_mod ?_, ofNat_eq_of_mod ?_, ofNat_eq_of_mod ?_⟩ <;> omega

/-- The fields of Table 7-1 hold every bit of the base word. -/
theorem word_rawOf {w : Nat} (h : w < 2 ^ 64) (e : Nat) : (rawOf w e).word = w := by
  simp only [Raw.word, rawOf, BitVec.toNat_ofNat, toNat_bitAt]
  omega

end Sys2Proof
end

section
/-! PROOF. The shapes of instructions (Tables 7-5 to 7-10, Table 11-3) as fields of their words: what is written is read back, and what is read
is written as the same fields. -/

namespace Sys2Proof

open Machine

/-- The extension lies within the words that the length code gives (R120). -/
def Raw.Fits (r : Raw) : Prop := r.ext.toNat < 256 ^ (lenBytes r.len.toNat - 8)
/-- The same fields, beside another copy of the base word. -/
def Raw.withBase (r : Raw) (w : DWord) : Raw := { r with base := w }

section
variable {r : Raw}

theorem fits_of_len_one (h : r.len = 1) : r.Fits ↔ r.ext = 0 := by
  simp [Raw.Fits, h, lenBytes, nth, ← BitVec.toNat_inj]

theorem fits_of_len_two (h : r.len = 2) : r.Fits ↔ r.ext.toNat < 2 ^ 32 := by simp [Raw.Fits, h, lenBytes, nth]

theorem fits_of_len_three (h : r.len = 3) : r.Fits := by
  have := r.ext.isLt
  simpa [Raw.Fits, h, lenBytes, nth]

theorem mkRaw_eq_withBase {len : BitVec 2} {vd va vb : RegField} {m : BitVec 4} {ext : DWord} (hlen : r.len = len)
    (hvd : r.vd = vd) (hva : r.va = va) (hvb : r.vb = vb) (hm : r.m = m) (hext : ext.toNat = r.ext.toNat) :
    mkRaw len r.h r.opc.toNat vd va vb m ext = r.withBase 0 := by
  subst hlen hvd hva hvb hm
  simp [mkRaw, Raw.withBase, BitVec.eq_of_toNat_eq hext]

end

/-- A shape is written as the fields of words from which it is read back, and it is read only from the fields it is written as. -/
structure Lossless {α : Type} (read : Raw → Option α) (write : Nat → α → Raw) : Prop where
  opc : ∀ o a, (write o a).opc = BitVec.ofNat 10 o
  fits : ∀ o a, (write o a).Fits
  read_write : ∀ o a w, read ((write o a).withBase w) = some a
  write_read : ∀ r a, r.Fits → read r = some a → write r.opc.toNat a = r.withBase 0

/-! ## The shapes of Tables 7-5 to 7-10 and 11-3 -/

theorem lossless_alu : Lossless rawAlu? rawAlu where
  opc o a := by unfold rawAlu; split <;> rfl
  fits o a := by
    unfold rawAlu
    split
    · exact (fits_of_len_one rfl).mpr rfl
    · refine (fits_of_len_two rfl).mpr ?_
      simp only [mkRaw, BitVec.toNat_ofNat]
      omega
  read_write o a w := by
    obtain ⟨h, m, vd, va, r | v⟩ := a
    · rfl
    · have imm : BitVec.ofNat 32 (v.toNat % 2 ^ 64) = v := ofNat_eq_of_mod (by omega)
      simpa [rawAlu, rawAlu?, mkRaw, Raw.withBase] using imm
  write_read r a fits read := by
    unfold rawAlu? at read
    split at read
    · next len =>
      cases read
      have ext := (fits_of_len_one len).mp fits
      exact mkRaw_eq_withBase len rfl rfl rfl rfl (by rw [ext])
    · simp only [Option.ite_none_right_eq_some, Option.some.injEq] at read
      obtain ⟨⟨len, vb⟩, rfl⟩ := read
      have ext := (fits_of_len_two len).mp fits
      exact mkRaw_eq_withBase len rfl rfl vb rfl (by simp only [BitVec.toNat_ofNat]; omega)

theorem lossless_ter : Lossless rawTer? rawTer where
  opc _ _ := rfl
  fits o a := by
    refine (fits_of_len_two rfl).mpr ?_
    simp only [rawTer, mkRaw, BitVec.toNat_ofNat]
    omega
  read_write o a w := by
    simp only [rawTer, rawTer?, mkRaw, Raw.withBase, BitVec.toNat_ofNat]
    refine (if_pos ?_).trans ?_
    · simp only [true_and]
      omega
    · congr 2 <;> refine ofNat_eq_of_mod ?_ <;> omega
  write_read r a _ read := by
    simp only [rawTer?, Option.ite_none_right_eq_some, Option.some.injEq] at read
    obtain ⟨⟨len, top⟩, rfl⟩ := read
    exact mkRaw_eq_withBase len rfl rfl rfl rfl (by simp only [BitVec.toNat_ofNat]; omega)

theorem lossless_ctl : Lossless rawCtl? rawCtl where
  opc _ _ := rfl
  fits _ _ := fits_of_len_three rfl
  read_write o a w := by
    simp only [rawCtl, rawCtl?, mkRaw, Raw.withBase, BitVec.toNat_ofNat, bits]
    refine (if_pos ?_).trans ?_
    · simp only [true_and]
      omega
    · congr 2 <;> refine ofNat_eq_of_mod ?_ <;> omega
  write_read r a _ read := by
    simp only [rawCtl?, Option.ite_none_right_eq_some, Option.some.injEq] at read
    obtain ⟨⟨len, m, vb, middle⟩, rfl⟩ := read
    exact mkRaw_eq_withBase len rfl rfl vb m (by simp only [bits, BitVec.toNat_ofNat] at middle ⊢; omega)

theorem lossless_wide : Lossless rawWide? rawWide where
  opc _ _ := rfl
  fits _ _ := fits_of_len_three rfl
  read_write _ _ _ := rfl
  write_read r a _ read := by
    simp only [rawWide?, Option.ite_none_right_eq_some, Option.some.injEq] at read
    obtain ⟨⟨len, va, vb⟩, rfl⟩ := read
    exact mkRaw_eq_withBase len rfl va vb rfl rfl

theorem lossless_nop : Lossless rawNop? rawNop where
  opc _ _ := rfl
  fits _ _ := Nat.pow_pos (by decide)
  read_write _ _ _ := rfl
  write_read r a _ read := by
    simp only [rawNop?, Option.ite_none_right_eq_some, Option.some.injEq] at read
    obtain ⟨⟨m, vd, va, vb, ext⟩, rfl⟩ := read
    exact mkRaw_eq_withBase rfl vd va vb m (by rw [ext])

theorem lossless_mem : Lossless rawMem? rawMem where
  opc o a := by unfold rawMem; split <;> rfl
  fits o a := by
    unfold rawMem
    split
    · exact (fits_of_len_one rfl).mpr rfl
    · exact fits_of_len_three rfl
  read_write o a w := by
    obtain ⟨h, m, vd, va, vb, _ | ⟨off, hint, pol, tg, scope, ord, vc⟩⟩ := a
    · rfl
    · simp only [rawMem, rawMem?, mkRaw, Raw.withBase, BitVec.toNat_ofNat, bits]
      refine (if_neg (by decide)).trans ((if_pos ?_).trans ?_)
      · simp only [true_and]
        omega
      · congr 4 <;> refine ofNat_eq_of_mod ?_ <;> omega
  write_read r a fits read := by
    unfold rawMem? at read
    split at read
    · next len =>
      cases read
      have ext := (fits_of_len_one len).mp fits
      exact mkRaw_eq_withBase len rfl rfl rfl rfl (by rw [ext])
    · simp only [Option.ite_none_right_eq_some, Option.some.injEq] at read
      obtain ⟨⟨len, top, middle⟩, rfl⟩ := read
      exact mkRaw_eq_withBase len rfl rfl rfl rfl (by simp only [bits, BitVec.toNat_ofNat] at middle ⊢; omega)

theorem lossless_mma : Lossless rawMma? rawMma where
  opc _ _ := rfl
  fits _ _ := fits_of_len_three rfl
  read_write o a w := by
    have clr := Bool.toNat_lt a.clr
    have acc := Bool.toNat_lt a.acc32
    simp only [rawMma, rawMma?, mkRaw, Raw.withBase, BitVec.toNat_ofNat, bits]
    refine (if_pos ?_).trans ?_
    · simp only [true_and]
      omega
    congr 2
    · exact bitAt_eq (by omega)
    · exact bitAt_eq (by omega)
    · exact ofNat_eq_of_mod (by omega)
  write_read r a _ read := by
    simp only [rawMma?, Option.ite_none_right_eq_some, Option.some.injEq] at read
    obtain ⟨⟨len, m, top, bit5, bits3⟩, rfl⟩ := read
    exact mkRaw_eq_withBase len rfl rfl rfl m (by simp only [bits, toNat_bitAt, BitVec.toNat_ofNat] at bit5 bits3 ⊢; omega)

/-- A shape whose length code is never 0 (R120): every one but that of `NOP`, which carries its code (R162). -/
structure Sized {α : Type} (read : Raw → Option α) (write : Nat → α → Raw) : Prop extends Lossless read write where
  len : ∀ o a, (write o a).len ≠ 0

theorem sized_alu : Sized rawAlu? rawAlu := ⟨lossless_alu, fun o a => by unfold rawAlu; split <;> simp [mkRaw]⟩
theorem sized_ter : Sized rawTer? rawTer := ⟨lossless_ter, fun o a => by simp [rawTer, mkRaw]⟩
theorem sized_ctl : Sized rawCtl? rawCtl := ⟨lossless_ctl, fun o a => by simp [rawCtl, mkRaw]⟩
theorem sized_wide : Sized rawWide? rawWide := ⟨lossless_wide, fun o a => by simp [rawWide, mkRaw]⟩
theorem sized_mem : Sized rawMem? rawMem := ⟨lossless_mem, fun o a => by unfold rawMem; split <;> simp [mkRaw]⟩
theorem sized_mma : Sized rawMma? rawMma := ⟨lossless_mma, fun o a => by simp [rawMma, mkRaw]⟩

end Sys2Proof
end

section
/-! PROOF. O45, O46: encoding and decoding agree (R120, R125, R136). Each opcode of Table 7-12 is read and written in one shape, so that the
fields agree; and the bytes of an instruction are its fields. -/

namespace Sys2Proof

open Machine

/-- An instruction is read back from the words of these fields. -/
structure ReadBack (r : Raw) (i : Instr) : Prop where
  len : r.len ≠ 0
  fits : r.Fits
  back : ofRaw (r.withBase (BitVec.ofNat 64 r.word)) = some i

/-- What was read is written as these fields, the copy of the base word apart. -/
def WrittenAs (r : Raw) (found : Option Instr) : Prop := ∀ i, found = some i → ∃ w, toRaw i = some (r.withBase w)

section
variable {α : Type} {read : Raw → Option α} {write : Nat → α → Raw} {c : α → Instr} {o : Nat}

theorem Lossless.readBack {a : α} (shape : Lossless read write) (len : (write o a).len ≠ 0) (small : o < 1024)
    (arm : ∀ r : Raw, r.opc.toNat = o → ofRaw r = (read r).map c) : ReadBack (write o a) (c a) where
  len := len
  fits := shape.fits o a
  back := by
    rw [arm, shape.read_write]
    · rfl
    · simp only [Raw.withBase, shape.opc, BitVec.toNat_ofNat]
      omega

theorem Sized.readBack {a : α} (shape : Sized read write) (small : o < 1024)
    (arm : ∀ r : Raw, r.opc.toNat = o → ofRaw r = (read r).map c) : ReadBack (write o a) (c a) :=
  shape.toLossless.readBack (shape.len o a) small arm

theorem Lossless.writtenAs {r : Raw} (shape : Lossless read write) (fits : r.Fits) (opc : r.opc.toNat = o)
    (row : ∀ a, toRaw (c a) = some (write o a)) : WrittenAs r ((read r).map c) := by
  intro i found
  obtain ⟨a, ha, rfl⟩ := Option.map_eq_some_iff.mp found
  exact ⟨0, by rw [row, ← opc, shape.write_read r a fits ha]⟩

end

/-- The case of one opcode, as the definition of `ofRaw` tests them one after another: a match on literals is by definition a chain of
such tests. (The case analysis that Lean derives for a match of this size is too costly.) -/
theorem WrittenAs.split {r : Raw} {o x : Nat} {found : Option Instr} {other : o ≠ x → Option Instr}
    (here : o = x → WrittenAs r found) (rest : ∀ h, WrittenAs r (other h)) :
    WrittenAs r (dite (o = x) (Eq.ndrec_symm (motive := fun _ => Option Instr) found) other) := by
  split
  · next h =>
    subst h
    exact here rfl
  · exact rest _

/-! ## `XC`, whose function stands in the extension (Table 7-7) -/

/- At a given opcode `ofRaw` is its arm for it by computation: `exact rfl` below, behind `rewrite`, as `rw` would try to close the goal
without unfolding the match. -/

theorem ofRaw_xc {r : Raw} (opc : r.opc.toNat = 0x310) : ofRaw r = rawXc? r := by
  unfold ofRaw
  rewrite [opc]
  exact rfl

theorem readBack_xc {fn : Nat} {a : XcF} {c : XcF → Instr} (small : fn < 128)
    (arm : ∀ r : Raw, r.len = 2 ∧ r.m = 0 ∧ r.ext.toNat / 2 ^ 8 = 0 → r.ext.toNat % 2 ^ 7 = fn →
      rawXc? r = some (c ⟨r.h, r.vd, r.va, r.vb, bitAt r.ext.toNat 7⟩)) : ReadBack (rawXc fn a) (c a) := by
  have rep := Bool.toNat_lt a.rep
  have ext : (rawXc fn a).ext.toNat = fn + 2 ^ 7 * a.rep.toNat := by
    simp only [rawXc, mkRaw, BitVec.toNat_ofNat]
    omega
  refine ⟨by simp [rawXc, mkRaw], (fits_of_len_two rfl).mpr (by omega), ?_⟩
  rw [ofRaw_xc rfl, arm _ ⟨rfl, rfl, ?_⟩ ?_]
  · have bit : bitAt (rawXc fn a).ext.toNat 7 = a.rep := bitAt_eq (by omega)
    exact congrArg (fun b => some (c ⟨a.h, a.vd, a.va, a.vb, b⟩)) bit
  · show (rawXc fn a).ext.toNat / 2 ^ 8 = 0
    omega
  · show (rawXc fn a).ext.toNat % 2 ^ 7 = fn
    omega

theorem rawXc_eq_withBase {r : Raw} {fn : Nat} (opc : r.opc.toNat = 0x310) (len : r.len = 2) (m : r.m = 0)
    (top : r.ext.toNat / 2 ^ 8 = 0) (low : r.ext.toNat % 2 ^ 7 = fn) :
    rawXc fn ⟨r.h, r.vd, r.va, r.vb, bitAt r.ext.toNat 7⟩ = r.withBase 0 := by
  have fields := mkRaw_eq_withBase len (rfl : r.vd = _) (rfl : r.va = _) (rfl : r.vb = _) m (rfl : r.ext.toNat = _)
  rw [opc] at fields
  rw [← fields, rawXc]
  congr
  exact ofNat_eq_of_mod (by simp only [toNat_bitAt]; omega)

theorem writtenAs_xc {r : Raw} (opc : r.opc.toNat = 0x310) : WrittenAs r (rawXc? r) := by
  intro i found
  simp only [rawXc?, Option.ite_none_right_eq_some] at found
  obtain ⟨⟨len, m, top⟩, found⟩ := found
  refine ⟨0, ?_⟩
  split at found
  case h_16 => cases found
  all_goals
    next low =>
    cases found
    rw [← rawXc_eq_withBase opc len m top low]
    rfl

/-! ## `ILLEGAL`, which carries its base word -/

theorem rawIllegal_eq_rawOf {w : DWord} (len : w.toNat % 4 = 1) (opc : w.toNat / 2 ^ 26 % 1024 = 0x3ff) :
    rawIllegal w = rawOf w.toNat 0 := by
  have hlen : BitVec.ofNat 2 w.toNat = 1 := ofNat_eq_of_mod len
  have hopc : BitVec.ofNat 10 (w.toNat / 2 ^ 26) = 0x3ff := ofNat_eq_of_mod opc
  simp only [rawIllegal, rawOf, hlen, hopc, BitVec.ofNat_toNat, BitVec.setWidth_eq]

theorem ofRaw_illegal {r : Raw} (opc : r.opc.toNat = 0x3ff) :
    ofRaw r = if r.len = 1 then some (.illegal r.base) else none := by
  unfold ofRaw
  rewrite [opc]
  exact rfl

theorem readBack_illegal {w : DWord} (len : w.toNat % 4 = 1) (opc : w.toNat / 2 ^ 26 % 1024 = 0x3ff) :
    ReadBack (rawIllegal w) (.illegal w) where
  len := by simp [rawIllegal]
  fits := (fits_of_len_one rfl).mpr rfl
  back := by
    have word : (rawIllegal w).word = w.toNat := by rw [rawIllegal_eq_rawOf len opc, word_rawOf w.isLt]
    rw [ofRaw_illegal rfl, word]
    simp [rawIllegal, Raw.withBase]

theorem writtenAs_illegal {r : Raw} (opc : r.opc.toNat = 0x3ff) (fits : r.Fits) (base : r.base = BitVec.ofNat 64 r.word) :
    WrittenAs r (if r.len = 1 then some (.illegal r.base) else none) := by
  intro i found
  simp only [Option.ite_none_right_eq_some, Option.some.injEq] at found
  obtain ⟨len, rfl⟩ := found
  have ext := (fits_of_len_one len).mp fits
  have word : r.base.toNat = r.word := by rw [base, BitVec.toNat_ofNat, Nat.mod_eq_of_lt (word_lt r)]
  have hopc : r.opc = 0x3ff := BitVec.eq_of_toNat_eq opc
  have same : rawIllegal r.base = r.withBase r.base := by
    simp [rawIllegal, word, rawOf_word, Raw.withBase, ext, len, hopc]
  exact ⟨r.base, congrArg some same⟩

/-! ## The opcodes of Table 7-12 -/

theorem nop_len {a : NopF} (wf : (Instr.nop a).WellFormed = true) : a.len ≠ 0 := by
  simp only [Instr.WellFormed, encodable, desc, Bool.and_eq_true, decide_eq_true_eq] at wf
  exact wf.2

/-- Every instruction of a team is read back from its fields: in each row of the table `ofRaw` has, for the opcode that `toRaw` writes, the
reader of the shape that `toRaw` writes. -/
theorem readBack_of_toRaw {r : Raw} {i : Instr} (written : toRaw i = some r) (wf : i.WellFormed = true)
    (ill : ∀ w, i = .illegal w → w.toNat % 4 = 1 ∧ w.toNat / 2 ^ 26 % 1024 = 0x3ff) : ReadBack r i := by
  have alu := sized_alu
  have ter := sized_ter
  have ctl := sized_ctl
  have wide := sized_wide
  have mem := sized_mem
  have mma := sized_mma
  cases i with
  | illegal w =>
    cases written
    obtain ⟨len, opc⟩ := ill w rfl
    exact readBack_illegal len opc
  | nop a =>
    cases written
    exact lossless_nop.readBack (nop_len wf) (by decide) (fun r opc => by unfold ofRaw; rewrite [opc]; exact rfl)
  | xcG2s a | xcS2g a | xcS2s a | xcG2o a | xcS2o a | xcC2d a | xcGath a | xcRscat a | xcAgath a | xcAredu a | xcPut a | xcGet a
  | xcGstart a | xcGstat a | xcGcond a =>
    cases written
    exact readBack_xc (by decide) (fun r form low => by rw [rawXc?, if_pos form, low]; rfl)
  | _ =>
    cases written <;>
      exact Sized.readBack (by assumption) (by decide) (fun r opc => by unfold ofRaw; rewrite [opc]; exact rfl)

/-- What `ofRaw` reads is written as the fields it was read from: in each arm `toRaw` writes the shape that the arm reads, under the arm's
opcode. The arms of `XC` and `ILLEGAL` are its last. -/
theorem writtenAs_ofRaw {r : Raw} (fits : r.Fits) (base : r.base = BitVec.ofNat 64 r.word) : WrittenAs r (ofRaw r) := by
  have alu := lossless_alu
  have ter := lossless_ter
  have ctl := lossless_ctl
  have wide := lossless_wide
  have nop := lossless_nop
  have mem := lossless_mem
  have mma := lossless_mma
  unfold ofRaw
  generalize opc : r.opc.toNat = o
  set_option smartUnfolding false in
  repeat
    refine .split (fun here => Lossless.writtenAs (by assumption) fits (opc.trans here) (by exact fun _ => rfl)) (fun _ => ?_)
  refine .split (fun here => writtenAs_xc (opc.trans here)) (fun _ => ?_)
  refine .split (fun here => writtenAs_illegal (opc.trans here) fits base) (fun _ => ?_)
  exact fun _ none => nomatch none

/-! ## Bytes -/

theorem eight_le_lenBytes : ∀ len : BitVec 2, len ≠ 0 → 8 ≤ lenBytes len.toNat := by decide
theorem lenBytes_le : ∀ len : BitVec 2, lenBytes len.toNat ≤ 16 := by decide

theorem word_mod_four (r : Raw) : r.word % 4 = r.len.toNat := by
  unfold Raw.word
  omega

section
variable {i : Instr} {r : Raw}

theorem encode_of_toRaw (h : toRaw i = some r) :
    encode i = leBytes 8 r.word ++ leBytes (lenBytes r.len.toNat - 8) r.ext.toNat := by
  simp only [encode, h]

theorem byteLength_of_toRaw (h : toRaw i = some r) : byteLength i = lenBytes r.len.toNat := by simp only [byteLength, h]

theorem encode_length (h : toRaw i = some r) (len : r.len ≠ 0) : (encode i).length = byteLength i := by
  have := eight_le_lenBytes r.len len
  rw [encode_of_toRaw h, byteLength_of_toRaw h, List.length_append, leBytes_length, leBytes_length]
  omega

theorem decode_of_readBack (written : toRaw i = some r) (back : ReadBack r i) (wf : i.WellFormed = true) (rest : List Byte) :
    decode (encode i ++ rest) = some (i, byteLength i) := by
  obtain ⟨len, fits, read⟩ := back
  have eight := eight_le_lenBytes r.len len
  have base : leNat ((encode i ++ rest).take 8) = r.word := by
    rw [encode_of_toRaw written, List.append_assoc, List.take_left' (leBytes_length 8 _), leNat_leBytes]
    exact Nat.mod_eq_of_lt (word_lt r)
  have ext : leNat (((encode i ++ rest).drop 8).take (lenBytes r.len.toNat - 8)) = r.ext.toNat := by
    rw [encode_of_toRaw written, List.append_assoc, List.drop_left' (leBytes_length 8 _), List.take_left' (leBytes_length _ _),
      leNat_leBytes, Nat.mod_eq_of_lt fits]
  have long : ¬ (lenBytes r.len.toNat = 0 ∨ (encode i ++ rest).length < lenBytes r.len.toNat) := by
    rw [List.length_append, encode_length written len, byteLength_of_toRaw written]
    omega
  have fields : rawOf r.word r.ext.toNat = r.withBase (BitVec.ofNat 64 r.word) := by
    rw [rawOf_word, BitVec.ofNat_toNat, BitVec.setWidth_eq, Raw.withBase]
  simp only [decode, base, word_mod_four, ext, if_neg long, fields, read, wf, if_true, byteLength_of_toRaw written]

theorem decode_eq_some {bs : List Byte} {n : Nat} (h : decode bs = some (i, n)) :
    n ≠ 0 ∧ n ≤ bs.length ∧ n = lenBytes (leNat (bs.take 8) % 4) ∧ i.WellFormed = true ∧
      ofRaw (rawOf (leNat (bs.take 8)) (leNat ((bs.drop 8).take (n - 8)))) = some i := by
  simp only [decode] at h
  split at h
  · cases h
  · next long =>
    split at h
    · next j read =>
      simp only [Option.ite_none_right_eq_some, Option.some.injEq, Prod.mk.injEq] at h
      obtain ⟨wf, rfl, rfl⟩ := h
      exact ⟨by omega, by omega, rfl, wf, read⟩
    · cases h

end

theorem rawOf_len (w e : Nat) : (rawOf w e).len.toNat = w % 4 := BitVec.toNat_ofNat w 2

theorem ext_rawOf {w e : Nat} (h : e < 256 ^ (lenBytes (w % 4) - 8)) : (rawOf w e).ext.toNat = e := by
  have := lenBytes_le (rawOf w e).len
  rw [rawOf_len] at this
  have le : 256 ^ (lenBytes (w % 4) - 8) ≤ 256 ^ 8 := Nat.pow_le_pow_right (by decide) (by omega)
  exact Nat.mod_eq_of_lt (h.trans_le le)

/-- The fields that `decode` takes from the bytes of an instruction hold every bit of them. -/
theorem take_eq_leBytes {bs : List Byte} {n : Nat} (eight : 8 ≤ n) (long : n ≤ bs.length) :
    bs.take n = leBytes 8 (leNat (bs.take 8)) ++ leBytes (n - 8) (leNat ((bs.drop 8).take (n - 8))) := by
  rw [leBytes_leNat, leBytes_leNat, ← List.take_add, Nat.add_sub_cancel' eight]
  · rw [List.length_take, List.length_drop]
    omega
  · rw [List.length_take]
    omega

/-- Settles O45: by cases on the instruction, its fields are read back (`readBack_of_toRaw`), and its bytes give back the fields. -/
theorem encodingIsReadBack : Obligations.EncodingIsReadBack := by
  intro i team wf known rest
  obtain ⟨r, written⟩ := Option.isSome_iff_exists.mp team
  have back := readBack_of_toRaw written wf known
  exact ⟨decode_of_readBack written back wf rest, encode_length written back.len⟩

/-- Settles O46: by cases on the opcode, what is read is written as the fields it was read from (`writtenAs_ofRaw`), and these hold
every bit of the bytes. -/
theorem decodingDropsNothing : Obligations.DecodingDropsNothing := by
  intro bs i n h
  obtain ⟨nonzero, long, hn, wf, read⟩ := decode_eq_some h
  have len := rawOf_len (leNat (bs.take 8)) (leNat ((bs.drop 8).take (n - 8)))
  have eight : 8 ≤ n := by
    rw [hn, ← len]
    refine eight_le_lenBytes _ (fun zero => nonzero ?_)
    rw [hn, ← len, zero]
    rfl
  have whole := take_eq_leBytes eight long
  have base := leNat_lt (bs := bs.take 8) (n := 8) (by rw [List.length_take]; omega)
  have small := leNat_lt (bs := (bs.drop 8).take (n - 8)) (n := n - 8) (by rw [List.length_take, List.length_drop]; omega)
  generalize leNat (bs.take 8) = w, leNat ((bs.drop 8).take (n - 8)) = e at *
  have word : (rawOf w e).word = w := word_rawOf base e
  have ext : (rawOf w e).ext.toNat = e := ext_rawOf (hn ▸ small)
  have fits : (rawOf w e).Fits := by rwa [Raw.Fits, len, ← hn, ext]
  obtain ⟨b, written⟩ := writtenAs_ofRaw fits (congrArg (BitVec.ofNat 64) word.symm) i read
  have length : byteLength i = n := by rw [byteLength_of_toRaw written, hn, ← len]; rfl
  have bytes : encode i = leBytes 8 w ++ leBytes (n - 8) e := by
    rw [encode_of_toRaw written, ← byteLength_of_toRaw written, length]
    exact congrArg₂ (fun u v => leBytes 8 u ++ leBytes (n - 8) v) word ext
  exact ⟨wf, Option.isSome_of_eq_some written, length.symm, whole.trans bytes.symm⟩

end Sys2Proof
end

section
/-! SUPPORT. The integer operations of Tables 8-1 to 8-5 as operations on words: wrapping, saturation, division, shifts, counts, bit fields. -/

namespace Sys2Proof.Machine

/-! ## Wrapping, saturation and sign readings (R71) -/

theorem wrap_eq_ofInt (v : Int) (w : Nat) : wrap v w = (BitVec.ofInt w v).toNat := by
  rw [wrap, BitVec.toNat_ofInt]

theorem word_toNat (x : Word) : word x.toNat = x := (BitVec.ofNat_toNat 32 x).trans (BitVec.setWidth_eq x)

theorem word_wrap (v : Int) : word (wrap v 32) = BitVec.ofInt 32 v := by rw [wrap_eq_ofInt, word_toNat]

theorem wrapW_eq (v : Int) : wrapW v = (BitVec.ofInt 32 v, 0) := by rw [wrapW, word_wrap]

theorem sint_eq_toInt {w : Nat} (x : BitVec w) : sint x.toNat w = x.toInt := by
  have half : (2 * x.toNat < 2 ^ w) = (x.toNat < 2 ^ (w - 1)) := by
    cases w with
    | zero => simp [BitVec.of_length_zero]
    | succ n => simp only [Nat.add_sub_cancel, Nat.pow_succ, eq_iff_iff]; omega
  simp only [sint, BitVec.toInt_eq_toNat_cond, Nat.mod_eq_of_lt x.isLt, half]

/-- A value and its clamp to a range, `sat` where the clamp changed it. -/
theorem clampTo_of {lo hi v c : Int} (clamp : c = max lo (min hi v)) (range : lo ≤ hi) :
    (word (wrap c 32), flIf (c ≠ v) flSat) = clampTo lo hi v := by
  have kept : c ≠ v ↔ ¬(lo ≤ v ∧ v ≤ hi) := by omega
  simp only [word_wrap, clampTo, ← clamp, flIf, kept, decide_eq_true_eq, ite_not]

theorem satSW_eq_clampS (v : Int) : satSW v = clampS v := by
  refine clampTo_of ?_ (by decide)
  simp only [satS, Nat.reducePow, Nat.reduceSub]
  omega

theorem satZW_eq_clampZ (v : Int) : satZW v = clampZ v := by
  refine clampTo_of ?_ (by decide)
  simp only [satZ, Nat.reducePow]
  omega

/-! ## Products (R141, R150) -/

/-- The product of two words read as signed, in 64 bits. -/
theorem ofInt_mul_toInt (x y : Word) : BitVec.ofInt 64 (x.toInt * y.toInt) = x.signExtend 64 * y.signExtend 64 :=
  BitVec.ofInt_mul x.toInt y.toInt

theorem imulhi_eq (x y : Word) :
    BitVec.ofInt 32 (x.toInt * y.toInt / 4294967296) = (x.signExtend 64 * y.signExtend 64).extractLsb' 32 32 := by
  rw [← ofInt_mul_toInt]
  apply BitVec.eq_of_toNat_eq
  simp only [BitVec.extractLsb'_toNat, BitVec.toNat_ofInt, Nat.shiftRight_eq_div_pow]
  generalize x.toInt * y.toInt = p
  omega

/-- A product of two words does not exceed 64 bits. -/
theorem toNat_mul_setWidth (x y : Word) : (x.setWidth 64 * y.setWidth 64).toNat = x.toNat * y.toNat := by
  have fits : x.toNat * y.toNat < 2 ^ 32 * 2 ^ 32 := Nat.mul_lt_mul'' x.isLt y.isLt
  have wide (z : Word) : (z.setWidth 64).toNat = z.toNat := BitVec.toNat_setWidth_of_le (by decide)
  rw [BitVec.toNat_mul, wide, wide]
  exact Nat.mod_eq_of_lt fits

theorem umulhi_eq (x y : Word) : word (x.toNat * y.toNat / 4294967296) = (x.setWidth 64 * y.setWidth 64).extractLsb' 32 32 := by
  rw [← toNat_mul_setWidth]
  apply BitVec.eq_of_toNat_eq
  simp only [word, BitVec.toNat_ofNat, BitVec.extractLsb'_toNat, Nat.shiftRight_eq_div_pow]

/-! ## Division (R142) -/

theorem sign_mul_natAbs_div (x y : Int) : x.sign * y.sign * (x.natAbs / y.natAbs : Nat) = x.tdiv y := by
  rw [← Int.sign_mul_natAbs (x.tdiv y), Int.sign_tdiv, Int.natAbs_tdiv]
  split
  · next small => rw [Nat.div_eq_of_lt small]; simp
  · rfl

theorem toInt_eq_zero (y : Word) : y.toInt = 0 ↔ y = 0 := by rw [← BitVec.toInt_inj]; rfl

/-- The single quotient of two signed words that is no signed word. -/
theorem toInt_overflow (x y : Word) : (x.toInt = -2147483648 ∧ y.toInt = -1) ↔ (x = 0x80000000 ∧ y = 0xffffffff) := by
  rw [← BitVec.toInt_inj (x := x), ← BitVec.toInt_inj (x := y)]
  rfl

theorem ofInt_tdiv (x y : Word) : BitVec.ofInt 32 (x.toInt.tdiv y.toInt) = x.sdiv y := by
  apply BitVec.eq_of_toInt_eq
  rw [BitVec.toInt_ofInt, BitVec.toInt_sdiv]

theorem ofInt_tmod (x y : Word) : BitVec.ofInt 32 (x.toInt - x.toInt.tdiv y.toInt * y.toInt) = x.srem y := by
  rw [Int.mul_comm, ← Int.tmod_def, ← BitVec.toInt_srem, BitVec.ofInt_toInt]

theorem idiv_eq (x y : Word) : divRem true true x y =
    if y = 0 then (0xffffffff, flDz) else if x = 0x80000000 ∧ y = 0xffffffff then (0x80000000, flSat) else (x.sdiv y, 0) := by
  simp only [divRem, if_true, toInt_eq_zero, true_and, toInt_overflow, sign_mul_natAbs_div, wrapW_eq, ofInt_tdiv, flIf]
  split_ifs with zero limits
  · rfl
  · rw [limits.1]
  · rfl

theorem irem_eq (x y : Word) : divRem true false x y = if y = 0 then (x, flDz) else (x.srem y, 0) := by
  simp only [divRem, if_true, toInt_eq_zero, true_and, toInt_overflow, sign_mul_natAbs_div, wrapW_eq, ofInt_tmod, flIf, Bool.false_eq_true, if_false]
  split_ifs with zero limits
  · rfl
  · obtain ⟨rfl, rfl⟩ := limits
    decide
  · rfl

theorem toNat_int_eq_zero (y : Word) : ((y.toNat : Nat) : Int) = 0 ↔ y = 0 := by
  rw [Int.natCast_eq_zero, ← BitVec.toNat_inj]; rfl

theorem udiv_eq (x y : Word) : divRem false true x y = if y = 0 then (0xffffffff, flDz) else (x / y, 0) := by
  simp only [divRem, Bool.false_eq_true, if_false, if_true, false_and, toNat_int_eq_zero, sign_mul_natAbs_div, wrapW_eq, ← Int.ofNat_tdiv,
    BitVec.ofInt_natCast, ← BitVec.toNat_udiv]
  rw [BitVec.ofNat_toNat, BitVec.setWidth_eq]

theorem urem_eq (x y : Word) : divRem false false x y = if y = 0 then (x, flDz) else (x % y, 0) := by
  have rest : (x.toNat : Int) - ((x.toNat / y.toNat : Nat) : Int) * y.toNat = ((x % y).toNat : Nat) := by
    rw [BitVec.toNat_umod, Int.mul_comm, Int.natCast_mod, Int.emod_def, Int.natCast_div]
  simp only [divRem, Bool.false_eq_true, if_false, false_and, toNat_int_eq_zero, sign_mul_natAbs_div, wrapW_eq, ← Int.ofNat_tdiv, rest,
    BitVec.ofInt_natCast]
  rw [BitVec.ofNat_toNat, BitVec.setWidth_eq]

/-! ## Order (R141, R146, Table 8-4) -/

theorem boolWord_eq (b : Bool) : boolWord b = oneIf b := rfl

theorem intCond_cmpInt (sub : Nat) (x y : Int) : intCond sub (cmpInt x y) = holds sub (x == y) (decide (x < y)) := by
  have order : cmpInt x y = if x < y then .lt else if x = y then .eq else .gt := rfl
  rcases lt_trichotomy x y with less | rfl | more
  · rw [order, if_pos less]
    simp only [less, decide_true, beq_eq_false_iff_ne.mpr less.ne]
    unfold intCond holds; split <;> rfl
  · rw [order, if_neg (lt_irrefl x), if_pos rfl]
    simp only [lt_irrefl, decide_false, beq_self_eq_true]
    unfold intCond holds; split <;> rfl
  · rw [order, if_neg more.not_gt, if_neg more.ne']
    simp only [more.not_gt, decide_false, beq_eq_false_iff_ne.mpr more.ne']
    unfold intCond holds; split <;> rfl

/-- A signed comparison. -/
theorem intCond_signed {w : Nat} (sub : Nat) (x y : BitVec w) : intCond sub (cmpInt x.toInt y.toInt) = holds sub (x == y) (x.slt y) := by
  have same : (x.toInt == y.toInt) = (x == y) := by rw [Bool.eq_iff_iff, beq_iff_eq, beq_iff_eq, BitVec.toInt_inj]
  rw [intCond_cmpInt, same]
  rfl

/-- An unsigned comparison. -/
theorem intCond_unsigned {w : Nat} (sub : Nat) (x y : BitVec w) : intCond sub (cmpInt x.toNat y.toNat) = holds sub (x == y) (x.ult y) := by
  have same : ((x.toNat : Int) == (y.toNat : Int)) = (x == y) := by
    rw [Bool.eq_iff_iff, beq_iff_eq, beq_iff_eq, Int.ofNat_inj, BitVec.toNat_inj]
  simp only [intCond_cmpInt, same, Int.ofNat_lt]
  rfl

/-! ## Shifts and rotations (R143, R150) -/

/-- A left shift; beyond the width nothing is left. -/
theorem shl_toNat {w : Nat} (x : BitVec w) (n : Nat) : (if n ≥ w then 0 else x.toNat * 2 ^ n % 2 ^ w) = (x <<< n).toNat := by
  rw [BitVec.toNat_shiftLeft, Nat.shiftLeft_eq]
  split
  · next far => exact (Nat.mod_eq_zero_of_dvd (Dvd.dvd.mul_left (Nat.pow_dvd_pow 2 far) _)).symm
  · rfl

/-- A right shift; beyond the width nothing is left. -/
theorem shr_toNat {w : Nat} (x : BitVec w) (n : Nat) : (if n ≥ w then 0 else x.toNat / 2 ^ n) = (x >>> n).toNat := by
  rw [BitVec.toNat_ushiftRight, Nat.shiftRight_eq_div_pow]
  split
  · next far => exact (Nat.div_eq_of_lt (x.isLt.trans_le (Nat.pow_le_pow_right (by decide) far))).symm
  · rfl

/-- A right shift that keeps the sign: from w - 1 places on, all sign bits. -/
theorem toInt_div_min {w : Nat} (x : BitVec w) (n : Nat) : x.toInt / (2 ^ min n (w - 1) : Nat) = x.toInt / (2 ^ n : Nat) := by
  rcases Nat.le_total n (w - 1) with near | far
  · rw [Nat.min_eq_left near]
  · rw [Nat.min_eq_right far]
    have low : -(2 ^ (w - 1) : Nat) ≤ x.toInt := by exact_mod_cast BitVec.le_toInt x
    have high : x.toInt < (2 ^ (w - 1) : Nat) := by exact_mod_cast BitVec.toInt_lt
    have more : ((2 ^ (w - 1) : Nat) : Int) ≤ (2 ^ n : Nat) := by exact_mod_cast Nat.pow_le_pow_right (by decide) far
    generalize ((2 ^ (w - 1) : Nat) : Int) = p at *
    generalize ((2 ^ n : Nat) : Int) = q at *
    rcases lt_or_ge x.toInt 0 with neg | pos
    · rw [Int.ediv_eq_neg_one_of_neg_of_le neg (by omega), Int.ediv_eq_neg_one_of_neg_of_le neg (by omega)]
    · rw [Int.ediv_eq_zero_of_lt pos high, Int.ediv_eq_zero_of_lt pos (by omega)]

theorem sar_eq {w : Nat} (x : BitVec w) (n : Nat) : BitVec.ofInt w (x.toInt / (2 ^ min n (w - 1) : Nat)) = x.sshiftRight n := by
  rw [toInt_div_min, ← Int.shiftRight_eq_div_pow]
  rfl

theorem shlW_eq (x y : Word) : shlW x y.toNat = x <<< y := by
  rw [BitVec.shiftLeft_eq', ← word_toNat (x <<< y.toNat), ← shl_toNat, shlW]
  split
  · rfl
  · apply BitVec.eq_of_toNat_eq
    simp [word]

theorem shrW_eq (x y : Word) : shrW x y.toNat = x >>> y := by
  rw [BitVec.ushiftRight_eq', ← word_toNat (x >>> y.toNat), ← shr_toNat, shrW]
  split <;> rfl

theorem sarW_eq (x : Word) (n : Nat) : sarW x n = x.sshiftRight n := by
  rw [sarW, word_wrap]
  exact sar_eq x n

/-- The two parts of a rotation by y mod 32. -/
theorem rotate_places (y : Word) : (y % 32).toNat = y.toNat % 32 ∧ (32 - y % 32).toNat = 32 - y.toNat % 32 := by
  have low : (y % 32).toNat = y.toNat % 32 := BitVec.toNat_umod
  have thirtyTwo : (32 : Word).toNat = 32 := rfl
  refine ⟨low, ?_⟩
  rw [BitVec.toNat_sub, low, thirtyTwo]
  omega

theorem rol_eq (x y : Word) : x.rotateLeft (y.toNat % 32) = x <<< (y % 32) ||| x >>> (32 - y % 32) := by
  obtain ⟨left, right⟩ := rotate_places y
  rw [BitVec.rotateLeft_def, BitVec.shiftLeft_eq', BitVec.ushiftRight_eq', left, right, Nat.mod_mod]

theorem ror_eq (x y : Word) : x.rotateRight (y.toNat % 32) = x >>> (y % 32) ||| x <<< (32 - y % 32) := by
  obtain ⟨right, left⟩ := rotate_places y
  rw [BitVec.rotateRight_def, BitVec.shiftLeft_eq', BitVec.ushiftRight_eq', left, right, Nat.mod_mod]

/-! ## Counts (R143) -/

theorem bitAt_toNat {w : Nat} (x : BitVec w) (i : Nat) : bitAt x.toNat i = x.getLsbD i := by
  rw [BitVec.getLsbD, Nat.testBit_eq_decide_div_mod_eq]
  rfl

theorem cpopNatRec_eq_length {w : Nat} (x : BitVec w) (n acc : Nat) :
    x.cpopNatRec n acc = acc + ((List.range n).filter (fun i => bitAt x.toNat i)).length := by
  induction n generalizing acc with
  | zero => rfl
  | succ n ih =>
    rw [BitVec.cpopNatRec_succ, ih, List.range_succ, List.filter_append, List.length_append, List.filter_singleton, bitAt_toNat]
    cases x.getLsbD n
    · simp
    · simp only [Bool.toNat_true, Bool.cond_true, List.length_singleton]
      omega

theorem popc_eq (x : Word) : word (popc x.toNat) = x.cpop := by
  rw [← word_toNat x.cpop, BitVec.toNat_cpop, cpopNatRec_eq_length, Nat.zero_add]
  rfl

theorem clz_eq (x : Word) : word (clz x.toNat) = x.clz := by
  rw [← word_toNat x.clz]
  unfold clz
  split
  · next zero =>
    obtain rfl : x = 0 := BitVec.eq_of_toNat_eq zero
    rfl
  · next nonzero =>
    have ne : x ≠ 0#32 := fun e => nonzero (by rw [e]; rfl)
    have low := BitVec.two_pow_sub_clz_le_toNat_of_ne_zero (by decide) ne
    have high := BitVec.toNat_lt_two_pow_sub_clz (x := x)
    have less : x.clz.toNat < 32 := BitVec.clz_lt_iff_ne_zero.mpr ne
    have log : Nat.log2 x.toNat = 31 - x.clz.toNat := by
      refine (Nat.log2_eq_iff nonzero).mpr ⟨low, ?_⟩
      rwa [show 31 - x.clz.toNat + 1 = 32 - x.clz.toNat by omega]
    rw [log]
    congr 1
    omega

/-- The first number that satisfies a condition. -/
theorem firstFrom_eq {p : Nat → Bool} {c : Nat} (found : p c = true) (n lo : Nat) (start : lo ≤ c) (upTo : c < lo + n)
    (before : ∀ j, j < c → p j = false) : firstFrom p lo n = some c := by
  induction n generalizing lo with
  | zero => omega
  | succ n ih =>
    unfold firstFrom
    rcases start.eq_or_lt with rfl | less
    · rw [if_pos found]
    · rw [before lo less]
      exact ih (lo + 1) less (by omega)

theorem ctz_eq (x : Word) : word (ctz x.toNat) = x.ctz := by
  rw [← word_toNat x.ctz]
  by_cases zero : x = 0
  · subst zero
    have none : firstFrom (fun i => bitAt (0 : Word).toNat i) 0 32 = none := rfl
    have all : (0 : Word).ctz = 32#32 := BitVec.clz_eq_iff_eq_zero.mpr (BitVec.reverse_eq_zero_iff.mpr rfl)
    rw [ctz, none, all]
    rfl
  · have less : x.ctz.toNat < 32 := BitVec.ctz_lt_iff_ne_zero.mpr zero
    have first : firstFrom (fun i => bitAt x.toNat i) 0 32 = some x.ctz.toNat := by
      refine firstFrom_eq ?_ 32 0 (Nat.zero_le _) (by omega) (fun j before => ?_)
      · rw [bitAt_toNat, BitVec.getLsbD_true_ctz_of_ne_zero zero]
      · rw [bitAt_toNat, BitVec.getLsbD_false_of_lt_ctz before]
    rw [ctz, first]
    rfl

/-- The bits of a word's first n bits, reversed, at the top of 32 bits. -/
theorem brev_foldl (x : Word) (n : Nat) (upTo : n ≤ 32) :
    (List.range n).foldl (fun r i => r + (if bitAt x.toNat i then 2 ^ (31 - i) else 0)) 0 = (x.setWidth n).reverse.toNat * 2 ^ (32 - n) := by
  induction n with
  | zero => simp [BitVec.of_length_zero]
  | succ n ih =>
    have step : (x.setWidth (n + 1)).reverse = ((x.setWidth n).reverse).concat (x.getLsbD n) := by
      rw [BitVec.reverse]
      have low : (x.setWidth (n + 1)).truncate n = x.setWidth n := BitVec.setWidth_setWidth_of_le x (Nat.le_succ n)
      have high : (x.setWidth (n + 1)).msb = x.getLsbD n := by simp [BitVec.msb_setWidth]
      rw [low, high]
    rw [List.range_succ, List.foldl_append, ih (by omega), step, BitVec.toNat_concat, show 32 - n = (32 - (n + 1)) + 1 by omega, Nat.pow_succ]
    simp only [List.foldl_cons, List.foldl_nil, bitAt_toNat, show 31 - n = 32 - (n + 1) by omega]
    cases x.getLsbD n <;> simp <;> ring

theorem brev_eq (x : Word) : word (brev x.toNat) = x.reverse := by
  rw [brev, brev_foldl x 32 le_rfl, Nat.sub_self, Nat.pow_zero, Nat.mul_one, word_toNat, BitVec.setWidth_eq]

end Sys2Proof.Machine
end

section
/-! SUPPORT. Bit fields and byte permutation (R144, R145). -/

namespace Sys2Proof.Machine

theorem fieldOf_eq (pos : Word) : fieldOf pos = (fieldPos pos, fieldWidth pos) := by
  simp only [fieldOf, fieldPos, fieldWidth, BitVec.extractLsb'_toNat, Nat.shiftRight_eq_div_pow, Nat.reducePow, Nat.div_one]

/-- A field lies within the word. -/
theorem fieldPos_add_fieldWidth (pos : Word) : fieldPos pos + fieldWidth pos ≤ 32 := by
  unfold fieldWidth fieldPos
  omega

theorem fieldMask_eq (p w : Nat) : fieldMask p w = word ((2 ^ w - 1) * 2 ^ p) := by
  have ones : (1 <<< w - 1) <<< p = (2 ^ w - 1) * 2 ^ p := by rw [Nat.shiftLeft_eq, Nat.shiftLeft_eq, Nat.one_mul]
  exact congrArg word ones

/-- The bits of a word from p on, under a mask of w. -/
theorem field_toNat (x : Word) (p w : Nat) (fits : w ≤ 32) : ((x >>> p) &&& fieldMask 0 w).toNat = x.toNat / 2 ^ p % 2 ^ w := by
  have small : 2 ^ w - 1 < 2 ^ 32 := by
    have := Nat.pow_le_pow_right (n := 2) (by decide) fits
    omega
  rw [fieldMask_eq, Nat.pow_zero, Nat.mul_one, BitVec.toNat_and, word, BitVec.toNat_ofNat, Nat.mod_eq_of_lt small, Nat.and_two_pow_sub_one_eq_mod,
    BitVec.toNat_ushiftRight, Nat.shiftRight_eq_div_pow]

/-- A field of w bits, moved to the top of the word, reads as its signed value times a power of 2. -/
theorem toInt_shiftLeft_top (f : Word) (w : Nat) (pos : 0 < w) (fits : w ≤ 32) (small : f.toNat < 2 ^ w) :
    (f <<< (32 - w)).toInt = sint f.toNat w * (2 ^ (32 - w) : Nat) := by
  have halves : 2 ^ w = 2 * 2 ^ (w - 1) := by rw [← Nat.pow_succ']; congr 1; omega
  have whole : 2 ^ (w - 1) * 2 ^ (32 - w) = 2 ^ 31 := by rw [← Nat.pow_add]; congr 1; omega
  have top : (f <<< (32 - w)).toNat = f.toNat * 2 ^ (32 - w) := by
    rw [BitVec.toNat_shiftLeft, Nat.shiftLeft_eq, Nat.mod_eq_of_lt]
    nlinarith [Nat.two_pow_pos (32 - w)]
  have sign : 2 * (f.toNat * 2 ^ (32 - w)) < 2 ^ 32 ↔ f.toNat < 2 ^ (w - 1) := by
    rw [← Nat.mul_lt_mul_right (b := f.toNat) (Nat.two_pow_pos (32 - w)), whole]
    omega
  rw [BitVec.toInt_eq_toNat_cond, top, sint, Nat.mod_eq_of_lt small]
  simp only [sign]
  split
  · rw [Int.natCast_mul]
  · rw [Int.sub_mul, ← Int.natCast_mul, ← Int.natCast_mul, halves, Nat.mul_assoc, whole]
    rfl

/-- A field's sign spread over the word by shifts. -/
theorem sshiftRight_shiftLeft (f : Word) (w : Nat) (pos : 0 < w) (fits : w ≤ 32) (small : f.toNat < 2 ^ w) :
    (f <<< (32 - w)).sshiftRight (32 - w) = BitVec.ofInt 32 (sint f.toNat w) := by
  rw [BitVec.sshiftRight, toInt_shiftLeft_top f w pos fits small, Int.shiftRight_eq_div_pow,
    Int.mul_ediv_cancel _ (Int.natCast_ne_zero.mpr (Nat.two_pow_pos _).ne')]

theorem bfxW_eq (sgn : Bool) (x pos : Word) : bfxW sgn x pos =
    let w := fieldWidth pos
    let f := (x >>> fieldPos pos) &&& fieldMask 0 w
    if sgn then (if w = 0 then 0 else (f <<< (32 - w)).sshiftRight (32 - w)) else f := by
  have within := fieldPos_add_fieldWidth pos
  have field := field_toNat x (fieldPos pos) (fieldWidth pos) (by omega)
  simp only [bfxW, fieldOf_eq, ← field]
  cases sgn
  · exact word_toNat _
  · simp only [if_true]
    split
    · rfl
    · next wide =>
      rw [sshiftRight_shiftLeft _ _ (by omega) (by omega) (by rw [field]; exact Nat.mod_lt _ (Nat.two_pow_pos _)), word_wrap]

theorem bfiW_eq (x y z : Word) : bfiW x y z =
    let m := fieldMask (fieldPos z) (fieldWidth z)
    (x &&& ~~~m) ||| ((y <<< fieldPos z) &&& m) := by
  have shifted : word (y.toNat * 2 ^ fieldPos z) = y <<< fieldPos z := by
    apply BitVec.eq_of_toNat_eq
    rw [BitVec.toNat_shiftLeft, Nat.shiftLeft_eq, word, BitVec.toNat_ofNat]
  simp only [bfiW, fieldOf_eq, ← fieldMask_eq, shifted]

/-- The byte that a nibble of the control selects, as `permbW` computes it. -/
def permNat (x y : Nat) (i : Nat) : Nat :=
  let e := bits y (4 * i) 4
  let b := bits x (8 * (e % 4)) 8
  if bitAt e 2 then 0 else if bitAt e 3 then (if bitAt b 7 then 255 else 0) else b

theorem permNat_eq (x y : Word) (i : Nat) : permNat x.toNat y.toNat i = (permByte x y i).toNat := by
  have nibble : bits y.toNat (4 * i) 4 = (y.extractLsb' (4 * i) 4).toNat := by
    rw [BitVec.extractLsb'_toNat, Nat.shiftRight_eq_div_pow]; rfl
  have byte (j : Nat) : bits x.toNat (8 * j) 8 = (x.extractLsb' (8 * j) 8).toNat := by
    rw [BitVec.extractLsb'_toNat, Nat.shiftRight_eq_div_pow]; rfl
  have low : (y.extractLsb' (4 * i) 4).toNat % 4 = (y.extractLsb' (4 * i) 2).toNat := by
    simp only [BitVec.extractLsb'_toNat]
    omega
  have two : (y.extractLsb' (4 * i) 4).getLsbD 2 = y.getLsbD (4 * i + 2) := by simp
  have three : (y.extractLsb' (4 * i) 4).getLsbD 3 = y.getLsbD (4 * i + 3) := by simp
  simp only [permNat, permByte, nibble, byte, bitAt_toNat, low, two, three, BitVec.msb_eq_getLsbD_last, Nat.add_one_sub_one]
  split_ifs <;> rfl

/-- A word from its bytes, lowest first. -/
theorem word_of_bytes (b : Nat → Byte) :
    word ((b 0).toNat * 2 ^ (8 * 0) + (b 1).toNat * 2 ^ (8 * 1) + (b 2).toNat * 2 ^ (8 * 2) + (b 3).toNat * 2 ^ (8 * 3)) =
      b 3 ++ b 2 ++ b 1 ++ b 0 := by
  have append {m n : Nat} (u : BitVec m) (v : BitVec n) : (u ++ v).toNat = u.toNat * 2 ^ n + v.toNat := by
    rw [BitVec.toNat_append, Nat.shiftLeft_eq, Nat.mul_comm, Nat.two_pow_add_eq_or_of_lt v.isLt]
  apply BitVec.eq_of_toNat_eq
  simp only [word, BitVec.toNat_ofNat, append]
  omega

theorem foldl_range_four (f : Nat → Nat) : (List.range 4).foldl (fun r i => r + f i) 0 = f 0 + f 1 + f 2 + f 3 := by
  simp [List.range_succ]

theorem permbW_eq (x y : Word) : permbW x y = permByte x y 3 ++ permByte x y 2 ++ permByte x y 1 ++ permByte x y 0 :=
  calc permbW x y = word ((List.range 4).foldl (fun r i => r + permNat x.toNat y.toNat i * 2 ^ (8 * i)) 0) := rfl
    _ = word ((List.range 4).foldl (fun r i => r + (permByte x y i).toNat * 2 ^ (8 * i)) 0) := by simp only [permNat_eq]
    _ = permByte x y 3 ++ permByte x y 2 ++ permByte x y 1 ++ permByte x y 0 := by rw [foldl_range_four, word_of_bytes]

end Sys2Proof.Machine
end

section
/-! SUPPORT. The instructions whose results go by the `.U` bit (R138 to R140): what the encoding rows of Table 7-12 say of the strands and the
registers they read, and how their results follow from it. -/

namespace Sys2Proof.Machine

variable {i : Instr} {s : State} {t : Team} {m : BitVec 4} {d : Desc}

/-- Opcodes of groups 0, 2 and 3 that read their sources in the strands that execute them. -/
def plainOpc (o : Nat) : Bool :=
  (decide (o < 0x80) || decide (0x100 ≤ o) && decide (o < 0x200)) && !decide (o ∈ [0x190, 0x1a0, 0x1a1, 0x1a2])

/-- An instruction that computes strand by strand, or for all strands from the leader's sources by bit 63 of `m`. -/
structure Plain (i : Instr) (m : BitVec 4) : Prop where
  leads : leaderReads i = topBit m
  own : ownReads i = false
  control : isControl i = false
  ends : isEnd i = false
  legal : isIllegal i = false

theorem opcOf_eq {r : Raw} (raw : toRaw i = some r) : opcOf i = r.opc.toNat := by
  unfold opcOf
  rw [raw]

/-- The opcode decides. -/
theorem Plain.of_raw {r : Raw} (raw : toRaw i = some r) (plain : plainOpc r.opc.toNat = true) : Plain i r.m := by
  have opc := opcOf_eq raw
  have apart {o : Nat} (h : opcOf i = o) : plainOpc o = true := by rw [← h, opc]; exact plain
  simp only [plainOpc, Bool.and_eq_true, Bool.or_eq_true, decide_eq_true_eq, Bool.not_eq_true', decide_eq_false_iff_not, List.mem_cons,
    List.not_mem_nil, or_false, not_or] at plain
  refine ⟨?_, ?_, ?_, ?_, ?_⟩
  · unfold leaderReads
    split
    · next a => exact absurd (apart (opcOf_movsw a)) (by decide)
    · simp only [raw]
      have low : r.opc.toNat < 0x200 := by omega
      have transfer : r.opc.toNat ∉ [0x88, 0x8a] := by simp only [List.mem_cons, List.not_mem_nil, or_false]; omega
      have high : ¬0x28a ≤ r.opc.toNat := by omega
      simp only [low, transfer, high, decide_true, decide_false, Bool.true_and, Bool.or_false, Bool.false_and]
  · simp only [ownReads, opc, decide_eq_false_iff_not, List.mem_cons, List.not_mem_nil, or_false]
    omega
  · simp only [isControl, opc, Bool.and_eq_false_iff, decide_eq_false_iff_not]
    omega
  · unfold isEnd
    split
    · exact absurd (apart (o := 0x82) rfl) (by decide)
    · exact absurd (apart (o := 0x86) rfl) (by decide)
    · rfl
  · unfold isIllegal
    split
    · exact absurd (apart (o := 0x3ff) rfl) (by decide)
    · rfl

/-- Results by the `.U` bit, from what the strands that are read give. -/
theorem Plain.byStrand_of (p : Plain i m) (r : Ready i s t) {body : Run → Res} {f : Nat → V Out} {o : Nat → Out}
    (run : exec i s = runI i body s) (frame : body ⟨s, t, i, t.active i⟩ = lanesU ⟨s, t, i, t.active i⟩ m f)
    (results : ∀ k ∈ t.reads i, f k = .ok (o k)) : ByStrand i m s t o := by
  unfold ByStrand Completes
  rw [run]
  exact r.byU p.control p.ends p.legal p.leads p.own body f o frame results

/-- The same where the frame is the whole body. -/
theorem Plain.byStrand (p : Plain i m) (r : Ready i s t) {f : Run → Nat → V Out} {o : Nat → Out}
    (run : exec i s = runI i (fun c => lanesU c m (f c)) s) (results : ∀ k ∈ t.reads i, f ⟨s, t, i, t.active i⟩ k = .ok (o k)) :
    ByStrand i m s t o :=
  p.byStrand_of r run rfl results

/-! ## The shape `Alu` -/

/-- `i` is encoded in the shape `a` by the row `d` of Table 7-12. -/
structure AluRow (i : Instr) (a : Alu) (d : Desc) : Prop where
  raw : ∃ opc, toRaw i = some (rawAlu opc a) ∧ plainOpc (BitVec.ofNat 10 opc).toNat = true
  row : desc i = some d

theorem RU.mem_r (x : RegField) : x.toNat ∈ RU.r.regs x := by simp [RU.regs, RU.r]
theorem RU.mem_p (x : RegField) : x.toNat ∈ RU.p.regs x := by simp [RU.regs, RU.p]
theorem RU.succ_mem_p (x : RegField) : x.toNat + 1 ∈ RU.p.regs x := by simp [RU.regs, RU.p]

namespace AluRow

variable {a : Alu}

theorem plain (h : AluRow i a d) : Plain i a.m := by
  obtain ⟨opc, raw, plain⟩ := h.raw
  have mod : (rawAlu opc a).m = a.m := by unfold rawAlu; split <;> rfl
  rw [← mod]
  exact .of_raw raw (by rwa [rawAlu_opc])

theorem a_mem (h : AluRow i a d) {x : Nat} (named : x ∈ d.a.regs a.va) : x ∈ srcRegs i := by
  obtain ⟨opc, raw, -⟩ := h.raw
  exact (srcRegs_alu i opc a d raw h.row x).1 named

theorem b_mem (h : AluRow i a d) {x : Nat} {v : RegField} (reg : a.b = .reg v) (named : x ∈ d.b.regs v) : x ∈ srcRegs i := by
  obtain ⟨opc, raw, -⟩ := h.raw
  exact (srcRegs_alu i opc a d raw h.row x).2 v reg named

/-- Where source b is a register in every encoding, its field names one. -/
theorem field_mem (h : AluRow i a d) (form : d.bf = .reg) {x : Nat} (named : x ∈ d.b.regs (srcField a.b)) : x ∈ srcRegs i := by
  obtain ⟨opc, raw, -⟩ := h.raw
  have field : (rawAlu opc a).vb = srcField a.b := by unfold rawAlu srcField; split <;> rfl
  unfold srcRegs hasImm
  rw [raw, h.row]
  simp [form, field, named]

theorem row1 (h : AluRow i a d) (ua : d.a = .r) {f g : Word → Word × Flags} (run : ∀ s, exec i s = runI i (alu1 a g) s)
    (values : ∀ x, g x = f x) : Row1 i a f :=
  have p := h.plain
  .of run p.leads p.own p.control p.ends p.legal (h.a_mem (ua ▸ RU.mem_r _)) values

theorem row2 (h : AluRow i a d) (ua : d.a = .r) (ub : d.b = .r) {f g : Word → Word → Word × Flags}
    (run : ∀ s, exec i s = runI i (alu2 a g) s) (values : ∀ x y, g x y = f x y) : Row2 i a f :=
  have p := h.plain
  .of run p.leads p.own p.control p.ends p.legal (h.a_mem (ua ▸ RU.mem_r _)) (fun _ reg => h.b_mem reg (ub ▸ RU.mem_r _)) values

theorem rowP (h : AluRow i a d) (ua : d.a = .p) (ub : d.b = .p) (form : d.bf = .reg) {f : DWord → DWord → DWord} {g : Nat → Nat → Nat}
    (run : ∀ s, exec i s = runI i (alu64 a g) s) (values : ∀ x y : DWord, g x.toNat y.toNat = (f x y).toNat) : RowP i a f :=
  have p := h.plain
  .of run p.leads p.own p.control p.ends p.legal (h.a_mem (ua ▸ RU.mem_p _)) (h.a_mem (ua ▸ RU.succ_mem_p _))
    (h.field_mem form (ub ▸ RU.mem_p _)) (h.field_mem form (ub ▸ RU.succ_mem_p _)) values

/-- Two registers to a pair. -/
theorem wide (h : AluRow i a d) (ua : d.a = .r) (ub : d.b = .r) (form : d.bf = .reg) {f : Nat → Nat → Nat} (g : Word → Word → DWord)
    (run : ∀ s, exec i s = runI i (aluWide a f) s) (values : ∀ x y : Word, f x.toNat y.toNat = (g x y).toNat) (s : State) (t : Team)
    (r : Ready i s t) :
    ByStrand i a.m s t (fun k => Out.pair a.vd (g (t.val k a.va.toNat) (t.val k (srcField a.b).toNat)).toNat 0) := by
  refine h.plain.byStrand r (run s) (fun k read => ?_)
  rw [r.reg read (h.a_mem (ua ▸ RU.mem_r _)), r.reg read (h.field_mem form (ub ▸ RU.mem_r _))]
  simp only [V.both_ok, V.map_ok, values]

/-- The operands of a pair and a source b. -/
theorem pairAndSrc (h : AluRow i a d) (ua : d.a = .p) (ub : d.b = .r) (r : Ready i s t) {k : Nat} (read : k ∈ t.reads i) :
    V.both (Run.pair ⟨s, t, i, t.active i⟩ k a.va) (Run.src ⟨s, t, i, t.active i⟩ k a.b) = .ok (t.pair k a.va.toNat, t.srcB k a.b) := by
  rw [r.pair read (h.a_mem (ua ▸ RU.mem_p _)) (h.a_mem (ua ▸ RU.succ_mem_p _)), r.src read (fun _ reg => h.b_mem reg (ub ▸ RU.mem_r _))]
  rfl

/-- A pair and a source b to a pair. -/
theorem shift (h : AluRow i a d) (ua : d.a = .p) (ub : d.b = .r) {f : Nat → Nat → Nat} (g : DWord → Nat → DWord)
    (run : ∀ s, exec i s = runI i (aluShift64 a f) s) (values : ∀ (x : DWord) n, f x.toNat n = (g x n).toNat) (s : State) (t : Team)
    (r : Ready i s t) :
    ByStrand i a.m s t (fun k => Out.pair a.vd (g (t.pair k a.va.toNat) (t.srcB k a.b).toNat).toNat 0) :=
  h.plain.byStrand r (run s) (fun k read => by
    rw [h.pairAndSrc ua ub r read]
    simp only [V.map_ok, values])

/-- Two pairs compared. -/
theorem compare (h : AluRow i a d) (ua : d.a = .p) (ub : d.b = .p) (form : d.bf = .reg) {f : Nat → Nat → Ordering}
    (g : DWord → DWord → Bool) (run : ∀ s, exec i s = runI i (aluCmp64 a f) s)
    (values : ∀ x y : DWord, intCond (subOf3 a.m) (f x.toNat y.toNat) = g x y) (s : State) (t : Team) (r : Ready i s t) :
    ByStrand i a.m s t (fun k => Out.one a.vd (oneIf (g (t.pair k a.va.toNat) (t.pair k (srcField a.b).toNat))) 0) := by
  refine h.plain.byStrand r (run s) (fun k read => ?_)
  rw [r.pair read (h.a_mem (ua ▸ RU.mem_p _)) (h.a_mem (ua ▸ RU.succ_mem_p _)),
    r.pair read (h.field_mem form (ub ▸ RU.mem_p _)) (h.field_mem form (ub ▸ RU.succ_mem_p _))]
  simp only [V.both_ok, V.map_ok, boolWord_eq, values]

end AluRow

/-! ## The shape `Ter` -/

/-- `i` is encoded in the shape `a` by the row `d` of Table 7-12. -/
structure TerRow (i : Instr) (a : Ter) (d : Desc) : Prop where
  raw : ∃ opc, toRaw i = some (rawTer opc a) ∧ plainOpc (BitVec.ofNat 10 opc).toNat = true
  row : desc i = some d
  form : d.bf = .reg

namespace TerRow

variable {a : Ter}

theorem plain (h : TerRow i a d) : Plain i a.m := by
  obtain ⟨opc, raw, plain⟩ := h.raw
  exact .of_raw raw plain

/-- The `sub` values of the row are those that are well-formed (R139). -/
theorem sub_mem (ok : terOk d a = true) : subOf3 a.m ∈ d.subs := by
  simp only [terOk, modOk, Bool.and_eq_true, decide_eq_true_eq] at ok
  obtain ⟨⟨⟨⟨⟨-, -, sub⟩, -⟩, -⟩, -⟩, -⟩ := ok
  exact sub

/-- The source fields of form S. -/
theorem srcRegs_eq (h : TerRow i a d) : srcRegs i = d.a.regs a.va ++ d.b.regs a.vb ++ d.c.regs a.vc := by
  obtain ⟨opc, raw, plain⟩ := h.raw
  refine srcRegs_ter i opc a d raw h.row ?_ (by rw [h.form]; rfl)
  simp only [plainOpc, Bool.and_eq_true, Bool.or_eq_true, decide_eq_true_eq] at plain
  omega

theorem a_mem (h : TerRow i a d) (ua : d.a = .r) : a.va.toNat ∈ srcRegs i := by
  rw [h.srcRegs_eq, ua]
  exact List.mem_append_left _ (List.mem_append_left _ (RU.mem_r _))

theorem b_mem (h : TerRow i a d) (ub : d.b = .r) : a.vb.toNat ∈ srcRegs i := by
  rw [h.srcRegs_eq, ub]
  exact List.mem_append_left _ (List.mem_append_right _ (RU.mem_r _))

theorem c_mem (h : TerRow i a d) (uc : d.c = .r) : a.vc.toNat ∈ srcRegs i := by
  rw [h.srcRegs_eq, uc]
  exact List.mem_append_right _ (RU.mem_r _)

theorem row3 (h : TerRow i a d) (ua : d.a = .r) (ub : d.b = .r) (uc : d.c = .r) {f g : Word → Word → Word → Word × Flags}
    (run : ∀ s, exec i s = runI i (alu3 a g) s) (values : ∀ x y z, g x y z = f x y z) : Row3 i a f :=
  have p := h.plain
  .of run p.leads p.own p.control p.ends p.legal (h.a_mem ua) (h.b_mem ub) (h.c_mem uc) values

end TerRow

end Sys2Proof.Machine
end

section
/-! PROOF. O1: the integer instructions (R141 to R145, R150). One theorem for each: the row of its encoding, and its value on words. -/

namespace Sys2Proof.Machine

/-! ## 32-bit arithmetic (Table 8-1) -/

theorem iadd_row (a : Alu) : Row2 (.iadd a) a (fun x y => (x + y, 0)) :=
  AluRow.row2 ⟨⟨_, rfl, rfl⟩, rfl⟩ rfl rfl (fun _ => rfl) (fun _ _ => rfl)

theorem isub_row (a : Alu) : Row2 (.isub a) a (fun x y => (x - y, 0)) :=
  AluRow.row2 ⟨⟨_, rfl, rfl⟩, rfl⟩ rfl rfl (fun _ => rfl) (fun _ _ => rfl)

theorem iadds_row (a : Alu) : Row2 (.iadds a) a
    (fun x y => if subOf3 a.m = 0 then clampS (x.toInt + y.toInt) else clampZ ((x.toNat + y.toNat : Nat) : Int)) :=
  AluRow.row2 ⟨⟨_, rfl, rfl⟩, rfl⟩ rfl rfl (fun _ => rfl) (fun x y => by rw [satSW_eq_clampS, satZW_eq_clampZ, Int.natCast_add])

theorem isubs_row (a : Alu) : Row2 (.isubs a) a
    (fun x y => if subOf3 a.m = 0 then clampS (x.toInt - y.toInt) else clampZ ((x.toNat : Int) - y.toNat)) :=
  AluRow.row2 ⟨⟨_, rfl, rfl⟩, rfl⟩ rfl rfl (fun _ => rfl) (fun x y => by rw [satSW_eq_clampS, satZW_eq_clampZ])

theorem ineg_row (a : Alu) : Row1 (.ineg a) a (fun x => (-x, 0)) :=
  AluRow.row1 ⟨⟨_, rfl, rfl⟩, rfl⟩ rfl (fun _ => rfl) (fun x => by rw [wrapW_eq, BitVec.ofInt_neg, BitVec.ofInt_toInt])

theorem iabs_row (a : Alu) : Row1 (.iabs a) a (fun x => clampS |x.toInt|) :=
  AluRow.row1 ⟨⟨_, rfl, rfl⟩, rfl⟩ rfl (fun _ => rfl) (fun x => by rw [satSW_eq_clampS, Int.abs_eq_natAbs])

theorem imin_row (a : Alu) : Row2 (.imin a) a (fun x y => (if x.sle y then x else y, 0)) :=
  AluRow.row2 ⟨⟨_, rfl, rfl⟩, rfl⟩ rfl rfl (fun _ => rfl) (fun x y => by simp only [BitVec.sle_iff_toInt_le])

theorem imax_row (a : Alu) : Row2 (.imax a) a (fun x y => (if x.sle y then y else x, 0)) :=
  AluRow.row2 ⟨⟨_, rfl, rfl⟩, rfl⟩ rfl rfl (fun _ => rfl) (fun x y => by simp only [BitVec.sle_iff_toInt_le])

theorem umin_row (a : Alu) : Row2 (.umin a) a (fun x y => (if x.ule y then x else y, 0)) :=
  AluRow.row2 ⟨⟨_, rfl, rfl⟩, rfl⟩ rfl rfl (fun _ => rfl) (fun x y => by simp only [BitVec.ule, decide_eq_true_eq])

theorem umax_row (a : Alu) : Row2 (.umax a) a (fun x y => (if x.ule y then y else x, 0)) :=
  AluRow.row2 ⟨⟨_, rfl, rfl⟩, rfl⟩ rfl rfl (fun _ => rfl) (fun x y => by simp only [BitVec.ule, decide_eq_true_eq])

theorem imul_row (a : Alu) : Row2 (.imul a) a (fun x y => (x * y, 0)) :=
  AluRow.row2 ⟨⟨_, rfl, rfl⟩, rfl⟩ rfl rfl (fun _ => rfl)
    (fun x y => by rw [wrapW_eq, BitVec.ofInt_mul, BitVec.ofInt_toInt, BitVec.ofInt_toInt])

theorem imulhi_row (a : Alu) : Row2 (.imulhi a) a (fun x y => ((x.signExtend 64 * y.signExtend 64).extractLsb' 32 32, 0)) :=
  AluRow.row2 ⟨⟨_, rfl, rfl⟩, rfl⟩ rfl rfl (fun _ => rfl) (fun x y => by rw [wrapW_eq, imulhi_eq])

theorem umulhi_row (a : Alu) : Row2 (.umulhi a) a (fun x y => ((x.setWidth 64 * y.setWidth 64).extractLsb' 32 32, 0)) :=
  AluRow.row2 ⟨⟨_, rfl, rfl⟩, rfl⟩ rfl rfl (fun _ => rfl) (fun x y => by rw [umulhi_eq])

theorem imad_row (a : Ter) : Row3 (.imad a) a (fun x y z => (x * y + z, 0)) :=
  TerRow.row3 ⟨⟨_, rfl, rfl⟩, rfl, rfl⟩ rfl rfl rfl (fun _ => rfl)
    (fun x y z => by rw [wrapW_eq, BitVec.ofInt_add, BitVec.ofInt_mul, BitVec.ofInt_toInt, BitVec.ofInt_toInt, BitVec.ofInt_toInt])

/-! ## Division (R142) -/

theorem idiv_row (a : Alu) : Row2 (.idiv a) a (fun x y =>
    if y = 0 then (0xffffffff, flDz) else if x = 0x80000000 ∧ y = 0xffffffff then (0x80000000, flSat) else (x.sdiv y, 0)) :=
  AluRow.row2 ⟨⟨_, rfl, rfl⟩, rfl⟩ rfl rfl (fun _ => rfl) idiv_eq

theorem udiv_row (a : Alu) : Row2 (.udiv a) a (fun x y => if y = 0 then (0xffffffff, flDz) else (x / y, 0)) :=
  AluRow.row2 ⟨⟨_, rfl, rfl⟩, rfl⟩ rfl rfl (fun _ => rfl) udiv_eq

theorem irem_row (a : Alu) : Row2 (.irem a) a (fun x y => if y = 0 then (x, flDz) else (x.srem y, 0)) :=
  AluRow.row2 ⟨⟨_, rfl, rfl⟩, rfl⟩ rfl rfl (fun _ => rfl) irem_eq

theorem urem_row (a : Alu) : Row2 (.urem a) a (fun x y => if y = 0 then (x, flDz) else (x % y, 0)) :=
  AluRow.row2 ⟨⟨_, rfl, rfl⟩, rfl⟩ rfl rfl (fun _ => rfl) urem_eq

/-! ## Logic, shifts and counts (Table 8-3) -/

theorem andI_row (a : Alu) : Row2 (.andI a) a (fun x y => (x &&& y, 0)) :=
  AluRow.row2 ⟨⟨_, rfl, rfl⟩, rfl⟩ rfl rfl (fun _ => rfl) (fun _ _ => rfl)

theorem orI_row (a : Alu) : Row2 (.orI a) a (fun x y => (x ||| y, 0)) :=
  AluRow.row2 ⟨⟨_, rfl, rfl⟩, rfl⟩ rfl rfl (fun _ => rfl) (fun _ _ => rfl)

theorem xorI_row (a : Alu) : Row2 (.xorI a) a (fun x y => (x ^^^ y, 0)) :=
  AluRow.row2 ⟨⟨_, rfl, rfl⟩, rfl⟩ rfl rfl (fun _ => rfl) (fun _ _ => rfl)

theorem andn_row (a : Alu) : Row2 (.andn a) a (fun x y => (x &&& ~~~y, 0)) :=
  AluRow.row2 ⟨⟨_, rfl, rfl⟩, rfl⟩ rfl rfl (fun _ => rfl) (fun _ _ => rfl)

theorem shl_row (a : Alu) : Row2 (.shl a) a (fun x y => (x <<< y, 0)) :=
  AluRow.row2 ⟨⟨_, rfl, rfl⟩, rfl⟩ rfl rfl (fun _ => rfl) (fun x y => by rw [shlW_eq])

theorem shr_row (a : Alu) : Row2 (.shr a) a (fun x y => (x >>> y, 0)) :=
  AluRow.row2 ⟨⟨_, rfl, rfl⟩, rfl⟩ rfl rfl (fun _ => rfl) (fun x y => by rw [shrW_eq])

theorem sar_row (a : Alu) : Row2 (.sar a) a (fun x y => (x.sshiftRight y.toNat, 0)) :=
  AluRow.row2 ⟨⟨_, rfl, rfl⟩, rfl⟩ rfl rfl (fun _ => rfl) (fun x y => by rw [sarW_eq])

theorem rol_row (a : Alu) : Row2 (.rol a) a (fun x y => (x <<< (y % 32) ||| x >>> (32 - y % 32), 0)) :=
  AluRow.row2 ⟨⟨_, rfl, rfl⟩, rfl⟩ rfl rfl (fun _ => rfl) (fun x y => by rw [rol_eq])

theorem ror_row (a : Alu) : Row2 (.ror a) a (fun x y => (x >>> (y % 32) ||| x <<< (32 - y % 32), 0)) :=
  AluRow.row2 ⟨⟨_, rfl, rfl⟩, rfl⟩ rfl rfl (fun _ => rfl) (fun x y => by rw [ror_eq])

theorem popc_row (a : Alu) : Row1 (.popc a) a (fun x => (x.cpop, 0)) :=
  AluRow.row1 ⟨⟨_, rfl, rfl⟩, rfl⟩ rfl (fun _ => rfl) (fun x => by rw [popc_eq])

theorem clz_row (a : Alu) : Row1 (.clz a) a (fun x => (x.clz, 0)) :=
  AluRow.row1 ⟨⟨_, rfl, rfl⟩, rfl⟩ rfl (fun _ => rfl) (fun x => by rw [clz_eq])

theorem ctz_row (a : Alu) : Row1 (.ctz a) a (fun x => (x.ctz, 0)) :=
  AluRow.row1 ⟨⟨_, rfl, rfl⟩, rfl⟩ rfl (fun _ => rfl) (fun x => by rw [ctz_eq])

theorem brev_row (a : Alu) : Row1 (.brev a) a (fun x => (x.reverse, 0)) :=
  AluRow.row1 ⟨⟨_, rfl, rfl⟩, rfl⟩ rfl (fun _ => rfl) (fun x => by rw [brev_eq])

theorem permb_row (a : Alu) : Row2 (.permb a) a (fun x y => (permByte x y 3 ++ permByte x y 2 ++ permByte x y 1 ++ permByte x y 0, 0)) :=
  AluRow.row2 ⟨⟨_, rfl, rfl⟩, rfl⟩ rfl rfl (fun _ => rfl) (fun x y => by rw [permbW_eq])

/-! ## Bit fields (R144) -/

theorem exec_bfx (a : Ter) (s : State) : exec (.bfx a) s = execBfx a s := rfl

/-- `BFX` is `.S` or `.Z`. -/
theorem bfx_sub {a : Ter} (wf : (Instr.bfx a).WellFormed = true) : (subOf3 a.m == 1) = !(subOf3 a.m == 0) := by
  simp only [Instr.WellFormed, encodable, desc, Bool.and_eq_true] at wf
  have sub := TerRow.sub_mem wf.1
  generalize subOf3 a.m = n at sub ⊢
  simp only [List.mem_cons, List.not_mem_nil, or_false] at sub
  obtain rfl | rfl := sub <;> rfl

theorem bfx_byStrand (a : Ter) (s : State) (t : Team) (r : Ready (.bfx a) s t) : ByStrand (.bfx a) a.m s t (fun k =>
    let x := t.val k a.va.toNat
    let p := fieldPos (t.val k a.vb.toNat)
    let w := fieldWidth (t.val k a.vb.toNat)
    let f := (x >>> p) &&& fieldMask 0 w
    Out.one a.vd (if subOf3 a.m = 0 then f else if w = 0 then 0 else (f <<< (32 - w)).sshiftRight (32 - w)) 0) := by
  have row : TerRow (.bfx a) a _ := ⟨⟨_, rfl, rfl⟩, rfl, rfl⟩
  refine row.plain.byStrand r ((exec_bfx a s).trans rfl) (fun k read => ?_)
  rw [r.reg read (row.a_mem rfl), r.reg read (row.b_mem rfl)]
  simp only [V.both_ok, V.map_ok, bfxW_eq, bfx_sub r.wf]
  by_cases zero : subOf3 a.m = 0 <;> simp [zero]

theorem bfi_row (a : Ter) : Row3 (.bfi a) a (fun x y z =>
    let m := fieldMask (fieldPos z) (fieldWidth z)
    ((x &&& ~~~m) ||| ((y <<< fieldPos z) &&& m), 0)) :=
  TerRow.row3 ⟨⟨_, rfl, rfl⟩, rfl, rfl⟩ rfl rfl rfl (fun _ => rfl) (fun x y z => by rw [bfiW_eq])

/-! ## 64-bit integers (Table 8-5) -/

theorem iadd64_row (a : Alu) : RowP (.iadd64 a) a (fun x y => x + y) :=
  AluRow.rowP ⟨⟨_, rfl, rfl⟩, rfl⟩ rfl rfl rfl (fun _ => rfl) (fun x y => (BitVec.toNat_add x y).symm)

theorem isub64_row (a : Alu) : RowP (.isub64 a) a (fun x y => x - y) :=
  AluRow.rowP ⟨⟨_, rfl, rfl⟩, rfl⟩ rfl rfl rfl (fun _ => rfl) (fun x y => by
    rw [wrap, BitVec.toNat_sub]
    omega)

theorem imul64_row (a : Alu) : RowP (.imul64 a) a (fun x y => x * y) :=
  AluRow.rowP ⟨⟨_, rfl, rfl⟩, rfl⟩ rfl rfl rfl (fun _ => rfl) (fun x y => (BitVec.toNat_mul x y).symm)

theorem umulw_byStrand (a : Alu) (s : State) (t : Team) : Ready (.umulw a) s t → ByStrand (.umulw a) a.m s t (fun k =>
    Out.pair a.vd ((t.val k a.va.toNat).setWidth 64 * (t.val k (srcField a.b).toNat).setWidth 64).toNat 0) :=
  AluRow.wide ⟨⟨_, rfl, rfl⟩, rfl⟩ rfl rfl rfl (fun x y => x.setWidth 64 * y.setWidth 64) (fun _ => rfl)
    (fun x y => (toNat_mul_setWidth x y).symm) s t

theorem imulw_byStrand (a : Alu) (s : State) (t : Team) : Ready (.imulw a) s t → ByStrand (.imulw a) a.m s t (fun k =>
    Out.pair a.vd ((t.val k a.va.toNat).signExtend 64 * (t.val k (srcField a.b).toNat).signExtend 64).toNat 0) :=
  AluRow.wide ⟨⟨_, rfl, rfl⟩, rfl⟩ rfl rfl rfl (fun x y => x.signExtend 64 * y.signExtend 64) (fun _ => rfl)
    (fun x y => by rw [sint_eq_toInt, sint_eq_toInt, wrap_eq_ofInt, ofInt_mul_toInt]) s t

theorem shl64_byStrand (a : Alu) (s : State) (t : Team) : Ready (.shl64 a) s t → ByStrand (.shl64 a) a.m s t (fun k =>
    Out.pair a.vd (t.pair k a.va.toNat <<< (t.srcB k a.b).toNat).toNat 0) :=
  AluRow.shift ⟨⟨_, rfl, rfl⟩, rfl⟩ rfl rfl (fun x n => x <<< n) (fun _ => rfl) shl_toNat s t

theorem shr64_byStrand (a : Alu) (s : State) (t : Team) : Ready (.shr64 a) s t → ByStrand (.shr64 a) a.m s t (fun k =>
    Out.pair a.vd (t.pair k a.va.toNat >>> (t.srcB k a.b).toNat).toNat 0) :=
  AluRow.shift ⟨⟨_, rfl, rfl⟩, rfl⟩ rfl rfl (fun x n => x >>> n) (fun _ => rfl) shr_toNat s t

theorem sar64_byStrand (a : Alu) (s : State) (t : Team) : Ready (.sar64 a) s t → ByStrand (.sar64 a) a.m s t (fun k =>
    Out.pair a.vd ((t.pair k a.va.toNat).sshiftRight (t.srcB k a.b).toNat).toNat 0) :=
  AluRow.shift ⟨⟨_, rfl, rfl⟩, rfl⟩ rfl rfl (fun x n => x.sshiftRight n) (fun _ => rfl)
    (fun x n => by rw [sint_eq_toInt, wrap_eq_ofInt, ← sar_eq]) s t

theorem icmp64_byStrand (a : Alu) (s : State) (t : Team) : Ready (.icmp64 a) s t → ByStrand (.icmp64 a) a.m s t (fun k =>
    let x := t.pair k a.va.toNat
    let y := t.pair k (srcField a.b).toNat
    Out.one a.vd (oneIf (holds (subOf3 a.m) (x == y) (x.slt y))) 0) :=
  AluRow.compare ⟨⟨_, rfl, rfl⟩, rfl⟩ rfl rfl rfl (fun x y => holds (subOf3 a.m) (x == y) (x.slt y)) (fun _ => rfl)
    (fun x y => by rw [sint_eq_toInt, sint_eq_toInt, intCond_signed]) s t

theorem ucmp64_byStrand (a : Alu) (s : State) (t : Team) : Ready (.ucmp64 a) s t → ByStrand (.ucmp64 a) a.m s t (fun k =>
    let x := t.pair k a.va.toNat
    let y := t.pair k (srcField a.b).toNat
    Out.one a.vd (oneIf (holds (subOf3 a.m) (x == y) (x.ult y))) 0) :=
  AluRow.compare ⟨⟨_, rfl, rfl⟩, rfl⟩ rfl rfl rfl (fun x y => holds (subOf3 a.m) (x == y) (x.ult y)) (fun _ => rfl)
    (intCond_unsigned (subOf3 a.m)) s t

/-- Settles O1, instruction by instruction. -/
theorem integerInstructions : Obligations.IntegerInstructions :=
  ⟨iadd_row, isub_row, iadds_row, isubs_row, ineg_row, iabs_row, imin_row, imax_row, umin_row, umax_row, imul_row, imulhi_row, umulhi_row,
    imad_row, idiv_row, udiv_row, irem_row, urem_row, andI_row, orI_row, xorI_row, andn_row, shl_row, shr_row, sar_row, rol_row, ror_row,
    popc_row, clz_row, ctz_row, brev_row, permb_row, bfx_byStrand, bfi_row, iadd64_row, isub64_row, imul64_row, umulw_byStrand, imulw_byStrand,
    shl64_byStrand, shr64_byStrand, sar64_byStrand, icmp64_byStrand, ucmp64_byStrand⟩

end Sys2Proof.Machine
end

section
/-! PROOF. O2: compares, the select and the moves (R146 to R149). -/

namespace Sys2Proof.Machine

variable {i : Instr} {s : State} {t : Team} {m : BitVec 4}

/-! ## Compares, the select and the moves of named registers (R146 to R148) -/

theorem icmp_row (a : Alu) : Row2 (.icmp a) a (fun x y => (oneIf (holds (subOf3 a.m) (x == y) (x.slt y)), 0)) :=
  AluRow.row2 ⟨⟨_, rfl, rfl⟩, rfl⟩ rfl rfl (fun _ => rfl) (fun x y => by rw [boolWord_eq, intCond_signed])

theorem ucmp_row (a : Alu) : Row2 (.ucmp a) a (fun x y => (oneIf (holds (subOf3 a.m) (x == y) (x.ult y)), 0)) :=
  AluRow.row2 ⟨⟨_, rfl, rfl⟩, rfl⟩ rfl rfl (fun _ => rfl) (fun x y => by rw [boolWord_eq, intCond_unsigned])

theorem exec_sel (a : Ter) (s : State) : exec (.sel a) s = execSel a s := rfl
theorem exec_mov (a : Alu) (s : State) : exec (.mov a) s = execMov a s := rfl
theorem exec_movi (a : Alu) (s : State) : exec (.movi a) s = execMovi a s := rfl
theorem exec_movi64 (a : Wide) (s : State) : exec (.movi64 a) s = execMovi64 a s := rfl
theorem exec_movr (a : Alu) (s : State) : exec (.movr a) s = execMovr a s := rfl
theorem exec_movw (a : Alu) (s : State) : exec (.movw a) s = execMovw a s := rfl

theorem sel_byStrand (a : Ter) (s : State) (t : Team) (r : Ready (.sel a) s t) : ByStrand (.sel a) a.m s t (fun k =>
    let r := if (t.val k a.vc.toNat).getLsbD 0 then a.va.toNat else a.vb.toNat
    Out.tagged a.vd (t.val k r) (t.tag k r) 0) := by
  have row : TerRow (.sel a) a _ := ⟨⟨_, rfl, rfl⟩, rfl, rfl⟩
  refine row.plain.byStrand r ((exec_sel a s).trans rfl) (fun k read => ?_)
  rw [r.regT read (row.a_mem rfl), r.regT read (row.b_mem rfl), r.regT read (row.c_mem rfl)]
  simp only [V.both_ok, V.map_ok, bitAt_zero, Team.val, Team.tag]
  by_cases first : ((t.strand k).reg a.vc.toNat).val.getLsbD 0 = true
  · simp only [first, if_true]
  · simp only [first, if_false, Bool.false_eq_true]

theorem mov_byStrand (a : Alu) (s : State) (t : Team) (r : Ready (.mov a) s t) :
    ByStrand (.mov a) a.m s t (fun k => Out.tagged a.vd (t.val k a.va.toNat) (t.tag k a.va.toNat) 0) := by
  have row : AluRow (.mov a) a _ := ⟨⟨_, rfl, rfl⟩, rfl⟩
  refine row.plain.byStrand r ((exec_mov a s).trans rfl) (fun k read => ?_)
  rw [r.regT read (row.a_mem (RU.mem_r _))]
  rfl

theorem movi_byStrand (a : Alu) (w : Word) (imm : a.b = .imm w) (s : State) (t : Team) (r : Ready (.movi a) s t) :
    ByStrand (.movi a) a.m s t (fun _ => Out.one a.vd w 0) := by
  have row : AluRow (.movi a) a _ := ⟨⟨_, rfl, rfl⟩, rfl⟩
  refine row.plain.byStrand r ((exec_movi a s).trans rfl) (fun k _ => ?_)
  rw [imm]
  rfl

theorem movi64_byStrand (a : Wide) (s : State) (t : Team) (r : Ready (.movi64 a) s t) :
    ByStrand (.movi64 a) a.m s t (fun _ => Out.pair a.vd a.imm.toNat 0) :=
  (Plain.of_raw (r := rawWide 0x4a a) rfl rfl).byStrand r ((exec_movi64 a s).trans rfl) (fun _ _ => rfl)

/-! ## The moves of indexed registers (R149) -/

/-- Register `r` of strand `k` holds the index of a register that may be used. -/
def IndexOk (t : Team) (k r : Nat) : Prop := (t.val k r).toNat < t.nreg ∧ (t.val k r).toNat ∉ t.lock ∧ (t.val k r).toNat ∉ t.pend

theorem indexIn_ok (r : Ready i s t) {k : Nat} (read : k ∈ t.reads i) {x : RegField} (source : x.toNat ∈ srcRegs i) (ok : IndexOk t k x.toNat) :
    indexIn ⟨s, t, i, t.active i⟩ k x = .ok (t.val k x.toNat).toNat := by
  obtain ⟨below, free, -⟩ := ok
  unfold indexIn
  rw [r.reg read source, V.bind_ok, if_neg (not_le.mpr below), if_neg (by simpa using free)]

/-- The strands that `MOVR` and `MOVW` read in are those of every instruction with a `.U` bit. -/
theorem Plain.readers_eq (p : Plain i m) (s : State) (t : Team) : Run.readers ⟨s, t, i, t.active i⟩ m = t.reads i := by
  rw [reads_eq t i p.own, p.leads]
  rfl

theorem indexPends_eq_false (p : Plain i m) (r : Ready i s t) {x : RegField} (source : x.toNat ∈ srcRegs i)
    (ok : ∀ k ∈ t.reads i, IndexOk t k x.toNat) : indexPends ⟨s, t, i, t.active i⟩ m x = false := by
  unfold indexPends
  rw [p.readers_eq, List.any_eq_false]
  intro k read
  rw [indexIn_ok r read source (ok k read)]
  simpa using (ok k read).2.2

/-- The frame of the `.U` bit when no strand faults. -/
theorem lanesU_ok (c : Run) (m : BitVec 4) (f : Nat → V Out) (o : Nat → Out) (once : c.act.Nodup) (h : ∀ k ∈ c.readers m, f k = .ok (o k)) :
    ∃ d, lanesU c m f = .done d ∧ d.jump = none ∧ d.stepped = true ∧ d.keepSigs = false ∧ d.keepSigd = false ∧
      (d.s = c.put (byMode (topBit m) c.t c.act o) ∨ (d.s = c.s ∧ byMode (topBit m) c.t c.act o = c.t)) := by
  unfold Run.readers at h
  unfold lanesU byMode
  cases u : topBit m
  · exact ⟨_, lanes_ok c f o once (by simpa [u] using h), rfl, rfl, rfl, rfl, .inl rfl⟩
  · exact leaderAll_ok c f o (by simpa [u] using h)

theorem byMode_keeps (u : Bool) (t : Team) (ks : List Nat) (o : Nat → Out) : (byMode u t ks o).hnd = t.hnd ∧ (byMode u t ks o).grp = t.grp ∧
    (byMode u t ks o).preq = t.preq ∧ (byMode u t ks o).nreg = t.nreg ∧ (byMode u t ks o).yielded = t.yielded ∧
    (byMode u t ks o).status = t.status := by
  unfold byMode
  cases u
  · exact ⟨rfl, rfl, rfl, rfl, rfl, rfl⟩
  · exact Ready.fromLeader_same t ks o

/-- Results by the `.U` bit, with registers read beside those the fields name (R129, R130). -/
theorem Plain.byStrand_readsAlso (p : Plain i m) (r : Ready i s t) {body : Run → Res} {f : Nat → V Out} {o : Nat → Out} {xs : List (Nat × Nat)}
    (run : exec i s = runI i body s) (frame : body ⟨s, t, i, t.active i⟩ = (lanesU ⟨s, t, i, t.active i⟩ m f).readsAlso xs)
    (results : ∀ k ∈ t.reads i, f k = .ok (o k)) : ByStrand i m s t o := by
  obtain ⟨d, outcome, jump, stepped, sigs, sigd, effect⟩ :=
    lanesU_ok ⟨s, t, i, t.active i⟩ m f o (active_nodup t i) (by rwa [p.readers_eq])
  obtain ⟨hnd, grp, preq, nreg, yielded, status⟩ := byMode_keeps (topBit m) t (t.active i) o
  rw [outcome] at frame
  unfold ByStrand Completes
  rw [run]
  rcases effect with put | ⟨none, same⟩
  · exact r.seq p.control p.ends p.legal body { d with reads := some xs } _ s frame jump stepped sigs sigd put ⟨t, r.self⟩
      hnd grp preq nreg yielded (by rw [status]; exact r.running) ((congrArg State.now put).trans rfl)
  · change d.s = s at none
    change byMode _ t _ _ = t at same
    obtain ⟨s', next, retires⟩ := r.seqIn p.control p.ends p.legal body { d with reads := some xs } t frame jump stepped sigs sigd
      (by rw [none]; exact r.self) rfl rfl rfl rfl r.running (congrArg State.now none)
    rw [same]
    exact ⟨s', next, none ▸ retires⟩

theorem movr_byStrand (a : Alu) (s : State) (t : Team) (r : Ready (.movr a) s t)
    (index : ∀ k ∈ t.reads (.movr a), (t.val k a.va.toNat).toNat < t.nreg ∧ (t.val k a.va.toNat).toNat ∉ t.lock ∧
      (t.val k a.va.toNat).toNat ∉ t.pend ∧ t.clean k (t.val k a.va.toNat).toNat) :
    ByStrand (.movr a) a.m s t (fun k =>
      let r := (t.val k a.va.toNat).toNat
      Out.tagged a.vd (t.val k r) (t.tag k r) 0) := by
  have row : AluRow (.movr a) a _ := ⟨⟨_, rfl, rfl⟩, rfl⟩
  have source : a.va.toNat ∈ srcRegs (.movr a) := row.a_mem (RU.mem_r _)
  have ok : ∀ k ∈ t.reads (.movr a), IndexOk t k a.va.toNat := fun k read =>
    have ⟨below, free, come, _⟩ := index k read
    ⟨below, free, come⟩
  refine row.plain.byStrand_readsAlso r ((exec_movr a s).trans rfl)
    (if_neg (by rw [indexPends_eq_false row.plain r source ok]; decide)) (fun k read => ?_)
  obtain ⟨below, -, -, clean⟩ := index k read
  rw [indexIn_ok r read source (ok k read), V.bind_ok, regV_ok below clean]
  rfl

theorem movw_byStrand (a : Alu) (v : RegField) (reg : a.b = .reg v) (s : State) (t : Team) (r : Ready (.movw a) s t)
    (index : ∀ k ∈ t.reads (.movw a), (t.val k v.toNat).toNat < t.nreg ∧ (t.val k v.toNat).toNat ∉ t.lock ∧
      (t.val k v.toNat).toNat ∉ t.pend) :
    ByStrand (.movw a) a.m s t (fun k => ⟨[((t.val k v.toNat).toNat, t.val k a.va.toNat, t.tag k a.va.toNat)], 0⟩) := by
  have row : AluRow (.movw a) a _ := ⟨⟨_, rfl, rfl⟩, rfl⟩
  have field : srcField a.b = v := by rw [reg]; rfl
  have source : v.toNat ∈ srcRegs (.movw a) := row.b_mem reg (RU.mem_r _)
  refine row.plain.byStrand_of r ((exec_movw a s).trans rfl)
    (if_neg (by rw [field, indexPends_eq_false row.plain r source index]; decide)) (fun k read => ?_)
  rw [field, indexIn_ok r read source (index k read), r.regT read (row.a_mem (RU.mem_r _))]
  rfl

/-- Settles O2, instruction by instruction. -/
theorem compareSelectMove : Obligations.CompareSelectMove :=
  ⟨icmp_row, ucmp_row, sel_byStrand, mov_byStrand, movi_byStrand, movi64_byStrand, movr_byStrand, movw_byStrand⟩

end Sys2Proof.Machine
end

section
/-! PROOF. O3: the pointer instructions (R151 to R154). A valid pointer is its space, its rank or tower, and its address field. -/

namespace Sys2Proof.Machine

/-! ## Pointers by their fields (R151, Tables 6-1 to 6-3) -/

/-- The ranges of the fields of a valid pointer. -/
theorem PtrFields.ranges {sp sel x : Nat} (valid : PtrFields sp sel x) : sp < 3 ∧ sel < 12 ∧ x < 2 ^ spaceWidth sp ∧ x < 2 ^ 48 := by
  rcases valid with ⟨rfl, rfl, address⟩ | ⟨rfl, rank, address⟩ | ⟨rfl, tower, address⟩
  · exact ⟨by decide, by decide, address, address⟩
  · exact ⟨by decide, rank, address, by omega⟩
  · exact ⟨by decide, by omega, address, by omega⟩

theorem PtrFields.toNat_tagged {sp sel x : Nat} (valid : PtrFields sp sel x) : (tagged sp sel x).toNat = sp * 2 ^ 60 + sel * 2 ^ 48 + x := by
  obtain ⟨hsp, hsel, -, hx⟩ := valid.ranges
  rw [tagged, BitVec.toNat_ofNat, Nat.mod_eq_of_lt]
  omega

theorem PtrFields.ptrSpace_eq {sp sel x : Nat} (valid : PtrFields sp sel x) : ptrSpace (tagged sp sel x) = sp := by
  obtain ⟨hsp, hsel, -, hx⟩ := valid.ranges
  rw [ptrSpace, valid.toNat_tagged]
  omega

theorem PtrFields.ptrField_eq {sp sel x : Nat} (valid : PtrFields sp sel x) : ptrField (tagged sp sel x) = x := by
  rw [ptrField, valid.ptrSpace_eq, valid.toNat_tagged, bits, Nat.pow_zero, Nat.div_one]
  rcases valid with ⟨rfl, rfl, address⟩ | ⟨rfl, -, address⟩ | ⟨rfl, -, address⟩
  · simp only [spaceWidth, if_true]
    omega
  · simp only [spaceWidth, if_true, Nat.one_ne_zero, if_false]
    omega
  · simp only [spaceWidth, show ¬2 = 0 by decide, show ¬2 = 1 by decide, if_false]
    omega

theorem PtrFields.ptrOk {sp sel x : Nat} (valid : PtrFields sp sel x) : ptrOk (tagged sp sel x) = true := by
  have space : (tagged sp sel x).toNat / 2 ^ 60 = sp := valid.ptrSpace_eq
  have value := valid.toNat_tagged
  unfold Machine.ptrOk
  dsimp only
  rw [space, value]
  rcases valid with ⟨rfl, rfl, address⟩ | ⟨rfl, rank, address⟩ | ⟨rfl, tower, address⟩
  · simp only [bits, beq_iff_eq]
    omega
  · simp only [bits, Bool.and_eq_true, beq_iff_eq]
    refine ⟨⟨?_, ?_⟩, decide_eq_true ?_⟩ <;> omega
  · simp only [bits, Bool.and_eq_true, beq_iff_eq]
    refine ⟨⟨?_, ?_⟩, decide_eq_true ?_⟩ <;> omega

/-- A valid pointer moved by an offset that leaves it valid (R96). -/
theorem PtrFields.ptrAdd_eq {sp sel x : Nat} {d : Int} (valid : PtrFields sp sel x) (nonneg : 0 ≤ x + d) (moved : PtrFields sp sel (x + d).toNat) :
    ptrAdd (tagged sp sel x) d = some (tagged sp sel (x + d).toNat) := by
  have inside : ¬((x : Int) + d < 0 ∨ (x : Int) + d ≥ (2 ^ spaceWidth sp : Nat)) := by
    have := moved.ranges.2.2.1
    omega
  have rest : (tagged sp sel x).toNat - x + (x + d).toNat = sp * 2 ^ 60 + sel * 2 ^ 48 + (x + d).toNat := by
    rw [valid.toNat_tagged]
    omega
  unfold ptrAdd
  rw [valid.ptrOk, valid.ptrField_eq, valid.ptrSpace_eq]
  simp only [inside, rest]
  rfl

/-- `PTR` makes the pointer of its fields (R153). -/
theorem PtrFields.mkPtr_eq {sp sel : Nat} {x : DWord} {b : Word} (k : Nat) (valid : PtrFields sp sel x.toNat) (select : b.toNat = sel) :
    mkPtr k sp x b = .ok (tagged sp sel x.toNat).toNat := by
  have address : ¬x.toNat ≥ 2 ^ spaceWidth sp := not_le.mpr valid.ranges.2.2.1
  rw [valid.toNat_tagged, ← select]
  rw [← select] at valid
  unfold mkPtr
  rw [if_neg address]
  rcases valid with ⟨rfl, zero, -⟩ | ⟨rfl, rank, -⟩ | ⟨rfl, tower, -⟩
  · simp only [if_true, zero, Nat.zero_mul, Nat.zero_add]
  · rw [if_neg (by decide), if_pos rfl, if_neg (not_le.mpr rank)]
  · rw [if_neg (show ¬2 = 0 by decide), if_neg (show ¬2 = 1 by decide), if_neg (not_le.mpr tower)]

/-- `PFIELD` gives the piece that the low bits of b select (R154). -/
theorem ptrPart_eq (p : DWord) (b : Word) : ptrPart p b = ptrPiece p (b.extractLsb' 0 2).toNat := by
  have select : (b.extractLsb' 0 2).toNat = b.toNat % 4 := by simp
  have piece (lo len : Nat) : word (bits p.toNat lo len) = (p.extractLsb' lo len).setWidth 32 := by
    apply BitVec.eq_of_toNat_eq
    simp [word, bits, Nat.shiftRight_eq_div_pow]
  have low : b.toNat % 4 = 0 ∨ b.toNat % 4 = 1 ∨ b.toNat % 4 = 2 ∨ b.toNat % 4 = 3 := by omega
  unfold ptrPart ptrPiece
  rw [select]
  rcases low with h | h | h | h <;> rw [h]
  · exact piece 60 4
  · exact piece 48 4
  · exact (piece 0 32).trans (BitVec.setWidth_eq _)
  · exact piece 32 16

/-! ## `LEA`, `PTR` and `PFIELD` -/

theorem exec_lea (a : Alu) (s : State) : exec (.lea a) s = execLea a s := rfl
theorem exec_ptr (a : Alu) (s : State) : exec (.ptr a) s = execPtr a s := rfl
theorem exec_pfield (a : Alu) (s : State) : exec (.pfield a) s = execPfield a s := rfl

theorem leaPtr_of {p q : DWord} {sub : Nat} {b : Word} (k : Nat)
    (moved : ptrAdd p ((if sub ≥ 4 then (b.toNat : Int) else b.toInt) * (2 ^ (sub % 4) : Nat)) = some q) : leaPtr k sub p b = .ok q := by
  unfold leaPtr
  dsimp only
  rw [moved]

/-- The scaled index of `LEA` (R152). -/
theorem leaPtr_eq {sp sel x sub : Nat} {y : Int} {b : Word} (k : Nat) (valid : PtrFields sp sel x)
    (sum : y = x + (if sub < 4 then b.toInt else b.toNat) * 2 ^ (sub % 4)) (nonneg : 0 ≤ y) (moved : PtrFields sp sel y.toNat) :
    leaPtr k sub (tagged sp sel x) b = .ok (tagged sp sel y.toNat) := by
  have offset : (if sub ≥ 4 then (b.toNat : Int) else b.toInt) * (2 ^ (sub % 4) : Nat) =
      (if sub < 4 then b.toInt else b.toNat) * 2 ^ (sub % 4) := by
    rw [Nat.cast_pow, Nat.cast_ofNat]
    by_cases signed : sub < 4
    · rw [if_pos signed, if_neg (by omega)]
    · rw [if_neg signed, if_pos (by omega)]
  subst sum
  exact leaPtr_of k (by rw [offset]; exact valid.ptrAdd_eq nonneg moved)

theorem lea_byStrand (a : Alu) (s : State) (t : Team) (r : Ready (.lea a) s t) (sp sel x : Nat → Nat) (y : Nat → Int)
    (valid : ∀ k ∈ t.reads (.lea a), PtrFields (sp k) (sel k) (x k) ∧ t.pair k a.va.toNat = tagged (sp k) (sel k) (x k) ∧
      y k = x k + (if subOf3 a.m < 4 then (t.srcB k a.b).toInt else (t.srcB k a.b).toNat) * 2 ^ (subOf3 a.m % 4) ∧
      0 ≤ y k ∧ PtrFields (sp k) (sel k) (y k).toNat) :
    ByStrand (.lea a) a.m s t (fun k => Out.pair a.vd (tagged (sp k) (sel k) (y k).toNat).toNat 0) := by
  have row : AluRow (.lea a) a _ := ⟨⟨_, rfl, rfl⟩, rfl⟩
  refine row.plain.byStrand r ((exec_lea a s).trans rfl) (fun k read => ?_)
  obtain ⟨before, pointer, sum, nonneg, after⟩ := valid k read
  rw [row.pairAndSrc rfl rfl r read, V.bind_ok, pointer, leaPtr_eq k before sum nonneg after]
  rfl

theorem ptr_byStrand (a : Alu) (s : State) (t : Team) (r : Ready (.ptr a) s t)
    (valid : ∀ k ∈ t.reads (.ptr a), PtrFields (subOf3 a.m) (if subOf3 a.m = 0 then 0 else (t.srcB k a.b).toNat) (t.pair k a.va.toNat).toNat) :
    ByStrand (.ptr a) a.m s t (fun k =>
      Out.pair a.vd (tagged (subOf3 a.m) (if subOf3 a.m = 0 then 0 else (t.srcB k a.b).toNat) (t.pair k a.va.toNat).toNat).toNat 0) := by
  have row : AluRow (.ptr a) a _ := ⟨⟨_, rfl, rfl⟩, rfl⟩
  refine row.plain.byStrand r ((exec_ptr a s).trans rfl) (fun k read => ?_)
  have fields := valid k read
  have sub : a.m.toNat % 4 = subOf3 a.m := by
    have small := fields.ranges.1
    unfold subOf3 at small ⊢
    omega
  have pair := r.pair read (row.a_mem (RU.mem_p _)) (row.a_mem (RU.succ_mem_p _))
  have index : (if a.m.toNat % 4 = 0 then .ok 0 else Run.src ⟨s, t, .ptr a, t.active (.ptr a)⟩ k a.b) =
      V.ok (if subOf3 a.m = 0 then 0 else t.srcB k a.b) := by
    rw [sub]
    by_cases global : subOf3 a.m = 0
    · rw [if_pos global, if_pos global]
    · rw [if_neg global, if_neg global]
      refine r.src read (fun _ reg => row.b_mem reg ?_)
      change _ ∈ (if a.m.toNat % 4 = 0 then RU.no else RU.r).regs _
      rw [sub, if_neg global]
      exact RU.mem_r _
  have select : (if subOf3 a.m = 0 then 0 else t.srcB k a.b).toNat = if subOf3 a.m = 0 then 0 else (t.srcB k a.b).toNat := by
    split <;> rfl
  rw [pair, index, V.both_ok, V.bind_ok, sub, fields.mkPtr_eq k select]
  rfl

theorem pfield_byStrand (a : Alu) (s : State) (t : Team) (r : Ready (.pfield a) s t) : ByStrand (.pfield a) a.m s t (fun k =>
    Out.one a.vd (ptrPiece (t.pair k a.va.toNat) ((t.srcB k a.b).extractLsb' 0 2).toNat) 0) := by
  have row : AluRow (.pfield a) a _ := ⟨⟨_, rfl, rfl⟩, rfl⟩
  refine row.plain.byStrand r ((exec_pfield a s).trans rfl) (fun k read => ?_)
  rw [row.pairAndSrc rfl rfl r read, V.map_ok, ptrPart_eq]

/-- Settles O3, instruction by instruction. -/
theorem pointers : Obligations.Pointers := ⟨lea_byStrand, ptr_byStrand, pfield_byStrand⟩

end Sys2Proof.Machine
end

section
/-! PROOF. O5: transfers of a whole team (R159, R160), `NOP` and `YIELD` (R162). A transfer's target is read by the leader, or by the lowest
strand that has not exited; the link goes to every strand. -/

namespace Sys2Proof.Machine

variable {i : Instr} {s : State} {t : Team}

/-! ## Team-uniform transfers (R159) -/

/-- `t` with the return address at the pair `link` names, if it names one. -/
def withLink (t : Team) (link : Option RegField) : Team := link.elim t (linked t)

theorem withLink_same (t : Team) (link : Option RegField) : (withLink t link).hnd = t.hnd ∧ (withLink t link).grp = t.grp ∧
    (withLink t link).preq = t.preq ∧ (withLink t link).nreg = t.nreg ∧ (withLink t link).yielded = t.yielded ∧
    (withLink t link).status = t.status := by
  cases link <;> exact ⟨rfl, rfl, rfl, rfl, rfl, rfl⟩

/-- The link of a call is the address behind it, in every strand. -/
theorem setPair_eq_linked (t : Team) (vd : RegField) :
    { t with strands := t.strands.map (fun x => x.setPair vd.toNat (BitVec.ofNat 64 (t.pc.toNat + 16)) 0) } = linked t vd := by
  have address : (BitVec.ofNat 64 (t.pc.toNat + 16)).toNat = t.pc.toNat + 16 := by
    rw [BitVec.toNat_ofNat]
    omega
  unfold linked Strand.setPair
  rw [address]
  rfl

theorem uniform_idle {c : Run} (idle : c.act = []) (target : Nat → V Int) (rd : Nat → List (Nat × Nat)) (link : Option RegField) :
    uniform c target rd link = .done (stay c.s) := by
  unfold uniform Run.lead
  rw [idle]
  rfl

theorem uniform_taken {c : Run} {l : Nat} {x : Int} {target : Nat → V Int} (lead : c.act.head? = some l) (value : target l = .ok x)
    (good : goodTarget x 64) (rd : Nat → List (Nat × Nat)) (link : Option RegField) :
    ∃ xs ws, uniform c target rd link = .done { goTo (c.put (withLink c.t link)) (BitVec.ofInt 48 x) with reads := xs, writes := ws } := by
  unfold uniform Run.lead
  rw [lead]
  dsimp only
  rw [value, V.bind_ok, goodTarget_ok good, V.res_ok]
  cases link with
  | none => exact ⟨_, _, rfl⟩
  | some vd =>
    have linked : withLink c.t (some vd) = _ := (setPair_eq_linked c.t vd).symm
    rw [linked]
    exact ⟨_, _, rfl⟩

/-- A transfer without a leader falls through. -/
theorem Ready.fallsThrough (r : Ready i s t) (form : ControlForm i false) {target : Run → Nat → V Int} {rd : Nat → List (Nat × Nat)}
    {link : Option RegField} (run : exec i s = runI i (fun c => uniform c (target c) rd link) s) (idle : t.active i = []) : Goes i s t t none := by
  obtain ⟨control, ends, legal, length⟩ := form
  unfold Goes
  rw [run]
  exact r.goes control ends legal length _ (stay s) t (uniform_idle idle _ _ _) (.inr ⟨rfl, rfl⟩) rfl rfl rfl rfl rfl rfl rfl rfl rfl

/-- A transfer with a leader goes to the target the leader gives. -/
theorem Ready.transfers (r : Ready i s t) (form : ControlForm i false) {target : Run → Nat → V Int} {rd : Nat → List (Nat × Nat)}
    {link : Option RegField} (run : exec i s = runI i (fun c => uniform c (target c) rd link) s) {l : Nat} {x : Int}
    (lead : (t.active i).head? = some l) (value : target ⟨s, t, i, t.active i⟩ l = .ok x) (good : goodTarget x 64) :
    Goes i s t (withLink t link) (some (BitVec.ofInt 48 x)) := by
  obtain ⟨control, ends, legal, length⟩ := form
  obtain ⟨hnd, grp, preq, nreg, yielded, status⟩ := withLink_same t link
  obtain ⟨xs, ws, outcome⟩ := uniform_taken (c := ⟨s, t, i, t.active i⟩) lead value good rd link
  unfold Goes
  rw [run]
  exact r.goes control ends legal length _ { goTo (s.putTeam (withLink t link)) (BitVec.ofInt 48 x) with reads := xs, writes := ws } _ outcome
    (.inl rfl) rfl rfl rfl hnd grp preq nreg yielded status

/-! ## The registers that hold a target -/

/-- The pair at source a of form T is among the registers read. -/
theorem pair_mem_srcRegs {opc : Nat} {a : Ctl} {d : Desc} (raw : toRaw i = some (rawCtl opc a)) (row : desc i = some d) (ua : d.a = .p) :
    a.va.toNat ∈ srcRegs i ∧ a.va.toNat + 1 ∈ srcRegs i := by
  unfold srcRegs
  rw [raw, row]
  dsimp only
  rw [ua]
  exact ⟨List.mem_append_left _ (List.mem_append_left _ (RU.mem_p a.va)), List.mem_append_left _ (List.mem_append_left _ (RU.succ_mem_p a.va))⟩

/-- `BRX` and `CALLX` read in their leader alone (R159). -/
theorem leaderReads_indirect {r : Raw} (raw : toRaw i = some r) (indirect : r.opc.toNat ∈ [0x88, 0x8a]) :
    leaderReads i = true ∧ ownReads i = false := by
  have opc := opcOf_eq raw
  refine ⟨?_, ?_⟩
  · unfold leaderReads
    split
    · next a =>
      rw [← opc, opcOf_movsw] at indirect
      exact absurd indirect (by decide)
    · simp only [raw, indirect, decide_true, Bool.or_true, Bool.true_or]
  · rw [ownReads, opc, decide_eq_false_iff_not]
    simp only [List.mem_cons, List.not_mem_nil, or_false] at indirect ⊢
    omega

/-- The leader's pair as a target (R159). -/
theorem Ready.pairTarget_ok (r : Ready i s t) {opc : Nat} {a : Ctl} {d : Desc} (raw : toRaw i = some (rawCtl opc a)) (row : desc i = some d)
    (ua : d.a = .p) (indirect : (BitVec.ofNat 10 opc).toNat ∈ [0x88, 0x8a]) {l : Nat} (lead : (t.active i).head? = some l) :
    pairTarget ⟨s, t, i, t.active i⟩ a.va l = .ok ((t.pair l a.va.toNat).toNat : Int) := by
  obtain ⟨low, high⟩ := pair_mem_srcRegs raw row ua
  obtain ⟨leads, own⟩ := leaderReads_indirect raw indirect
  obtain ⟨ks, active⟩ := List.head?_eq_some_iff.mp lead
  have read : l ∈ t.reads i := by
    rw [reads_eq t i own, leads, if_pos rfl, active]
    exact List.mem_singleton.mpr rfl
  unfold pairTarget
  rw [r.pair read low high]
  rfl

/-! ## The instructions -/

theorem exec_bra (a : Ctl) (s : State) : exec (.bra a) s = execBra a s := rfl
theorem exec_brx (a : Ctl) (s : State) : exec (.brx a) s = execBrx a s := rfl
theorem exec_call (a : Ctl) (s : State) : exec (.call a) s = execCall a s := rfl
theorem exec_callx (a : Ctl) (s : State) : exec (.callx a) s = execCallx a s := rfl
theorem exec_ret (a : Ctl) (s : State) : exec (.ret a) s = execRet a s := rfl
theorem exec_nop (a : NopF) (s : State) : exec (.nop a) s = execNop a s := rfl
theorem exec_yieldI (a : Alu) (s : State) : exec (.yieldI a) s = execYield a s := rfl

theorem bra_goes (a : Ctl) (s : State) (t : Team) (r : Ready (.bra a) s t) :
    (t.active (.bra a) = [] → Goes (.bra a) s t t none) ∧
    (t.active (.bra a) ≠ [] → goodTarget (target t a.off) 64 → Goes (.bra a) s t t (some (BitVec.ofInt 48 (target t a.off)))) := by
  have form : ControlForm (.bra a) false := ⟨rfl, rfl, rfl, rfl⟩
  have run := (exec_bra a s).trans rfl
  refine ⟨r.fallsThrough form run, fun some good => ?_⟩
  exact r.transfers form run (List.head?_eq_some_head some) rfl good

theorem call_goes (a : Ctl) (s : State) (t : Team) (r : Ready (.call a) s t) :
    (t.active (.call a) = [] → Goes (.call a) s t t none) ∧
    (t.active (.call a) ≠ [] → goodTarget (target t a.off) 64 →
      Goes (.call a) s t (linked t a.vd) (some (BitVec.ofInt 48 (target t a.off)))) := by
  have form : ControlForm (.call a) false := ⟨rfl, rfl, rfl, rfl⟩
  have run := (exec_call a s).trans rfl
  refine ⟨r.fallsThrough form run, fun some good => ?_⟩
  exact r.transfers form run (List.head?_eq_some_head some) rfl good

theorem brx_goes (a : Ctl) (s : State) (t : Team) (r : Ready (.brx a) s t) :
    (t.active (.brx a) = [] → Goes (.brx a) s t t none) ∧
    (∀ l, (t.active (.brx a)).head? = some l → goodTarget (t.pair l a.va.toNat).toNat 64 →
      Goes (.brx a) s t t (some ((t.pair l a.va.toNat).setWidth 48))) := by
  have form : ControlForm (.brx a) false := ⟨rfl, rfl, rfl, rfl⟩
  have run := (exec_brx a s).trans rfl
  refine ⟨r.fallsThrough form run, fun l lead good => ?_⟩
  rw [← ofInt_pair]
  exact r.transfers form run lead (r.pairTarget_ok rfl rfl rfl (by decide) lead) good

theorem callx_goes (a : Ctl) (s : State) (t : Team) (r : Ready (.callx a) s t) :
    (t.active (.callx a) = [] → Goes (.callx a) s t t none) ∧
    (∀ l, (t.active (.callx a)).head? = some l → goodTarget (t.pair l a.va.toNat).toNat 64 →
      Goes (.callx a) s t (linked t a.vd) (some ((t.pair l a.va.toNat).setWidth 48))) := by
  have form : ControlForm (.callx a) false := ⟨rfl, rfl, rfl, rfl⟩
  have run := (exec_callx a s).trans rfl
  refine ⟨r.fallsThrough form run, fun l lead good => ?_⟩
  rw [← ofInt_pair]
  exact r.transfers form run lead (r.pairTarget_ok rfl rfl rfl (by decide) lead) good

/-- `RET` takes its target from the lowest strand that has not exited (R160). -/
theorem ret_goes (a : Ctl) (s : State) (t : Team) (r : Ready (.ret a) s t) (l : Nat)
    (lowest : t.all.find? (fun k => (t.strand k).ctr != 0xff) = some l) (clean0 : t.clean l a.va.toNat) (clean1 : t.clean l (a.va.toNat + 1))
    (good : goodTarget (t.pair l a.va.toNat).toNat 4) : Goes (.ret a) s t t (some ((t.pair l a.va.toNat).setWidth 48)) := by
  obtain ⟨low, high⟩ := pair_mem_srcRegs (i := .ret a) (opc := 0x8b) rfl rfl rfl
  have pair : pairTarget ⟨s, t, .ret a, t.active (.ret a)⟩ a.va l = .ok ((t.pair l a.va.toNat).toNat : Int) := by
    unfold pairTarget Run.pair
    rw [pairV_ok (r.below low) (r.below high) clean0 clean1]
    rfl
  have found : t.all.find? (fun k => !(t.strand k).exited) = some l := lowest
  unfold Goes
  rw [← ofInt_pair, exec_ret]
  refine r.goes rfl rfl rfl rfl _ { goTo s (BitVec.ofInt 48 (t.pair l a.va.toNat).toNat) with reads := some (pairRead a.va l) } t ?_
    (.inr ⟨rfl, rfl⟩) rfl rfl rfl rfl rfl rfl rfl rfl rfl
  simp only [found, pair, V.bind_ok, goodTarget_ok good, V.res_ok]

/-- An instruction without an effect of its own. -/
theorem Ready.passes (r : Ready i s t) (control : isControl i = false) (ends : isEnd i = false) (legal : isIllegal i = false)
    (run : exec i s = runI i (fun c => .done (stay c.s)) s) : Completes i s t t s := by
  unfold Completes
  rw [run]
  exact r.seqIn control ends legal _ (stay s) t rfl rfl rfl rfl rfl r.self rfl rfl rfl rfl r.running rfl

theorem nop_completes (a : NopF) (s : State) (t : Team) (r : Ready (.nop a) s t) : Completes (.nop a) s t t s :=
  r.passes rfl rfl rfl ((exec_nop a s).trans rfl)

theorem yieldI_completes (a : Alu) (s : State) (t : Team) (r : Ready (.yieldI a) s t) : Completes (.yieldI a) s t t s := by
  have control : isControl (.yieldI a) = false := by
    rw [isControl, opcOf_eq (r := rawAlu 0x8e a) rfl, rawAlu_opc]
    rfl
  exact r.passes control rfl rfl ((exec_yieldI a s).trans rfl)

/-- Settles O5, instruction by instruction. -/
theorem teamTransfers : Obligations.TeamTransfers :=
  ⟨bra_goes, brx_goes, call_goes, callx_goes, ret_goes, nop_completes, yieldI_completes⟩

end Sys2Proof.Machine
end

section
/-! PROOF. O7 and O13 fail: of an instruction that takes no `.U` bit every active strand reads its source, whatever bit 63 of `mod` says
(R61, R139, R171, R176), but `Ready` keeps only the leader's source free of poison where that bit is set. -/

namespace Sys2Proof.Machine

/-- The machine where a team has its turn and nothing else is under way. -/
def turnOf (t : Team) : State := { State.reset with teams := [t] }
/-- A team at its first instruction: nothing is owed to it, and no register is locked. -/
def restingTeam (nreg strands : Nat) : Team := startTeam 0 0 0 nreg strands 0 0 0 bareCtx 0 0 0 false

/-- What has to be shown of an instruction without guards in the turn of a team to which nothing is owed. -/
structure Unhindered (i : Instr) (t : Team) : Prop where
  issues : canIssue (turnOf t) t = true
  wf : i.WellFormed = true
  user : isPriv i = false
  sig : sigDiffers t i = false
  fresh : t.rmw = none
  handle : t.hnd = 0
  unlocked : t.lock = []
  unowed : t.pend = []
  below : ∀ r ∈ namedRegs i, r < t.nreg
  unguarded : guardRegs (hdrF i) = []
  clean : ∀ k ∈ t.reads i, ∀ r ∈ srcRegs i, ((t.strand k).reg r).psn = false
  prod : t.prod = []

theorem Unhindered.ready {i : Instr} {t : Team} (h : Unhindered i t) : Ready i (turnOf t) t where
  team := by simp [State.team, turnOf, State.reset, h.handle]
  issues := h.issues
  wf := h.wf
  level := fun p => absurd p (by simp [h.user])
  sig := h.sig
  fresh := h.fresh
  named := fun r named => ⟨h.below r named, .inl (by simp [h.unlocked]), by simp [h.unowed]⟩
  guard := fun _ _ r guard => absurd guard (by simp [h.unguarded])
  clean := h.clean
  stall := fun _ => h.prod

/-- The one team of the machine, once an instruction of it has retired. -/
theorem RetiresTo.one_team {i : Instr} {t u : Team} {s' : State} {pc : BitVec 48} {a b : BitVec 16} {st : Bool}
    (h : RetiresTo i t u (turnOf t) s' pc a b st) : s'.teams.map (fun x => (x.strands, x.status)) = [(u.strands, .run)] := by
  obtain ⟨ps, ev, rfl⟩ := h
  rw [noteStart_teams]
  simp [turnOf, Team.matched, Team.noted]

/-- One pass with two registers in every strand, of which v0 of strand 1 is poisoned. -/
def poisonedTeam : Team :=
  let t := restingTeam 2 32
  { t with strands := upd t.strands 1 (fun x => { x with regs := upd x.regs 0 (fun r => { r with psn := true }) }) }
/-- `FCVTI.Z v1, v0`. -/
def convertUnsigned : Alu := ⟨⟨1, 0, false, 0, 63, 63⟩, 8, 1, 0, .reg 0⟩
/-- `TAGSET v1, v0` to tag 8. -/
def setHighTag : Alu := ⟨⟨0, 0, false, 0, 63, 63⟩, 8, 1, 0, .reg 0⟩

theorem convertUnsigned_unhindered : Unhindered (.fcvti convertUnsigned) poisonedTeam := by
  constructor <;> decide +kernel
theorem setHighTag_unhindered : Unhindered (.tagset setHighTag) poisonedTeam := by
  constructor <;> decide +kernel

/-- The poison of strand 1 stops the team. -/
theorem poisonedTeam_stops {i : Instr} (mem : i ∈ [.fcvti convertUnsigned, .tagset setHighTag]) {s' : State} (h : exec i (turnOf poisonedTeam) = .next s') :
    s'.teams.map (·.status) ≠ [.run] := by
  have run : ∀ i ∈ [Instr.fcvti convertUnsigned, .tagset setHighTag], (match exec i (turnOf poisonedTeam) with
      | .next u => u.teams.map (·.status) != [.run]
      | _ => false) = true := by decide +kernel
  have stops := run i mem
  rw [h] at stops
  exact bne_iff_ne.mp stops

theorem not_eachStrand_of_poison {i : Instr} (mem : i ∈ [.fcvti convertUnsigned, .tagset setHighTag]) (o : Nat → Out) :
    ¬ EachStrand i (turnOf poisonedTeam) poisonedTeam o := by
  rintro ⟨s', hrun, retires⟩
  have runs := congrArg (List.map Prod.snd) retires.one_team
  rw [List.map_map] at runs
  exact poisonedTeam_stops mem hrun runs

/-- Refutes O7: its clause for `FCVTI` has no premise on the source of a strand other than the leader under `.Z`, the bit that `Ready` takes for
`.U`. In the turn of `poisonedTeam` the poison of strand 1 is a fault. -/
theorem not_fp64AndConversions : ¬ Obligations.Fp64AndConversions := by
  rintro ⟨-, -, -, -, -, -, -, -, convert, -⟩
  exact not_eachStrand_of_poison (.head _) _ (convert _ _ _ convertUnsigned_unhindered.ready)

/-- Refutes O13: its clause for `TAGSET` has no premise on the source of a strand other than the leader where the tag is 8 or above, whose top
bit `Ready` takes for `.U`. In the turn of `poisonedTeam` the poison of strand 1 is a fault. -/
theorem not_packedDotShiftAccess : ¬ Obligations.PackedDotShiftAccess := by
  rintro ⟨-, -, -, -, -, -, -, tagset, -⟩
  exact not_eachStrand_of_poison (.tail _ (.head _)) _ (tagset _ _ _ setHighTag_unhindered.ready)

end Sys2Proof.Machine
end

section
/-! PROOF. O15 and O17 fail: a team has 32 strands for each of its passes (R21), and neither `Ready` nor these statements ask that. Strands
beyond the last whole pass get a result in what the statements say, and none from the instructions (`Run.width`, `Run.livePasses`). -/

namespace Sys2Proof.Machine

/-- A team of a single strand, whose v1 holds 5. -/
def partialTeam : Team :=
  let t := restingTeam 2 1
  { t with strands := upd t.strands 0 (fun x => x.set 1 5 0) }
/-- `REDADD.S v1, v0`. -/
def sumStrands : Alu := ⟨⟨1, 0, false, 0, 63, 63⟩, 0, 1, 0, .reg 0⟩
/-- `PBUNPK v1, v0, v0`. -/
def unpackBlock : Ter := ⟨⟨2, 0, false, 0, 63, 63⟩, 0, 1, 0, 0, 0, 0, 0, 0⟩

theorem sumStrands_unhindered : Unhindered (.redadd sumStrands) partialTeam := by
  constructor <;> decide +kernel
theorem unpackBlock_unhindered : Unhindered (.pbunpk unpackBlock) partialTeam := by
  constructor <;> decide +kernel

/-- Neither instruction writes the strand. -/
theorem partialTeam_stays {i : Instr} (mem : i ∈ [.redadd sumStrands, .pbunpk unpackBlock]) {s' : State}
    (h : exec i (turnOf partialTeam) = .next s') : s'.teams.map (·.strands) = [partialTeam.strands] := by
  have run : ∀ i ∈ [Instr.redadd sumStrands, .pbunpk unpackBlock], (match exec i (turnOf partialTeam) with
      | .next u => u.teams.map (·.strands) == [partialTeam.strands]
      | _ => false) = true := by decide +kernel
  have stays := run i mem
  rw [h] at stays
  exact eq_of_beq stays

theorem strands_of_eachStrand {i : Instr} (mem : i ∈ [.redadd sumStrands, .pbunpk unpackBlock]) {o : Nat → Out}
    (h : EachStrand i (turnOf partialTeam) partialTeam o) : (perStrand partialTeam (partialTeam.active i) o).strands = partialTeam.strands := by
  obtain ⟨s', hrun, retires⟩ := h
  have after := congrArg (List.map Prod.fst) retires.one_team
  rw [List.map_map] at after
  exact List.singleton_inj.mp (after.symm.trans (partialTeam_stays mem hrun))

/-- Refutes O15: its clause for `REDADD` gives the strand of `partialTeam` the sum 0 of no operand. The instruction leaves it at 5. -/
theorem not_slidesAndReductions : ¬ Obligations.SlidesAndReductions := by
  rintro ⟨-, -, add, -⟩
  have same := strands_of_eachStrand (.head _) (add _ _ _ sumStrands_unhindered.ready (fun packed => absurd packed (by decide)))
  exact absurd same (by decide +kernel)

/-- Refutes O17: its clause for `PBUNPK` gives the strand of `partialTeam` an element of a block of its pass. No block is read, and the strand
keeps 5. -/
theorem not_conversionsAndBlocks : ¬ Obligations.ConversionsAndBlocks := by
  rintro ⟨-, -, -, unpack⟩
  have same := strands_of_eachStrand (.tail _ (.head _)) (unpack _ _ _ unpackBlock_unhindered.ready (fun _ => 13)
    (fun p below => absurd below (Nat.not_lt_zero p)))
  exact absurd same (by decide +kernel)

end Sys2Proof.Machine
end

section
/-! SUPPORT. The instructions of group 4 (R184): the encoding rows of Table 7-12 under which they act on a team as a whole, the registers they read
in any strand, and the frame in which each active strand has its outcome. -/

namespace Sys2Proof.Machine

variable {i : Instr} {s : State} {t : Team} {a : Alu} {d : Desc}

/-- `i` is encoded in the shape `a` by the row `d` of Table 7-12, in group 4. -/
structure TeamRow (i : Instr) (a : Alu) (d : Desc) : Prop where
  raw : ∃ opc, toRaw i = some (rawAlu opc a) ∧ (BitVec.ofNat 10 opc).toNat / 128 = 4
  row : desc i = some d

/-- An instruction that retires in sequence and folds in both signature halves (R134, R291). -/
structure Sequential (i : Instr) : Prop where
  control : isControl i = false
  ends : isEnd i = false
  legal : isIllegal i = false

/-- An effect whose outcomes stand in the active strands. -/
theorem Sequential.eachStrand (q : Sequential i) (r : Ready i s t) {body : Run → Res} {o : Nat → Out} {ws : List (Nat × List Nat)}
    {xs : Option (List (Nat × Nat))} (run : exec i s = runI i body s)
    (outcome : body ⟨s, t, i, t.active i⟩ = .done { Done.seq (s.putTeam (perStrand t (t.active i) o)) with writes := ws, reads := xs }) :
    EachStrand i s t o := by
  unfold EachStrand Completes
  rw [run]
  exact r.seq q.control q.ends q.legal body _ _ s outcome rfl rfl rfl rfl rfl ⟨t, r.self⟩ rfl rfl rfl rfl rfl r.running rfl

/-- Outcomes of the active strands in the frame of R138. -/
theorem Sequential.lanes (q : Sequential i) (r : Ready i s t) {body : Run → Res} {f : Nat → V Out} {o : Nat → Out} (run : exec i s = runI i body s)
    (frame : body ⟨s, t, i, t.active i⟩ = Machine.lanes ⟨s, t, i, t.active i⟩ f) (results : ∀ k ∈ t.active i, f k = .ok (o k)) :
    EachStrand i s t o := by
  unfold EachStrand Completes
  rw [run]
  exact r.eachStrand q.control q.ends q.legal body f o frame results

namespace TeamRow

theorem opc (h : TeamRow i a d) : opcOf i / 128 = 4 := by
  obtain ⟨opc, raw, group⟩ := h.raw
  rw [opcOf_eq raw, rawAlu_opc]
  exact group

theorem sequential (h : TeamRow i a d) : Sequential i := by
  have group := h.opc
  have apart {o : Nat} (eq : opcOf i = o) : o / 128 = 4 := eq ▸ group
  refine ⟨?_, ?_, ?_⟩
  · simp only [isControl, Bool.and_eq_false_iff, decide_eq_false_iff_not]
    omega
  · unfold isEnd
    split
    · exact absurd (apart (o := 0x82) rfl) (by decide)
    · exact absurd (apart (o := 0x86) rfl) (by decide)
    · rfl
  · unfold isIllegal
    split
    · exact absurd (apart (o := 0x3ff) rfl) (by decide)
    · rfl

/-- Bit 63 of `mod` is no `.U` bit in group 4. -/
theorem leaderReads_eq_false (h : TeamRow i a d) : leaderReads i = false := by
  obtain ⟨opc, raw, group⟩ := h.raw
  have number := h.opc
  have fields := rawAlu_opc opc a
  unfold leaderReads
  split
  · next b => exact absurd (opcOf_movsw b ▸ number) (by decide)
  · simp only [raw, fields]
    have high : ¬(BitVec.ofNat 10 opc).toNat < 0x200 := by omega
    have low : ¬0x28a ≤ (BitVec.ofNat 10 opc).toNat := by omega
    have transfer : (BitVec.ofNat 10 opc).toNat ∉ [0x88, 0x8a] := by simp only [List.mem_cons, List.not_mem_nil, or_false]; omega
    simp only [high, low, transfer, decide_false, Bool.false_and, Bool.or_false]

/-- Where an instruction of the group has no rule of its own, it reads its sources in the active strands. -/
theorem reads_eq (h : TeamRow i a d) (own : ownReads i = false) : t.reads i = t.active i := by
  rw [Machine.reads_eq t i own, h.leaderReads_eq_false]
  rfl

theorem a_mem (h : TeamRow i a d) {x : Nat} (named : x ∈ d.a.regs a.va) : x ∈ srcRegs i := by
  obtain ⟨opc, raw, -⟩ := h.raw
  exact (srcRegs_alu i opc a d raw h.row x).1 named

theorem b_mem (h : TeamRow i a d) (ub : d.b = .r) (x : RegField) (reg : a.b = .reg x) : x.toNat ∈ srcRegs i := by
  obtain ⟨opc, raw, -⟩ := h.raw
  exact (srcRegs_alu i opc a d raw h.row x.toNat).2 x reg (ub ▸ RU.mem_r x)

end TeamRow

/-! ## Reads in any strand -/

/-- A register that a field names, read in another strand. -/
theorem Ready.other (r : Ready i s t) (k : Nat) {j : Nat} {x : RegField} (source : x.toNat ∈ srcRegs i) (clean : t.clean j x.toNat) :
    Run.other ⟨s, t, i, t.active i⟩ k j x = .ok ((t.strand j).reg x.toNat) := by
  unfold Run.other
  rw [regV_ok (r.below source) clean]

/-- Source b in a strand where it is free of poison. -/
theorem Ready.srcB (r : Ready i s t) {k : Nat} {b : Src} (source : ∀ x, b = .reg x → x.toNat ∈ srcRegs i) (clean : t.cleanB k b) :
    Run.src ⟨s, t, i, t.active i⟩ k b = .ok (t.srcB k b) := by
  cases b with
  | imm w => rfl
  | reg x =>
    change (regV t k x.toNat).map (·.val) = _
    rw [regV_ok (r.below (source x rfl)) (clean x rfl)]
    rfl

/-! ## The frame -/

/-- Outcomes of the active strands, with what each of them read. -/
theorem lanesReading_ok (c : Run) (f : Nat → V (Out × List (Nat × Nat))) (o : Nat → Out) (once : c.act.Nodup)
    (h : ∀ k ∈ c.act, ∃ xs, f k = .ok (o k, xs)) :
    ∃ ws xs, lanesReading c f = .done { Done.seq (c.put (perStrand c.t c.act o)) with writes := ws, reads := xs } := by
  have each : ∀ k, ∃ xs, k ∈ c.act → f k = .ok (o k, xs) := fun k => by
    by_cases mem : k ∈ c.act
    · exact (h k mem).imp fun xs eq _ => eq
    · exact ⟨[], fun m => absurd m mem⟩
  choose xs results using each
  have outs : (c.act.map (fun k => (o k, xs k))).map (·.1) = c.act.map o := by rw [List.map_map]; rfl
  unfold lanesReading
  rw [V.all_ok c.act f (fun k => (o k, xs k)) results, V.res_ok, outs, writeOuts_eq c.act once o]
  exact ⟨_, _, rfl⟩

/-- What the leader decides for all, where there is one. -/
theorem withActive_lead {c : Run} {l : Nat} (lead : c.act.head? = some l) (f : Nat → Res) : withActive c f = f l := by
  unfold withActive Run.lead
  rw [lead]

end Sys2Proof.Machine
end

section
/-! PROOF. O14: movements between strands and votes (R184, Table 9-10). A movement reads one register in one strand, with its tag; a vote is a
function of the active strands whose source has bit 0 set. -/

namespace Sys2Proof.Machine

variable {i : Instr} {s : State} {t : Team} {a : Alu} {d : Desc}

/-! ## Movements between strands -/

/-- The strand that a movement from strand j reads: where the team has no strand j, `other`. -/
def sourceStrand (t : Team) (j other : Nat) : Nat := if j < t.count then j else other

theorem moveFrom_ok (r : Ready i s t) (k : Nat) {j other : Nat} (source : a.va.toNat ∈ srcRegs i)
    (clean : sourceStrand t j other < t.count → t.clean (sourceStrand t j other) a.va.toNat) :
    ∃ xs, Run.moveFrom ⟨s, t, i, t.active i⟩ a k j other = .ok (fromStrand t a.vd a.va (sourceStrand t j other), xs) := by
  unfold Run.moveFrom fromStrand
  change ∃ xs, (if j < t.count then _ else if other < t.count then _ else _) = _
  unfold sourceStrand at *
  by_cases inside : j < t.count
  · rw [if_pos inside] at clean ⊢
    rw [if_pos inside, if_pos inside, r.other k source (clean inside)]
    exact ⟨_, rfl⟩
  · rw [if_neg inside] at clean ⊢
    rw [if_neg inside]
    by_cases within : other < t.count
    · rw [if_pos within, if_pos within, r.other k source (clean within)]
      exact ⟨_, rfl⟩
    · rw [if_neg within, if_neg within]
      exact ⟨_, rfl⟩

/-- Past the team it does not matter which strand is named. -/
theorem fromStrand_source_count (t : Team) (vd x : RegField) (j : Nat) : fromStrand t vd x (sourceStrand t j t.count) = fromStrand t vd x j := by
  unfold sourceStrand
  split
  · rfl
  · next past => simp [fromStrand, past]

/-- A movement whose strand each active strand chooses by its source b. -/
theorem TeamRow.moves (h : TeamRow i a d) (ua : d.a = .r) (ub : d.b = .r) (r : Ready i s t) {from_ : Nat → Nat → Nat} {other : Team → Nat → Nat}
    (run : exec i s = runI i (fun c => moveRow a from_ (other c.t) c) s)
    (clean : ∀ k ∈ t.active i, t.cleanB k a.b ∧
      (sourceStrand t (from_ k (t.srcB k a.b).toNat) (other t k) < t.count →
        t.clean (sourceStrand t (from_ k (t.srcB k a.b).toNat) (other t k)) a.va.toNat)) :
    EachStrand i s t (fun k => fromStrand t a.vd a.va (sourceStrand t (from_ k (t.srcB k a.b).toNat) (other t k))) := by
  obtain ⟨ws, xs, outcome⟩ := lanesReading_ok ⟨s, t, i, t.active i⟩
    (fun k => (Run.src ⟨s, t, i, t.active i⟩ k a.b).bind (fun n =>
      (Run.moveFrom ⟨s, t, i, t.active i⟩ a k (from_ k n.toNat) (other t k)).map (fun o => (o.1, bRead k a.b ++ o.2))))
    _ (active_nodup t i) (fun k mem => by
      obtain ⟨cleanB, cleanA⟩ := clean k mem
      obtain ⟨ys, moved⟩ := moveFrom_ok r k (h.a_mem (ua ▸ RU.mem_r a.va)) cleanA
      rw [r.srcB (h.b_mem ub) cleanB, V.bind_ok, moved]
      exact ⟨_, rfl⟩)
  exact h.sequential.eachStrand r run outcome

theorem exec_shfl (a : Alu) (s : State) : exec (.shfl a) s = execShfl a s := rfl
theorem exec_swz (a : Alu) (s : State) : exec (.swz a) s = execSwz a s := rfl
theorem exec_readl (a : Alu) (s : State) : exec (.readl a) s = execReadl a s := rfl

theorem shfl_eachStrand (a : Alu) (s : State) (t : Team) (r : Ready (.shfl a) s t)
    (clean : ∀ k ∈ t.active (.shfl a), t.cleanB k a.b ∧ t.clean (t.srcB k a.b).toNat a.va.toNat) :
    EachStrand (.shfl a) s t (fun k => fromStrand t a.vd a.va (t.srcB k a.b).toNat) := by
  have row : TeamRow (.shfl a) a _ := ⟨⟨_, rfl, rfl⟩, rfl⟩
  have moved := row.moves rfl rfl r (from_ := fun _ n => n) (other := fun t _ => t.count) ((exec_shfl a s).trans rfl) (fun k mem => by
    obtain ⟨cleanB, cleanA⟩ := clean k mem
    refine ⟨cleanB, fun inside => ?_⟩
    unfold sourceStrand at inside ⊢
    split
    · exact cleanA
    · next past => rw [if_neg past] at inside; exact absurd inside (lt_irrefl _))
  simpa only [fromStrand_source_count] using moved

theorem swz_eachStrand (a : Alu) (s : State) (t : Team) (r : Ready (.swz a) s t)
    (clean : ∀ k ∈ t.active (.swz a), t.cleanB k a.b ∧
      let j := k ^^^ ((t.srcB k a.b).toNat % 1024)
      t.clean (if j < t.count then j else k) a.va.toNat) :
    EachStrand (.swz a) s t (fun k =>
      let j := k ^^^ ((t.srcB k a.b).toNat % 1024)
      fromStrand t a.vd a.va (if j < t.count then j else k)) := by
  have row : TeamRow (.swz a) a _ := ⟨⟨_, rfl, rfl⟩, rfl⟩
  exact row.moves rfl rfl r (from_ := fun k n => k ^^^ (n % 1024)) (other := fun _ k => k) ((exec_swz a s).trans rfl)
    (fun k mem => (clean k mem).imp_right fun cleanA _ => cleanA)

theorem readl_eachStrand (a : Alu) (s : State) (t : Team) (r : Ready (.readl a) s t) (l : Nat) (lead : (t.active (.readl a)).head? = some l)
    (cleanB : t.cleanB l a.b) (cleanA : t.clean (t.srcB l a.b).toNat a.va.toNat) :
    EachStrand (.readl a) s t (fun _ => fromStrand t a.vd a.va (t.srcB l a.b).toNat) := by
  have row : TeamRow (.readl a) a _ := ⟨⟨_, rfl, rfl⟩, rfl⟩
  have same := fromStrand_source_count t a.vd a.va (t.srcB l a.b).toNat
  obtain ⟨ws, xs, outcome⟩ := lanesReading_ok ⟨s, t, .readl a, t.active (.readl a)⟩
    (fun k => (Run.moveFrom ⟨s, t, .readl a, t.active (.readl a)⟩ a k (t.srcB l a.b).toNat t.count).map (fun o => (o.1, bRead l a.b ++ o.2)))
    (fun _ => fromStrand t a.vd a.va (t.srcB l a.b).toNat) (active_nodup t _) (fun k _ => by
      obtain ⟨ys, moved⟩ := moveFrom_ok r k (j := (t.srcB l a.b).toNat) (other := t.count) (row.a_mem (RU.mem_r a.va)) (fun inside => by
        unfold sourceStrand at inside ⊢
        split
        · exact cleanA
        · next past => rw [if_neg past] at inside; exact absurd inside (lt_irrefl _))
      rw [moved, same]
      exact ⟨_, rfl⟩)
  refine row.sequential.eachStrand r ((exec_readl a s).trans rfl) (ws := ws) (xs := xs) ?_
  rw [withActive_lead lead, r.srcB (row.b_mem rfl) cleanB, V.res_ok]
  exact outcome

/-! ## Votes -/

theorem votes_ok (h : TeamRow i a d) (ua : d.a = .r) (own : ownReads i = false) (r : Ready i s t) :
    Run.votes ⟨s, t, i, t.active i⟩ a.va = .ok (votesFor t i a.va) := by
  unfold Run.votes
  rw [V.all_ok (t.active i) _ (fun k => (k, (t.val k a.va.toNat).getLsbD 0)) (fun k mem => by
    rw [r.reg (by rwa [h.reads_eq own]) (h.a_mem (ua ▸ RU.mem_r a.va)), V.map_ok, bitAt_zero])]
  simp only [V.map_ok, votesFor, List.filter_map, List.map_map]
  exact congrArg V.ok (List.map_id _)

/-- A vote gives each active strand a function of the strands that vote for. -/
theorem TeamRow.vote (h : TeamRow i a d) (ua : d.a = .r) (own : ownReads i = false) (r : Ready i s t) {f : Run → List Nat → Nat → Nat}
    (run : exec i s = runI i (fun c => voteRow a (f c) c) s) {v : Nat → Word}
    (values : ∀ k, word (f ⟨s, t, i, t.active i⟩ (votesFor t i a.va) k) = v k) :
    EachStrand i s t (fun k => Out.one a.vd (v k) 0) := by
  refine h.sequential.lanes r run (f := fun k => .ok (Out.one a.vd (word (f ⟨s, t, i, t.active i⟩ (votesFor t i a.va) k)) 0)) ?_
    (fun k _ => by rw [values])
  unfold voteRow
  rw [votes_ok h ua own r, V.res_ok]

theorem exec_ballot (a : Alu) (s : State) : exec (.ballot a) s = execBallot a s := rfl
theorem exec_vany (a : Alu) (s : State) : exec (.vany a) s = execVany a s := rfl
theorem exec_vall (a : Alu) (s : State) : exec (.vall a) s = execVall a s := rfl
theorem exec_first (a : Alu) (s : State) : exec (.first a) s = execFirst a s := rfl
theorem exec_mbcnt (a : Alu) (s : State) : exec (.mbcnt a) s = execMbcnt a s := rfl

/-- Different powers of 2 add up to the word with their bits. -/
theorem getLsbD_foldl_two_pow (l : List Nat) (once : l.Nodup) (n : Nat) (apart : ∀ k ∈ l, (word n).getLsbD k = false) {j : Nat} (inside : j < 32) :
    (word (l.foldl (fun w k => w + 2 ^ k) n)).getLsbD j = true ↔ (word n).getLsbD j = true ∨ j ∈ l := by
  induction l generalizing n with
  | nil => simp
  | cons k l ih =>
    obtain ⟨new, once⟩ := List.nodup_cons.mp once
    have power : word (2 ^ k) = BitVec.twoPow 32 k := by
      apply BitVec.eq_of_toNat_eq
      rw [word, BitVec.toNat_ofNat, BitVec.toNat_twoPow]
    have added : word (n + 2 ^ k) = word n ||| BitVec.twoPow 32 k := by
      rw [← BitVec.add_eq_or_of_and_eq_zero _ _ (by simp [BitVec.and_twoPow, apart k]), ← power, word, BitVec.ofNat_add]
      rfl
    have clear : ∀ x ∈ l, (word (n + 2 ^ k)).getLsbD x = false := fun x mem => by
      have other : k ≠ x := fun e => new (e ▸ mem)
      simp [added, apart x (List.mem_cons_of_mem k mem), BitVec.getLsbD_twoPow, other]
    rw [List.foldl_cons, ih once _ clear, added, BitVec.getLsbD_or, BitVec.getLsbD_twoPow, List.mem_cons, Bool.or_eq_true, Bool.and_eq_true,
      decide_eq_true_eq, decide_eq_true_eq, or_assoc]
    have bit : k < 32 ∧ k = j ↔ j = k := ⟨fun e => e.2.symm, fun e => ⟨e ▸ inside, e.symm⟩⟩
    rw [bit]

theorem getLsbD_ballotWord (ks : List Nat) (q : Nat) {j : Nat} (inside : j < 32) : (ballotWord ks q).getLsbD j = true ↔ 32 * q + j ∈ ks := by
  have upTo : ∀ n ≤ 32, ((List.range n).foldl (fun (w : Word) j => if 32 * q + j ∈ ks then w ||| 1 <<< j else w) 0).getLsbD j = true ↔
      j < n ∧ 32 * q + j ∈ ks := fun n => by
    induction n with
    | zero => simp
    | succ n ih =>
      intro fits
      rw [List.range_succ, List.foldl_append, List.foldl_cons, List.foldl_nil]
      have bit : (word (1 <<< n)).getLsbD j = decide (n = j) := by
        rw [word, BitVec.getLsbD_ofNat, decide_eq_true inside, Bool.true_and, Nat.one_shiftLeft, Nat.testBit_two_pow]
      have last : j < n + 1 ↔ j < n ∨ n = j := by omega
      rw [last]
      by_cases votes : 32 * q + n ∈ ks
      · rw [if_pos votes, BitVec.getLsbD_or, Bool.or_eq_true, ih (Nat.le_of_succ_le fits)]
        refine (or_congr_right (bit ▸ decide_eq_true_iff)).trans ?_
        constructor
        · rintro (before | rfl)
          · exact ⟨.inl before.1, before.2⟩
          · exact ⟨.inr rfl, votes⟩
        · rintro ⟨before | same, mem⟩
          · exact .inl ⟨before, mem⟩
          · exact .inr same
      · rw [if_neg votes, ih (Nat.le_of_succ_le fits)]
        exact and_congr_left fun mem => (or_iff_left (fun same : n = j => votes (same ▸ mem))).symm
  rw [ballotWord, upTo 32 le_rfl]
  exact and_iff_right inside

/-- The pass word of some strands has bit j set exactly where strand 32q + j is one of them. -/
theorem passWord_eq_ballotWord (ks : List Nat) (once : ks.Nodup) (q : Nat) : word (passWord ks q) = ballotWord ks q := by
  have places : passWord ks q = ((ks.filter (fun k => k / 32 == q)).map (· % 32)).foldl (fun w k => w + 2 ^ k) 0 := by
    rw [List.foldl_map]; rfl
  have different : ((ks.filter (fun k => k / 32 == q)).map (· % 32)).Nodup := by
    refine (List.nodup_map_iff_inj_on (once.filter _)).mpr fun x hx y hy same => ?_
    simp only [List.mem_filter, beq_iff_eq] at hx hy
    omega
  apply BitVec.eq_of_getLsbD_eq
  intro j inside
  have named : j ∈ (ks.filter (fun k => k / 32 == q)).map (· % 32) ↔ 32 * q + j ∈ ks := by
    simp only [List.mem_map, List.mem_filter, beq_iff_eq]
    constructor
    · rintro ⟨k, ⟨mem, rfl⟩, rfl⟩
      rwa [Nat.div_add_mod]
    · exact fun mem => ⟨32 * q + j, ⟨mem, by omega⟩, by omega⟩
  rw [Bool.eq_iff_iff, places, getLsbD_foldl_two_pow _ different 0 (fun _ _ => BitVec.getLsbD_zero) inside, getLsbD_ballotWord ks q inside, named,
    word, BitVec.getLsbD_zero]
  exact or_iff_right Bool.false_ne_true

theorem ballot_eachStrand (a : Alu) (s : State) (t : Team) (r : Ready (.ballot a) s t) : EachStrand (.ballot a) s t (fun k =>
    let q := (t.srcB k a.b).toNat
    Out.one a.vd (if q < t.passes then ballotWord (votesFor t (.ballot a) a.va) q else 0) 0) := by
  have row : TeamRow (.ballot a) a _ := ⟨⟨_, rfl, rfl⟩, rfl⟩
  have own : ownReads (.ballot a) = false := by rw [ownReads, opcOf_eq (r := rawAlu 0x204 a) rfl, rawAlu_opc]; rfl
  have sourceB : ∀ k ∈ t.active (.ballot a), Run.src ⟨s, t, .ballot a, t.active (.ballot a)⟩ k a.b = .ok (t.srcB k a.b) := fun k mem =>
    r.src (by rwa [row.reads_eq own]) (row.b_mem rfl)
  have once : (votesFor t (.ballot a) a.va).Nodup := (active_nodup t _).filter _
  refine row.sequential.lanes r ((exec_ballot a s).trans rfl) (f := fun k => (Run.src ⟨s, t, .ballot a, t.active (.ballot a)⟩ k a.b).map (fun q =>
    Out.one a.vd (word (if q.toNat < t.passes then passWord (votesFor t (.ballot a) a.va) q.toNat else 0)) 0)) ?_ (fun k mem => ?_)
  · rw [votes_ok row rfl own r, V.all_ok _ _ _ sourceB, V.both_ok, V.res_ok]
  · rw [sourceB k mem, V.map_ok, apply_ite word, passWord_eq_ballotWord _ once]
    rfl

theorem own_vote {opc : Nat} (raw : toRaw i = some (rawAlu opc a)) (plain : (BitVec.ofNat 10 opc).toNat ∈ [0x205, 0x206, 0x207, 0x20d]) :
    ownReads i = false := by
  rw [ownReads, opcOf_eq raw, rawAlu_opc, decide_eq_false_iff_not]
  simp only [List.mem_cons, List.not_mem_nil, or_false] at plain ⊢
  omega

theorem votesFor_eq_nil (t : Team) (i : Instr) (x : RegField) :
    (votesFor t i x).isEmpty = !(t.active i).any (fun k => (t.val k x.toNat).getLsbD 0) := by
  rw [Bool.eq_iff_iff]
  simp [votesFor]

theorem vany_eachStrand (a : Alu) (s : State) (t : Team) (r : Ready (.vany a) s t) : EachStrand (.vany a) s t (fun _ =>
    Out.one a.vd (oneIf (t.active (.vany a) |>.any (fun k => (t.val k a.va.toNat).getLsbD 0))) 0) :=
  TeamRow.vote ⟨⟨_, rfl, rfl⟩, rfl⟩ rfl (own_vote rfl (by decide)) r ((exec_vany a s).trans rfl) (fun _ => by
    rw [votesFor_eq_nil]
    cases (t.active (.vany a)).any (fun k => (t.val k a.va.toNat).getLsbD 0) <;> rfl)

theorem vall_eachStrand (a : Alu) (s : State) (t : Team) (r : Ready (.vall a) s t) : EachStrand (.vall a) s t (fun _ =>
    Out.one a.vd (oneIf (t.active (.vall a) |>.all (fun k => (t.val k a.va.toNat).getLsbD 0))) 0) :=
  TeamRow.vote ⟨⟨_, rfl, rfl⟩, rfl⟩ rfl (own_vote rfl (by decide)) r ((exec_vall a s).trans rfl) (fun _ => by
    have all : ((votesFor t (.vall a) a.va).length = (t.active (.vall a)).length) =
        ((t.active (.vall a)).all (fun k => (t.val k a.va.toNat).getLsbD 0) = true) := by
      rw [votesFor, List.length_filter_eq_length_iff, List.all_eq_true]
    simp only [all]
    cases (t.active (.vall a)).all (fun k => (t.val k a.va.toNat).getLsbD 0) <;> rfl)

theorem first_eachStrand (a : Alu) (s : State) (t : Team) (r : Ready (.first a) s t) : EachStrand (.first a) s t (fun _ =>
    Out.one a.vd (match (votesFor t (.first a) a.va).head? with | some k => BitVec.ofNat 32 k | none => 0xffffffff) 0) :=
  TeamRow.vote ⟨⟨_, rfl, rfl⟩, rfl⟩ rfl (own_vote rfl (by decide)) r ((exec_first a s).trans rfl) (fun _ => by
    cases votesFor t (.first a) a.va <;> rfl)

theorem mbcnt_eachStrand (a : Alu) (s : State) (t : Team) (r : Ready (.mbcnt a) s t) : EachStrand (.mbcnt a) s t (fun k =>
    Out.one a.vd (BitVec.ofNat 32 ((votesFor t (.mbcnt a) a.va).countP (fun j => j < k))) 0) :=
  TeamRow.vote ⟨⟨_, rfl, rfl⟩, rfl⟩ rfl (own_vote rfl (by decide)) r ((exec_mbcnt a s).trans rfl) (fun k => by
    rw [List.countP_eq_length_filter]
    rfl)

/-- Settles O14, instruction by instruction. -/
theorem laneMovesAndVotes : Obligations.LaneMovesAndVotes :=
  ⟨shfl_eachStrand, swz_eachStrand, readl_eachStrand, ballot_eachStrand, vany_eachStrand, vall_eachStrand, first_eachStrand, mbcnt_eachStrand⟩

end Sys2Proof.Machine
end

section
/-! SUPPORT. The floating-point instructions: the frames that take the effective mode, and each operation of Table 9-2 as R166 states it, in
every format. -/

namespace Sys2Proof.Machine

/-- The effective mode is one of the four of R77. -/
theorem modeOf_lt (t : Team) (m : BitVec 4) : modeOf t m < 4 := by
  have three : subOf3 m < 8 := Nat.mod_lt _ (by decide)
  have two : t.rm < 4 := Nat.mod_lt _ (by decide)
  unfold modeOf
  split <;> omega

namespace AluRow

variable {i : Instr} {a : Alu} {d : Desc}

theorem rowF1 (h : AluRow i a d) (ua : d.a = .r) {f g : Nat → Nat → Nat × Flags} (run : ∀ s, exec i s = runI i (fp1 a g) s)
    (values : ∀ mode < 4, ∀ x : Word, g mode x.toNat = f mode x.toNat) : RowF1 i a f := fun s t r =>
  h.plain.byStrand_of r (run s) rfl fun k read => by
    rw [r.reg read (h.a_mem (ua ▸ RU.mem_r _))]
    simp only [V.map_ok, asWord, values _ (modeOf_lt t a.m)]

theorem rowF2 (h : AluRow i a d) (ua : d.a = .r) (ub : d.b = .r) {f g : Nat → Nat → Nat → Nat × Flags}
    (run : ∀ s, exec i s = runI i (fp2 a g) s) (values : ∀ mode < 4, ∀ x y : Word, g mode x.toNat y.toNat = f mode x.toNat y.toNat) :
    RowF2 i a f := fun s t r =>
  h.plain.byStrand_of r (run s) rfl fun k read => by
    rw [r.reg read (h.a_mem (ua ▸ RU.mem_r _)), r.src read (fun _ reg => h.b_mem reg (ub ▸ RU.mem_r _))]
    simp only [V.both_ok, V.map_ok, asWord, values _ (modeOf_lt t a.m)]

theorem rowD1 (h : AluRow i a d) (ua : d.a = .p) {f g : Nat → Nat → Nat × Flags} (run : ∀ s, exec i s = runI i (dp1 a g) s)
    (values : ∀ mode < 4, ∀ x : DWord, g mode x.toNat = f mode x.toNat) : RowD1 i a f := fun s t r =>
  h.plain.byStrand_of r (run s) rfl fun k read => by
    rw [r.pair read (h.a_mem (ua ▸ RU.mem_p _)) (h.a_mem (ua ▸ RU.succ_mem_p _))]
    simp only [V.map_ok, values _ (modeOf_lt t a.m)]

theorem rowD2 (h : AluRow i a d) (ua : d.a = .p) (ub : d.b = .p) (form : d.bf = .reg) {f g : Nat → Nat → Nat → Nat × Flags}
    (run : ∀ s, exec i s = runI i (dp2 a g) s) (values : ∀ mode < 4, ∀ x y : DWord, g mode x.toNat y.toNat = f mode x.toNat y.toNat) :
    RowD2 i a f := fun s t r =>
  h.plain.byStrand_of r (run s) rfl fun k read => by
    rw [r.pair read (h.a_mem (ua ▸ RU.mem_p _)) (h.a_mem (ua ▸ RU.succ_mem_p _)),
      r.pair read (h.field_mem form (ub ▸ RU.mem_p _)) (h.field_mem form (ub ▸ RU.succ_mem_p _))]
    simp only [V.both_ok, V.map_ok, values _ (modeOf_lt t a.m)]

end AluRow

/-! ## Sums and products of two values, with NaNs and infinities -/

@[simp] theorem Fmt.fin_nan (f : Fmt) (mode : Nat) (s nv : Bool) : f.fin mode (.nan s) nv = (f.qnan, if nv then flNv else 0) := by
  simp [Fmt.fin, Fmt.round, flNone, flIf]

theorem round_inf {f : Fmt} (infs : f.infs = true) (mode : Nat) (neg : Bool) : f.round mode (.inf neg) = (f.infEnc neg, 0) := by
  simp [Fmt.round, infs, flIf]

@[simp] theorem Fmt.fin_false (f : Fmt) (mode : Nat) (x : FV) : f.fin mode x false = f.round mode x := by
  simp [Fmt.fin, flIf]

/-- The sum that the model rounds is the sum of R166, where infinities stand only in a format that has them. -/
theorem fin_sum_eq_fpSum (f : Fmt) (mode : Nat) (a b : FV) (ha : a.isInf → f.infs = true) (hb : b.isInf → f.infs = true) :
    f.fin mode (FV.sum mode [a, b]) (a.isSnan || b.isSnan || sumInvalid [a, b]) = fpSum f mode a b := by
  cases a with
  | nan s =>
    cases b <;> simp [FV.sum, fpSum, orNan, anySnan, sumInvalid, FV.isNan, FV.isSnan, FV.isInf]
  | inf p =>
    have infs := ha rfl
    cases b with
    | nan s => simp [FV.sum, fpSum, orNan, anySnan, sumInvalid, FV.isNan, FV.isSnan, FV.isInf]
    | inf q => cases p <;> cases q <;> simp [FV.sum, fpSum, orNan, sumInvalid, FV.isNan, FV.isSnan, FV.isInf, FV.neg, round_inf infs]
    | fin q n g => cases p <;> simp [FV.sum, fpSum, orNan, sumInvalid, FV.isNan, FV.isSnan, FV.isInf, FV.neg, round_inf infs]
  | fin p m e =>
    cases b with
    | nan s => simp [FV.sum, fpSum, orNan, anySnan, sumInvalid, FV.isNan, FV.isSnan, FV.isInf]
    | inf q =>
      have infs := hb rfl
      cases q <;> simp [FV.sum, fpSum, orNan, sumInvalid, FV.isNan, FV.isSnan, FV.isInf, FV.neg, round_inf infs]
    | fin q n g => simp [fpSum, orNan, sumInvalid, FV.isNan, FV.isSnan, FV.isInf]

/-- The product that the model rounds is the product of R166. -/
theorem fin_mul_eq_fpProd (f : Fmt) (mode : Nat) (a b : FV) (ha : a.isInf → f.infs = true) (hb : b.isInf → f.infs = true) :
    f.fin mode (a.mul b) (a.isSnan || b.isSnan || zeroInf a b) = fpProd f mode a b := by
  cases a with
  | nan s => cases b <;> simp [FV.mul, fpProd, orNan, anySnan, zeroInf, FV.isNan, FV.isSnan, FV.isInf, FV.isZero]
  | inf p =>
    have infs := ha rfl
    cases b with
    | nan s => simp [FV.mul, fpProd, orNan, anySnan, zeroInf, FV.isNan, FV.isSnan, FV.isInf, FV.isZero]
    | inf q => simp [FV.mul, fpProd, orNan, zeroInf, FV.isNan, FV.isSnan, FV.isInf, FV.isZero, FV.neg, round_inf infs]
    | fin q n g =>
      obtain rfl | pos := eq_or_ne n 0
      · simp [FV.mul, fpProd, orNan, zeroInf, FV.isNan, FV.isSnan, FV.isInf, FV.isZero]
      · simp [FV.mul, fpProd, orNan, zeroInf, FV.isNan, FV.isSnan, FV.isInf, FV.isZero, FV.neg, pos, beq_false_of_ne pos, round_inf infs]
  | fin p m e =>
    cases b with
    | nan s => simp [FV.mul, fpProd, orNan, anySnan, zeroInf, FV.isNan, FV.isSnan, FV.isInf, FV.isZero]
    | inf q =>
      have infs := hb rfl
      have sign : (q != p) = (p != q) := bne_comm
      obtain rfl | pos := eq_or_ne m 0
      · simp [FV.mul, fpProd, orNan, zeroInf, FV.isNan, FV.isSnan, FV.isInf, FV.isZero]
      · simp [FV.mul, fpProd, orNan, zeroInf, FV.isNan, FV.isSnan, FV.isInf, FV.isZero, FV.neg, pos, beq_false_of_ne pos, sign, round_inf infs]
    | fin q n g => simp [FV.mul, fpProd, orNan, zeroInf, FV.isNan, FV.isSnan, FV.isInf]

/-! ## What a product is -/

theorem FV.mul_isInf {a b : FV} (h : (a.mul b).isInf) : a.isInf ∨ b.isInf := by
  cases a <;> cases b <;> simp_all [FV.mul, FV.isInf]

/-- A NaN in a product comes from an operand or from 0 × ∞. -/
theorem FV.mul_isNan (a b : FV) : (a.mul b).isNan = (a.isNan || b.isNan || zeroInf a b) := by
  cases a with
  | nan => cases b <;> simp [FV.mul, FV.isNan]
  | inf =>
    cases b with
    | nan | inf => simp [FV.mul, FV.isNan, FV.isInf, FV.isZero, zeroInf]
    | fin q n g => by_cases zero : n = 0 <;> simp [FV.mul, FV.isNan, FV.isInf, FV.isZero, zeroInf, zero]
  | fin p m e =>
    cases b with
    | nan | fin => simp [FV.mul, FV.isNan, FV.isInf, FV.isZero, zeroInf]
    | inf => by_cases zero : m = 0 <;> simp [FV.mul, FV.isNan, FV.isInf, FV.isZero, zeroInf, zero]

theorem FV.isSnan_of_not_isNan {x : FV} (h : x.isNan = false) : x.isSnan = false := by
  cases x with
  | nan => cases h
  | inf | fin => rfl

theorem FV.sum_of_nan {mode : Nat} {a b : FV} (h : (a.isNan || b.isNan) = true) : ∃ s, FV.sum mode [a, b] = .nan s := by
  refine ⟨[a, b].any FV.isSnan, if_pos ?_⟩
  simpa using h

theorem sumInvalid_of_nan {a b : FV} (h : (a.isNan || b.isNan) = true) : sumInvalid [a, b] = false := by
  cases a <;> cases b <;> simp_all [sumInvalid, FV.isNan, FV.isInf]

theorem zeroInf_of_nan {a b : FV} (h : (a.isNan || b.isNan) = true) : zeroInf a b = false := by
  cases a <;> cases b <;> simp_all [zeroInf, FV.isNan, FV.isInf, FV.isZero]

/-- The fused multiply-add of R166: with a NaN operand or 0 × ∞ the model adds a NaN; else it adds the product. -/
theorem fin_fma_eq_fpFma (f : Fmt) (mode : Nat) (a b c : FV) (ha : a.isInf → f.infs = true) (hb : b.isInf → f.infs = true)
    (hc : c.isInf → f.infs = true) :
    f.fin mode (FV.sum mode [a.mul b, c]) (a.isSnan || b.isSnan || c.isSnan || zeroInf a b || sumInvalid [a.mul b, c]) =
      fpFma f mode a b c := by
  by_cases nan : ((a.mul b).isNan || c.isNan) = true
  · obtain ⟨s, sum⟩ := FV.sum_of_nan (mode := mode) nan
    rw [sum, Fmt.fin_nan, sumInvalid_of_nan nan, Bool.or_false, fpFma]
    rw [FV.mul_isNan] at nan
    change _ = if (!a.isNan && !b.isNan && zeroInf a b) = true then _ else _
    by_cases operand : (a.isNan || b.isNan) = true
    · have any : [a, b, c].any FV.isNan = true := by
        simp only [List.any_cons, List.any_nil, Bool.or_false, Bool.or_eq_true] at operand ⊢
        exact operand.elim .inl (.inr ∘ .inl)
      rw [zeroInf_of_nan operand, Bool.and_false, if_neg Bool.false_ne_true, orNan, if_pos any]
      simp [anySnan, Bool.or_assoc]
    · rw [Bool.not_eq_true] at operand
      rw [operand, Bool.false_or] at nan
      rw [Bool.or_eq_false_iff] at operand
      obtain ⟨na, nb⟩ := operand
      cases zero : zeroInf a b with
      | true => simp [na, nb]
      | false =>
        rw [zero, Bool.false_or] at nan
        simp [na, nb, nan, orNan, anySnan, FV.isSnan_of_not_isNan]
  · rw [Bool.not_eq_true, FV.mul_isNan] at nan
    simp only [Bool.or_eq_false_iff] at nan
    obtain ⟨⟨⟨na, nb⟩, zero⟩, nc⟩ := nan
    have product : (a.mul b).isNan = false := by rw [FV.mul_isNan, na, nb, zero]; rfl
    have sum := fin_sum_eq_fpSum f mode (a.mul b) c (fun h => (FV.mul_isInf h).elim ha hb) hc
    rw [FV.isSnan_of_not_isNan product, FV.isSnan_of_not_isNan nc] at sum
    rw [FV.isSnan_of_not_isNan na, FV.isSnan_of_not_isNan nb, FV.isSnan_of_not_isNan nc, zero]
    refine sum.trans ?_
    change _ = if (!a.isNan && !b.isNan && zeroInf a b) = true then _ else _
    rw [zero, Bool.and_false, if_neg Bool.false_ne_true, fpSum, orNan, orNan]
    simp [na, nb, nc, product]

/-! ## The operations on encodings -/

/-- A format decodes infinities only where it has them (R74). -/
theorem infs_of_dec {f : Fmt} {x : Nat} (h : (f.dec x).isInf) : f.infs = true := by
  by_contra none
  rw [Bool.not_eq_true] at none
  simp only [Fmt.dec, none, Bool.false_eq_true, false_and, if_false] at h
  split at h
  · cases h
  · split at h <;> cases h

theorem infs_of_flip {f : Fmt} {x : Nat} (h : (f.dec x).flip.isInf) : f.infs = true := by
  refine infs_of_dec (x := x) ?_
  cases e : f.dec x <;> simp_all [FV.flip, FV.isInf]

theorem add_eq_fpSum (f : Fmt) (mode x y : Nat) : f.add mode x y = fpSum f mode (f.dec x) (f.dec y) :=
  fin_sum_eq_fpSum f mode _ _ infs_of_dec infs_of_dec

theorem sub_eq_fpSum (f : Fmt) (mode x y : Nat) : f.sub mode x y = fpSum f mode (f.dec x) (f.dec y).flip :=
  fin_sum_eq_fpSum f mode _ _ infs_of_dec infs_of_flip

theorem mul_eq_fpProd (f : Fmt) (mode x y : Nat) : f.mul mode x y = fpProd f mode (f.dec x) (f.dec y) :=
  fin_mul_eq_fpProd f mode _ _ infs_of_dec infs_of_dec

theorem fma_eq_fpFma (f : Fmt) (mode x y z : Nat) : f.fma mode x y z = fpFma f mode (f.dec x) (f.dec y) (f.dec z) :=
  fin_fma_eq_fpFma f mode _ _ _ infs_of_dec infs_of_dec infs_of_dec

/-- No order means a NaN. -/
theorem FV.cmp_eq_none {a b : FV} : a.cmp b = none ↔ (a.isNan || b.isNan) = true := by
  cases a <;> cases b <;> simp [FV.cmp, FV.isNan]

/-- Of two encodings that are not NaNs the model takes the one R166 names. -/
theorem minmax_eq_fpPick (f : Fmt) (big : Bool) (x y : Nat) : f.minmax big x y = fpPick f big x y := by
  refine Prod.ext ?_ (by simp [Fmt.minmax, fpPick, flIf, anySnan])
  dsimp only [Fmt.minmax, fpPick]
  cases order : (f.dec x).cmp (f.dec y) with
  | none =>
    rw [FV.cmp_eq_none, Bool.or_eq_true] at order
    obtain nan | nan := order <;> simp [nan]
  | some o =>
    have ordered : ¬((f.dec x).isNan || (f.dec y).isNan) = true := fun nan => by
      rw [FV.cmp_eq_none.mpr nan] at order
      cases order
    rw [Bool.not_eq_true, Bool.or_eq_false_iff] at ordered
    obtain ⟨nx, ny⟩ := ordered
    cases o with
    | lt | gt => simp [nx, ny]
    | eq => cases (f.dec x).neg <;> cases (f.dec y).neg <;> cases big <;> simp [nx, ny]

theorem floatCond_eq_fpHolds (cc : Nat) (a b : FV) : floatCond cc (a.cmp b) = fpHolds cc a b := by
  have nan : ((a.cmp b) == none) = (a.isNan || b.isNan) := by
    rw [Bool.eq_iff_iff, beq_iff_eq, FV.cmp_eq_none]
  have number : ((a.cmp b) != none) = (!a.isNan && !b.isNan) := by
    rw [bne, nan, Bool.not_or]
  unfold floatCond fpHolds
  split <;> simp_all [bne]

theorem floatCmp_eq (cc : Nat) (a b : FV) : floatCmp cc a b = (fpHolds cc a b, fpCmpFlags cc a b) := by
  refine Prod.ext (floatCond_eq_fpHolds cc a b) ?_
  simp [floatCmp, fpCmpFlags, anySnan, flIf, or_assoc, and_assoc]

end Sys2Proof.Machine
end

section
/-! SUPPORT. Rounding to an integer (R77), the values an encoding can have, and the ends of a format. -/

namespace Sys2Proof.Machine

/-! ## Rounding to an integer -/

theorem ceil_eq_floor_add (y : ℚ) : ⌈y⌉ = ⌊y⌋ + if 0 < Int.fract y then 1 else 0 := by
  obtain zero | pos := (Int.fract_nonneg y).eq_or_lt
  · have whole : ((⌊y⌋ : ℤ) : ℚ) = y := by rw [← Int.self_sub_fract, ← zero, sub_zero]
    rw [if_neg zero.not_lt, add_zero, ← whole, Int.ceil_intCast, Int.floor_intCast]
  · rw [if_pos pos, Int.ceil_eq_iff]
    have split := Int.floor_add_fract y
    have below := Int.fract_lt_one y
    push_cast
    constructor <;> linarith

/-- The four modes of R77 on a value that is not negative. -/
theorem sigRound_cases (neg : Bool) (y : ℚ) :
    sigRound 1 neg y = ⌊y⌋ ∧ sigRound 2 neg y = (if neg then ⌊y⌋ else ⌈y⌉) ∧ sigRound 3 neg y = (if neg then ⌈y⌉ else ⌊y⌋) := by
  rw [ceil_eq_floor_add]
  cases neg <;> simp [sigRound, roundsUp]

theorem roundQ_zero_eq (y : ℚ) : roundQ 0 y = sigRound 0 false y := by
  have parity : ⌊y⌋ % 2 = 0 ∨ ⌊y⌋ % 2 = 1 := by omega
  change (if Int.fract y < 1 / 2 then ⌊y⌋ else if Int.fract y > 1 / 2 then ⌊y⌋ + 1 else if ⌊y⌋ % 2 = 0 then ⌊y⌋ else ⌊y⌋ + 1) = _
  obtain below | tie | above := lt_trichotomy (Int.fract y) (1 / 2)
  · simp [-one_div, sigRound, roundsUp, below, below.ne, not_lt.mpr below.le]
  · obtain even | odd := parity
    · simp [-one_div, sigRound, roundsUp, tie, even]
    · simp [-one_div, sigRound, roundsUp, tie, odd]
  · simp [-one_div, sigRound, roundsUp, above, above.not_gt]

/-- Rounding to nearest is symmetric about 0. -/
theorem sigRound_zero_neg (y : ℚ) : sigRound 0 false (-y) = -sigRound 0 true y := by
  obtain whole | cut := eq_or_ne (Int.fract y) 0
  · have even : ((sigRound 0 false (-y) : ℤ) : ℚ) = ((-sigRound 0 true y : ℤ) : ℚ) := by
      rw [sigRound_of_fract_eq_zero (Int.fract_neg_eq_zero.mpr whole), Int.cast_neg, sigRound_of_fract_eq_zero whole]
    exact_mod_cast even
  · have floor : ⌊-y⌋ = -⌊y⌋ - 1 := by
      rw [Int.floor_neg, ceil_eq_floor_add, if_pos ((Int.fract_nonneg y).lt_of_ne' cut)]
      ring
    have parity : (-⌊y⌋ - 1) % 2 = 1 - ⌊y⌋ % 2 := by omega
    have odd : ⌊y⌋ % 2 = 0 ∨ ⌊y⌋ % 2 = 1 := by omega
    rw [sigRound, sigRound, floor, Int.fract_neg cut]
    obtain below | tie | above := lt_trichotomy (Int.fract y) (1 / 2)
    · have up : 1 / 2 < 1 - Int.fract y := by linarith
      simp [-one_div, roundsUp, up, below.ne, not_lt.mpr below.le]
    · have half : 1 - (1 / 2 : ℚ) = 1 / 2 := by norm_num
      obtain even | odd := odd
      · simp [-one_div, roundsUp, tie, half, parity, even]
      · simp [-one_div, roundsUp, tie, half, parity, odd]
        omega
    · have down : 1 - Int.fract y < 1 / 2 := by linarith
      simp [-one_div, roundsUp, above, down.ne, not_lt.mpr down.le]
      omega

/-- Rounding a value of a sign to an integer rounds its magnitude. -/
theorem roundQ_signed {mode : Nat} (code : mode < 4) (neg : Bool) {y : ℚ} (nonneg : 0 ≤ y) :
    roundQ mode ((if neg then -1 else 1) * y) = if neg then -sigRound mode neg y else sigRound mode neg y := by
  obtain ⟨one, two, three⟩ := sigRound_cases neg y
  have nearest : sigRound 0 true y = sigRound 0 false y := rfl
  obtain _ | _ | _ | _ | mode := mode
  · rw [roundQ_zero_eq]
    cases neg <;> simp [sigRound_zero_neg]
  · rw [one]
    cases neg
    · simp [roundQ, not_lt.mpr nonneg]
    · obtain rfl | pos := nonneg.eq_or_lt
      · simp [roundQ]
      · simp [roundQ, pos, Int.ceil_neg]
  · rw [two]
    cases neg <;> simp [roundQ, Int.ceil_neg]
  · rw [three]
    cases neg <;> simp [roundQ, Int.floor_neg]
  · omega

theorem natAbs_roundQ {mode : Nat} (code : mode < 4) (neg : Bool) {y : ℚ} (nonneg : 0 ≤ y) :
    ((roundQ mode ((if neg then -1 else 1) * y)).natAbs : ℤ) = sigRound mode neg y := by
  have sig : 0 ≤ sigRound mode neg y := le_sigRound (mod_cast nonneg)
  rw [roundQ_signed code neg nonneg]
  split <;> omega

/-- The model rounds a finite value to the integer of R77, and says whether that changed it. -/
theorem roundInt_eq {mode : Nat} (code : mode < 4) (neg : Bool) (m : Nat) (e : Int) :
    roundInt mode neg m e = (roundQ mode (FV.fin neg m e).rat, decide ((roundQ mode (FV.fin neg m e).rat : ℚ) ≠ (FV.fin neg m e).rat)) := by
  have value : (FV.fin neg m e).rat = (if neg then -1 else 1) * (m * 2 ^ e) := by rw [FV.rat, mul_assoc]
  have nonneg : (0 : ℚ) ≤ m * 2 ^ e := by positivity
  have changed : (roundQ mode (FV.fin neg m e).rat : ℚ) ≠ (FV.fin neg m e).rat ↔ Int.fract ((m : ℚ) * 2 ^ e) ≠ 0 := by
    rw [value, roundQ_signed code neg nonneg, ne_eq, ne_eq, ← sigRound_eq_iff (mode := mode) (neg := neg)]
    cases neg <;> simp
  rw [Bool.decide_congr changed, value, roundQ_signed code neg nonneg]
  unfold roundInt
  split
  next whole =>
    have units : (m : ℚ) * 2 ^ e = ((m * 2 ^ e.toNat : ℕ) : ℚ) := by rw [zpow_eq_pow_toNat whole]; push_cast; rfl
    rw [units, sigRound_natCast, Int.fract_natCast]
    simp
  next small =>
    have parts : (m : ℚ) * 2 ^ e = m / 2 ^ (-e).toNat := by
      rw [← zpow_eq_pow_toNat (by omega), zpow_neg, div_inv_eq_mul]
    obtain ⟨sig, cut⟩ := roundBits_eq code neg m (sh := (-e).toNat) (by omega)
    rw [parts, ← sig, ← Bool.eq_iff_iff.mpr (cut.trans decide_eq_true_iff.symm)]

/-! ## The values of a format -/

/-- An encoding of a finite value has that value's canonical significand and exponent, and none is beyond the largest. -/
theorem canonical_of_dec {f : Fmt} (mem : f ∈ fpFormats) {x : Nat} {neg : Bool} {m : Nat} {e : Int} (h : f.dec x = .fin neg m e) :
    f.Canonical m e ∧ (m : ℚ) * 2 ^ e ≤ fpMax f := by
  have fraction : bits x 0 f.fb < 2 ^ f.fb := Nat.mod_lt _ (Nat.two_pow_pos _)
  have exponent : bits x f.fb f.eb < 2 ^ f.eb := Nat.mod_lt _ (Nat.two_pow_pos _)
  have unit := Nat.two_pow_pos f.fb
  have canon : f.Canonical m e := by
    simp only [Fmt.dec] at h
    split at h
    · injection h with _ sig weight
      exact ⟨by rw [pow_succ]; omega, by omega, .inr weight.symm⟩
    · split at h
      · split at h <;> cases h
      · split at h
        · cases h
        · injection h with _ sig weight
          exact ⟨by rw [pow_succ]; omega, by omega, .inl (by omega)⟩
  refine ⟨canon, (le_fpMax_iff mem canon).mpr ?_⟩
  simp only [Fmt.dec] at h
  split at h
  · injection h with _ sig weight
    exact .inl (by omega)
  next normal =>
    right
    split at h
    · split at h <;> cases h
    next finite =>
      split at h
      · cases h
      next number =>
        injection h with _ sig weight
        rw [Fmt.maxExp, Fmt.maxSig, pow_succ]
        cases infs : f.infs
        · simp only [infs, Bool.not_false, true_and, not_and] at number
          simp only [Bool.false_eq_true, if_false]
          omega
        · simp only [infs, true_and] at finite
          simp only [if_true]
          omega

/-- A value without a bit below the last kept one has a canonical form. -/
theorem exists_canonical_of_whole {f : Fmt} {m : Nat} (pos : m ≠ 0) {e : Int} (whole : f.quantum m e ≤ e) :
    ∃ n q, f.Canonical n q ∧ (m : ℚ) * 2 ^ e = n * 2 ^ q := by
  obtain ⟨n, q, canon, value, -⟩ := round_eq_encode f (mode := 1) (by decide) false pos e
  have units : (m : ℚ) * 2 ^ e / 2 ^ f.quantum m e = ((m * 2 ^ (e - f.quantum m e).toNat : ℕ) : ℚ) := by
    rw [mul_zpow_div_zpow, zpow_eq_pow_toNat (by omega)]; push_cast; rfl
  rw [Fmt.sig, units, sigRound_natCast, Int.cast_natCast, ← units, div_mul_cancel₀ _ (by positivity)] at value
  exact ⟨n, q, canon, value.symm⟩

/-! ## Past the ends of a format -/

/-- A value at or above the next power of 2 overflows, whatever the mode. -/
theorem round_overflow {f : Fmt} (mem : f ∈ fpFormats) {mode : Nat} (code : mode < 4) (neg : Bool) {m : Nat} (pos : m ≠ 0) {e : Int}
    (large : (2 : ℚ) ^ (f.maxExp + f.fb + 1) ≤ m * 2 ^ e) :
    f.round mode (.fin neg m e) = (if overflowInf mode neg then f.infEnc neg else f.maxEnc neg, flOf ||| flNx) := by
  obtain ⟨n, q, canon, value, encode⟩ := round_eq_encode f code neg pos e
  have top : f.maxExp + f.fb + 1 ≤ topExp m e := not_lt.mp fun lt => not_lt.mpr large ((topExp_lt_iff pos e _).mp lt)
  have least := least_le_maxExp mem
  have quantum : f.quantum m e = topExp m e - f.fb := by rw [Fmt.quantum]; omega
  have sig : ((2 ^ f.fb : ℕ) : ℤ) ≤ f.sig mode neg m e := le_sigRound (by
    rw [le_div_iff₀ (by positivity), quantum]
    calc (((2 ^ f.fb : ℕ) : ℤ) : ℚ) * 2 ^ (topExp m e - f.fb) = 2 ^ topExp m e := by
          push_cast
          rw [← zpow_natCast, ← zpow_add₀ two_ne_zero, add_sub_cancel]
      _ ≤ _ := (topExp_bounds pos e).1)
  rw [encode, encode_overflow mem canon]
  calc fpMax f = f.maxSig * 2 ^ f.maxExp := fpMax_eq mem
    _ < ((2 ^ (f.fb + 1) : ℕ) : ℚ) * 2 ^ f.maxExp := mul_lt_mul_of_pos_right (mod_cast (maxSig_bounds mem).2) (by positivity)
    _ = ((2 ^ f.fb : ℕ) : ℚ) * 2 ^ (f.maxExp + 1) := by rw [zpow_add_one₀ two_ne_zero]; push_cast; ring
    _ ≤ ((2 ^ f.fb : ℕ) : ℚ) * 2 ^ f.quantum m e := mul_le_mul_of_nonneg_left (zpow_le_zpow_right₀ one_le_two (by omega)) (by positivity)
    _ ≤ f.sig mode neg m e * 2 ^ f.quantum m e := mul_le_mul_of_nonneg_right (by exact_mod_cast sig) (by positivity)
    _ = n * 2 ^ q := value.symm

/-- Whether a value below half of the least one rounds to that or to 0. -/
def tinySig (mode : Nat) (neg : Bool) : Nat := if (mode == 2 && !neg || mode == 3 && neg) = true then 1 else 0

/-- A value below half of the least one rounds as every other such value. -/
theorem round_tiny (f : Fmt) {mode : Nat} (code : mode < 4) (neg : Bool) {m : Nat} (pos : m ≠ 0) {e : Int}
    (small : (m : ℚ) * 2 ^ e < 2 ^ (1 - f.bias - f.fb - 1)) :
    f.round mode (.fin neg m e) = f.encode mode neg (tinySig mode neg) (1 - f.bias - f.fb) (flNx ||| flUf) := by
  have top := (topExp_lt_iff pos e _).mpr small
  have quantum : f.quantum m e = 1 - f.bias - f.fb := by rw [Fmt.quantum]; omega
  have positive : 0 < (m : ℚ) * 2 ^ e / 2 ^ f.quantum m e := div_pos (units_pos pos e) (by positivity)
  have half : (m : ℚ) * 2 ^ e / 2 ^ f.quantum m e < 1 / 2 := by
    rw [quantum, div_lt_iff₀ (by positivity)]
    rwa [zpow_sub_one₀ two_ne_zero, mul_comm ((2 : ℚ) ^ _), ← one_div] at small
  have fract : Int.fract ((m : ℚ) * 2 ^ e / 2 ^ f.quantum m e) = (m : ℚ) * 2 ^ e / 2 ^ f.quantum m e :=
    Int.fract_eq_self.mpr ⟨positive.le, half.trans (by norm_num)⟩
  have floor : ⌊(m : ℚ) * 2 ^ e / 2 ^ f.quantum m e⌋ = 0 := Int.floor_eq_zero_iff.mpr ⟨positive.le, half.trans (by norm_num)⟩
  have sig : f.sig mode neg m e = tinySig mode neg := by
    rw [Fmt.sig, sigRound, floor, fract, roundsUp, tinySig]
    simp [-one_div, positive, half.ne, half.not_gt]
  have cut : (f.sig mode neg m e : ℚ) * 2 ^ f.quantum m e ≠ m * 2 ^ e := fun same => by
    rw [← eq_div_iff (by positivity), Fmt.sig, sigRound_eq_iff, fract] at same
    exact positive.ne' same
  have subnormal : topExp m e < 1 - f.bias := by omega
  rw [round_fin f code neg pos, Fmt.roundFlags, decide_eq_true cut, decide_eq_true subnormal, sig, quantum]
  rfl

end Sys2Proof.Machine
end

section
/-! PROOF. O6: the FP32 instructions (R165 to R168). -/

namespace Sys2Proof.Machine

theorem fadd_row (a : Alu) : RowF2 (.fadd a) a (fun m x y => fpSum Fmt.f32 m (Fmt.f32.dec x) (Fmt.f32.dec y)) :=
  AluRow.rowF2 ⟨⟨_, rfl, rfl⟩, rfl⟩ rfl rfl (fun _ => rfl) (fun _ _ _ _ => add_eq_fpSum _ _ _ _)

theorem fsub_row (a : Alu) : RowF2 (.fsub a) a (fun m x y => fpSum Fmt.f32 m (Fmt.f32.dec x) (Fmt.f32.dec y).flip) :=
  AluRow.rowF2 ⟨⟨_, rfl, rfl⟩, rfl⟩ rfl rfl (fun _ => rfl) (fun _ _ _ _ => sub_eq_fpSum _ _ _ _)

theorem fmul_row (a : Alu) : RowF2 (.fmul a) a (fun m x y => fpProd Fmt.f32 m (Fmt.f32.dec x) (Fmt.f32.dec y)) :=
  AluRow.rowF2 ⟨⟨_, rfl, rfl⟩, rfl⟩ rfl rfl (fun _ => rfl) (fun _ _ _ _ => mul_eq_fpProd _ _ _ _)

theorem exec_ffma (a : Ter) (s : State) : exec (.ffma a) s = execFfma a s := rfl

theorem ffma_byStrand (a : Ter) (s : State) (t : Team) (r : Ready (.ffma a) s t) : ByStrand (.ffma a) a.m s t (fun k =>
    let r := fpFma Fmt.f32 (modeOf t a.m) (Fmt.f32.dec (t.val k a.va.toNat).toNat) (Fmt.f32.dec (t.val k a.vb.toNat).toNat)
      (Fmt.f32.dec (t.val k a.vc.toNat).toNat)
    Out.one a.vd (word r.1) r.2) := by
  have row : TerRow (.ffma a) a _ := ⟨⟨_, rfl, rfl⟩, rfl, rfl⟩
  refine row.plain.byStrand_of r (exec_ffma a s) rfl fun k read => ?_
  rw [Run.three, r.reg read (row.a_mem rfl), r.reg read (row.b_mem rfl), r.reg read (row.c_mem rfl)]
  simp only [V.both_ok, V.map_ok, asWord, fma_eq_fpFma]

theorem fmin_row (a : Alu) : RowF2 (.fmin a) a (fun _ x y => fpPick Fmt.f32 false x y) :=
  AluRow.rowF2 ⟨⟨_, rfl, rfl⟩, rfl⟩ rfl rfl (fun _ => rfl) (fun _ _ _ _ => minmax_eq_fpPick _ _ _ _)

theorem fmax_row (a : Alu) : RowF2 (.fmax a) a (fun _ x y => fpPick Fmt.f32 true x y) :=
  AluRow.rowF2 ⟨⟨_, rfl, rfl⟩, rfl⟩ rfl rfl (fun _ => rfl) (fun _ _ _ _ => minmax_eq_fpPick _ _ _ _)

theorem fcmp_row (a : Alu) : Row2 (.fcmp a) a (fun x y =>
    let p := Fmt.f32.dec x.toNat
    let q := Fmt.f32.dec y.toNat
    (oneIf (fpHolds (subOf3 a.m) p q), fpCmpFlags (subOf3 a.m) p q)) :=
  AluRow.row2 ⟨⟨_, rfl, rfl⟩, rfl⟩ rfl rfl (fun _ => rfl) (fun x y => by simp only [floatCmp_eq, boolWord_eq])

/-! ## Classes (Table 9-4) -/

/-- A binary32 encoding by its fields. -/
theorem f32_dec_fields (x : Word) : Fmt.f32.dec x.toNat =
    if x.extractLsb' 23 8 = 0 then .fin x.msb (x.extractLsb' 0 23).toNat (-149)
    else if x.extractLsb' 23 8 = 0xff then (if x.extractLsb' 0 23 = 0 then .inf x.msb else .nan (!(x.extractLsb' 0 23).msb))
    else .fin x.msb (2 ^ 23 + (x.extractLsb' 0 23).toNat) ((x.extractLsb' 23 8).toNat - 127 - 23) := by
  have exponent : bits x.toNat 23 8 = (x.extractLsb' 23 8).toNat := by rw [bits, BitVec.extractLsb'_toNat, Nat.shiftRight_eq_div_pow]
  have fraction : bits x.toNat 0 23 = (x.extractLsb' 0 23).toNat := by rw [bits, BitVec.extractLsb'_toNat, Nat.shiftRight_eq_div_pow]
  have sign : bitAt x.toNat 31 = x.msb := by rw [bitAt_toNat, BitVec.msb_eq_getLsbD_last]
  have quiet : bitAt (x.extractLsb' 0 23).toNat 22 = (x.extractLsb' 0 23).msb := by rw [bitAt_toNat, BitVec.msb_eq_getLsbD_last]
  have zero : (x.extractLsb' 23 8).toNat = 0 ↔ x.extractLsb' 23 8 = 0 := BitVec.toNat_inj (y := (0 : Byte))
  have ones : (x.extractLsb' 23 8).toNat = 255 ↔ x.extractLsb' 23 8 = 0xff := BitVec.toNat_inj (y := (0xff : Byte))
  have none : (x.extractLsb' 0 23).toNat = 0 ↔ x.extractLsb' 0 23 = 0 := BitVec.toNat_inj (y := (0 : BitVec 23))
  simp only [← zero, ← ones, ← none, ← exponent, ← fraction, ← sign, ← quiet]
  simp only [Fmt.dec, Fmt.f32, true_and, Bool.not_true, Bool.false_eq_true, false_and, if_false]
  rfl

theorem classWord_eq (x : Word) : classWord x.toNat = fpClass x := by
  rw [classWord, f32_dec_fields, fpClass]
  have exponent : bits x.toNat 23 8 = 0 ↔ x.extractLsb' 23 8 = 0 := by
    rw [← BitVec.toNat_inj, bits, BitVec.extractLsb'_toNat, Nat.shiftRight_eq_div_pow]
    rfl
  have fraction : (x.extractLsb' 0 23).toNat = 0 ↔ x.extractLsb' 0 23 = 0 := BitVec.toNat_inj (y := (0 : BitVec 23))
  by_cases low : x.extractLsb' 23 8 = 0
  · have finite : ¬x.extractLsb' 23 8 = 0xff := by rw [low]; decide
    rw [if_pos low, if_neg finite, if_pos low]
    simp only [fraction, exponent, low, if_true]
  · rw [if_neg low]
    by_cases top : x.extractLsb' 23 8 = 0xff
    · rw [if_pos top, if_pos top]
      by_cases infinite : x.extractLsb' 0 23 = 0
      · rw [if_pos infinite, if_pos infinite]
      · rw [if_neg infinite, if_neg infinite]
        cases (x.extractLsb' 0 23).msb <;> rfl
    · have some : 2 ^ 23 + (x.extractLsb' 0 23).toNat ≠ 0 := by omega
      rw [if_neg top, if_neg top, if_neg low]
      simp only [some, exponent, low, if_false]

theorem fclass_row (a : Alu) : Row1 (.fclass a) a (fun x => (fpClass x, 0)) :=
  AluRow.row1 ⟨⟨_, rfl, rfl⟩, rfl⟩ rfl (fun _ => rfl) (fun x => by rw [classWord_eq])

/-! ## Rounding to an integer -/

/-- A binary32 value rounded to an integer is a binary32 value, so the mode of its encoding says nothing. -/
theorem f32_round_integral {x : Nat} {neg : Bool} {m : Nat} {e : Int} (h : Fmt.f32.dec x = .fin neg m e) (pos : m ≠ 0) {mode : Nat}
    (code : mode < 4) :
    (Fmt.f32.round mode (.fin neg (roundQ mode (FV.fin neg m e).rat).natAbs 0)).1 =
      (Fmt.f32.round 0 (.fin neg (roundQ mode (FV.fin neg m e).rat).natAbs 0)).1 := by
  have mem : Fmt.f32 ∈ fpFormats := by decide
  obtain ⟨canon, fits⟩ := canonical_of_dec mem h
  have nonneg : (0 : ℚ) ≤ m * 2 ^ e := by positivity
  have magnitude := natAbs_roundQ code neg nonneg
  rw [← mul_assoc, ← FV.rat] at magnitude
  generalize roundQ mode (FV.fin neg m e).rat = v at magnitude
  obtain ⟨n, q, canonical, small, value⟩ : ∃ n q, Fmt.f32.Canonical n q ∧ (n : ℚ) * 2 ^ q ≤ fpMax Fmt.f32 ∧
      (v.natAbs : ℚ) * 2 ^ (0 : ℤ) = n * 2 ^ q := by
    rw [zpow_zero, mul_one]
    obtain whole | part := le_or_gt 0 e
    · refine ⟨m, e, canon, fits, ?_⟩
      have units : (m : ℚ) * 2 ^ e = ((m * 2 ^ e.toNat : ℕ) : ℚ) := by rw [zpow_eq_pow_toNat whole]; push_cast; rfl
      rw [units, sigRound_natCast] at magnitude
      rw [units]
      exact_mod_cast magnitude
    · have below : v.natAbs ≤ m := by
        have upper : sigRound mode neg ((m : ℚ) * 2 ^ e) ≤ (m : ℤ) := sigRound_le (by
          exact_mod_cast mul_le_of_le_one_right (Nat.cast_nonneg m) (zpow_le_one_of_nonpos₀ one_le_two part.le))
        omega
      have bits : v.natAbs < 2 ^ 24 := below.trans_lt canon.small
      obtain zero | some := eq_or_ne v.natAbs 0
      · exact ⟨0, -149, ⟨by decide, by decide, .inr (by decide)⟩, by rw [fpMax_f32]; norm_num, by rw [zero]; simp⟩
      · have log : Nat.log2 v.natAbs < 24 := (Nat.log2_lt some).mpr bits
        have whole : Fmt.f32.quantum v.natAbs 0 ≤ 0 := by
          change max ((Nat.log2 v.natAbs : ℤ) + 0) (1 - 127) - 23 ≤ 0
          omega
        obtain ⟨n, q, canonical, value⟩ := exists_canonical_of_whole some whole
        rw [zpow_zero, mul_one] at value
        refine ⟨n, q, canonical, ?_, value⟩
        rw [← value, fpMax_f32]
        calc ((v.natAbs : ℕ) : ℚ) ≤ 2 ^ 24 := mod_cast bits.le
          _ ≤ _ := by norm_num
  rw [round_of_rounded mem canonical small value code, round_of_rounded mem canonical small value (by decide)]

theorem f32_toIntegral_eq {mode : Nat} (code : mode < 4) (x : Nat) : Fmt.f32.toIntegral mode x = fpIntegral Fmt.f32 mode x := by
  unfold Fmt.toIntegral fpIntegral
  cases h : Fmt.f32.dec x with
  | nan s => simp [orNan, anySnan, FV.isNan, FV.isSnan, flIf]
  | inf s => simp [orNan, FV.isNan, FV.isInf, flNone]
  | fin neg m e =>
    obtain rfl | pos := eq_or_ne m 0
    · simp [orNan, FV.isNan, FV.isZero, flNone]
    · simp only [if_neg pos, roundInt_eq code, f32_round_integral h pos code]
      by_cases same : (roundQ mode (FV.fin neg m e).rat : ℚ) = (FV.fin neg m e).rat
      · simp [orNan, FV.isNan, FV.isInf, FV.isZero, FV.neg, pos, same, flIf]
      · simp [orNan, FV.isNan, FV.isInf, FV.isZero, FV.neg, pos, same, flIf]

theorem frnd_row (a : Alu) : RowF1 (.frnd a) a (fpIntegral Fmt.f32) :=
  AluRow.rowF1 ⟨⟨_, rfl, rfl⟩, rfl⟩ rfl (fun _ => rfl) (fun _ code _ => f32_toIntegral_eq code _)

/-! ## Scaling -/

/-- A binary32 encoding of a zero is the zero of its sign. -/
theorem f32_zero_of_dec {x : Word} {neg : Bool} {e : Int} (h : Fmt.f32.dec x.toNat = .fin neg 0 e) : x.toNat = Fmt.f32.sgn neg := by
  rw [f32_dec_fields] at h
  split at h
  next exponent =>
    injection h with sign fraction
    have low : x.toNat % 2 ^ 23 = 0 := by rwa [BitVec.extractLsb'_toNat, Nat.shiftRight_zero] at fraction
    have middle : x.toNat / 2 ^ 23 % 2 ^ 8 = 0 := by
      rw [← BitVec.toNat_inj, BitVec.extractLsb'_toNat, Nat.shiftRight_eq_div_pow] at exponent
      exact exponent
    have whole := x.isLt
    rw [← sign, Fmt.sgn, BitVec.msb_eq_decide]
    change x.toNat = if decide (2 ^ 31 ≤ x.toNat) = true then 2 ^ 31 else 0
    by_cases high : 2 ^ 31 ≤ x.toNat
    · rw [decide_eq_true high, if_pos rfl]
      omega
    · rw [decide_eq_false high, if_neg Bool.false_ne_true]
      omega
  next =>
    split at h
    · split at h <;> cases h
    · injection h with _ sig
      omega

/-- A shift of 1000 or more takes every binary32 value past the same end of the format. -/
theorem f32_round_clamped {x : Nat} {neg : Bool} {m : Nat} {e : Int} (h : Fmt.f32.dec x = .fin neg m e) (pos : m ≠ 0) {mode : Nat}
    (code : mode < 4) (n : Int) :
    Fmt.f32.round mode (.fin neg m (e + max (-1000) (min 1000 n))) = Fmt.f32.round mode (.fin neg m (e + n)) := by
  obtain ⟨bits, least, most⟩ := dec_fin_bounds h
  have mem : Fmt.f32 ∈ fpFormats := by decide
  have end_eq : Fmt.f32.maxExp + Fmt.f32.fb + 1 = 128 := by decide
  have least_eq : 1 - Fmt.f32.bias - Fmt.f32.fb - 1 = -150 := by decide
  obtain high | inside | low : 1000 < n ∨ (-1000 ≤ n ∧ n ≤ 1000) ∨ n < -1000 := by omega
  · have large : ∀ k : Int, 1000 ≤ k → (2 : ℚ) ^ (Fmt.f32.maxExp + Fmt.f32.fb + 1) ≤ m * 2 ^ (e + k) := fun k above => by
      rw [end_eq]
      calc (2 : ℚ) ^ (128 : ℤ) ≤ 2 ^ (e + k) := zpow_le_zpow_right₀ one_le_two (by omega)
        _ ≤ m * 2 ^ (e + k) := le_mul_of_one_le_left (by positivity) (mod_cast Nat.pos_of_ne_zero pos)
    rw [round_overflow mem code neg pos (large _ (by omega)), round_overflow mem code neg pos (large _ high.le)]
  · rw [show max (-1000) (min 1000 n) = n by omega]
  · have small : ∀ k : Int, k ≤ -1000 → (m : ℚ) * 2 ^ (e + k) < 2 ^ (1 - Fmt.f32.bias - Fmt.f32.fb - 1) := fun k below => by
      rw [least_eq]
      calc (m : ℚ) * 2 ^ (e + k) < 2 ^ (24 : ℤ) * 2 ^ (e + k) := mul_lt_mul_of_pos_right (by exact_mod_cast bits) (by positivity)
        _ = 2 ^ (24 + (e + k)) := (zpow_add₀ two_ne_zero _ _).symm
        _ ≤ 2 ^ (-150 : ℤ) := zpow_le_zpow_right₀ one_le_two (by omega)
    rw [round_tiny _ code neg pos (small _ (by omega)), round_tiny _ code neg pos (small _ low.le)]

theorem round_zero (f : Fmt) (mode : Nat) (neg : Bool) (e : Int) : f.round mode (.fin neg 0 e) = (f.sgn neg, 0) := rfl

theorem fscaleN_eq_fpScale {mode : Nat} (code : mode < 4) (x : Word) (n : Int) : fscaleN mode x.toNat n = fpScale Fmt.f32 mode x.toNat n := by
  unfold fscaleN fpScale
  cases h : Fmt.f32.dec x.toNat with
  | nan | inf => rfl
  | fin neg m e =>
    obtain rfl | pos := eq_or_ne m 0
    · dsimp only
      rw [round_zero, if_pos rfl, f32_zero_of_dec h]
    · dsimp only
      rw [f32_round_clamped h pos code n, if_neg pos]

theorem exec_fscale (a : Alu) (s : State) : exec (.fscale a) s = execFscale a s := rfl

theorem fscale_byStrand (a : Alu) (s : State) (t : Team) (r : Ready (.fscale a) s t) : ByStrand (.fscale a) a.m s t (fun k =>
    let r := fpScale Fmt.f32 (modeOf t a.m) (t.val k a.va.toNat).toNat (t.srcB k a.b).toInt
    Out.one a.vd (word r.1) r.2) := by
  have row : AluRow (.fscale a) a _ := ⟨⟨_, rfl, rfl⟩, rfl⟩
  refine row.plain.byStrand_of r (exec_fscale a s) rfl fun k read => ?_
  rw [r.reg read (row.a_mem (RU.mem_r _)), r.src read (fun _ reg => row.b_mem reg (RU.mem_r _))]
  simp only [V.both_ok, V.map_ok, asWord, fscaleN_eq_fpScale (modeOf_lt t a.m)]

/-! ## The copied sign -/

theorem copySign_eq (x y : Word) : (y &&& 0x80000000) ||| (x &&& 0x7fffffff) = y.extractLsb' 31 1 ++ x.extractLsb' 0 31 := by
  apply BitVec.eq_of_getLsbD_eq
  intro j inside
  have sign : (0x80000000 : Word) = BitVec.twoPow 32 31 := rfl
  have rest : (0x7fffffff : Word) = BitVec.ofNat 32 (2 ^ 31 - 1) := rfl
  rw [BitVec.getLsbD_or, BitVec.getLsbD_and, BitVec.getLsbD_and, BitVec.getLsbD_append, sign, rest, BitVec.getLsbD_twoPow,
    BitVec.getLsbD_ofNat, Nat.testBit_two_pow_sub_one, BitVec.getLsbD_extractLsb', BitVec.getLsbD_extractLsb']
  obtain low | rfl := (Nat.le_of_lt_succ inside).lt_or_eq
  · simp [low, low.ne', inside]
  · simp

theorem fcopys_row (a : Alu) : Row2 (.fcopys a) a (fun x y => (y.extractLsb' 31 1 ++ x.extractLsb' 0 31, 0)) :=
  AluRow.row2 ⟨⟨_, rfl, rfl⟩, rfl⟩ rfl rfl (fun _ => rfl) (fun x y => by rw [copySign_eq])

/-- Settles O6, instruction by instruction. -/
theorem fp32Arithmetic : Obligations.Fp32Arithmetic :=
  ⟨fadd_row, fsub_row, fmul_row, ffma_byStrand, fmin_row, fmax_row, fcmp_row, fclass_row, frnd_row, fscale_byStrand, fcopys_row⟩

end Sys2Proof.Machine
end

section
/-! SUPPORT. Packed registers: elements of the tags 1 to 12 by bit fields, the frame of R172, and the rules of Table 9-7 on one element. -/

namespace Sys2Proof.Machine

/-! ## Elements -/

/-- What the model's tables say of a packed tag (Table 5-1) is what its width, number and kind say. -/
theorem packTag_rows {T : Nat} (packed : T ∈ packTags) : eltW T = laneBits T ∧ eltN T = laneCount T ∧ tagFmt T = laneFmt T ∧ tagSigned T = laneSigned T :=
  (by decide : ∀ T ∈ packTags, eltW T = laneBits T ∧ eltN T = laneCount T ∧ tagFmt T = laneFmt T ∧ tagSigned T = laneSigned T) T packed

theorem maskTag_eq {T : Nat} (packed : T ∈ packTags) : maskTag T = if T ≤ 4 then 4 else if T ≤ 8 then 8 else if T ≤ 10 then 10 else 12 :=
  (by decide : ∀ T ∈ packTags, maskTag T = if T ≤ 4 then 4 else if T ≤ 8 then 8 else if T ≤ 10 then 10 else 12) T packed

/-- The element formats have their elements' widths, and their canonical NaNs are quiet. -/
theorem laneFmt_some {T : Nat} (packed : T ∈ packTags) {f : Fmt} (h : laneFmt T = some f) : f.width = laneBits T ∧ (f.dec f.qnan).isSnan = false :=
  (by decide : ∀ T ∈ packTags, ∀ f ∈ laneFmt T, f.width = laneBits T ∧ (f.dec f.qnan).isSnan = false) T packed f h

theorem elt_eq_laneNat {T : Nat} (packed : T ∈ packTags) (x : Word) (j : Nat) : elt T x.toNat j = laneNat T x j := by
  obtain ⟨width, -⟩ := packTag_rows packed
  rw [elt, bits, width, laneNat, BitVec.extractLsb'_toNat, Nat.shiftRight_eq_div_pow]

theorem eltInt_eq_laneInt {T : Nat} (packed : T ∈ packTags) (x : Word) (j : Nat) : eltInt T (laneNat T x j) = laneInt T x j := by
  obtain ⟨width, -, -, sign⟩ := packTag_rows packed
  rw [eltInt, width, sign, laneInt, laneNat, sint_eq_toInt]

/-- The clamp to an element, by its bounds (R71). -/
theorem satElt_eq_clampBits {T : Nat} (packed : T ∈ packTags) (v : Int) : satElt T v = clampBits (laneSigned T) (laneBits T) v := by
  obtain ⟨width, -, -, sign⟩ := packTag_rows packed
  have wide : 1 ≤ laneBits T := by unfold laneBits; split_ifs <;> decide
  have half : ((2 ^ (laneBits T - 1) : ℕ) : ℤ) = 2 ^ (laneBits T - 1) := by push_cast; rfl
  have whole : ((2 ^ laneBits T : ℕ) : ℤ) = 2 ^ laneBits T := by push_cast; rfl
  have low : (0 : ℤ) < 2 ^ (laneBits T - 1) := by positivity
  have high : (0 : ℤ) < 2 ^ laneBits T := by positivity
  rw [satElt, satTo, width, sign, clampBits, wrap, satS, satZ, half, whole]
  generalize (2 : ℤ) ^ (laneBits T - 1) = h at low
  generalize (2 : ℤ) ^ laneBits T = w at high
  cases laneSigned T with
  | true =>
    have clamp : (if v ≥ h then h - 1 else if v < -h then -h else v) = max (-h) (min (h - 1) v) := by omega
    have kept : max (-h) (min (h - 1) v) ≠ v ↔ ¬(-h ≤ v ∧ v ≤ h - 1) := by omega
    simp only [if_true, clamp, flIf, decide_eq_true_eq, kept, ite_not]
  | false =>
    have clamp : (if v ≥ w then w - 1 else if v < 0 then 0 else v) = max 0 (min (w - 1) v) := by omega
    have kept : max 0 (min (w - 1) v) ≠ v ↔ ¬(0 ≤ v ∧ v ≤ w - 1) := by omega
    simp only [Bool.false_eq_true, if_false, clamp, flIf, decide_eq_true_eq, kept, ite_not]

/-! ## Packing -/

theorem packElts_lt (w : Nat) (l : List Nat) : packElts w l < 2 ^ (w * l.length) := by
  induction l with
  | nil => exact Nat.one_pos
  | cons x l ih =>
    have unit := Nat.mod_lt x (Nat.two_pow_pos w)
    have next : 2 ^ w * (packElts w l + 1) ≤ 2 ^ w * 2 ^ (w * l.length) := Nat.mul_le_mul_left _ ih
    rw [packElts, List.length_cons, Nat.mul_succ, Nat.add_comm (w * _), Nat.pow_add]
    rw [Nat.mul_succ] at next
    omega

theorem packElts_append (w : Nat) (l : List Nat) (x : Nat) : packElts w (l ++ [x]) = packElts w l + 2 ^ (w * l.length) * (x % 2 ^ w) := by
  induction l with
  | nil => simp [packElts]
  | cons y l ih =>
    rw [List.cons_append, packElts, packElts, ih, List.length_cons, Nat.mul_succ, Nat.add_comm (w * l.length), Nat.pow_add]
    ring

/-- Elements laid out one above the other are the words shifted to their places (R72). -/
theorem word_packElts (w n : Nat) (r : Nat → Nat) : word (packElts w ((List.range n).map r)) =
    (List.range n).foldl (fun acc j => acc ||| BitVec.ofNat 32 (r j % 2 ^ w) <<< (w * j)) 0 := by
  induction n with
  | zero => rfl
  | succ n ih =>
    have below := packElts_lt w ((List.range n).map r)
    rw [List.length_map, List.length_range] at below
    have place : word (2 ^ (w * n) * (r n % 2 ^ w)) = BitVec.ofNat 32 (r n % 2 ^ w) <<< (w * n) := by
      apply BitVec.eq_of_toNat_eq
      rw [word, BitVec.toNat_ofNat, BitVec.toNat_shiftLeft, BitVec.toNat_ofNat, Nat.shiftLeft_eq, Nat.mod_mul_mod, Nat.mul_comm]
    rw [List.range_succ, List.map_append, List.map_cons, List.map_nil, packElts_append, List.length_map, List.length_range, List.foldl_append,
      ← ih, Nat.add_comm, Nat.two_pow_add_eq_or_of_lt below, Nat.lor_comm, word, BitVec.ofNat_or, ← word, ← word, place]
    rfl

theorem eltOut_eq_lanesOut {T : Nat} (packed : T ∈ packTags) (vd : RegField) (res : Nat) (r : Nat → Nat × Flags) :
    eltOut vd (eltW T) ((List.range (eltN T)).map r) res = lanesOut vd T res r := by
  obtain ⟨width, number, -⟩ := packTag_rows packed
  rw [eltOut, lanesOut, width, number, List.map_map, word_packElts, List.foldl_map]
  rfl

/-- Packed results of the same elements. -/
theorem lanesOut_congr {vd : RegField} {T res : Nat} {r q : Nat → Nat × Flags} (same : ∀ j, r j = q j) : lanesOut vd T res r = lanesOut vd T res q :=
  congrArg _ (funext same)

/-! ## The frame of R172 -/

section
variable {i : Instr} {s : State} {t : Team} {ps : List RegField}

/-- Packed sources that fit are read with their tag. -/
theorem packedIn_ok (r : Ready i s t) {k : Nat} (read : k ∈ t.reads i) (some : ps ≠ []) (named : ∀ p ∈ ps, p.toNat ∈ srcRegs i) {ss : List Src}
    (scalars : ∀ b ∈ ss, ∀ x, b = .reg x → x.toNat ∈ srcRegs i) {tags : List Nat} (fit : TagsFit t i ps tags) :
    packedIn ⟨s, t, i, t.active i⟩ k tags ps ss =
      .ok (tagOf t k (ps.headD 0), ps.map (fun p => (t.val k p.toNat).toNat), ss.map (fun b => (t.srcB k b).toNat)) ∧
    tagOf t k (ps.headD 0) ∈ tags := by
  obtain ⟨T, allowed, carried⟩ := fit k read
  obtain ⟨p, ps, rfl⟩ := List.exists_cons_of_ne_nil some
  have tag : tagOf t k p = T := carried p List.mem_cons_self
  have uniform : ((p :: ps).map (fun p => (t.strand k).reg p.toNat)).all (fun x => x.tag.toNat == T) = true := by
    rw [List.all_map, List.all_eq_true]
    exact fun q mem => beq_iff_eq.mpr (carried q mem)
  have here : (((t.strand k).reg p.toNat).tag.toNat : Nat) = T := tag
  rw [List.headD_cons, tag, packedIn, V.all_ok _ _ _ (fun p mem => r.regT read (named p mem)), V.all_ok _ _ _ (fun b mem => r.src read (scalars b mem)),
    V.both_ok, V.bind_ok]
  refine ⟨?_, allowed⟩
  dsimp only
  simp only [List.map_cons] at uniform ⊢
  rw [here, uniform, List.contains_iff_mem.mpr allowed]
  simp only [Bool.and_self, if_true, List.map_map]
  rfl

theorem Plain.rowPk {m : BitVec 4} (p : Plain i m) (some : ps ≠ []) (named : ∀ p ∈ ps, p.toNat ∈ srcRegs i) {ss : List Src}
    (scalars : ∀ b ∈ ss, ∀ x, b = .reg x → x.toNat ∈ srcRegs i) {vd : RegField} {f : Run → Nat → List Nat → List Nat → Nat → Nat × Flags}
    {res res' : Nat → Nat} (run : ∀ s, exec i s = runI i (fun c => packFrame m vd tags12 ps ss (f c) res c) s)
    {g : Team → Nat → Nat → Nat → Nat × Flags} (tags : ∀ T ∈ packTags, res T = res' T)
    (values : ∀ s t k, ∀ T ∈ packTags, ∀ j, f ⟨s, t, i, t.active i⟩ T (ps.map (fun p => (t.val k p.toNat).toNat))
      (ss.map (fun b => (t.srcB k b).toNat)) j = g t k T j) : RowPk i m vd ps packTags res' g := fun s t r fit =>
  p.byStrand r (run s) fun k read => by
    obtain ⟨sources, packed⟩ := packedIn_ok r read some named scalars fit
    rw [show tags12 = packTags from rfl, sources, V.map_ok, eltOut_eq_lanesOut packed, tags _ packed]
    exact congrArg V.ok (lanesOut_congr (values s t k _ packed))

end

/-! ## Element-wise rows (Table 9-7) -/

/-- An element-wise result is `laneRes` of the elements. -/
theorem eltWise_eq_laneRes {T : Nat} (packed : T ∈ packTags) (ff : Fmt → List Nat → Nat × Flags) (fi : List Int → Int) (xs : List Word) (j : Nat) :
    eltWise ff fi T (xs.map BitVec.toNat) j = laneRes T (fun f => ff f (xs.map (fun x => laneNat T x j))) (fi (xs.map (fun x => laneInt T x j))) := by
  obtain ⟨-, -, format, -⟩ := packTag_rows packed
  have nats : (xs.map BitVec.toNat).map (fun w => elt T w j) = xs.map (fun x => laneNat T x j) := by
    rw [List.map_map]
    exact List.map_congr_left fun x _ => elt_eq_laneNat packed x j
  have ints : (xs.map (fun x => laneNat T x j)).map (eltInt T) = xs.map (fun x => laneInt T x j) := by
    rw [List.map_map]
    exact List.map_congr_left fun x _ => eltInt_eq_laneInt packed x j
  rw [eltWise, nats, ints, format, laneRes]
  cases laneFmt T with
  | some f => rfl
  | none => exact satElt_eq_clampBits packed _

theorem laneRes_congr {T : Nat} {p q : Fmt → Nat × Flags} {v w : Int} (floats : ∀ f, laneFmt T = some f → p f = q f) (ints : v = w) :
    laneRes T p v = laneRes T q w := by
  rw [laneRes, laneRes, ints]
  cases h : laneFmt T with
  | some f => exact floats f h
  | none => rfl

/-- A row of Table 9-7, from what it gives on the elements of its sources. -/
theorem Plain.packRow {i : Instr} {m : BitVec 4} (p : Plain i m) {ps : List RegField} (some : ps ≠ []) (named : ∀ p ∈ ps, p.toNat ∈ srcRegs i)
    {vd : RegField} {ff : Fmt → Nat → List Nat → Nat × Flags} {fi : List Int → Int}
    (run : ∀ s, exec i s = runI i (packRow m vd ps ff fi) s) {g : Team → Nat → Nat → Nat → Nat × Flags}
    (values : ∀ t k, ∀ T ∈ packTags, ∀ j, laneRes T (fun f => ff f (modeOf t m) (ps.map (fun p => laneNat T (t.val k p.toNat) j)))
      (fi (ps.map (fun p => laneInt T (t.val k p.toNat) j))) = g t k T j) : RowPk i m vd ps packTags id g :=
  p.rowPk some named (ss := []) (fun _ mem => nomatch mem) run (fun _ _ => rfl) fun s t k T packed j => by
    have elements := eltWise_eq_laneRes packed (fun f es => ff f (modeOf t m) es) fi (ps.map (fun p => t.val k p.toNat)) j
    simp only [List.map_map, Function.comp_def] at elements
    exact elements.trans (values t k T packed j)

/-- The sources of a packed instruction of two sources are named. -/
theorem AluRow.packed_mem {i : Instr} {a : Alu} {d : Desc} (h : AluRow i a d) (ua : d.a = .r) (ub : d.b = .r) (form : d.bf = .reg) :
    ∀ p ∈ [a.va, srcField a.b], p.toNat ∈ srcRegs i := by
  simp only [List.mem_cons, List.not_mem_nil, or_false, forall_eq_or_imp, forall_eq]
  exact ⟨h.a_mem (ua ▸ RU.mem_r _), h.field_mem form (ub ▸ RU.mem_r _)⟩

/-- And those of one of three. -/
theorem TerRow.packed_mem {i : Instr} {a : Ter} {d : Desc} (h : TerRow i a d) (ua : d.a = .r) (ub : d.b = .r) (uc : d.c = .r) :
    ∀ p ∈ [a.va, a.vb, a.vc], p.toNat ∈ srcRegs i := by
  simp only [List.mem_cons, List.not_mem_nil, or_false, forall_eq_or_imp, forall_eq]
  exact ⟨h.a_mem ua, h.b_mem ub, h.c_mem uc⟩

end Sys2Proof.Machine
end

section
/-! PROOF. O12: the element-wise packed instructions (R172, R173). -/

namespace Sys2Proof.Machine

section
variable {i : Instr} {a : Alu} {d : Desc}

/-- Two packed sources, element by element. -/
theorem AluRow.packRow (h : AluRow i a d) (ua : d.a = .r) (ub : d.b = .r) (form : d.bf = .reg) {ff : Fmt → Nat → List Nat → Nat × Flags}
    {fi : List Int → Int} (run : ∀ s, exec i s = runI i (packRow a.m a.vd [a.va, srcField a.b] ff fi) s)
    {gf : Fmt → Nat → Nat → Nat → Nat × Flags} {gi : Int → Int → Int} (floats : ∀ f mode x y, ff f mode [x, y] = gf f mode x y)
    (ints : ∀ x y, fi [x, y] = gi x y) : RowPk i a.m a.vd [a.va, srcField a.b] packTags id (fun t k T j =>
      let x := t.val k a.va.toNat
      let y := t.val k (srcField a.b).toNat
      laneRes T (fun f => gf f (modeOf t a.m) (laneNat T x j) (laneNat T y j)) (gi (laneInt T x j) (laneInt T y j))) :=
  h.plain.packRow (List.cons_ne_nil _ _) (h.packed_mem ua ub form) run fun _ _ _ _ _ => laneRes_congr (fun f _ => floats f _ _ _) (ints _ _)

end

theorem padd_row (a : Alu) : RowPk (.padd a) a.m a.vd [a.va, srcField a.b] packTags id (fun t k T j =>
    let x := t.val k a.va.toNat
    let y := t.val k (srcField a.b).toNat
    laneRes T (fun f => fpSum f (modeOf t a.m) (f.dec (laneNat T x j)) (f.dec (laneNat T y j))) (laneInt T x j + laneInt T y j)) :=
  AluRow.packRow ⟨⟨_, rfl, rfl⟩, rfl⟩ rfl rfl rfl (fun _ => rfl) (gf := fun f m x y => fpSum f m (f.dec x) (f.dec y)) (gi := (· + ·))
    (fun _ _ _ _ => add_eq_fpSum _ _ _ _) (fun _ _ => rfl)

theorem psub_row (a : Alu) : RowPk (.psub a) a.m a.vd [a.va, srcField a.b] packTags id (fun t k T j =>
    let x := t.val k a.va.toNat
    let y := t.val k (srcField a.b).toNat
    laneRes T (fun f => fpSum f (modeOf t a.m) (f.dec (laneNat T x j)) (f.dec (laneNat T y j)).flip) (laneInt T x j - laneInt T y j)) :=
  AluRow.packRow ⟨⟨_, rfl, rfl⟩, rfl⟩ rfl rfl rfl (fun _ => rfl) (gf := fun f m x y => fpSum f m (f.dec x) (f.dec y).flip) (gi := (· - ·))
    (fun _ _ _ _ => sub_eq_fpSum _ _ _ _) (fun _ _ => rfl)

theorem pmul_row (a : Alu) : RowPk (.pmul a) a.m a.vd [a.va, srcField a.b] packTags id (fun t k T j =>
    let x := t.val k a.va.toNat
    let y := t.val k (srcField a.b).toNat
    laneRes T (fun f => fpProd f (modeOf t a.m) (f.dec (laneNat T x j)) (f.dec (laneNat T y j))) (laneInt T x j * laneInt T y j)) :=
  AluRow.packRow ⟨⟨_, rfl, rfl⟩, rfl⟩ rfl rfl rfl (fun _ => rfl) (gf := fun f m x y => fpProd f m (f.dec x) (f.dec y)) (gi := (· * ·))
    (fun _ _ _ _ => mul_eq_fpProd _ _ _ _) (fun _ _ => rfl)

theorem pmin_row (a : Alu) : RowPk (.pmin a) a.m a.vd [a.va, srcField a.b] packTags id (fun t k T j =>
    let x := t.val k a.va.toNat
    let y := t.val k (srcField a.b).toNat
    laneRes T (fun f => fpPick f false (laneNat T x j) (laneNat T y j)) (min (laneInt T x j) (laneInt T y j))) :=
  AluRow.packRow ⟨⟨_, rfl, rfl⟩, rfl⟩ rfl rfl rfl (fun _ => rfl) (gf := fun f _ => fpPick f false) (fun _ _ _ _ => minmax_eq_fpPick _ _ _ _)
    (fun _ _ => rfl)

theorem pmax_row (a : Alu) : RowPk (.pmax a) a.m a.vd [a.va, srcField a.b] packTags id (fun t k T j =>
    let x := t.val k a.va.toNat
    let y := t.val k (srcField a.b).toNat
    laneRes T (fun f => fpPick f true (laneNat T x j) (laneNat T y j)) (max (laneInt T x j) (laneInt T y j))) :=
  AluRow.packRow ⟨⟨_, rfl, rfl⟩, rfl⟩ rfl rfl rfl (fun _ => rfl) (gf := fun f _ => fpPick f true) (fun _ _ _ _ => minmax_eq_fpPick _ _ _ _)
    (fun _ _ => rfl)

theorem exec_pfma (a : Ter) (s : State) : exec (.pfma a) s = execPfma a s := rfl

theorem pfma_row (a : Ter) : RowPk (.pfma a) a.m a.vd [a.va, a.vb, a.vc] packTags id (fun t k T j =>
    let x := t.val k a.va.toNat
    let y := t.val k a.vb.toNat
    let z := t.val k a.vc.toNat
    laneRes T (fun f => fpFma f (modeOf t a.m) (f.dec (laneNat T x j)) (f.dec (laneNat T y j)) (f.dec (laneNat T z j)))
      (laneInt T x j * laneInt T y j + laneInt T z j)) := by
  have row : TerRow (.pfma a) a _ := ⟨⟨_, rfl, rfl⟩, rfl, rfl⟩
  exact row.plain.packRow (List.cons_ne_nil _ _) (row.packed_mem rfl rfl rfl) (exec_pfma a) fun _ _ _ _ _ =>
    laneRes_congr (fun f _ => fma_eq_fpFma f _ _ _ _) rfl

theorem exec_pabs (a : Alu) (s : State) : exec (.pabs a) s = execPabs a s := rfl

theorem pabs_row (a : Alu) : RowPk (.pabs a) a.m a.vd [a.va] packTags id (fun t k T j =>
    let x := t.val k a.va.toNat
    laneRes T (fun _ => (laneNat T x j % 2 ^ (laneBits T - 1), 0)) |laneInt T x j|) := by
  have row : AluRow (.pabs a) a _ := ⟨⟨_, rfl, rfl⟩, rfl⟩
  refine row.plain.packRow (List.cons_ne_nil _ _) (fun p mem => ?_) (exec_pabs a) fun t k T packed j =>
    laneRes_congr (fun f format => ?_) (Int.abs_eq_natAbs _).symm
  · obtain rfl := List.mem_singleton.mp mem
    exact row.a_mem (RU.mem_r _)
  · rw [(laneFmt_some packed format).1]
    rfl

/-! ## Clamping to a range -/

/-- minimumNumber and maximumNumber give an operand or the canonical NaN. -/
theorem fpPick_fst (f : Fmt) (big : Bool) (x y : Nat) : (fpPick f big x y).1 = x ∨ (fpPick f big x y).1 = y ∨ (fpPick f big x y).1 = f.qnan := by
  unfold fpPick
  dsimp only
  split_ifs <;> simp

theorem nv_or_nv (p q : Bool) : (if p then flNv else 0) ||| (if q then flNv else 0) = if p || q then flNv else 0 := by
  cases p <;> cases q <;> rfl

/-- Both comparisons of a clamp set `nv` exactly for a signalling NaN among the three operands. -/
theorem clamp_flags {f : Fmt} (quiet : (f.dec f.qnan).isSnan = false) (x y z : Nat) :
    (fpPick f true x y).2 ||| (fpPick f false (fpPick f true x y).1 z).2 = if anySnan [f.dec x, f.dec y, f.dec z] then flNv else 0 := by
  have inner : (f.dec (fpPick f true x y).1).isSnan = true → (f.dec x).isSnan = true ∨ (f.dec y).isSnan = true := fun signals => by
    obtain same | same | same := fpPick_fst f true x y
    · exact .inl (same ▸ signals)
    · exact .inr (same ▸ signals)
    · rw [same, quiet] at signals
      cases signals
  change (if anySnan [f.dec x, f.dec y] then flNv else 0) ||| (if anySnan [f.dec (fpPick f true x y).1, f.dec z] then flNv else 0) = _
  generalize f.dec (fpPick f true x y).1 = w at inner
  have absorbed : (anySnan [f.dec x, f.dec y] || anySnan [w, f.dec z]) = anySnan [f.dec x, f.dec y, f.dec z] := by
    rw [Bool.eq_iff_iff]
    simp only [anySnan, List.any_cons, List.any_nil, Bool.or_false, Bool.or_eq_true]
    tauto
  rw [← absorbed]
  exact nv_or_nv _ _

theorem exec_pclamp (a : Ter) (s : State) : exec (.pclamp a) s = execPclamp a s := rfl

theorem pclamp_row (a : Ter) : RowPk (.pclamp a) a.m a.vd [a.va, a.vb, a.vc] packTags id (fun t k T j =>
    let x := t.val k a.va.toNat
    let y := t.val k a.vb.toNat
    let z := t.val k a.vc.toNat
    laneRes T (fun f =>
        (if (f.dec (laneNat T y j)).cmp (f.dec (laneNat T z j)) = some .gt then laneNat T z j
         else (fpPick f false (fpPick f true (laneNat T x j) (laneNat T y j)).1 (laneNat T z j)).1,
         if anySnan [f.dec (laneNat T x j), f.dec (laneNat T y j), f.dec (laneNat T z j)] then flNv else 0))
      (if laneInt T y j > laneInt T z j then laneInt T z j else min (max (laneInt T x j) (laneInt T y j)) (laneInt T z j))) := by
  have row : TerRow (.pclamp a) a _ := ⟨⟨_, rfl, rfl⟩, rfl, rfl⟩
  refine row.plain.packRow (List.cons_ne_nil _ _) (row.packed_mem rfl rfl rfl) (exec_pclamp a) fun t k T packed j =>
    laneRes_congr (fun f format => ?_) rfl
  rw [← clamp_flags (laneFmt_some packed format).2, ← minmax_eq_fpPick, ← minmax_eq_fpPick]
  rfl

/-! ## Masks and selection (R173) -/

theorem intFV_cmp (v w : Int) : (intFV v).cmp (intFV w) = some (compare v w) := by
  rw [intFV, intFV, FV.cmp_fin, FV.rat_ofInt, FV.rat_ofInt, ← compare_units v w (by positivity)]

theorem exec_pcmp (a : Alu) (s : State) : exec (.pcmp a) s = execPcmp a s := rfl

theorem pcmp_row (a : Alu) : RowPk (.pcmp a) a.m a.vd [a.va, srcField a.b] packTags
    (fun T => if T ≤ 4 then 4 else if T ≤ 8 then 8 else if T ≤ 10 then 10 else 12) (fun t k T j =>
      let x := t.val k a.va.toNat
      let y := t.val k (srcField a.b).toNat
      match laneFmt T with
      | some f =>
        let p := f.dec (laneNat T x j)
        let q := f.dec (laneNat T y j)
        (if fpHolds (subOf3 a.m) p q then 2 ^ laneBits T - 1 else 0, fpCmpFlags (subOf3 a.m) p q)
      | none => (if fpHolds (subOf3 a.m) (intFV (laneInt T x j)) (intFV (laneInt T y j)) then 2 ^ laneBits T - 1 else 0, 0)) := by
  have row : AluRow (.pcmp a) a _ := ⟨⟨_, rfl, rfl⟩, rfl⟩
  refine row.plain.rowPk (List.cons_ne_nil _ _) (row.packed_mem rfl rfl rfl) (ss := []) (fun _ mem => nomatch mem) (exec_pcmp a)
    (fun _ => maskTag_eq) fun s t k T packed j => ?_
  obtain ⟨width, -, format, -⟩ := packTag_rows packed
  simp only [List.map_cons, en, nth, List.getD_cons_zero, List.getD_cons_succ, elt_eq_laneNat packed, eltInt_eq_laneInt packed, width, format]
  cases laneFmt T with
  | some f => simp only [floatCmp_eq]
  | none => simp only [← floatCond_eq_fpHolds, intFV_cmp]

theorem exec_psel (a : Ter) (s : State) : exec (.psel a) s = execPsel a s := rfl

theorem psel_row (a : Ter) : RowPk (.psel a) a.m a.vd [a.va, a.vb] packTags id (fun t k T j =>
    (laneNat T (if (t.val k a.vc.toNat).getLsbD (laneBits T * j + laneBits T - 1) then t.val k a.va.toNat else t.val k a.vb.toNat) j, 0)) := by
  have row : TerRow (.psel a) a _ := ⟨⟨_, rfl, rfl⟩, rfl, rfl⟩
  refine row.plain.rowPk (List.cons_ne_nil _ _) (fun p mem => row.packed_mem rfl rfl rfl p ?_) (ss := [.reg a.vc]) (fun b mem x reg => ?_)
    (exec_psel a) (fun _ _ => rfl) fun s t k T packed j => ?_
  · exact List.mem_append_left [a.vc] mem
  · rw [List.mem_singleton.mp mem] at reg
    cases reg
    exact row.c_mem rfl
  · have wide : 1 ≤ laneBits T := by unfold laneBits; split_ifs <;> decide
    obtain ⟨width, -⟩ := packTag_rows packed
    have sign : bitAt (laneNat T (t.val k a.vc.toNat) j) (laneBits T - 1) = (t.val k a.vc.toNat).getLsbD (laneBits T * j + laneBits T - 1) := by
      rw [laneNat, bitAt_toNat, BitVec.getLsbD_extractLsb', decide_eq_true (Nat.sub_lt wide Nat.one_pos), Bool.true_and, Nat.add_sub_assoc wide]
    simp only [List.map_cons, List.map_nil, en, nth, List.getD_cons_zero, List.getD_cons_succ, width, elt_eq_laneNat packed, Team.srcB, sign,
      ← apply_ite]

/-- Settles O12, row by row of Table 9-7. -/
theorem packedArithmetic : Obligations.PackedArithmetic :=
  ⟨padd_row, psub_row, pmul_row, pfma_row, pmin_row, pmax_row, pabs_row, pclamp_row, pcmp_row, psel_row⟩

end Sys2Proof.Machine
end

section
/-! SUPPORT. Quotients rounded once (R80). A rounding sees of a value only the bits down to the last kept one, the next one, and whether any
bit is set below them: it takes every value between two neighbouring whole numbers of small enough units to the same encoding. -/

namespace Sys2Proof.Machine

/-- `x` lies strictly between n and n + 1 units of 2^E. -/
def Between (n : Nat) (E : Int) (x : ℚ) : Prop := n * 2 ^ E < x ∧ x < (n + 1) * 2 ^ E

/-- The binary exponent of a value above n units is that of n units. -/
theorem Between.log {n : Nat} {E : Int} {x : ℚ} (h : Between n E x) (pos : n ≠ 0) : Int.log 2 x = topExp n E := by
  obtain ⟨low, high⟩ := h
  have above : 0 < x := (units_pos pos E).trans low
  have carry : ((n + 1 : ℕ) : ℚ) ≤ 2 ^ (Nat.log2 n + 1) := by exact_mod_cast Nat.succ_le_of_lt Nat.lt_log2_self
  refine le_antisymm (Int.lt_add_one_iff.mp ?_) ?_
  · rw [← Int.lt_zpow_iff_log_lt one_lt_two above, Nat.cast_ofNat]
    calc x < ((n + 1 : ℕ) : ℚ) * 2 ^ E := by exact_mod_cast high
      _ ≤ 2 ^ (Nat.log2 n + 1) * 2 ^ E := mul_le_mul_of_nonneg_right carry (by positivity)
      _ = 2 ^ (topExp n E + 1) := by
        rw [← zpow_natCast, ← zpow_add₀ two_ne_zero, topExp]
        congr 1
        push_cast
        ring
  · rw [← Int.zpow_le_iff_le_log one_lt_two above, Nat.cast_ofNat]
    exact (topExp_bounds pos E).1.trans low.le

/-- A value between n and n + 1 units, counted in 2^s units. -/
theorem Between.scaled {n s : Nat} {E q : Int} {x : ℚ} (h : Between n E x) (unit : q = E + s) :
    (n : ℚ) < x / 2 ^ q * 2 ^ s ∧ x / 2 ^ q * 2 ^ s < n + 1 := by
  obtain ⟨low, high⟩ := h
  have value : x / 2 ^ q * 2 ^ s = x / 2 ^ E := by
    rw [unit, zpow_add₀ two_ne_zero, zpow_natCast, div_mul_eq_mul_div, mul_div_mul_right _ _ (by positivity)]
  rw [value, lt_div_iff₀ (by positivity), div_lt_iff₀ (by positivity)]
  exact ⟨low, high⟩

/-- What R77 does with y, where y is not a whole number of 2^-s: its bits are those of n. -/
theorem sigRound_between {n s : Nat} {y : ℚ} (half : 0 < s) (low : (n : ℚ) < y * 2 ^ s) (high : y * 2 ^ s < n + 1) (mode : Nat) (neg : Bool) :
    Int.fract y ≠ 0 ∧ sigRound mode neg y =
      (n / 2 ^ s : ℕ) + if ((mode == 0 && decide (2 ^ s ≤ 2 * (n % 2 ^ s))) || (mode == 2 && !neg || mode == 3 && neg)) = true then 1 else 0 := by
  have unit : (0 : ℚ) < 2 ^ s := by positivity
  have parts : ((2 ^ s : ℕ) : ℚ) * (n / 2 ^ s : ℕ) + (n % 2 ^ s : ℕ) = n := by exact_mod_cast Nat.div_add_mod n (2 ^ s)
  have below : ((n % 2 ^ s : ℕ) : ℚ) + 1 ≤ 2 ^ s := by exact_mod_cast Nat.mod_lt n (Nat.two_pow_pos s)
  rw [Nat.cast_pow, Nat.cast_ofNat] at parts
  have floor : ⌊y⌋ = (n / 2 ^ s : ℕ) := by
    rw [Int.floor_eq_iff, Int.cast_natCast]
    constructor
    · rw [← mul_le_mul_iff_left₀ unit]
      have := Nat.cast_nonneg (α := ℚ) (n % 2 ^ s)
      linarith
    · rw [← mul_lt_mul_iff_left₀ unit]
      linarith
  have rest : Int.fract y * 2 ^ s = y * 2 ^ s - 2 ^ s * (n / 2 ^ s : ℕ) := by
    rw [Int.fract, floor, Int.cast_natCast]
    ring
  have cut : ((n % 2 ^ s : ℕ) : ℚ) < Int.fract y * 2 ^ s ∧ Int.fract y * 2 ^ s < (n % 2 ^ s : ℕ) + 1 := by
    rw [rest]
    constructor <;> linarith
  rw [sigRound, floor]
  generalize Int.fract y = d at cut
  obtain ⟨above, under⟩ := cut
  have some : 0 < d := by
    refine pos_of_mul_pos_left (b := (2 : ℚ) ^ s) (lt_of_le_of_lt (Nat.cast_nonneg _) above) unit.le
  obtain ⟨h, rfl⟩ : ∃ h, s = h + 1 := ⟨s - 1, by omega⟩
  have twice : (2 : ℚ) ^ (h + 1) = 2 * 2 ^ h := pow_succ' 2 h
  have twiceN : 2 ^ (h + 1) = 2 * 2 ^ h := pow_succ' 2 h
  have order : (2 ^ (h + 1) ≤ 2 * (n % 2 ^ (h + 1)) ∧ 1 / 2 < d) ∨ (¬2 ^ (h + 1) ≤ 2 * (n % 2 ^ (h + 1)) ∧ d < 1 / 2) := by
    obtain up | down := le_or_gt (2 ^ h) (n % 2 ^ (h + 1))
    · refine .inl ⟨by omega, ?_⟩
      have bound : (2 : ℚ) ^ h ≤ (n % 2 ^ (h + 1) : ℕ) := by exact_mod_cast up
      rw [← mul_lt_mul_iff_left₀ unit]
      linarith
    · refine .inr ⟨by omega, ?_⟩
      have bound : ((n % 2 ^ (h + 1) : ℕ) : ℚ) + 1 ≤ 2 ^ h := by exact_mod_cast down
      rw [← mul_lt_mul_iff_left₀ unit]
      linarith
  have nearer : decide (2 ^ (h + 1) ≤ 2 * (n % 2 ^ (h + 1))) = decide (1 / 2 < d) := decide_eq_decide.mpr (by
    obtain ⟨up, above⟩ | ⟨down, below⟩ := order
    · exact iff_of_true up above
    · exact iff_of_false down below.not_gt)
  have tie : d ≠ 1 / 2 := by
    obtain ⟨-, above⟩ | ⟨-, below⟩ := order
    · exact above.ne'
    · exact below.ne
  refine ⟨some.ne', ?_⟩
  rw [nearer, roundsUp, decide_eq_false tie, decide_eq_true some, Bool.false_and, Bool.or_false, Bool.and_true]

/-- `round_to` by the significand of the magnitude, for a value of a sign. -/
theorem roundTo_eq (f : Fmt) (mode : Nat) {x : ℚ} {neg : Bool} (negative : x < 0 ↔ neg = true) (positive : 0 < x ↔ neg = false) :
    roundTo f mode x =
      let q := max (Int.log 2 |x|) (1 - f.bias) - f.fb
      let n := sigRound mode neg (|x| / 2 ^ q)
      let v : ℚ := n * 2 ^ q
      if v > fpMax f then
        (if mode = 0 ∨ (mode = 2 ∧ neg = false) ∨ (mode = 3 ∧ neg = true) then f.infEnc neg else f.maxEnc neg, flOf ||| flNx)
      else ((f.round 1 (.fin neg n.natAbs q)).1,
        (if v = |x| then 0 else flNx) ||| (if v ≠ |x| ∧ |x| < 2 ^ (1 - f.bias) then flUf else 0)) := by
  unfold roundTo
  simp only [gt_iff_lt, negative, positive, Bool.decide_eq_true, roundsUp_steps]
  rfl

/-- Values on one side of 0 whose magnitudes lie between the same neighbours round alike, where a last kept bit is worth more than the
neighbours' distance. -/
theorem roundTo_between {f : Fmt} {mode n : Nat} {E : Int} (wide : f.fb < Nat.log2 n) {x y : ℚ} (side : x < 0 ↔ y < 0)
    (hx : Between n E |x|) (hy : Between n E |y|) : roundTo f mode x = roundTo f mode y := by
  have pos : n ≠ 0 := by rintro rfl; exact absurd wide (by simp)
  obtain ⟨neg, negative⟩ : ∃ neg : Bool, x < 0 ↔ neg = true := ⟨decide (x < 0), decide_eq_true_iff.symm⟩
  have positive : ∀ {z : ℚ}, Between n E |z| → (z < 0 ↔ neg = true) → (0 < z ↔ neg = false) := fun {z} h below => by
    obtain ⟨low, -⟩ := h
    have nonzero : z ≠ 0 := abs_pos.mp ((units_pos pos E).trans low)
    rw [← Bool.not_eq_true, ← below, not_lt]
    exact ⟨le_of_lt, fun le => le.lt_of_ne' nonzero⟩
  obtain ⟨s, unit⟩ : ∃ s : Nat, max (topExp n E) (1 - f.bias) - f.fb = E + s :=
    ⟨(max (topExp n E) (1 - f.bias) - f.fb - E).toNat, by unfold topExp; omega⟩
  have half : 0 < s := by unfold topExp at unit; omega
  have small : ∀ {z : ℚ}, Between n E |z| → (|z| < 2 ^ (1 - f.bias) ↔ topExp n E < 1 - f.bias) := fun {z} h => by
    obtain ⟨low, -⟩ := id h
    rw [← h.log pos]
    exact Int.lt_zpow_iff_log_lt one_lt_two ((units_pos pos E).trans low)
  have changed : ∀ {z : ℚ}, Between n E |z| → ¬(sigRound mode neg (|z| / 2 ^ (E + s : ℤ)) : ℚ) * 2 ^ (E + s : ℤ) = |z| := fun {z} h same => by
    obtain ⟨low, high⟩ := h.scaled rfl
    rw [← eq_div_iff (by positivity), sigRound_eq_iff] at same
    exact (sigRound_between half low high mode neg).1 same
  have sig : ∀ {z : ℚ}, Between n E |z| → sigRound mode neg (|z| / 2 ^ (E + s : ℤ)) = _ := fun {z} h =>
    (sigRound_between half (h.scaled rfl).1 (h.scaled rfl).2 mode neg).2
  have cx := changed hx
  have cy := changed hy
  rw [sig hx] at cx
  rw [sig hy] at cy
  rw [roundTo_eq f mode negative (positive hx negative), roundTo_eq f mode (side.symm.trans negative) (positive hy (side.symm.trans negative))]
  simp only [hx.log pos, hy.log pos, unit, sig hx, sig hy, ne_eq, cx, cy, small hx, small hy]

/-! ## The quotient -/

/-- A value between two neighbours rounds as the model's number with a bit for what was cut. -/
theorem round_stickyFV {f : Fmt} (mem : f ∈ fpFormats) {mode : Nat} (code : mode < 4) {neg : Bool} {n : Nat} {E : Int} (wide : f.fb < Nat.log2 n)
    {x : ℚ} (side : x < 0 ↔ neg = true) {cut : Bool} (whole : cut = false → x = (FV.fin neg n E).rat) (between : cut = true → Between n E |x|) :
    f.round mode (stickyFV neg n cut E) = roundTo f mode x := by
  have pos : n ≠ 0 := by rintro rfl; exact absurd wide (by simp)
  have odd : 2 * n + (if cut then 1 else 0) ≠ 0 := by omega
  have half : (2 : ℚ) ^ (E - 1) * 2 = 2 ^ E := by rw [← zpow_add_one₀ two_ne_zero, sub_add_cancel]
  have sign := rat_fin_neg_iff (neg := neg) odd (E - 1)
  rw [stickyFV, round_eq_roundTo f mem mode code neg _ _ odd]
  cases cut with
  | false =>
    have same : (FV.fin neg (2 * n + 0) (E - 1)).rat = x := by
      rw [whole rfl, FV.rat, FV.rat, ← half]
      push_cast
      ring
    exact congrArg _ same
  | true =>
    refine roundTo_between wide (sign.trans side.symm) ?_ (between rfl)
    have unit : (0 : ℚ) < 2 ^ (E - 1) := by positivity
    rw [abs_rat_fin, Between, ← half, if_pos rfl]
    push_cast
    constructor <;> linarith

theorem quotient_side (a b : Bool) {m n : Nat} (pm : m ≠ 0) (pn : n ≠ 0) (e g : Int) :
    (FV.fin a m e).rat / (FV.fin b n g).rat < 0 ↔ (a != b) = true := by
  have am := rat_fin_neg_iff (neg := a) pm e
  have ap := rat_fin_pos_iff (neg := a) pm e
  have bm := rat_fin_neg_iff (neg := b) pn g
  have bp := rat_fin_pos_iff (neg := b) pn g
  rw [div_neg_iff, am, ap, bm, bp]
  cases a <;> cases b <;> decide

/-- The quotient in units of 2^-120 of its exponents' difference. -/
theorem quotient_eq (a b : Bool) (m n : Nat) (e g : Int) :
    (FV.fin a m e).rat / (FV.fin b n g).rat = (if (a != b) = true then -1 else 1) * (((m * 2 ^ 120 : ℕ) : ℚ) / n * 2 ^ (e - g - 120)) := by
  have sign : (if a = true then (-1 : ℚ) else 1) / (if b = true then -1 else 1) = if (a != b) = true then -1 else 1 := by
    cases a <;> cases b <;> simp
  rw [FV.rat, FV.rat, ← sign, zpow_sub₀ two_ne_zero, zpow_sub₀ two_ne_zero]
  push_cast
  field_simp

/-- The model's quotient is rounded as the exact one (R80). -/
theorem round_quotFV {f : Fmt} (mem : f ∈ fpFormats) {mode : Nat} (code : mode < 4) (a b : Bool) {m n : Nat} (pm : m ≠ 0) (pn : n ≠ 0)
    (short : n < 2 ^ (f.fb + 1)) (e g : Int) :
    f.round mode (quotFV (a != b) m e n g) = roundTo f mode ((FV.fin a m e).rat / (FV.fin b n g).rat) := by
  have side := quotient_side a b pm pn e g
  have value := quotient_eq a b m n e g
  have positive : (0 : ℚ) < n := by exact_mod_cast Nat.pos_of_ne_zero pn
  have parts : (n : ℚ) * (m * 2 ^ 120 / n : ℕ) + (m * 2 ^ 120 % n : ℕ) = (m * 2 ^ 120 : ℕ) := by exact_mod_cast Nat.div_add_mod (m * 2 ^ 120) n
  have rest : ((m * 2 ^ 120 % n : ℕ) : ℚ) < n := by exact_mod_cast Nat.mod_lt (m * 2 ^ 120) (Nat.pos_of_ne_zero pn)
  have wide : f.fb < Nat.log2 (m * 2 ^ 120 / n) := by
    have bits : f.fb ≤ 52 := (by decide : ∀ f ∈ fpFormats, f.fb ≤ 52) f mem
    have least : 2 ^ (f.fb + 1) ≤ m * 2 ^ 120 / n := by
      rw [Nat.le_div_iff_mul_le (Nat.pos_of_ne_zero pn)]
      calc 2 ^ (f.fb + 1) * n ≤ 2 ^ (f.fb + 1) * 2 ^ (f.fb + 1) := Nat.mul_le_mul_left _ short.le
        _ = 2 ^ (f.fb + 1 + (f.fb + 1)) := (pow_add 2 _ _).symm
        _ ≤ 2 ^ 120 := Nat.pow_le_pow_right two_pos (by omega)
        _ ≤ m * 2 ^ 120 := Nat.le_mul_of_pos_left _ (Nat.pos_of_ne_zero pm)
    exact (Nat.le_log2 (by rintro zero; rw [zero] at least; exact absurd least (by simp))).mpr least
  rw [quotFV]
  generalize (FV.fin a m e).rat / (FV.fin b n g).rat = x at *
  generalize m * 2 ^ 120 = M at *
  refine round_stickyFV mem code wide side (fun whole => ?_) (fun cut => ?_)
  · have none : M % n = 0 := by simpa using whole
    have units : (M : ℚ) / n = (M / n : ℕ) := by
      rw [div_eq_iff positive.ne', ← parts, none]
      push_cast
      ring
    rw [value, units, FV.rat, mul_assoc]
  · have some : 0 < M % n := Nat.pos_of_ne_zero (by simpa using cut)
    have some' : (0 : ℚ) < (M % n : ℕ) := by exact_mod_cast some
    have magnitude : |x| = (M : ℚ) / n * 2 ^ (e - g - 120) := by
      rw [value, abs_mul, abs_of_nonneg (by positivity : (0 : ℚ) ≤ (M : ℚ) / n * 2 ^ (e - g - 120))]
      split <;> simp
    rw [Between, magnitude, mul_lt_mul_iff_left₀ (by positivity), mul_lt_mul_iff_left₀ (by positivity), lt_div_iff₀ positive, div_lt_iff₀ positive]
    constructor <;> linarith

theorem div_eq_fpDiv {f : Fmt} (mem : f ∈ fpFormats) {mode : Nat} (code : mode < 4) (x y : Nat) :
    f.div mode x y = fpDiv f mode (f.dec x) (f.dec y) := by
  unfold Fmt.div
  cases hx : f.dec x with
  | nan s => cases f.dec y <;> simp [fpDiv, orNan, anySnan, FV.isNan, FV.isSnan, flIf]
  | inf p => cases f.dec y <;> simp [fpDiv, orNan, anySnan, FV.isNan, FV.isSnan, FV.isInf, FV.neg, flIf, flNone]
  | fin p m e =>
    cases hy : f.dec y with
    | nan s => simp [fpDiv, orNan, anySnan, FV.isNan, FV.isSnan, flIf]
    | inf q => simp [fpDiv, orNan, FV.isNan, FV.isInf, FV.neg, flNone]
    | fin q n g =>
      obtain rfl | pn := eq_or_ne n 0
      · simp [fpDiv, orNan, FV.isNan, FV.isInf, FV.isZero, FV.neg]
      · obtain rfl | pm := eq_or_ne m 0
        · simp [fpDiv, orNan, FV.isNan, FV.isInf, FV.isZero, FV.neg, pn, flNone]
        · have quotient := round_quotFV mem code p q pm pn (canonical_of_dec mem hy).1.small e g
          simp [fpDiv, orNan, FV.isNan, FV.isInf, FV.isZero, FV.neg, pn, pm, quotient]

theorem frcpN_eq_fpDiv (x : Nat) : frcpN x = fpDiv Fmt.f32 0 (.fin false 1 0) (Fmt.f32.dec x) := by
  have mem : Fmt.f32 ∈ fpFormats := by decide
  unfold frcpN funOf
  cases h : Fmt.f32.dec x with
  | nan s => simp [fpDiv, orNan, anySnan, FV.isNan, FV.isSnan, flIf]
  | inf p => simp [fpDiv, orNan, FV.isNan, FV.isInf, FV.neg, flNone]
  | fin p m e =>
    obtain rfl | pm := eq_or_ne m 0
    · simp [fpDiv, orNan, FV.isNan, FV.isInf, FV.isZero, FV.neg]
    · have quotient := round_quotFV mem (mode := 0) (by decide) false p one_ne_zero pm (canonical_of_dec mem h).1.small 0 e
      rw [Bool.false_bne] at quotient
      simp [fpDiv, orNan, FV.isNan, FV.isInf, FV.isZero, pm, quotient]

end Sys2Proof.Machine
end

section
/-! PROOF. O8: division, roots and the functions of Table 5-5 (R80, R169). -/

namespace Sys2Proof.Machine

/-! ## Roots -/

theorem sqrt_eq_fpFun (f : Fmt) (mode x : Nat) :
    f.sqrt mode x = fpFun f (fun _ => (x, 0)) (fun n => if n then fpBad f else (x, 0))
      (fun n m e => if n then fpBad f else f.round mode (sqrtFV m e)) x := by
  unfold Fmt.sqrt fpFun
  cases f.dec x with
  | inf n => cases n <;> rfl
  | nan | fin => rfl

theorem fsqrt_row (a : Alu) : RowF1 (.fsqrt a) a (fun _ x => fpFun Fmt.f32 (fun _ => (x, 0)) (fun n => if n then fpBad Fmt.f32 else (x, 0))
    (fun n m e => if n then fpBad Fmt.f32 else Fmt.f32.round 0 (sqrtFV m e)) x) :=
  AluRow.rowF1 ⟨⟨_, rfl, rfl⟩, rfl⟩ rfl (fun _ => rfl) (fun _ _ _ => sqrt_eq_fpFun _ _ _)

theorem dsqrt_row (a : Alu) : RowD1 (.dsqrt a) a (fun mode x => fpFun Fmt.f64 (fun _ => (x, 0)) (fun n => if n then fpBad Fmt.f64 else (x, 0))
    (fun n m e => if n then fpBad Fmt.f64 else Fmt.f64.round mode (sqrtFV m e)) x) :=
  AluRow.rowD1 ⟨⟨_, rfl, rfl⟩, rfl⟩ rfl (fun _ => rfl) (fun _ _ _ => sqrt_eq_fpFun _ _ _)

/-! ## The functions of binary32 -/

/-- A function of the model is the function of Table 5-5 with its zeros, its infinities and its other values. -/
theorem funOf_eq_fpFun {g : FV → Nat × Flags} {zero inf : Bool → Nat × Flags} {rest : Bool → Nat → Int → Nat × Flags}
    (zeros : ∀ n e, g (.fin n 0 e) = zero n) (infs : ∀ n, g (.inf n) = inf n) (others : ∀ n m e, m ≠ 0 → g (.fin n m e) = rest n m e) (x : Nat) :
    funOf g x = fpFun Fmt.f32 zero inf rest x := by
  unfold funOf fpFun
  cases Fmt.f32.dec x with
  | nan s => rfl
  | inf n => exact infs n
  | fin n m e =>
    obtain rfl | pos := eq_or_ne m 0
    · exact zeros n e
    · exact (others n m e pos).trans (if_neg pos).symm

theorem frsq_row (a : Alu) : RowF1 (.frsq a) a (fun _ x => fpFun Fmt.f32 (fun n => (Fmt.f32.infEnc n, flDz))
    (fun n => if n then fpBad Fmt.f32 else (0, 0)) (fun n m e => if n then fpBad Fmt.f32 else Fmt.f32.round 0 (rsqrtFV m e)) x) :=
  AluRow.rowF1 ⟨⟨_, rfl, rfl⟩, rfl⟩ rfl (fun _ => rfl) fun _ _ x =>
    funOf_eq_fpFun (fun _ _ => rfl) (fun _ => rfl) (fun _ _ _ pos => if_neg pos) x.toNat

/-- The result of an overflow to +∞ under RNE. -/
theorem round_f32_overflow {k : Int} (large : 128 ≤ k) : Fmt.f32.round 0 (.fin false 1 k) = (0x7f800000, flOf ||| flNx) := by
  refine (round_overflow (by decide) (by decide) false one_ne_zero ?_).trans (by decide)
  rw [show Fmt.f32.maxExp + Fmt.f32.fb + 1 = 128 by decide, Nat.cast_one, one_mul]
  exact zpow_le_zpow_right₀ one_le_two large

/-- From 128 on, 2^x is beyond the largest value. -/
theorem exp2Fin_overflow {neg : Bool} {m : Nat} (pos : m ≠ 0) {e : Int} (large : (128 : ℚ) ≤ (FV.fin neg m e).rat) :
    exp2Fin neg m e = (0x7f800000, flOf ||| flNx) := by
  obtain rfl : neg = false := (rat_fin_pos_iff pos e).mp (lt_of_lt_of_le (by norm_num) large)
  have units : (128 : ℚ) ≤ m * 2 ^ e := by rwa [FV.rat, if_neg Bool.false_ne_true, one_mul] at large
  have above : ¬topExp m e < -26 := fun lt => by
    have tiny := (topExp_lt_iff pos e (-26)).mp lt
    exact absurd (units.trans_lt tiny) (by norm_num)
  rw [exp2Fin]
  by_cases far : topExp m e ≥ 8
  · rw [if_pos far]
    exact round_f32_overflow le_rfl
  · rw [if_neg far, if_neg above]
    obtain whole | part := le_or_gt 0 e
    · have exponent : (128 : ℤ) ≤ (m : ℤ) * (2 ^ e.toNat : ℕ) := by
        rw [zpow_eq_pow_toNat whole] at units
        exact_mod_cast units
      simp only [if_pos (show e ≥ 0 from whole), Bool.false_eq_true, if_false, if_true]
      exact round_f32_overflow exponent
    · have denominator : (0 : ℤ) < (2 ^ (-e).toNat : ℕ) := by exact_mod_cast Nat.two_pow_pos _
      have exponent : (128 : ℤ) ≤ (m : ℤ) / (2 ^ (-e).toNat : ℕ) := by
        rw [Int.le_ediv_iff_mul_le denominator]
        have scale : (2 : ℚ) ^ e * 2 ^ (-e).toNat = 1 := by
          rw [← zpow_natCast, Int.toNat_of_nonneg (by omega), ← zpow_add₀ two_ne_zero, add_neg_cancel, zpow_zero]
        have product : (128 : ℚ) * 2 ^ (-e).toNat ≤ m := by
          calc (128 : ℚ) * 2 ^ (-e).toNat ≤ m * 2 ^ e * 2 ^ (-e).toNat := mul_le_mul_of_nonneg_right units (by positivity)
            _ = m := by rw [mul_assoc, scale, mul_one]
        exact_mod_cast product
      simp only [if_neg (show ¬e ≥ 0 from not_le.mpr part), Bool.false_eq_true, if_false, if_pos (show _ ≥ (128 : ℤ) from exponent)]
      split
      · exact round_f32_overflow exponent
      · exact round_f32_overflow le_rfl

theorem fexp2_row (a : Alu) : RowF1 (.fexp2 a) a (fun _ x => fpFun Fmt.f32 (fun _ => (0x3f800000, 0))
    (fun n => if n then (0, 0) else (0x7f800000, 0))
    (fun n m e => if (FV.fin n m e).rat ≥ 128 then (0x7f800000, flOf ||| flNx) else exp2Fin n m e) x) := by
  refine AluRow.rowF1 ⟨⟨_, rfl, rfl⟩, rfl⟩ rfl (fun _ => rfl) fun _ _ x =>
    funOf_eq_fpFun (fun _ _ => rfl) (fun _ => rfl) (fun n m e pos => ?_) x.toNat
  dsimp only
  rw [if_neg pos]
  split
  next large => exact exp2Fin_overflow pos large
  next => rfl

theorem flog2_row (a : Alu) : RowF1 (.flog2 a) a (fun _ x => fpFun Fmt.f32 (fun _ => (0xff800000, flDz))
    (fun n => if n then fpBad Fmt.f32 else (0x7f800000, 0))
    (fun n m e => if n then fpBad Fmt.f32 else if (FV.fin n m e).rat = 1 then (0, 0) else log2Fin m e) x) := by
  refine AluRow.rowF1 ⟨⟨_, rfl, rfl⟩, rfl⟩ rfl (fun _ => rfl) fun _ _ x =>
    funOf_eq_fpFun (fun _ _ => rfl) (fun n => by cases n <;> rfl) (fun n m e pos => ?_) x.toNat
  dsimp only
  rw [if_neg pos]
  cases n with
  | true => exact if_pos rfl
  | false =>
    rw [if_neg Bool.false_ne_true, if_neg Bool.false_ne_true]
    split
    next one =>
      have units : (m : ℚ) * 2 ^ e = 2 ^ (0 : ℤ) := by rwa [FV.rat, if_neg Bool.false_ne_true, one_mul] at one
      have zero : Fmt.f32.round 0 (intFV 0) = (0, 0) := by decide
      rw [log2Fin_of_zpow pos units, zero]
    next => rfl

/-! ### Sine and cosine where they are 0 -/

/-- The sine of a multiple of π is 0. -/
theorem sinpiFin_of_int {neg : Bool} {m : Nat} {e n : Int} (value : (FV.fin neg m e).rat = n) : sinpiFin neg m e = (Fmt.f32.sgn neg, 0) := by
  have whole := whole_of_rat_eq_int value
  rw [sinpiFin, if_pos, round_zero]
  obtain nonneg | negative := le_or_gt 0 e
  · exact .inl nonneg
  · right
    rw [Int.toNat_of_nonpos negative.le, pow_zero, mul_one] at whole
    have divides : ((2 ^ (-e).toNat : ℕ) : ℤ) ∣ (m : ℤ) := by
      have signed : ((2 ^ (-e).toNat : ℕ) : ℤ) ∣ if neg then -(m : ℤ) else m := ⟨n, by rw [whole]; push_cast; ring⟩
      cases neg with
      | true => exact Int.dvd_neg.mp signed
      | false => exact signed
    exact Nat.mod_eq_zero_of_dvd (Int.natCast_dvd_natCast.mp divides)

theorem fsinpi_row (a : Alu) : RowF1 (.fsinpi a) a (fun _ x => fpFun Fmt.f32 (fun n => (Fmt.f32.sgn n, 0)) (fun _ => fpBad Fmt.f32)
    (fun n m e => if (FV.fin n m e).rat.den = 1 then (Fmt.f32.sgn n, 0) else sinpiFin n m e) x) := by
  refine AluRow.rowF1 ⟨⟨_, rfl, rfl⟩, rfl⟩ rfl (fun _ => rfl) fun _ _ x =>
    funOf_eq_fpFun (fun _ _ => rfl) (fun _ => rfl) (fun n m e pos => ?_) x.toNat
  dsimp only
  rw [if_neg pos]
  split
  next whole => exact sinpiFin_of_int (Rat.coe_int_num_of_den_eq_one whole).symm
  next => rfl

/-- The cosine of an odd multiple of π/2 is 0. -/
theorem cospiFin_of_half {m a : Nat} {e : Int} (value : (m : ℚ) * 2 ^ e = a + 1 / 2) : cospiFin m e = (0, 0) := by
  obtain ⟨negative, k, hk, significand⟩ := significand_of_half value
  have half := Nat.two_pow_pos k
  unfold cospiFin
  rw [hk, if_neg (not_lt.mpr negative.le), pow_succ]
  generalize 2 ^ k = h at *
  have folded : ∀ y, (y = h ∨ y = 3 * h) → (if y > h * 2 then 2 * (h * 2) - y else y) = h := fun y turn => by
    split <;> omega
  have turn : m % (2 * (h * 2)) = h ∨ m % (2 * (h * 2)) = 3 * h := by
    obtain ⟨b, rfl | rfl⟩ := Nat.even_or_odd' a
    · left
      rw [significand, show (2 * (2 * b) + 1) * h = h + 2 * (h * 2) * b by ring, Nat.add_mul_mod_self_left, Nat.mod_eq_of_lt (by omega)]
    · right
      rw [significand, show (2 * (2 * b + 1) + 1) * h = 3 * h + 2 * (h * 2) * b by ring, Nat.add_mul_mod_self_left, Nat.mod_eq_of_lt (by omega)]
  simp only [folded _ turn, Nat.mul_comm 2 h, gt_iff_lt, lt_irrefl, if_false, if_true]
  rfl

/-- A value with denominator 2 is an odd number of halves. -/
theorem half_of_den {neg : Bool} {m : Nat} {e : Int} (halves : (FV.fin neg m e).rat.den = 2) : ∃ a : Nat, (m : ℚ) * 2 ^ e = a + 1 / 2 := by
  have value := abs_rat_fin neg m e
  generalize (FV.fin neg m e).rat = x at *
  have coprime := x.reduced
  rw [halves, Nat.coprime_two_right] at coprime
  obtain ⟨a, odd⟩ := coprime
  refine ⟨a, ?_⟩
  have quotient : |x| = (x.num.natAbs : ℚ) / 2 := by
    have parts := Rat.num_div_den x
    rw [halves, Nat.cast_ofNat] at parts
    rw [← parts, abs_div, abs_two, parts, Nat.cast_natAbs, Int.cast_abs]
  rw [← value, quotient, odd]
  push_cast
  ring

theorem fcospi_row (a : Alu) : RowF1 (.fcospi a) a (fun _ x => fpFun Fmt.f32 (fun _ => (0x3f800000, 0)) (fun _ => fpBad Fmt.f32)
    (fun n m e => if (FV.fin n m e).rat.den = 2 then (0, 0) else cospiFin m e) x) := by
  refine AluRow.rowF1 ⟨⟨_, rfl, rfl⟩, rfl⟩ rfl (fun _ => rfl) fun _ _ x =>
    funOf_eq_fpFun (fun _ _ => rfl) (fun _ => rfl) (fun n m e pos => ?_) x.toNat
  dsimp only
  rw [if_neg pos]
  split
  next halves =>
    obtain ⟨k, value⟩ := half_of_den halves
    exact cospiFin_of_half value
  next => rfl

theorem ftanh_row (a : Alu) : RowF1 (.ftanh a) a (fun _ x => fpFun Fmt.f32 (fun n => (Fmt.f32.sgn n, 0))
    (fun n => (if n then 0xbf800000 else 0x3f800000, 0)) (fun n m e => tanhFin n m e) x) :=
  AluRow.rowF1 ⟨⟨_, rfl, rfl⟩, rfl⟩ rfl (fun _ => rfl) fun _ _ x =>
    funOf_eq_fpFun (fun _ _ => rfl) (by decide) (fun _ _ _ pos => if_neg pos) x.toNat

/-! ## Divisions -/

theorem fdiv_row (a : Alu) : RowF2 (.fdiv a) a (fun _ x y => fpDiv Fmt.f32 0 (Fmt.f32.dec x) (Fmt.f32.dec y)) :=
  AluRow.rowF2 ⟨⟨_, rfl, rfl⟩, rfl⟩ rfl rfl (fun _ => rfl) (fun _ _ _ _ => div_eq_fpDiv (by decide) (by decide) _ _)

theorem frcp_row (a : Alu) : RowF1 (.frcp a) a (fun _ x => fpDiv Fmt.f32 0 (.fin false 1 0) (Fmt.f32.dec x)) :=
  AluRow.rowF1 ⟨⟨_, rfl, rfl⟩, rfl⟩ rfl (fun _ => rfl) (fun _ _ _ => frcpN_eq_fpDiv _)

theorem ddiv_row (a : Alu) : RowD2 (.ddiv a) a (fun m x y => fpDiv Fmt.f64 m (Fmt.f64.dec x) (Fmt.f64.dec y)) :=
  AluRow.rowD2 ⟨⟨_, rfl, rfl⟩, rfl⟩ rfl rfl rfl (fun _ => rfl) (fun _ code _ _ => div_eq_fpDiv (by decide) code _ _)

/-- Settles O8, instruction by instruction. -/
theorem specialFunctionsAndDivisions : Obligations.SpecialFunctionsAndDivisions :=
  ⟨fsqrt_row, dsqrt_row, frsq_row, fexp2_row, flog2_row, fsinpi_row, fcospi_row, ftanh_row, fdiv_row, frcp_row, ddiv_row⟩

end Sys2Proof.Machine
end

section
/-! PROOF. O20 fails: the bytes of a store that perform late are those beyond the page of its first byte in global memory (`splitStore`, R300),
and the statement takes its page from the first byte of the access, of whatever memory it is. -/

namespace Sys2Proof.Machine

/-- An ordinary coherent leaf. -/
def plainLeaf : Tlb := ⟨0, 0, 2 ^ 16, 0, true, false, false, 0, 0⟩
/-- An access whose first byte lies in a scratchpad, and the others in two pages of global memory. -/
def mixedAccess : Access := ⟨0, [.scr 0, .mem 0 plainLeaf, .mem 4096 plainLeaf], [1, 1, 1]⟩
/-- The team that makes it, in imprecise mode. -/
def storingTeam : Team := restingTeam 1 32

theorem mixedAccess_places {x : Access} (mem : x ∈ [mixedAccess]) {a : Nat} {f : Tlb} {rest : List Loc} : x.ls ≠ .mem a f :: rest := by
  rw [List.mem_singleton.mp mem]
  exact fun h => nomatch h

/-- The byte in the second page of global memory performs late. -/
theorem mixedAccess_late : ((storePlain (turnOf storingTeam) storingTeam [mixedAccess]).team 0).map Team.pending =
    some [(.mem 4096 plainLeaf, 1)] := by
  decide +kernel

/-- Refutes O20: in its second clause every byte that performs late belongs to an access whose first byte lies in global memory. That of
`mixedAccess` lies in a scratchpad, and its last byte is late. -/
theorem not_storesReachTheirBytesOnly : ¬ Obligations.StoresReachTheirBytesOnly := by
  rintro ⟨-, released⟩
  obtain ⟨u, r, team, rel, -, -, split, -⟩ := (released (turnOf storingTeam) storingTeam [mixedAccess] (by decide +kernel) (by decide +kernel)).2
    (by decide +kernel)
  have pending : u.pending = [(.mem 4096 plainLeaf, 1)] := by
    have late := mixedAccess_late
    rw [show (0 : Nat) = storingTeam.hnd from rfl, team] at late
    exact Option.some.inj late
  have cells : u.pending = r.cells := by
    rw [Team.pending, rel]
    exact List.append_nil r.cells
  obtain ⟨x, mem, -, _, _, _, _, _, first, -⟩ := split (.mem 4096 plainLeaf, 1) (by rw [← cells, pending]; exact .head _)
  exact mixedAccess_places mem first

end Sys2Proof.Machine
end

section
/-! PROOF. O25 fails: a pop takes an entry for each pass that holds an active strand (R210), and its clause asks no whole passes (R21) of the
team. A strand beyond the last whole pass gets a lane in what the statement says, and none from the instruction (`Run.livePasses`). -/

namespace Sys2Proof.Machine

/-- `SKPOP v1` on channel 2, which the lower die pops. -/
def popChannel : Alu := ⟨⟨1, 0, false, 0, 63, 63⟩, 2, 1, 0, .reg 0⟩

theorem popChannel_unhindered : Unhindered (.skpop popChannel) partialTeam := by
  constructor <;> decide +kernel

/-- The strand of `partialTeam` lies in no whole pass, so that the pop takes no entry for it. -/
theorem passesOf_partialTeam : passesOf partialTeam (.skpop popChannel) = [] := by
  decide +kernel

theorem popChannel_open : chanOpen (turnOf partialTeam) partialTeam popChannel := by
  intro x owner
  rw [show ((turnOf partialTeam).chan (channel partialTeam popChannel)).owner = none by decide +kernel] at owner
  cases owner

/-- What O25 says the strand holds after the pop: value and tag of lane 0 of an entry that is not there. -/
def poppedNothing : Team :=
  perStrand partialTeam (partialTeam.active (.skpop popChannel)) (fun k =>
    let e := nth (0, 0) (nth [] [] (List.idxOf (k / 32) [])) (k % 32)
    Out.tagged popChannel.vd e.1 e.2 0)

/-- The pop does not write the strand. -/
theorem partialTeam_unpopped {s' : State} (h : exec (.skpop popChannel) (turnOf partialTeam) = .next s') :
    s'.teams.map (·.strands) = [partialTeam.strands] := by
  have run : (match exec (.skpop popChannel) (turnOf partialTeam) with
      | .next u => u.teams.map (·.strands) == [partialTeam.strands]
      | _ => false) = true := by decide +kernel
  rw [h] at run
  exact eq_of_beq run

/-- Refutes O25: its clause for `SKPOP` gives the strand of `partialTeam` 0 with tag 0 from no entry. No entry is popped, and the strand keeps 5. -/
theorem not_stakeChannels : ¬ Obligations.StakeChannels := by
  rintro ⟨-, pop, -⟩
  have clause := (pop popChannel (turnOf partialTeam) partialTeam popChannel_unhindered.ready).2 (by decide +kernel) popChannel_open (by decide +kernel)
  simp only [passesOf_partialTeam, List.length_nil, Nat.zero_le, if_true, forall_const] at clause
  obtain ⟨s', run, retires⟩ : Completes (.skpop popChannel) (turnOf partialTeam) partialTeam poppedNothing _ := clause
  obtain ⟨ps, ev, rfl⟩ := retires
  have after := partialTeam_unpopped run
  rw [noteStart_teams] at after
  have kept : poppedNothing.strands = partialTeam.strands := List.singleton_inj.mp after
  exact absurd kept (by decide +kernel)

end Sys2Proof.Machine
end

section
/-! PROOF. O24 fails: a `BAR` that has to wait notes in its team what it waits for (`barWait`, R211), and `State.setTeam` does so in every team
of its handle. The statement, where the arrival is noted already, changes none, and no premise of it says that a handle names one team. -/

namespace Sys2Proof.Machine

/-- `BAR` on the group barrier whose number v0 holds. -/
def groupBarrier : Alu := ⟨⟨1, 0, false, 0, 63, 63⟩, 2, 0, 0, .reg 0⟩
/-- A team that has arrived at barrier 0 in its first phase, and waits. -/
def arrivedTeam : Team := { restingTeam 1 32 with bwt := some ⟨false, 0, 0⟩ }
/-- The turn of that team, where a second team has its handle. -/
def sharedHandle : State := { State.reset with teams := [arrivedTeam, restingTeam 1 32], groups := [lastGroup] }

theorem sharedHandle_ready : Ready (.bar groupBarrier) sharedHandle arrivedTeam where
  team := by decide +kernel
  issues := by decide +kernel
  wf := by decide +kernel
  level := fun p => absurd p (by decide +kernel)
  sig := by decide +kernel
  fresh := rfl
  named := fun r named => ⟨(by decide +kernel : ∀ r ∈ namedRegs (.bar groupBarrier), r < arrivedTeam.nreg) r named, .inl (List.not_mem_nil),
    List.not_mem_nil⟩
  guard := (by decide +kernel : ∀ k ∈ arrivedTeam.enabled, ∀ r ∈ guardRegs (hdrF (.bar groupBarrier)), ((arrivedTeam.strand k).reg r).psn = false)
  clean := (by decide +kernel : ∀ k ∈ arrivedTeam.reads (.bar groupBarrier), ∀ r ∈ srcRegs (.bar groupBarrier),
    ((arrivedTeam.strand k).reg r).psn = false)
  stall := fun _ => rfl

/-- The second team waits as the first does. -/
theorem sharedHandle_noted {s' : State} (h : exec (.bar groupBarrier) sharedHandle = .next s') :
    s'.teams.map (·.bwt) = [arrivedTeam.bwt, arrivedTeam.bwt] := by
  have run : (match exec (.bar groupBarrier) sharedHandle with
      | .next u => u.teams.map (·.bwt) == [arrivedTeam.bwt, arrivedTeam.bwt]
      | _ => false) = true := by decide +kernel
  rw [h] at run
  exact eq_of_beq run

/-- A wait that changes no team keeps what each one waits for. -/
theorem Waits.bwts {i : Instr} {s s' : State} {t : Team} (waits : Waits i s t id s) (h : exec i s = .next s') :
    s'.teams.map (·.bwt) = s.teams.map (·.bwt) := by
  obtain rfl := Host.Outcome.next.inj (waits.symm.trans h)
  rw [List.map_map]
  refine List.map_congr_left fun x _ => ?_
  simp only [Function.comp, id]
  split <;> rfl

/-- Refutes O24: in `sharedHandle` its clause for a `BAR` whose arrival is noted, in a phase that has not ended, leaves the second team as it is. The
instruction makes it wait too. -/
theorem not_barriersAndWaits : ¬ Obligations.BarriersAndWaits := by
  rintro ⟨-, -, bar, -⟩
  have names : Names sharedHandle arrivedTeam groupBarrier 0 lastGroup false 0 :=
    ⟨by decide +kernel, by decide +kernel, fun clu => absurd clu (by decide), by decide +kernel⟩
  have waits := ((bar groupBarrier sharedHandle arrivedTeam sharedHandle_ready).2 0 lastGroup false 0 (by decide +kernel) names).2 ⟨false, 0, 0⟩ rfl
  simp only [show ((barOf sharedHandle lastGroup false 0).phase - 0).toNat = 0 by decide +kernel, show ¬(1 ≤ 0 ∧ 0 ≤ 2 ^ 31) by decide,
    if_false] at waits
  have noted := sharedHandle_noted waits
  rw [Waits.bwts waits waits] at noted
  exact absurd noted (by decide +kernel)

end Sys2Proof.Machine
end

section
/-! SUPPORT. Groups 5 to 7: an instruction that retires in sequence, or waits, with an effect on the whole state (R211, R212). -/

namespace Sys2Proof.Machine

variable {i : Instr} {s s1 : State} {t u v : Team} {body : Run → Res} {ws : List (Nat × List Nat)} {xs : Option (List (Nat × Nat))}

/-- The opcode decides: no control instruction, and not the illegal one. -/
theorem Sequential.of_opc (high : 0x8d ≤ opcOf i) (low : opcOf i < 0x3ff) : Sequential i := by
  have apart {o : Nat} (eq : opcOf i = o) : 0x8d ≤ o ∧ o < 0x3ff := eq ▸ ⟨high, low⟩
  refine ⟨?_, ?_, ?_⟩
  · simp only [isControl, Bool.and_eq_false_iff, decide_eq_false_iff_not]
    omega
  · unfold isEnd
    split
    · exact absurd (apart (o := 0x82) rfl) (by decide)
    · exact absurd (apart (o := 0x86) rfl) (by decide)
    · rfl
  · unfold isIllegal
    split
    · exact absurd (apart (o := 0x3ff) rfl) (by decide)
    · rfl

/-- What an effect leaves of a team for its retirement: its group, N, a request to leave, and that it runs. -/
structure SameSeat (t u : Team) : Prop where
  grp : u.grp = t.grp
  preq : u.preq = t.preq
  nreg : u.nreg = t.nreg
  yielded : u.yielded = t.yielded
  runs : ∀ d, u.status ≠ .stopped d

theorem Ready.sameSeat (r : Ready i s t) : SameSeat t t := ⟨rfl, rfl, rfl, rfl, r.running⟩

/-- An effect on the whole state. -/
theorem Sequential.completes (q : Sequential i) (r : Ready i s t) (run : exec i s = runI i body s)
    (outcome : body ⟨s, t, i, t.active i⟩ = .done { Done.seq s1 with writes := ws, reads := xs }) (team : s1.team t.hnd = some u)
    (seat : SameSeat t u) (time : s1.time = s.time) : Completes i s t u s1 := by
  unfold Completes
  rw [run]
  exact r.seqIn q.control q.ends q.legal body _ u outcome rfl rfl rfl rfl team seat.grp seat.preq seat.nreg seat.yielded seat.runs
    (congrArg BitVec.toNat time)

/-- An effect on a state in which the team is put. -/
theorem Sequential.completes_put (q : Sequential i) (r : Ready i s t) (run : exec i s = runI i body s)
    (outcome : body ⟨s, t, i, t.active i⟩ = .done { Done.seq (s1.putTeam u) with writes := ws, reads := xs }) (team : s1.team t.hnd = some v)
    (hnd : u.hnd = t.hnd) (seat : SameSeat t u) (time : s1.time = s.time) : Completes i s t u s1 := by
  unfold Completes
  rw [run]
  exact r.seq q.control q.ends q.legal body _ u s1 outcome rfl rfl rfl rfl rfl ⟨v, team⟩ hnd seat.grp seat.preq seat.nreg seat.yielded
    seat.runs (congrArg BitVec.toNat time)

/-- No effect at all. -/
theorem Sequential.idle (q : Sequential i) (r : Ready i s t) (run : exec i s = runI i body s)
    (outcome : body ⟨s, t, i, t.active i⟩ = .done { Done.seq s with writes := ws, reads := xs }) : Completes i s t t s :=
  q.completes r run outcome r.self r.sameSeat rfl

/-- Without an active strand an instruction whose leader acts has no effect (R212). -/
theorem Sequential.withoutActive (q : Sequential i) (r : Ready i s t) {f : Run → Nat → Res}
    (run : exec i s = runI i (fun c => withActive c (f c)) s) (none_active : t.active i = []) : Completes i s t t s :=
  q.idle (ws := []) (xs := some []) r run (by simp only [withActive, Run.lead, none_active, List.head?_nil]; rfl)

/-- An outcome that is not ready holds the team. -/
theorem Sequential.waits (q : Sequential i) (r : Ready i s t) (run : exec i s = runI i body s)
    (outcome : body ⟨s, t, i, t.active i⟩ = .hold s1) : Waits i s t id s1 := by
  unfold Waits
  rw [run, r.runs q.legal, outcome]
  rfl

/-- The same where the team has changed before it is held. -/
theorem Sequential.waits_set (q : Sequential i) (r : Ready i s t) (run : exec i s = runI i body s) {f : Team → Team}
    (outcome : body ⟨s, t, i, t.active i⟩ = .hold (s1.setTeam t.hnd f)) (kept : ∀ x, (f x).hnd = x.hnd ∧ (f x).preq = x.preq ∧
      (f x).rmw = x.rmw ∧ (f x).nreg = x.nreg ∧ (f x).yielded = x.yielded) : Waits i s t f s1 := by
  unfold Waits
  rw [run, r.runs q.legal, outcome]
  simp only [finish, State.setTeam, List.map_map]
  congr 3
  funext x
  obtain ⟨hnd, preq, rmw, nreg, yielded⟩ := kept x
  by_cases h : x.hnd = t.hnd
  · simp only [Function.comp, h, if_true, hnd, preq, rmw, yielded, liveCount, nreg]
  · simp only [Function.comp, h, if_false]

end Sys2Proof.Machine
end

section
/-! SUPPORT. What the coherence protocol leaves alone. No function of a die or a home reads the teams: `withTeams` passes through each of them. Nor
does any change the groups, the time or the number of the device (`still`). -/

namespace Sys2Proof.Machine

/-- The state with other teams. -/
def State.withTeams (s : State) (T : List Team) : State := { s with teams := T }
/-- The groups, the time and the number of the device. -/
def State.still (s : State) : List Group × DWord × Nat := (s.groups, s.time, s.devid)

/-- A choice that does not depend on the teams. -/
@[simp] theorem ite_withTeams {c : Prop} {i : Decidable c} (a b : State) (T : List Team) :
    (if c then a.withTeams T else b.withTeams T) = (if c then a else b).withTeams T := (apply_ite (State.withTeams · T) c a b).symm

@[simp] theorem ite_pair_withTeams {α : Type} {c : Prop} {i : Decidable c} (a b : State) (x y : α) (T : List Team) :
    (if c then (a.withTeams T, x) else (b.withTeams T, y)) =
      ((if c then (a, x) else (b, y)).1.withTeams T, (if c then (a, x) else (b, y)).2) := by
  split <;> rfl

/-! ## Fields put -/

/-- The state with its `mem` put. -/
def State.putMem (s : State) (x : Memory) : State := { s with mem := x }
/-- The state with its `fresh` put. -/
def State.putFresh (s : State) (x : Nat) : State := { s with fresh := x }
/-- The state with its `names` put. -/
def State.putNames (s : State) (x : Nat) : State := { s with names := x }
/-- The state with its `throughs` put. -/
def State.putThroughs (s : State) (x : List Through) : State := { s with throughs := x }
/-- The state with its `txns` put. -/
def State.putTxns (s : State) (x : List Txn) : State := { s with txns := x }
/-- The state with its `behind` put. -/
def State.putBehind (s : State) (x : List Event) : State := { s with behind := x }
/-- The state with its `late` put. -/
def State.putLate (s : State) (x : List (Nat × Nat)) : State := { s with late := x }
/-- The state with its `asks` put. -/
def State.putAsks (s : State) (x : List Ask) : State := { s with asks := x }
/-- The state with its `traffic` put. -/
def State.putTraffic (s : State) (x : Bool) : State := { s with traffic := x }

/-- The state with its `names` and its `throughs` put. -/
def State.putThrough (s : State) (n : Nat) (l : List Through) : State := { s with names := n, throughs := l }

/-! ## What is read of a state beside its teams -/

section
variable (s : State) (T U : List Team) (die pos line sector core : Nat)

theorem State.withTeams_self : s.withTeams s.teams = s := rfl
@[simp] theorem withTeams_teams : (s.withTeams T).teams = T := rfl
@[simp] theorem withTeams_withTeams : (s.withTeams T).withTeams U = s.withTeams U := (rfl)
@[simp] theorem still_withTeams : (s.withTeams T).still = s.still := (rfl)
@[simp] theorem sec_withTeams : (s.withTeams T).sec die sector = s.sec die sector := (rfl)
@[simp] theorem core_withTeams : (s.withTeams T).core core = s.core core := (rfl)
@[simp] theorem cores_withTeams : (s.withTeams T).cores = s.cores := (rfl)
@[simp] theorem mem_withTeams : (s.withTeams T).mem = s.mem := (rfl)
@[simp] theorem names_withTeams : (s.withTeams T).names = s.names := (rfl)
@[simp] theorem fresh_withTeams : (s.withTeams T).fresh = s.fresh := (rfl)
@[simp] theorem devid_withTeams : (s.withTeams T).devid = s.devid := (rfl)
@[simp] theorem groups_withTeams : (s.withTeams T).groups = s.groups := (rfl)
@[simp] theorem dead_withTeams : (s.withTeams T).dead = s.dead := (rfl)
@[simp] theorem barred_withTeams : (s.withTeams T).barred = s.barred := (rfl)
@[simp] theorem throughs_withTeams : (s.withTeams T).throughs = s.throughs := (rfl)
@[simp] theorem asks_withTeams : (s.withTeams T).asks = s.asks := (rfl)
@[simp] theorem traffic_withTeams : (s.withTeams T).traffic = s.traffic := (rfl)
@[simp] theorem late_withTeams : (s.withTeams T).late = s.late := (rfl)
@[simp] theorem behind_withTeams : (s.withTeams T).behind = s.behind := (rfl)
@[simp] theorem txns_withTeams : (s.withTeams T).txns = s.txns := (rfl)
@[simp] theorem dir_withTeams : (s.withTeams T).dir = s.dir := (rfl)
@[simp] theorem tlb_withTeams : (s.withTeams T).tlb = s.tlb := (rfl)
@[simp] theorem ras_withTeams : (s.withTeams T).ras = s.ras := (rfl)
@[simp] theorem boot_withTeams : (s.withTeams T).boot = s.boot := (rfl)
@[simp] theorem older_withTeams : (s.withTeams T).older = s.older := (rfl)
@[simp] theorem current_withTeams : (s.withTeams T).current die = s.current die := (rfl)
@[simp] theorem hdrOf_withTeams : hdrOf (s.withTeams T) die = hdrOf s die := (rfl)
@[simp] theorem isHome_withTeams : isHome (s.withTeams T) sector = isHome s sector := (rfl)
@[simp] theorem localDie_withTeams (a : Nat) : localDie (s.withTeams T) a = localDie s a := (rfl)
@[simp] theorem epochOf_withTeams (a : Nat) : (s.withTeams T).epochOf a = s.epochOf a := (rfl)
@[simp] theorem epochOk_withTeams (m : MsgHdr) : epochOk (s.withTeams T) m = epochOk s m := (rfl)
@[simp] theorem asked_withTeams (k : AskKind) : asked (s.withTeams T) die pos k = asked s die pos k := (rfl)
@[simp] theorem dieSubscribes_withTeams : dieSubscribes (s.withTeams T) die sector = dieSubscribes s die sector := (rfl)
@[simp] theorem subOf_withTeams (c : Option Nat) : subOf (s.withTeams T) die sector c = subOf s die sector c := (rfl)
@[simp] theorem leftLine_withTeams : leftLine (s.withTeams T) die line = leftLine s die line := (rfl)
@[simp] theorem subCtx_withTeams : subCtx (s.withTeams T) die line = subCtx s die line := (rfl)
@[simp] theorem exactAsk_withTeams : exactAsk (s.withTeams T) die sector = exactAsk s die sector := (rfl)
@[simp] theorem lineAsk_withTeams : lineAsk (s.withTeams T) die line = lineAsk s die line := (rfl)
@[simp] theorem openThrough_withTeams : openThrough (s.withTeams T) die sector = openThrough s die sector := (rfl)
@[simp] theorem dirE_withTeams : (s.withTeams T).dirE line = s.dirE line := (rfl)
@[simp] theorem homeSector_withTeams : homeSector (s.withTeams T) sector = homeSector s sector := (rfl)
@[simp] theorem roundedSector_withTeams (m f : Nat) : roundedSector (s.withTeams T) m f sector = roundedSector s m f sector := (rfl)
@[simp] theorem coarseGroup_withTeams (a : Nat) : coarseGroup (s.withTeams T) a = coarseGroup s a := (rfl)
@[simp] theorem mOwner_withTeams : mOwner (s.withTeams T) sector = mOwner s sector := (rfl)
@[simp] theorem lineOwners_withTeams (a : Nat) : lineOwners (s.withTeams T) a line = lineOwners s a line := (rfl)
@[simp] theorem exactHolders_withTeams (a : Nat) : exactHolders (s.withTeams T) a sector = exactHolders s a sector := (rfl)
@[simp] theorem coarseTargets_withTeams (a : Nat) : coarseTargets (s.withTeams T) a sector = coarseTargets s a sector := (rfl)
@[simp] theorem isPend_withTeams : isPend (s.withTeams T) = isPend s := (rfl)
@[simp] theorem awaited_withTeams (a : Nat) : awaited (s.withTeams T) a sector = awaited s a sector := (rfl)
@[simp] theorem mustWait_withTeams (before : List Event) (e : Event) : mustWait (s.withTeams T) before e = mustWait s before e := by
  have same : ∀ e, concerns (s.withTeams T) e = concerns s e := fun e => by cases e <;> rfl
  simp only [mustWait, same, isPend_withTeams]
@[simp] theorem cohByte_withTeams (pa : Nat) : cohByte (s.withTeams T) pa = cohByte s pa := (rfl)
@[simp] theorem dieByte_withTeams (c : Option Nat) (pa : Nat) : dieByte (s.withTeams T) die c pa = dieByte s die c pa := (rfl)
@[simp] theorem oneAccess_withTeams (c : Option Nat) : oneAccess (s.withTeams T) die c sector = oneAccess s die c sector := (rfl)
@[simp] theorem smAway_withTeams (as : List Nat) : smAway (s.withTeams T) core as = smAway s core as := (rfl)
@[simp] theorem readLoc_withTeams (ctx : Nat) (l : Loc) : readLoc (s.withTeams T) core ctx l = readLoc s core ctx l := by
  cases l <;> rfl
@[simp] theorem nextBehind_withTeams (l before : List Event) : nextBehind (s.withTeams T) before l = nextBehind s before l := by
  induction l generalizing before with
  | nil => rfl
  | cons e rest ih => simp only [nextBehind, mustWait_withTeams, ih]

/-! ## Setters -/

theorem fold_putMem (x : Memory) : ({ s with mem := x } : State) = s.putMem x := (rfl)
@[simp] theorem putMem_withTeams (x : Memory) : (s.withTeams T).putMem x = (s.putMem x).withTeams T := (rfl)
@[simp] theorem putMem_still (x : Memory) : (s.putMem x).still = s.still := rfl
theorem fold_putFresh (x : Nat) : ({ s with fresh := x } : State) = s.putFresh x := (rfl)
@[simp] theorem putFresh_withTeams (x : Nat) : (s.withTeams T).putFresh x = (s.putFresh x).withTeams T := (rfl)
@[simp] theorem putFresh_still (x : Nat) : (s.putFresh x).still = s.still := rfl
theorem fold_putNames (x : Nat) : ({ s with names := x } : State) = s.putNames x := (rfl)
@[simp] theorem putNames_withTeams (x : Nat) : (s.withTeams T).putNames x = (s.putNames x).withTeams T := (rfl)
@[simp] theorem putNames_still (x : Nat) : (s.putNames x).still = s.still := rfl
theorem fold_putThroughs (x : List Through) : ({ s with throughs := x } : State) = s.putThroughs x := (rfl)
@[simp] theorem putThroughs_withTeams (x : List Through) : (s.withTeams T).putThroughs x = (s.putThroughs x).withTeams T := (rfl)
@[simp] theorem putThroughs_still (x : List Through) : (s.putThroughs x).still = s.still := rfl
theorem fold_putThrough (n : Nat) (l : List Through) : ({ s with names := n, throughs := l } : State) = s.putThrough n l := (rfl)
@[simp] theorem putThrough_withTeams (n : Nat) (l : List Through) : (s.withTeams T).putThrough n l = (s.putThrough n l).withTeams T := (rfl)
@[simp] theorem putThrough_still (n : Nat) (l : List Through) : (s.putThrough n l).still = s.still := rfl
theorem fold_putTxns (x : List Txn) : ({ s with txns := x } : State) = s.putTxns x := (rfl)
@[simp] theorem putTxns_withTeams (x : List Txn) : (s.withTeams T).putTxns x = (s.putTxns x).withTeams T := (rfl)
@[simp] theorem putTxns_still (x : List Txn) : (s.putTxns x).still = s.still := rfl
theorem fold_putBehind (x : List Event) : ({ s with behind := x } : State) = s.putBehind x := (rfl)
@[simp] theorem putBehind_withTeams (x : List Event) : (s.withTeams T).putBehind x = (s.putBehind x).withTeams T := (rfl)
@[simp] theorem putBehind_still (x : List Event) : (s.putBehind x).still = s.still := rfl
theorem fold_putLate (x : List (Nat × Nat)) : ({ s with late := x } : State) = s.putLate x := (rfl)
@[simp] theorem putLate_withTeams (x : List (Nat × Nat)) : (s.withTeams T).putLate x = (s.putLate x).withTeams T := (rfl)
@[simp] theorem putLate_still (x : List (Nat × Nat)) : (s.putLate x).still = s.still := rfl
theorem fold_putAsks (x : List Ask) : ({ s with asks := x } : State) = s.putAsks x := (rfl)
@[simp] theorem putAsks_withTeams (x : List Ask) : (s.withTeams T).putAsks x = (s.putAsks x).withTeams T := (rfl)
@[simp] theorem putAsks_still (x : List Ask) : (s.putAsks x).still = s.still := rfl
theorem fold_putTraffic (x : Bool) : ({ s with traffic := x } : State) = s.putTraffic x := (rfl)
@[simp] theorem putTraffic_withTeams (x : Bool) : (s.withTeams T).putTraffic x = (s.putTraffic x).withTeams T := (rfl)
@[simp] theorem putTraffic_still (x : Bool) : (s.putTraffic x).still = s.still := rfl
@[simp] theorem setCore_withTeams (f : Core → Core) : (s.withTeams T).setCore core f = (s.setCore core f).withTeams T := (rfl)
@[simp] theorem setCluster_withTeams (f : Cluster → Cluster) : (s.withTeams T).setCluster core f = (s.setCluster core f).withTeams T := (rfl)
@[simp] theorem setQueue_withTeams (f : Queue → Queue) : (s.withTeams T).setQueue core f = (s.setQueue core f).withTeams T := (rfl)
@[simp] theorem later_withTeams (e : Event) : (s.withTeams T).later e = (s.later e).withTeams T := (rfl)
@[simp] theorem send_withTeams (e : Event) : (s.withTeams T).send pos e = (s.send pos e).withTeams T := (rfl)
@[simp] theorem setSec_withTeams (d : DieSec) : (s.withTeams T).setSec die sector d = (s.setSec die sector d).withTeams T := by
  unfold State.setSec
  split <;> rfl
@[simp] theorem setDir_withTeams (e : DirEntry) : (s.withTeams T).setDir line e = (s.setDir line e).withTeams T := by
  unfold State.setDir
  split <;> rfl
@[simp] theorem setCore_still (f : Core → Core) : (s.setCore core f).still = s.still := rfl
@[simp] theorem setCluster_still (f : Cluster → Cluster) : (s.setCluster core f).still = s.still := rfl
@[simp] theorem setQueue_still (f : Queue → Queue) : (s.setQueue core f).still = s.still := rfl
@[simp] theorem later_still (e : Event) : (s.later e).still = s.still := rfl
@[simp] theorem send_still (e : Event) : (s.send pos e).still = s.still := rfl
@[simp] theorem setSec_still (d : DieSec) : (s.setSec die sector d).still = s.still := by
  unfold State.setSec
  split <;> rfl
@[simp] theorem setDir_still (e : DirEntry) : (s.setDir line e).still = s.still := by
  unfold State.setDir
  split <;> rfl
end

end Sys2Proof.Machine
end

section
namespace Sys2Proof.Machine
section
variable (s : State) (T : List Team) (die pos line sector core : Nat)

/-- A list of changes, none of which reads the teams. -/
theorem foldl_withTeams {α : Type} {f : State → α → State} (hf : ∀ s x, f (s.withTeams T) x = (f s x).withTeams T) (l : List α) :
    l.foldl f (s.withTeams T) = (l.foldl f s).withTeams T := by
  induction l generalizing s with
  | nil => rfl
  | cons x l ih => rw [List.foldl_cons, List.foldl_cons, hf, ih]

theorem foldl_still {α : Type} {f : State → α → State} (hf : ∀ s x, (f s x).still = s.still) (l : List α) :
    (l.foldl f s).still = s.still := by
  induction l generalizing s with
  | nil => rfl
  | cons x l ih => rw [List.foldl_cons, ih, hf]

/-! ## A die -/

@[simp] theorem rasWrite_withTeams (k l q c a : Nat) (x d : DWord) :
    rasWrite (s.withTeams T) k l q c a x d = (rasWrite s k l q c a x d).withTeams T := by
  simp only [rasWrite, tellHost, boot_withTeams]
  split <;> rfl
@[simp] theorem rasWrite_still (k l q c a : Nat) (x d : DWord) : (rasWrite s k l q c a x d).still = s.still := by
  simp only [rasWrite, tellHost]
  split <;> rfl

@[simp] theorem dropMsg_withTeams (m : MsgHdr) (e : Event) : dropMsg (s.withTeams T) m sector e = (dropMsg s m sector e).withTeams T := by
  simp only [dropMsg, rasWrite_withTeams, localDie_withTeams]
  split <;> rfl
@[simp] theorem dropMsg_still (m : MsgHdr) (e : Event) : (dropMsg s m sector e).still = s.still := by
  simp only [dropMsg]
  split <;> exact rasWrite_still ..

@[simp] theorem noteLost_withTeams (qs : List Nat) : noteLost (s.withTeams T) die qs = (noteLost s die qs).withTeams T := (rfl)
@[simp] theorem noteLost_still (qs : List Nat) : (noteLost s die qs).still = s.still := rfl

@[simp] theorem writeBackSector_withTeams (p : Nat → Bool) :
    writeBackSector (s.withTeams T) die sector p = (writeBackSector s die sector p).withTeams T := by
  simp only [writeBackSector, sec_withTeams, hdrOf_withTeams, setSec_withTeams, isHome_withTeams, current_withTeams, dropMsg_withTeams]
  repeat' split
  all_goals rfl
@[simp] theorem writeBackSector_still (p : Nat → Bool) : (writeBackSector s die sector p).still = s.still := by
  unfold writeBackSector
  extract_lets d cs e kept
  have same : kept.still = s.still := setSec_still ..
  split
  · rfl
  split
  · exact same
  split
  · exact same
  · exact (dropMsg_still ..).trans same

@[simp] theorem returnTokens_withTeams : returnTokens (s.withTeams T) core sector = (returnTokens s core sector).withTeams T := by
  simp only [returnTokens, sec_withTeams, setCore_withTeams, setSec_withTeams]
  repeat' split
  all_goals rfl
@[simp] theorem returnTokens_still : (returnTokens s core sector).still = s.still := by
  simp only [returnTokens]
  repeat' split
  all_goals simp only [later_still, setSec_still, setCore_still]

@[simp] theorem partOut_withTeams (b : Block) : partOut (s.withTeams T) core b = (partOut s core b).withTeams T :=
  foldl_withTeams _ _ (fun s x => by
    simp only [sec_withTeams, writeBackSector_withTeams, ite_withTeams, core_withTeams, returnTokens_withTeams]) _
@[simp] theorem partOut_still (b : Block) : (partOut s core b).still = s.still := by
  refine foldl_still _ (fun s x => ?_) _
  dsimp only
  repeat' split
  all_goals simp only [returnTokens_still, writeBackSector_still]

@[simp] theorem dropCoreWords_withTeams (frame lo hi : Nat) :
    dropCoreWords (s.withTeams T) core frame lo hi = (dropCoreWords s core frame lo hi).withTeams T := by
  simp only [dropCoreWords, setCore_withTeams, core_withTeams, partOut_withTeams]
  repeat' split
  all_goals rfl
@[simp] theorem dropCoreWords_still (frame lo hi : Nat) : (dropCoreWords s core frame lo hi).still = s.still := by
  simp only [dropCoreWords]
  repeat' split
  all_goals simp only [partOut_still, setCore_still]

@[simp] theorem dropInDie_withTeams (keep : Option Nat) : dropInDie (s.withTeams T) die sector keep = (dropInDie s die sector keep).withTeams T := by
  refine foldl_withTeams _ _ (fun s x => ?_) _
  dsimp only
  simp only [core_withTeams, setCore_withTeams, ite_withTeams, dropCoreWords_withTeams]
@[simp] theorem dropInDie_still (keep : Option Nat) : (dropInDie s die sector keep).still = s.still := by
  refine foldl_still _ (fun s x => ?_) _
  dsimp only
  repeat' split
  all_goals simp only [dropCoreWords_still, setCore_still]

@[simp] theorem dieGiveUp_withTeams : dieGiveUp (s.withTeams T) die sector = ((dieGiveUp s die sector).1.withTeams T, (dieGiveUp s die sector).2) := by
  simp only [dieGiveUp, sec_withTeams, dropInDie_withTeams, setSec_withTeams]
@[simp] theorem dieGiveUp_still : (dieGiveUp s die sector).1.still = s.still := by
  simp only [dieGiveUp, setSec_still, dropInDie_still]

@[simp] theorem dieRecalled_withTeams :
    dieRecalled (s.withTeams T) die sector = ((dieRecalled s die sector).1.withTeams T, (dieRecalled s die sector).2) := by
  simp only [dieRecalled, sec_withTeams, dropInDie_withTeams, setSec_withTeams, later_withTeams]
@[simp] theorem dieRecalled_still : (dieRecalled s die sector).1.still = s.still := by
  simp only [dieRecalled, later_still, setSec_still, dropInDie_still]

@[simp] theorem dropRounded_withTeams : dropRounded (s.withTeams T) die line = (dropRounded s die line).withTeams T := by
  refine foldl_withTeams _ _ (fun s x => ?_) _
  simp only [sec_withTeams, dieGiveUp_withTeams]
  split <;> rfl
@[simp] theorem dropRounded_still : (dropRounded s die line).still = s.still := by
  refine foldl_still _ (fun s x => ?_) _
  split <;> simp only [dieGiveUp_still]

@[simp] theorem dieEndSub_withTeams : dieEndSub (s.withTeams T) die line = (dieEndSub s die line).withTeams T :=
  dropRounded_withTeams { s with subsc := s.subsc.filter (fun x => !(x.die == die && x.line == line)) } T die line
@[simp] theorem dieEndSub_still : (dieEndSub s die line).still = s.still := dropRounded_still ..

@[simp] theorem dieUpdate_withTeams (cs : List Host.Cell) : dieUpdate (s.withTeams T) die sector cs = (dieUpdate s die sector cs).withTeams T := by
  simp only [dieUpdate, sec_withTeams, dropInDie_withTeams, setSec_withTeams]
@[simp] theorem dieUpdate_still (cs : List Host.Cell) : (dieUpdate s die sector cs).still = s.still := by
  simp only [dieUpdate, setSec_still, dropInDie_still]

@[simp] theorem endAsk_withTeams (k : AskKind) : endAsk (s.withTeams T) die pos k = (endAsk s die pos k).withTeams T := (rfl)
@[simp] theorem endAsk_still (k : AskKind) : (endAsk s die pos k).still = s.still := rfl

@[simp] theorem takeBytes_withTeams (cs : List Host.Cell) : takeBytes (s.withTeams T) sector cs = (takeBytes s sector cs).withTeams T := by
  simp only [takeBytes, isHome_withTeams]
  split <;> rfl
@[simp] theorem takeBytes_still (cs : List Host.Cell) : (takeBytes s sector cs).still = s.still := by
  simp only [takeBytes]
  split <;> rfl

@[simp] theorem dieGrant_withTeams (k : GrantKind) (cs : List Host.Cell) :
    dieGrant (s.withTeams T) die sector k cs = (dieGrant s die sector k cs).withTeams T := by
  simp only [dieGrant, sec_withTeams, exactAsk_withTeams, endAsk_withTeams, setSec_withTeams, takeBytes_withTeams, dieEndSub_withTeams,
    dieSubscribes_withTeams, dropInDie_withTeams, asked_withTeams, subCtx_withTeams]
  repeat' split
  all_goals rfl
@[simp] theorem dieGrant_still (k : GrantKind) (cs : List Host.Cell) : (dieGrant s die sector k cs).still = s.still := by
  simp only [dieGrant]
  repeat' split
  all_goals simp only [setSec_still, takeBytes_still, dieEndSub_still, dropInDie_still, endAsk_still]

@[simp] theorem giveTokens_withTeams (wr : Bool) : giveTokens (s.withTeams T) die core sector wr = (giveTokens s die core sector wr).withTeams T := by
  simp only [giveTokens, dropInDie_withTeams]
  split <;> simp only [sec_withTeams, setSec_withTeams]
@[simp] theorem giveTokens_still (wr : Bool) : (giveTokens s die core sector wr).still = s.still := by
  simp only [giveTokens, setSec_still]
  split <;> simp only [dropInDie_still]

@[simp] theorem servePersist_withTeams (n : Nat) : servePersist die sector n (s.withTeams T) = (servePersist die sector n s).withTeams T := by
  induction n generalizing s with
  | zero => rfl
  | succ n ih =>
    simp only [servePersist, sec_withTeams, giveTokens_withTeams, setSec_withTeams, ih]
    repeat' split
    all_goals rfl
@[simp] theorem servePersist_still (n : Nat) : (servePersist die sector n s).still = s.still := by
  induction n generalizing s with
  | zero => rfl
  | succ n ih =>
    simp only [servePersist]
    repeat' split
    all_goals simp only [ih, setSec_still, giveTokens_still]

@[simp] theorem takeGrant_withTeams (k : GrantKind) (cs : List Host.Cell) :
    takeGrant (s.withTeams T) die sector k cs = (takeGrant s die sector k cs).withTeams T := by
  simp only [takeGrant, dieGrant_withTeams, servePersist_withTeams]
@[simp] theorem takeGrant_still (k : GrantKind) (cs : List Host.Cell) : (takeGrant s die sector k cs).still = s.still := by
  simp only [takeGrant, servePersist_still, dieGrant_still]

end
end Sys2Proof.Machine
end

section
namespace Sys2Proof.Machine
section
variable (s : State) (T : List Team) (die pos line sector core : Nat)

/-! ## The messages of a home -/

theorem still_ite {c : Prop} [Decidable c] (a b : State) : (if c then a else b).still = if c then a.still else b.still := apply_ite ..

@[simp] theorem tell_withTeams (a : Nat) (f : DieHdr → Event) : tell (s.withTeams T) a f = (tell s a f).withTeams T := by
  simp only [tell, dead_withTeams, epochOf_withTeams, send_withTeams, ite_withTeams]
@[simp] theorem tell_still (a : Nat) (f : DieHdr → Event) : (tell s a f).still = s.still := by
  unfold tell
  split <;> rfl

@[simp] theorem replyTo_withTeams (a : Nat) (k : GrantKind) (cs : List Host.Cell) :
    replyTo (s.withTeams T) a sector k cs = (replyTo s a sector k cs).withTeams T := by
  simp only [replyTo, localDie_withTeams]
  split
  · exact takeGrant_withTeams ..
  · exact tell_withTeams { s with traffic := s.traffic || a / 16 != s.devid } ..
@[simp] theorem replyTo_still (a : Nat) (k : GrantKind) (cs : List Host.Cell) : (replyTo s a sector k cs).still = s.still := by
  unfold replyTo
  split
  · exact takeGrant_still ..
  · exact tell_still ..

@[simp] theorem invalidateAt_withTeams (demote : Bool) (a : Nat) :
    invalidateAt (s.withTeams T) demote a sector = ((invalidateAt s demote a sector).1.withTeams T, (invalidateAt s demote a sector).2) := by
  simp only [invalidateAt, fold_putMem]
  simp only [dead_withTeams, localDie_withTeams, dieGiveUp_withTeams, tell_withTeams, mem_withTeams, putMem_withTeams, setDir_withTeams, dirE_withTeams,
    dieEndSub_withTeams, ite_withTeams]
  split
  · rfl
  · split <;> rfl
@[simp] theorem invalidateAt_still (demote : Bool) (a : Nat) : (invalidateAt s demote a sector).1.still = s.still := by
  unfold invalidateAt
  split
  · rfl
  · split
    · next d _ =>
      extract_lets r s1 s2 s3
      have same : s3.still = s.still := (setDir_still ..).trans (dieGiveUp_still s d sector)
      simp only [still_ite, dieEndSub_still, same, ite_self]
    · exact tell_still ..

@[simp] theorem recallAt_withTeams (o : Nat) :
    recallAt (s.withTeams T) o sector = ((recallAt s o sector).1.withTeams T, (recallAt s o sector).2) := by
  simp only [recallAt, fold_putMem]
  simp only [dead_withTeams, localDie_withTeams, dieRecalled_withTeams, tell_withTeams, mem_withTeams, putMem_withTeams, setDir_withTeams, dirE_withTeams]
  repeat' split
  all_goals rfl
@[simp] theorem recallAt_still (o : Nat) : (recallAt s o sector).1.still = s.still := by
  unfold recallAt
  split
  · rfl
  · split
    · next d _ => exact (setDir_still ..).trans (dieRecalled_still s d sector)
    · exact tell_still ..

/-- Messages to several agents. -/
theorem tellAll_withTeams {α : Type} {f : State → α → State × List Await} (hf : ∀ s x, f (s.withTeams T) x = ((f s x).1.withTeams T, (f s x).2))
    (l : List α) : tellAll f l (s.withTeams T) = ((tellAll f l s).1.withTeams T, (tellAll f l s).2) := by
  suffices h : ∀ (acks : List Await) (s : State),
      l.foldl (fun r x => ((f r.1 x).1, r.2 ++ (f r.1 x).2)) (s.withTeams T, acks) =
        ((l.foldl (fun r x => ((f r.1 x).1, r.2 ++ (f r.1 x).2)) (s, acks)).1.withTeams T,
          (l.foldl (fun r x => ((f r.1 x).1, r.2 ++ (f r.1 x).2)) (s, acks)).2) from h [] s
  induction l with
  | nil => exact fun _ _ => rfl
  | cons x l ih => exact fun acks s => by rw [List.foldl_cons, List.foldl_cons, hf]; exact ih ..

theorem tellAll_still {α : Type} {f : State → α → State × List Await} (hf : ∀ s x, (f s x).1.still = s.still) (l : List α) :
    (tellAll f l s).1.still = s.still := by
  suffices h : ∀ (acks : List Await) (s : State), (l.foldl (fun r x => ((f r.1 x).1, r.2 ++ (f r.1 x).2)) (s, acks)).1.still = s.still from h [] s
  induction l with
  | nil => exact fun _ _ => rfl
  | cons x l ih => exact fun acks s => by rw [List.foldl_cons, ih, hf]

/-! ## Transactions -/

@[simp] theorem setPend_withTeams (b : Bool) : setPend (s.withTeams T) sector b = (setPend s sector b).withTeams T := by
  simp only [setPend, dirE_withTeams, setDir_withTeams]
@[simp] theorem setPend_still (b : Bool) : (setPend s sector b).still = s.still := setDir_still ..

@[simp] theorem startTxn_withTeams (t : Txn) : startTxn (s.withTeams T) t = (startTxn s t).withTeams T :=
  foldl_withTeams { s with txns := s.txns ++ [t] } T (fun s x => setPend_withTeams s T x true) t.span
@[simp] theorem startTxn_still (t : Txn) : (startTxn s t).still = s.still :=
  foldl_still { s with txns := s.txns ++ [t] } (fun s x => setPend_still s x true) t.span

@[simp] theorem endTxn_withTeams (t : Txn) : endTxn (s.withTeams T) t = (endTxn s t).withTeams T :=
  foldl_withTeams s T (fun s x => by simp only [txns_withTeams, setPend_withTeams]) t.span
@[simp] theorem endTxn_still (t : Txn) : (endTxn s t).still = s.still :=
  foldl_still s (fun s x => setPend_still ..) t.span

@[simp] theorem await_withTeams (k : Then) (acks : List Await) : await (s.withTeams T) sector k acks = (await s sector k acks).withTeams T :=
  startTxn_withTeams ..
@[simp] theorem await_still (k : Then) (acks : List Await) : (await s sector k acks).still = s.still := startTxn_still ..

/-- The dies of this device among the agents of a list end their subscriptions. -/
theorem endSubs_withTeams {α : Type} (die : State → α → Option Nat) (hd : ∀ s x, die (s.withTeams T) x = die s x) (l : List α) :
    l.foldl (fun s p => match die s p with | some d => dieEndSub s d line | none => s) (s.withTeams T) =
      (l.foldl (fun s p => match die s p with | some d => dieEndSub s d line | none => s) s).withTeams T :=
  foldl_withTeams s T (fun s p => by simp only [hd]; split <;> simp only [dieEndSub_withTeams]) l

@[simp] theorem turnCoarse_withTeams : turnCoarse (s.withTeams T) line = (turnCoarse s line).withTeams T := by
  unfold turnCoarse
  simp only [dirE_withTeams]
  rw [foldl_withTeams s T (fun s p => by simp only [localDie_withTeams]; split <;> simp only [dieEndSub_withTeams])]
  simp only [coarseGroup_withTeams, setDir_withTeams]
  rw [tellAll_withTeams _ _ (fun s x => invalidateAt_withTeams ..)]
  simp only [await_withTeams, ite_withTeams]
@[simp] theorem turnCoarse_still : (turnCoarse s line).still = s.still := by
  unfold turnCoarse
  extract_lets e exact subs demoted s1 s2 r
  have h1 : s1.still = s.still := foldl_still s (fun s p => by split <;> simp only [dieEndSub_still]) _
  have h2 : s2.still = s.still := (setDir_still ..).trans h1
  have h3 : r.1.still = s.still := (tellAll_still _ (fun s x => invalidateAt_still ..) _).trans h2
  simp only [still_ite, await_still, h3, ite_self]

@[simp] theorem slotFor_withTeams (a : Nat) : slotFor (s.withTeams T) a line = ((slotFor s a line).1.withTeams T, (slotFor s a line).2) := by
  simp only [slotFor, dirE_withTeams, lineOwners_withTeams]
  rw [tellAll_withTeams _ _ (fun s x => recallAt_withTeams ..)]
  simp only [turnCoarse_withTeams]
  repeat' split
  all_goals rfl
@[simp] theorem slotFor_still (a : Nat) : (slotFor s a line).1.still = s.still := by
  unfold slotFor
  extract_lets e r
  have h : r.1.still = s.still := tellAll_still _ (fun s x => recallAt_still ..) _
  repeat' split
  all_goals simp only [turnCoarse_still, h]

@[simp] theorem addHolder_withTeams (a st : Nat) : addHolder (s.withTeams T) a sector st = (addHolder s a sector st).withTeams T := by
  simp only [addHolder, dirE_withTeams, setDir_withTeams, coarseGroup_withTeams]
  repeat' split
  all_goals rfl
@[simp] theorem addHolder_still (a st : Nat) : (addHolder s a sector st).still = s.still := by
  simp only [addHolder]
  repeat' split
  all_goals simp only [setDir_still]

/-! ## Reads and writes at a home -/

@[simp] theorem grantExact_withTeams (a : Nat) : grantExact (s.withTeams T) a sector = (grantExact s a sector).withTeams T := by
  simp only [grantExact, mOwner_withTeams, addHolder_withTeams, homeSector_withTeams, replyTo_withTeams]
@[simp] theorem grantExact_still (a : Nat) : (grantExact s a sector).still = s.still := by
  simp only [grantExact, replyTo_still, addHolder_still]

@[simp] theorem homeExact_withTeams (e : Event) (a : Nat) : homeExact (s.withTeams T) e a sector = (homeExact s e a sector).withTeams T := by
  simp only [homeExact]
  simp only [dirE_withTeams, homeSector_withTeams, replyTo_withTeams, mOwner_withTeams, recallAt_withTeams]
  split
  · rfl
  · cases mOwner s sector with
    | none => simp only [slotFor_withTeams, grantExact_withTeams, await_withTeams, ite_withTeams]
    | some o =>
      by_cases own : o = a <;>
        simp only [own, if_true, if_false, slotFor_withTeams, grantExact_withTeams, await_withTeams, ite_withTeams]
@[simp] theorem homeExact_still (e : Event) (a : Nat) : (homeExact s e a sector).still = s.still := by
  unfold homeExact
  split
  · exact replyTo_still ..
  · extract_lets r q
    have owner : r.1.still = s.still := by
      unfold r
      repeat' split
      all_goals simp only [recallAt_still]
    have slot : q.1.still = s.still := (slotFor_still ..).trans owner
    simp only [still_ite, grantExact_still, await_still, slot, ite_self]

@[simp] theorem homeRounded_withTeams (e : Event) (a : Nat) :
    homeRounded (s.withTeams T) e a sector = (homeRounded s e a sector).withTeams T := by
  simp only [homeRounded]
  simp only [dirE_withTeams, mOwner_withTeams, recallAt_withTeams, homeExact_withTeams]
  split
  · cases mOwner s sector <;>
      simp only [dirE_withTeams, setDir_withTeams, roundedSector_withTeams, replyTo_withTeams, await_withTeams, ite_withTeams]
  · rfl
@[simp] theorem homeRounded_still (e : Event) (a : Nat) : (homeRounded s e a sector).still = s.still := by
  unfold homeRounded
  extract_lets d r
  split
  · extract_lets fmt s1
    have owner : r.1.still = s.still := by
      unfold r
      split <;> simp only [recallAt_still]
    have shared : s1.still = s.still := (setDir_still ..).trans owner
    simp only [still_ite, homeExact_still, await_still, replyTo_still, owner, shared, ite_self]
  · exact homeExact_still ..

@[simp] theorem toPointer_withTeams (keep : Bool) (a : Nat) :
    toPointer (s.withTeams T) keep a sector = (toPointer s keep a sector).withTeams T := by
  simp only [toPointer]
  simp only [dirE_withTeams, setDir_withTeams, dead_withTeams, addHolder_withTeams, ite_withTeams]

@[simp] theorem toPointer_still (keep : Bool) (a : Nat) : (toPointer s keep a sector).still = s.still := by
  simp only [toPointer]
  repeat' split
  all_goals simp only [addHolder_still, setDir_still]

@[simp] theorem grantWrite_withTeams (a : Nat) : grantWrite (s.withTeams T) a sector = (grantWrite s a sector).withTeams T := by
  simp only [grantWrite, addHolder_withTeams, homeSector_withTeams, replyTo_withTeams]
@[simp] theorem grantWrite_still (a : Nat) : (grantWrite s a sector).still = s.still := by
  simp only [grantWrite, replyTo_still, addHolder_still]

/-- The exact holders of a sector give it up for a writer. -/
theorem exactGone_withTeams (l : List Nat) :
    tellAll (invalidateAt · false · sector) l (s.withTeams T) =
      ((tellAll (invalidateAt · false · sector) l s).1.withTeams T, (tellAll (invalidateAt · false · sector) l s).2) :=
  tellAll_withTeams s T (fun s x => invalidateAt_withTeams s T sector false x) l
/-- The agents of a coarse entry give their copies up. -/
theorem coarseGone_withTeams (l : List (Nat × Nat)) :
    tellAll (fun s x => invalidateAt s false x.1 x.2) l (s.withTeams T) =
      ((tellAll (fun s x => invalidateAt s false x.1 x.2) l s).1.withTeams T, (tellAll (fun s x => invalidateAt s false x.1 x.2) l s).2) :=
  tellAll_withTeams s T (fun s x => invalidateAt_withTeams s T x.2 false x.1) l

@[simp] theorem homeWrite_withTeams (e : Event) (a : Nat) : homeWrite (s.withTeams T) e a sector = (homeWrite s e a sector).withTeams T := by
  simp only [homeWrite]
  simp only [dirE_withTeams, exactHolders_withTeams, exactGone_withTeams, ite_pair_withTeams, slotFor_withTeams, await_withTeams,
    homeSector_withTeams, addHolder_withTeams, ite_withTeams, replyTo_withTeams, coarseTargets_withTeams, coarseGone_withTeams,
    toPointer_withTeams, grantWrite_withTeams]

@[simp] theorem homeWrite_still (e : Event) (a : Nat) : (homeWrite s e a sector).still = s.still := by
  unfold homeWrite
  extract_lets d r q s1 r1
  have gone : r.1.still = s.still := by
    unfold r
    split
    · rfl
    · exact tellAll_still _ (fun _ _ => invalidateAt_still ..) _
  have slot : q.1.still = s.still := (slotFor_still ..).trans gone
  have ready : s1.still = s.still := slot
  have all : r1.1.still = s.still := (tellAll_still _ (fun _ _ => invalidateAt_still ..) _).trans slot
  simp only [still_ite, await_still, replyTo_still, addHolder_still, grantWrite_still, toPointer_still, all, slot, ready, ite_self]

/-! ## Write-throughs, subscriptions and room in the directory -/

@[simp] theorem gotDone2_withTeams : gotDone2 (s.withTeams T) die sector = (gotDone2 s die sector).withTeams T := (rfl)
@[simp] theorem gotDone2_still : (gotDone2 s die sector).still = s.still := rfl

@[simp] theorem sendDone2_withTeams (a : Nat) : sendDone2 (s.withTeams T) a sector = (sendDone2 s a sector).withTeams T := by
  simp only [sendDone2, dead_withTeams, localDie_withTeams, gotDone2_withTeams, tell_withTeams]
  repeat' split
  all_goals rfl
@[simp] theorem sendDone2_still (a : Nat) : (sendDone2 s a sector).still = s.still := by
  simp only [sendDone2]
  repeat' split
  all_goals simp only [gotDone2_still, tell_still]

@[simp] theorem tellSub_withTeams (old : Memory) (sfm : Nat) (mask : List Nat) (p : Sharer) :
    tellSub old sfm sector mask (s.withTeams T) p = ((tellSub old sfm sector mask s p).1.withTeams T, (tellSub old sfm sector mask s p).2) := by
  simp only [tellSub]
  simp only [mem_withTeams, dead_withTeams, invalidateAt_withTeams, localDie_withTeams, sec_withTeams, leftLine_withTeams, dieUpdate_withTeams,
    tell_withTeams, ite_withTeams]
  split
  · rfl
  · split
    · rfl
    · split <;> rfl
@[simp] theorem tellSub_still (old : Memory) (sfm : Nat) (mask : List Nat) (p : Sharer) : (tellSub old sfm sector mask s p).1.still = s.still := by
  simp only [tellSub]
  split
  · rfl
  · split
    · exact invalidateAt_still ..
    · split
      · simp only [still_ite, dieUpdate_still, ite_self]
      · exact tell_still ..

@[simp] theorem slotExact_withTeams (a k : Nat) : slotExact (s.withTeams T) a line k = (slotExact s a line k).withTeams T := by
  simp only [slotExact, dirE_withTeams, setDir_withTeams]
  exact foldl_withTeams _ T (fun s q => by simp only [homeSector_withTeams, replyTo_withTeams]) _
@[simp] theorem slotExact_still (a k : Nat) : (slotExact s a line k).still = s.still :=
  (foldl_still _ (fun s q => replyTo_still ..) _).trans (setDir_still ..)

/-- The agents of a list give copies up, some of them to end their subscriptions. -/
theorem freed_withTeams (l : List (Nat × Nat × Bool)) :
    tellAll (fun s x => invalidateAt s x.2.2 x.1 x.2.1) l (s.withTeams T) =
      ((tellAll (fun s x => invalidateAt s x.2.2 x.1 x.2.1) l s).1.withTeams T, (tellAll (fun s x => invalidateAt s x.2.2 x.1 x.2.1) l s).2) :=
  tellAll_withTeams s T (fun s x => invalidateAt_withTeams s T x.2.1 x.2.2 x.1) l

@[simp] theorem dirFree_withTeams : dirFree (s.withTeams T) line = (dirFree s line).withTeams T := by
  simp only [dirFree]
  simp only [dirE_withTeams, isPend_withTeams]
  rw [foldl_withTeams s T (fun s p => by
    simp only [localDie_withTeams]
    split <;> simp only [dieEndSub_withTeams, ite_withTeams])]
  simp only [coarseTargets_withTeams, freed_withTeams, dirE_withTeams, setDir_withTeams, startTxn_withTeams, ite_withTeams]
@[simp] theorem dirFree_still : (dirFree s line).still = s.still := by
  unfold dirFree
  extract_lets e slots s1 r
  have ended : s1.still = s.still := foldl_still s (fun s p => by split <;> simp only [still_ite, dieEndSub_still, ite_self]) _
  have freed : r.1.still = s.still := (tellAll_still _ (fun _ _ => invalidateAt_still ..) _).trans ended
  simp only [still_ite, setDir_still, startTxn_still, freed, ite_self]

@[simp] theorem dirRoom_withTeams : dirRoom (s.withTeams T) line = (dirRoom s line).withTeams T := by
  simp only [dirRoom, dir_withTeams, fresh_withTeams]
  split
  · rfl
  · split
    · next e _ =>
      split
      · rfl
      · exact dirFree_withTeams { s with fresh := s.fresh + 1 } T e.1
    · rfl
@[simp] theorem dirRoom_still : (dirRoom s line).still = s.still := by
  simp only [dirRoom]
  split
  · rfl
  · split
    · split
      · rfl
      · exact dirFree_still ..
    · rfl

/-! ## A core's L1, where it asks nobody -/

@[simp] theorem endPeek_withTeams (secs : List Nat) : endPeek (s.withTeams T) die secs = (endPeek s die secs).withTeams T :=
  foldl_withTeams s T (fun s x => by simp only [sec_withTeams, setSec_withTeams, ite_withTeams]) secs
@[simp] theorem endPeek_still (secs : List Nat) : (endPeek s die secs).still = s.still :=
  foldl_still s (fun s x => by simp only [still_ite, setSec_still, ite_self]) secs

@[simp] theorem missAdd_withTeams (m : Miss) : missAdd (s.withTeams T) core m = ((missAdd s core m).1.withTeams T, (missAdd s core m).2) := by
  simp only [missAdd, core_withTeams, setCore_withTeams]
  split
  · rfl
  · split <;> rfl
@[simp] theorem missAdd_still (m : Miss) : (missAdd s core m).1.still = s.still := by
  simp only [missAdd]
  split
  · rfl
  · split <;> rfl

@[simp] theorem missWant_withTeams (frame : Nat) (runs : List (Nat × Nat)) (sm : Bool) (pol : Nat) (fr : Option (Nat × Nat)) (secs : List Nat) :
    missWant (s.withTeams T) core frame runs sm pol fr secs = (missWant s core frame runs sm pol fr secs).withTeams T :=
  foldl_withTeams s T (fun s x => foldl_withTeams s T (fun s r => by
    simp only [core_withTeams, missAdd_withTeams, ite_withTeams]) runs) secs
@[simp] theorem missWant_still (frame : Nat) (runs : List (Nat × Nat)) (sm : Bool) (pol : Nat) (fr : Option (Nat × Nat)) (secs : List Nat) :
    (missWant s core frame runs sm pol fr secs).still = s.still :=
  foldl_still s (fun s x => foldl_still s (fun s r => by simp only [still_ite, missAdd_still, ite_self]) runs) secs

@[simp] theorem askAway_withTeams (u : CacheUse) (as secs : List Nat) :
    askAway (s.withTeams T) core u as secs = (askAway s core u as secs).withTeams T :=
  foldl_withTeams s T (fun s f => by simp only [core_withTeams, missWant_withTeams]) _
@[simp] theorem askAway_still (u : CacheUse) (as secs : List Nat) : (askAway s core u as secs).still = s.still :=
  foldl_still s (fun s f => missWant_still ..) _

@[simp] theorem cacheLocs_withTeams (ls : List Loc) : cacheLocs (s.withTeams T) ls = (cacheLocs s ls).withTeams T :=
  foldl_withTeams s T (fun s t => by
    simp only [cacheLeaf, tlb_withTeams]
    split <;> rfl) _
@[simp] theorem cacheLocs_still (ls : List Loc) : (cacheLocs s ls).still = s.still :=
  foldl_still s (fun s t => by
    unfold cacheLeaf
    split <;> rfl) _

@[simp] theorem checkFill_withTeams (ctx : Nat) : checkFill (s.withTeams T) core ctx sector = (checkFill s core ctx sector).withTeams T := by
  simp only [checkFill]
  simp only [sec_withTeams, core_withTeams, dieByte_withTeams, setCore_withTeams]
  rw [foldl_withTeams _ T (fun s x => by simp only [sec_withTeams, setSec_withTeams, later_withTeams, ite_withTeams])]
  simp only [ite_withTeams]
@[simp] theorem checkFill_still (ctx : Nat) : (checkFill s core ctx sector).still = s.still := by
  simp only [checkFill]
  split
  · rfl
  · exact (foldl_still _ (fun s x => by simp only [still_ite, later_still, setSec_still, ite_self]) _).trans (setCore_still ..)

@[simp] theorem scrWrite_withTeams (cs : List Host.Cell) : scrWrite (s.withTeams T) cs = (scrWrite s cs).withTeams T := (rfl)
@[simp] theorem scrWrite_still (cs : List Host.Cell) : (scrWrite s cs).still = s.still := rfl
@[simp] theorem crvWrite_withTeams (cs : List Host.Cell) : crvWrite (s.withTeams T) cs = (crvWrite s cs).withTeams T := (rfl)
@[simp] theorem crvWrite_still (cs : List Host.Cell) : (crvWrite s cs).still = s.still := rfl

@[simp] theorem noteOlder_withTeams (ls : List Loc) : noteOlder (s.withTeams T) ls = (noteOlder s ls).withTeams T := by
  simp only [noteOlder]
  split <;> rfl
@[simp] theorem noteOlder_still (ls : List Loc) : (noteOlder s ls).still = s.still := by
  simp only [noteOlder]
  split <;> rfl

@[simp] theorem endAccess_withTeams (ls : List Loc) : endAccess (s.withTeams T) core ls = (endAccess s core ls).withTeams T := by
  simp only [endAccess]
  simp only [endPeek_withTeams, core_withTeams, setCore_withTeams, ite_withTeams]
@[simp] theorem endAccess_still (ls : List Loc) : (endAccess s core ls).still = s.still := by
  simp only [endAccess, still_ite, setCore_still, endPeek_still, ite_self]

@[simp] theorem memCharge_withTeams (q n : Nat) : memCharge (s.withTeams T) core q n = (memCharge s core q n).withTeams T := (rfl)
@[simp] theorem memCharge_still (q n : Nat) : (memCharge s core q n).still = s.still := rfl

end
end Sys2Proof.Machine
end

section
/-! SUPPORT. What the answers of homes change in the teams (R207, R334): the counts of a team's subscription requests, and a read-modify-write whose
write-through is answered. Which teams there are otherwise makes no difference to the protocol. -/

namespace Sys2Proof.Machine

/-- What answers make of the subscription requests of a team, by its handle, and of a read-modify-write in progress. One that has nothing under way
stays as it is. -/
structure Answers where
  subs : Nat → List SubOwed → List SubOwed
  rmw : Rmw → Rmw
  unsent : ∀ r, r.sent = none → rmw r = r

/-- A team after answers. -/
def Answers.on (g : Answers) (t : Team) : Team := { t with subs := g.subs t.hnd t.subs, rmw := t.rmw.map g.rmw }
/-- No answer. -/
def Answers.none : Answers := ⟨fun _ l => l, id, fun _ _ => rfl⟩
/-- Answers, and later ones. -/
def Answers.andThen (g k : Answers) : Answers :=
  ⟨fun h l => k.subs h (g.subs h l), fun r => k.rmw (g.rmw r), fun r idle => by rw [g.unsent r idle, k.unsent r idle]⟩

theorem Answers.on_none : Answers.none.on = id := by
  funext t
  simp only [Answers.on, Answers.none, Option.map_id_fun, id]
theorem Answers.on_andThen (g k : Answers) (t : Team) : (g.andThen k).on t = k.on (g.on t) := by
  simp only [Answers.on, Answers.andThen, Option.map_map, Function.comp_def]
theorem Answers.map_andThen (g k : Answers) (l : List Team) : l.map (g.andThen k).on = (l.map g.on).map k.on := by
  rw [List.map_map]
  exact List.map_congr_left fun t _ => g.on_andThen k t

/-- `s`, and the same state with the teams `T`, come from `o`, and from `o` with the teams `T₀`, by the same answers. -/
def Alike (o : State) (T₀ : List Team) (s : State) (T : List Team) : Prop :=
  ∃ g : Answers, s.teams = o.teams.map g.on ∧ T = T₀.map g.on ∧ s.still = o.still
/-- `p'` is `p` but for its teams, and both come so from `o`. -/
def Echo (o : State) (T₀ : List Team) (p p' : State) : Prop := ∃ T, p' = p.withTeams T ∧ Alike o T₀ p T
/-- The same of states with a result beside them. -/
def EchoWith {α : Type} (o : State) (T₀ : List Team) (p p' : State × α) : Prop :=
  ∃ T, p' = (p.1.withTeams T, p.2) ∧ Alike o T₀ p.1 T

section
variable {o s X : State} {T₀ T : List Team} (die pos line sector core : Nat)

theorem Alike.refl : Alike o T₀ o T₀ := ⟨.none, by rw [Answers.on_none, List.map_id], by rw [Answers.on_none, List.map_id], rfl⟩
theorem Alike.echo (h : Alike o T₀ s T) : Echo o T₀ s (s.withTeams T) := ⟨T, rfl, h⟩

/-- A change that leaves the teams as they are. -/
theorem Alike.keep (h : Alike o T₀ s T) (teams : X.teams = s.teams) (still : X.still = s.still) : Alike o T₀ X T := by
  obtain ⟨g, here, there, kept⟩ := h
  exact ⟨g, teams.trans here, there, still.trans kept⟩
/-- A function that does not read the teams leaves them as they are. -/
theorem Alike.through (h : Alike o T₀ s T) {Y : List Team → State} (teams : ∀ U, Y U = X.withTeams U) (still : X.still = s.still)
    (self : Y s.teams = X := by rfl) : Alike o T₀ X T :=
  h.keep (by rw [← self, teams]; rfl) still
theorem Alike.through_fst {α : Type} {p : State × α} (h : Alike o T₀ s T) {Y : List Team → State × α} (teams : ∀ U, Y U = (p.1.withTeams U, p.2))
    (still : p.1.still = s.still) (self : Y s.teams = p := by rfl) : Alike o T₀ p.1 T :=
  h.through (fun U => congrArg Prod.fst (teams U)) still (congrArg Prod.fst self)
theorem Alike.setSec (h : Alike o T₀ s T) (d : DieSec) : Alike o T₀ (s.setSec die sector d) T :=
  h.through (fun U => setSec_withTeams s U ..) (setSec_still ..)
theorem Alike.setDir (h : Alike o T₀ s T) (e : DirEntry) : Alike o T₀ (s.setDir line e) T :=
  h.through (fun U => setDir_withTeams s U ..) (setDir_still ..)
theorem Alike.later (h : Alike o T₀ s T) (e : Event) : Alike o T₀ (s.later e) T := h.keep rfl rfl
theorem Alike.send (h : Alike o T₀ s T) (e : Event) : Alike o T₀ (s.send pos e) T := h.keep rfl rfl
theorem Alike.putLate (h : Alike o T₀ s T) (l : List (Nat × Nat)) : Alike o T₀ (s.putLate l) T := h.keep rfl rfl
theorem Alike.putAsks (h : Alike o T₀ s T) (l : List Ask) : Alike o T₀ (s.putAsks l) T := h.keep rfl rfl
theorem Alike.putThrough (h : Alike o T₀ s T) (n : Nat) (l : List Through) : Alike o T₀ (s.putThrough n l) T := h.keep rfl rfl
theorem Alike.setCore (h : Alike o T₀ s T) (f : Core → Core) : Alike o T₀ (s.setCore core f) T := h.keep rfl rfl
/-- An answer. -/
theorem Alike.answered (h : Alike o T₀ s T) (g : Answers) (teams : X.teams = s.teams.map g.on) (still : X.still = s.still) :
    Alike o T₀ X (T.map g.on) := by
  obtain ⟨k, here, there, kept⟩ := h
  exact ⟨k.andThen g, by rw [teams, here, k.map_andThen], by rw [there, k.map_andThen], still.trans kept⟩

theorem EchoWith.mk {α : Type} {p p' : State} {x : α} (h : Echo o T₀ p p') : EchoWith o T₀ (p, x) (p', x) := by
  obtain ⟨T, rfl, alike⟩ := h
  exact ⟨T, rfl, alike⟩

theorem EchoWith.fst {α : Type} {p p' : State × α} (h : EchoWith o T₀ p p') : Echo o T₀ p.1 p'.1 := by
  obtain ⟨T, rfl, alike⟩ := h
  exact ⟨T, rfl, alike⟩

/-- A list of changes. -/
theorem Alike.foldl {α : Type} {f : State → α → State} (step : ∀ {s T} x, Alike o T₀ s T → Echo o T₀ (f s x) (f (s.withTeams T) x)) (l : List α)
    (h : Alike o T₀ s T) : Echo o T₀ (l.foldl f s) (l.foldl f (s.withTeams T)) := by
  induction l generalizing s T with
  | nil => exact h.echo
  | cons x l ih =>
    obtain ⟨T1, e, h1⟩ := step x h
    rw [List.foldl_cons, List.foldl_cons, e]
    exact ih h1

/-- A list of changes that do not read the teams. -/
theorem Alike.foldl_through {α : Type} {f : State → α → State} (teams : ∀ s x T, f (s.withTeams T) x = (f s x).withTeams T)
    (still : ∀ s x, (f s x).still = s.still) (l : List α) (h : Alike o T₀ s T) : Alike o T₀ (l.foldl f s) T := by
  induction l generalizing s with
  | nil => exact h
  | cons x l ih => exact ih (h.through (teams s x) (still s x))

theorem Alike.tellAll {α : Type} {f : State → α → State × List Await} (teams : ∀ s x T, f (s.withTeams T) x = ((f s x).1.withTeams T, (f s x).2))
    (still : ∀ s x, (f s x).1.still = s.still) (l : List α) (h : Alike o T₀ s T) : Alike o T₀ (Machine.tellAll f l s).1 T :=
  h.through_fst (fun U => tellAll_withTeams s U (fun s x => teams s x U) l) (tellAll_still s still l)

/-! ## The two answers -/

/-- The answer about a line counts in the requests of one team. -/
def lineAnswer (h id : Nat) (fmtd : Bool) : Answers :=
  ⟨fun x l => if x = h then l.map (fun r => if r.id = id then
      { r with fmtd := if fmtd then r.fmtd + 1 else r.fmtd, exact := if fmtd then r.exact else r.exact + 1, left := r.left - 1 } else r) else l,
    fun r => r, fun _ _ => rfl⟩

theorem countSub_echo (h : Alike o T₀ s T) (owed : Option (Nat × Nat)) (fmtd : Bool) :
    Echo o T₀ (countSub s owed fmtd) (countSub (s.withTeams T) owed fmtd) := by
  cases owed with
  | none => exact h.echo
  | some p =>
    have on (l : List Team) : l.map (fun x => if x.hnd = p.1 then { x with subs := x.subs.map (fun r => if r.id = p.2 then
        { r with fmtd := if fmtd then r.fmtd + 1 else r.fmtd, exact := if fmtd then r.exact else r.exact + 1, left := r.left - 1 } else r) } else x) =
        l.map (lineAnswer p.1 p.2 fmtd).on := by
      refine List.map_congr_left fun x _ => ?_
      simp only [Answers.on, lineAnswer, Option.map_id']
      split <;> rfl
    refine ⟨T.map (lineAnswer p.1 p.2 fmtd).on, ?_, h.answered _ (on s.teams) rfl⟩
    rw [← on]
    rfl

/-- A write-through of number `id` is answered, with Done1 or with Retry. -/
def throughAnswer (id : Nat) (ok : Bool) : Answers :=
  ⟨fun _ l => l, fun r => match r.sent with
    | some (i, old, f) => if i ≠ id then r
      else if ok then { todo := r.todo.drop 1, got := r.got ++ [((match r.todo.head? with | some x => x.1 | none => 0), old, f)], sent := none }
      else { r with sent := none }
    | none => r, fun r idle => by rw [idle]⟩

theorem rmwDone_echo (h : Alike o T₀ s T) (id : Nat) (ok : Bool) : Echo o T₀ (rmwDone s id ok) (rmwDone (s.withTeams T) id ok) := by
  have on (l : List Team) : (rmwDone (s.withTeams l) id ok).teams = l.map (throughAnswer id ok).on := by
    refine List.map_congr_left fun x _ => ?_
    simp only [Answers.on, throughAnswer]
    cases x with | _ hnd grp idx nreg strands pc tctl sigs sigd mism stepped act lock mat opf pend ranges subs rmw => 
    cases rmw with
    | none => rfl
    | some r =>
      rcases r with ⟨todo, got, _ | ⟨i, old, f⟩⟩
      · rfl
      · simp only [Option.map_some]
        split
        · rfl
        · split <;> rfl
  exact ⟨T.map (throughAnswer id ok).on, congrArg s.withTeams (on T), h.answered _ (on s.teams) rfl⟩

/-! ## The answers of a home -/

theorem dieLineDone_echo (h : Alike o T₀ s T) (fmtd : Bool) : Echo o T₀ (dieLineDone s die line fmtd) (dieLineDone (s.withTeams T) die line fmtd) := by
  simp only [dieLineDone, fold_putAsks]
  simp only [lineAsk_withTeams, asks_withTeams, putAsks_withTeams]
  split
  · exact h.echo
  · next a _ =>
    rw [foldl_withTeams _ T (fun s x => by simp only [sec_withTeams, dieGiveUp_withTeams, ite_withTeams])]
    simp only [dieEndSub_withTeams, ite_withTeams]
    have left : Alike o T₀ (s.putAsks (dropFirst (fun x => x == a) s.asks)) T := h.keep rfl rfl
    have ended := left.through (fun U => dieEndSub_withTeams _ U die line) (dieEndSub_still ..)
    cases a.kind
    case sub =>
      cases fmtd
      · exact countSub_echo ended _ _
      · refine countSub_echo (left.foldl_through (fun s x T => ?_) (fun s x => ?_) _) _ _
        · simp only [sec_withTeams, dieGiveUp_withTeams, ite_withTeams]
        · simp only [still_ite, dieGiveUp_still, ite_self]
    all_goals exact countSub_echo ended _ _
theorem replyLine_echo (h : Alike o T₀ s T) (a : Nat) (fmtd : Bool) : Echo o T₀ (replyLine s a line fmtd) (replyLine (s.withTeams T) a line fmtd) := by
  simp only [replyLine, localDie_withTeams, tell_withTeams]
  split
  · exact dieLineDone_echo _ _ h fmtd
  · exact (h.through (fun U => tell_withTeams s U a _) (tell_still ..)).echo

theorem gotDone1_echo (h : Alike o T₀ s T) : Echo o T₀ (gotDone1 s die sector) (gotDone1 (s.withTeams T) die sector) := by
  simp only [gotDone1, fold_putThroughs]
  simp only [openThrough_withTeams, throughs_withTeams, putThroughs_withTeams]
  split
  · exact h.echo
  · next t _ =>
    obtain ⟨T1, e, h1⟩ := rmwDone_echo (h.keep (X := s.putThroughs (s.throughs.map (fun x => if x.id = t.id then { x with done1 := true } else x))) rfl rfl) t.id true
    rw [e]
    simp only [sec_withTeams, setSec_withTeams, later_withTeams, ite_withTeams, takeBytes_withTeams]
    split
    · exact h1.echo
    · split
      · exact (((h1.setSec ..).later _).through (fun U => takeBytes_withTeams _ U ..) (takeBytes_still ..)).echo
      · exact ((h1.setSec ..).through (fun U => takeBytes_withTeams _ U ..) (takeBytes_still ..)).echo

theorem gotRetry_echo (h : Alike o T₀ s T) : Echo o T₀ (gotRetry s die sector) (gotRetry (s.withTeams T) die sector) := by
  simp only [gotRetry, fold_putThroughs]
  simp only [openThrough_withTeams, throughs_withTeams, putThroughs_withTeams]
  split
  · exact h.echo
  · next t _ =>
    obtain ⟨T1, e, h1⟩ := rmwDone_echo (h.keep (X := s.putThroughs (s.throughs.filter (fun x => x.id != t.id))) rfl rfl) t.id false
    rw [e, dieGiveUp_withTeams]
    exact (h1.through_fst (fun U => dieGiveUp_withTeams _ U ..) (dieGiveUp_still ..)).echo

theorem sendDone1_echo (h : Alike o T₀ s T) (a : Nat) : Echo o T₀ (sendDone1 s a sector) (sendDone1 (s.withTeams T) a sector) := by
  simp only [sendDone1, dead_withTeams, localDie_withTeams, tell_withTeams]
  split
  · exact h.echo
  · split
    · exact gotDone1_echo _ _ h
    · exact (h.through (fun U => tell_withTeams s U a _) (tell_still ..)).echo
theorem sendRetry_echo (h : Alike o T₀ s T) (a : Nat) : Echo o T₀ (sendRetry s a sector) (sendRetry (s.withTeams T) a sector) := by
  simp only [sendRetry, dead_withTeams, localDie_withTeams, tell_withTeams]
  split
  · exact h.echo
  · split
    · exact gotRetry_echo _ _ h
    · exact (h.through (fun U => tell_withTeams s U a _) (tell_still ..)).echo

theorem goThrough_echo (h : Alike o T₀ s T) (t : Txn) (a : Nat) (coarse : Bool) :
    EchoWith o T₀ (goThrough s t a coarse) (goThrough (s.withTeams T) t a coarse) := by
  unfold goThrough
  split
  · exact .mk h.echo
  · have told : Echo o T₀ (if t.done1 then s else sendDone1 (if coarse then toPointer s true a t.sector else s) a t.sector)
        (if t.done1 then s.withTeams T else sendDone1 (if coarse then toPointer (s.withTeams T) true a t.sector else s.withTeams T) a t.sector) := by
      simp only [toPointer_withTeams]
      split
      · exact h.echo
      · split
        · exact sendDone1_echo _ (h.through (fun U => toPointer_withTeams _ U ..) (toPointer_still ..)) a
        · exact sendDone1_echo _ h a
    obtain ⟨T1, e, h1⟩ := told
    dsimp only
    rw [e, sendDone2_withTeams]
    split
    · exact .mk (h1.through (fun U => sendDone2_withTeams _ U ..) (sendDone2_still ..)).echo
    · exact .mk h1.echo
end
end Sys2Proof.Machine
end

section
namespace Sys2Proof.Machine
section
variable {o s X : State} {T₀ T : List Team} (die pos line sector core : Nat)

/-! ## Messages that arrive at a home -/

/-- Subscribers learn what a write changed. -/
theorem subsTold_withTeams (s : State) (T : List Team) (old : Memory) (sfm : Nat) (mask : List Nat) (l : List Sharer) :
    tellAll (tellSub old sfm sector mask) l (s.withTeams T) =
      ((tellAll (tellSub old sfm sector mask) l s).1.withTeams T, (tellAll (tellSub old sfm sector mask) l s).2) :=
  tellAll_withTeams s T (fun s p => tellSub_withTeams s T sector old sfm mask p) l

theorem homeThrough_echo (h : Alike o T₀ s T) (a : Nat) (bytes : List Host.Cell) (cond : Bool) :
    Echo o T₀ (homeThrough s a sector bytes cond) (homeThrough (s.withTeams T) a sector bytes cond) := by
  simp only [homeThrough, fold_putMem]
  simp only [dirE_withTeams, mem_withTeams, putMem_withTeams, coarseTargets_withTeams, exactHolders_withTeams, coarseGone_withTeams,
    exactGone_withTeams, ite_pair_withTeams, subsTold_withTeams]
  split
  · exact sendRetry_echo _ h a
  · generalize sent : tellAll (tellSub _ _ _ _) _ _ = q
    have told : Alike o T₀ q.1 T := by
      rw [← sent]
      refine Alike.tellAll (fun s p T => tellSub_withTeams ..) (fun s p => tellSub_still ..) _ ?_
      split
      · exact Alike.tellAll (fun s x T => invalidateAt_withTeams ..) (fun s x => invalidateAt_still ..) _ (h.keep rfl rfl)
      · exact Alike.tellAll (fun s x T => invalidateAt_withTeams ..) (fun s x => invalidateAt_still ..) _ (h.keep rfl rfl)
    generalize Txn.mk _ _ _ _ _ _ = t
    obtain ⟨T1, e, h1⟩ := goThrough_echo told t a (s.dirE (sector / 4)).coarse.isSome
    rw [e]
    generalize goThrough q.1 t a (s.dirE (sector / 4)).coarse.isSome = r at h1
    rcases r with ⟨s1, _ | t1⟩ <;> dsimp only
    · exact h1.echo
    · rw [startTxn_withTeams]
      exact (h1.through (fun U => startTxn_withTeams _ U ..) (startTxn_still ..)).echo

theorem homeSubscribe_echo (h : Alike o T₀ s T) (ev : Event) (a fmt : Nat) (inv bf : Bool) :
    Echo o T₀ (homeSubscribe s ev a line fmt inv bf) (homeSubscribe (s.withTeams T) ev a line fmt inv bf) := by
  simp only [homeSubscribe]
  simp only [lineOwners_withTeams]
  rw [tellAll_withTeams s T (fun s x => recallAt_withTeams ..)]
  generalize sent : tellAll _ _ s = r
  have told : Alike o T₀ r.1 T := by
    rw [← sent]
    exact h.tellAll (fun s x T => recallAt_withTeams ..) (fun s x => recallAt_still ..) _
  simp only [await_withTeams, dirE_withTeams, setDir_withTeams, slotExact_withTeams]
  generalize (if bf = true then 1 else 0) = req
  have exact_echo (k : Nat) := replyLine_echo line (told.through (fun U => slotExact_withTeams _ U line a k) (slotExact_still ..)) a false
  have refused := replyLine_echo line told a false
  have taken (e : DirEntry) := replyLine_echo line (told.setDir line e) a true
  split
  · exact (told.through (fun U => await_withTeams _ U ..) (await_still ..)).echo
  · split
    · exact refused
    · split
      · exact taken ..
      · exact exact_echo ..
    · split
      · split
        · exact taken ..
        · exact refused
      · exact refused

theorem homeUpgrade_echo (h : Alike o T₀ s T) (a : Nat) : Echo o T₀ (homeUpgrade s a line) (homeUpgrade (s.withTeams T) a line) := by
  simp only [homeUpgrade, dirE_withTeams, slotExact_withTeams]
  split
  · exact replyLine_echo line (h.through (fun U => slotExact_withTeams _ U ..) (slotExact_still ..)) a false
  · exact replyLine_echo line h a false

theorem homeUnsubscribe_echo (h : Alike o T₀ s T) (a : Nat) :
    Echo o T₀ (homeUnsubscribe s a line) (homeUnsubscribe (s.withTeams T) a line) := by
  simp only [homeUnsubscribe, dirE_withTeams, setDir_withTeams, ite_withTeams]
  split
  · refine replyLine_echo line ?_ a false
    split
    · exact h.setDir ..
    · exact h
  · exact replyLine_echo line h a false

/-! ## Requests, acknowledgements and notices -/

theorem serveOne_echo (h : Alike o T₀ s T) (e : Event) : Echo o T₀ (serveOne s e) (serveOne (s.withTeams T) e) := by
  unfold serveOne
  split
  · exact h.echo
  · simp only [dead_withTeams, dirRoom_withTeams, homeExact_withTeams, homeRounded_withTeams, homeWrite_withTeams]
    have room (line : Nat) : Alike o T₀ (dirRoom s line) T := h.through (fun U => dirRoom_withTeams _ U ..) (dirRoom_still ..)
    split
    · exact h.echo
    · cases e
      case exactRead m x => exact ((room _).through (fun U => homeExact_withTeams _ U ..) (homeExact_still ..)).echo
      case subscribedRead m x => exact (h.through (fun U => homeRounded_withTeams _ U ..) (homeRounded_still ..)).echo
      case writePermission m x => exact ((room _).through (fun U => homeWrite_withTeams _ U ..) (homeWrite_still ..)).echo
      case writeThrough m x bytes cond => exact homeThrough_echo _ h ..
      case subscriptionRequest m l fmt inv bf _ =>
        dsimp only
        split
        · exact h.echo
        · exact homeSubscribe_echo l (room l) (.subscriptionRequest m l fmt inv bf) m.agent fmt inv bf
      case upgradeRequest m l => exact homeUpgrade_echo _ h ..
      case unsubscribeRequest m l => exact homeUnsubscribe_echo _ h ..
      all_goals exact h.echo

theorem settle_echo (h : Alike o T₀ s T) (t : Txn) : Echo o T₀ (settle s t) (settle (s.withTeams T) t) := by
  have ended : Alike o T₀ (endTxn s t) T := h.through (fun U => endTxn_withTeams _ U ..) (endTxn_still ..)
  unfold settle
  cases t.kind
  case through a coarse =>
    obtain ⟨T1, e, h1⟩ := goThrough_echo h t a coarse
    dsimp only
    rw [e]
    generalize goThrough s t a coarse = r at h1
    rcases r with ⟨s1, _ | t1⟩ <;> dsimp only
    · rw [endTxn_withTeams]
      exact (h1.through (fun U => endTxn_withTeams _ U ..) (endTxn_still ..)).echo
    · exact ⟨T1, rfl, h1.keep rfl rfl⟩
  all_goals
    dsimp only
    split
    · exact ⟨T, rfl, h.keep rfl rfl⟩
    simp only [endTxn_withTeams, toPointer_withTeams, dirE_withTeams, setDir_withTeams]
  case again.isFalse => exact serveOne_echo ended _
  case collapse.isFalse => exact serveOne_echo (ended.through (fun U => toPointer_withTeams _ U ..) (toPointer_still ..)) _
  case free.isFalse => exact (ended.setDir ..).echo
  all_goals exact ended.echo

theorem heard_echo (h : Alike o T₀ s T) (t : Txn) (w : Await) : Echo o T₀ (heard s t w) (heard (s.withTeams T) t w) :=
  settle_echo (s := s.putTxns (dropFirst (fun x => x == t) s.txns)) (h.keep rfl rfl) _

theorem homeNotice_echo (h : Alike o T₀ s T) (a : Nat) (dirty : List Host.Cell) :
    Echo o T₀ (homeNotice s a sector dirty) (homeNotice (s.withTeams T) a sector dirty) := by
  simp only [homeNotice, fold_putMem, fold_putLate]
  simp only [dirE_withTeams, mem_withTeams, putMem_withTeams, setDir_withTeams, ite_withTeams, awaited_withTeams, late_withTeams, putLate_withTeams]
  have cleared (e : DirEntry) : Alike o T₀ ((s.putMem (s.mem.putAll dirty)).setDir (sector / 4) e) T :=
    Alike.setDir _ (s := s.putMem (s.mem.putAll dirty)) (h.keep rfl rfl) e
  by_cases held : (s.dirE (sector / 4)).has a (sector % 4) = true
  all_goals
    simp only [held, Bool.not_true, Bool.not_false, Bool.false_eq_true, if_true, if_false]
    split
  · exact heard_echo ((cleared _).putLate _) ..
  · exact (cleared _).echo
  · exact heard_echo (h.putLate _) ..
  · exact h.echo

theorem homeAck_echo (h : Alike o T₀ s T) (a : Nat) (absent : Bool) (dirty : List Host.Cell) :
    Echo o T₀ (homeAck s a sector absent dirty) (homeAck (s.withTeams T) a sector absent dirty) := by
  simp only [homeAck, fold_putMem, fold_putLate]
  simp only [dirE_withTeams, mem_withTeams, putMem_withTeams, setDir_withTeams, awaited_withTeams, late_withTeams, putLate_withTeams]
  split
  · exact ⟨T, rfl, h.keep rfl rfl⟩
  · split
    · exact h.echo
    · exact heard_echo (Alike.setDir _ (s := s.putMem (s.mem.putAll dirty)) (h.keep rfl rfl) _) ..

theorem serveBehind_echo (n : Nat) (h : Alike o T₀ s T) : Echo o T₀ (serveBehind n s) (serveBehind n (s.withTeams T)) := by
  induction n generalizing s T with
  | zero => exact h.echo
  | succ n ih =>
    simp only [serveBehind, fold_putBehind]
    simp only [behind_withTeams, nextBehind_withTeams, putBehind_withTeams]
    split
    · next e rest _ =>
      obtain ⟨T1, e1, h1⟩ := serveOne_echo (s := s.putBehind rest) (h.keep rfl rfl) e
      rw [e1]
      exact ih h1
    · exact h.echo

/-- What waited is served after a message. -/
theorem Echo.servesBehind {p p' : State} (h : Echo o T₀ p p') :
    Echo o T₀ (serveBehind (p.behind.length + 1) p) (serveBehind (p'.behind.length + 1) p') := by
  obtain ⟨T, rfl, h⟩ := h
  exact serveBehind_echo _ h

theorem homeRecv_echo (h : Alike o T₀ s T) (e : Event) : Echo o T₀ (homeRecv e s) (homeRecv e (s.withTeams T)) := by
  unfold homeRecv
  split
  · exact h.echo
  · next m x _ =>
    simp only [isHome_withTeams, epochOk_withTeams, dropMsg_withTeams, fold_putTraffic]
    split
    · exact h.echo
    · split
      · exact (h.through (fun U => dropMsg_withTeams _ U ..) (dropMsg_still ..)).echo
      · refine Echo.servesBehind ?_
        simp only [devid_withTeams, traffic_withTeams, putTraffic_withTeams]
        have h1 (busy : Bool) : Alike o T₀ (s.putTraffic busy) T := h.keep rfl rfl
        cases e
        case notice => exact homeNotice_echo _ (h1 _) ..
        case writeBack =>
          simp only [mOwner_withTeams]
          split
          · exact ⟨T, rfl, h.keep rfl rfl⟩
          · exact (h1 _).echo
        case acknowledgement => exact homeAck_echo _ (h1 _) ..
        case smWriteBack => exact ⟨T, rfl, h.keep rfl rfl⟩
        all_goals
          simp only [mustWait_withTeams, behind_withTeams]
          split
          · exact ⟨T, rfl, h.keep rfl rfl⟩
          · exact serveOne_echo (h1 _) _
end
end Sys2Proof.Machine
end

section
namespace Sys2Proof.Machine
section
variable {o s X : State} {T₀ T : List Team} (die pos line sector core : Nat)

/-! ## What a die asks its homes -/

theorem askHome_echo (h : Alike o T₀ s T) (k : AskKind) (owed : Option (Nat × Nat)) (msg : Event) :
    Echo o T₀ (askHome s die pos sector k owed msg) (askHome (s.withTeams T) die pos sector k owed msg) := by
  simp only [askHome, fold_putAsks]
  simp only [barred_withTeams, asked_withTeams, asks_withTeams, putAsks_withTeams, isHome_withTeams, send_withTeams]
  split
  · exact h.echo
  · split
    · exact homeRecv_echo (h.putAsks _) _
    · exact ((h.putAsks _).send ..).echo

theorem askPeek_echo (h : Alike o T₀ s T) : Echo o T₀ (askPeek s die sector) (askPeek (s.withTeams T) die sector) := askHome_echo _ _ _ h ..

theorem askRead_echo (h : Alike o T₀ s T) (ctx : Option Nat) :
    Echo o T₀ (askRead s die sector ctx) (askRead (s.withTeams T) die sector ctx) := by
  simp only [askRead, subOf_withTeams, hdrOf_withTeams, dieSubscribes_withTeams]
  split
  · exact askHome_echo _ _ _ h ..
  · split
    · exact askPeek_echo _ _ h
    · exact askHome_echo _ _ _ h ..

theorem upgradeLine_echo (h : Alike o T₀ s T) (owed : Option (Nat × Nat)) :
    Echo o T₀ (upgradeLine s die line owed) (upgradeLine (s.withTeams T) die line owed) := askHome_echo _ _ _ h ..

theorem acquireRead_echo (h : Alike o T₀ s T) (hold : Nat) (ctx : Option Nat) :
    EchoWith o T₀ (acquireRead s die hold ctx sector) (acquireRead (s.withTeams T) die hold ctx sector) := by
  unfold acquireRead
  simp only [sec_withTeams, setSec_withTeams, leftLine_withTeams]
  split
  · exact .mk h.echo
  · split
    · split
      · exact .mk h.echo
      · obtain ⟨T1, e, h1⟩ := askRead_echo die sector h ctx
        rw [e]
        simp only [sec_withTeams, setSec_withTeams]
        split
        · exact .mk h1.echo
        · split
          · exact .mk h1.echo
          · exact .mk (h1.setSec ..).echo
    · split
      · exact .mk h.echo
      · split
        · exact .mk (h.setSec ..).echo
        · split
          · exact .mk h.echo
          · obtain ⟨T1, e, h1⟩ := askPeek_echo die sector h
            rw [e]
            exact .mk h1.echo
    · exact .mk (h.setSec ..).echo

theorem acquireWrite_echo (h : Alike o T₀ s T) (hold : Nat) (keep : Option Nat) :
    EchoWith o T₀ (acquireWrite s die hold keep sector) (acquireWrite (s.withTeams T) die hold keep sector) := by
  have upgraded : Echo o T₀ (if dieSubscribes s die sector then upgradeLine s die (sector / 4) none else s)
      (if dieSubscribes (s.withTeams T) die sector then upgradeLine (s.withTeams T) die (sector / 4) none else s.withTeams T) := by
    simp only [dieSubscribes_withTeams]
    split
    · exact upgradeLine_echo _ _ h none
    · exact h.echo
  obtain ⟨T1, e1, h1⟩ := upgraded
  simp only [acquireWrite]
  rw [e1]
  generalize (if dieSubscribes s die sector then upgradeLine s die (sector / 4) none else s) = s1 at h1
  have written {s2 : State} {T2 : List Team} (h2 : Alike o T₀ s2 T2) :
      Alike o T₀ ((dropInDie s2 die sector keep).setSec die sector
        (((dropInDie s2 die sector keep).sec die sector).forWrite (if hold < 48 then hold else 96))) T2 :=
    Alike.setSec _ _ (h2.through (fun U => dropInDie_withTeams _ U ..) (dropInDie_still ..)) _
  simp only [sec_withTeams, dieSubscribes_withTeams, leftLine_withTeams, hdrOf_withTeams]
  split
  · exact .mk h1.echo
  · by_cases had : (s1.sec die sector).st = .m ∨ (s1.sec die sector).st = .t
    · simp only [had, if_true, sec_withTeams, dropInDie_withTeams, setSec_withTeams]
      exact .mk (written h1).echo
    · obtain ⟨T2, e2, h2⟩ := askHome_echo die sector sector h1 .write none (.writePermission (hdrOf s1 die) sector)
      simp only [had, if_false, e2, sec_withTeams, dropInDie_withTeams, setSec_withTeams]
      split
      · exact .mk (written h2).echo
      · exact .mk h2.echo

/-- A list of sectors is acquired one by one. -/
theorem acquireAll_echo {acq : State → Nat → State × Bool} (step : ∀ {s T} x, Alike o T₀ s T → EchoWith o T₀ (acq s x) (acq (s.withTeams T) x))
    (secs : List Nat) (h : Alike o T₀ s T) : EchoWith o T₀ (acquireAll s acq secs) (acquireAll (s.withTeams T) acq secs) := by
  suffices all : ∀ (l : List Nat) (s : State) (T : List Team), Alike o T₀ s T →
      EchoWith o T₀ (secs.foldl (fun r x => ((acq r.1 x).1, if (acq r.1 x).2 then r.2 else r.2 ++ [x])) (s, l))
        (secs.foldl (fun r x => ((acq r.1 x).1, if (acq r.1 x).2 then r.2 else r.2 ++ [x])) (s.withTeams T, l)) from all [] s T h
  induction secs with
  | nil => exact fun l s T h => .mk h.echo
  | cons x secs ih =>
    intro l s T h
    obtain ⟨T1, e, h1⟩ := step x h
    simp only [List.foldl_cons, e]
    exact ih _ _ _ h1

theorem storeSector_echo (h : Alike o T₀ s T) (hnd q : Nat) (bytes : List Host.Cell) (cond so : Bool) :
    EchoWith o T₀ (storeSector s hnd q die sector bytes cond so) (storeSector (s.withTeams T) hnd q die sector bytes cond so) := by
  simp only [storeSector, fold_putThrough]
  simp only [sec_withTeams, hdrOf_withTeams, names_withTeams, setSec_withTeams, throughs_withTeams, putThrough_withTeams, isHome_withTeams,
    send_withTeams]
  split
  · refine .mk ?_
    split
    · exact homeRecv_echo ((h.setSec ..).putThrough ..) _
    · exact (((h.setSec ..).putThrough ..).send ..).echo
  · exact .mk (h.setSec ..).echo

/-! ## A core's L1 -/

theorem smHome_echo (h : Alike o T₀ s T) (cells : List Host.Cell) : Echo o T₀ (smHome s die cells) (smHome (s.withTeams T) die cells) := by
  refine h.foldl (fun x h => ?_) _
  simp only [hdrOf_withTeams, isHome_withTeams, send_withTeams]
  split
  · exact homeRecv_echo h _
  · exact (h.send ..).echo

theorem blockOut_echo (h : Alike o T₀ s T) (b : Block) : Echo o T₀ (blockOut s core b) (blockOut (s.withTeams T) core b) := by
  simp only [blockOut, partOut_withTeams]
  split
  · exact smHome_echo _ h _
  · exact (h.through (fun U => partOut_withTeams _ U ..) (partOut_still ..)).echo

theorem evictBlock_echo (h : Alike o T₀ s T) (b : Block) : Echo o T₀ (evictBlock s core b) (evictBlock (s.withTeams T) core b) := by
  simp only [evictBlock, setCore_withTeams]
  exact blockOut_echo _ (h.setCore ..) _

theorem makeRoom_echo (st keep n : Nat) (h : Alike o T₀ s T) :
    Echo o T₀ (makeRoom s core st keep n) (makeRoom (s.withTeams T) core st keep n) := by
  induction n generalizing s T with
  | zero => exact h.echo
  | succ n ih =>
    simp only [makeRoom, core_withTeams]
    split
    · exact h.echo
    · split
      · obtain ⟨T1, e, h1⟩ := evictBlock_echo core h _
        rw [e]
        exact ih h1
      · exact h.echo

theorem fillWords_echo (h : Alike o T₀ s T) (frame lo hi : Nat) (sm : Bool) (pol : Nat) (fr : Option (Nat × Nat)) (home : Nat → Byte) :
    Echo o T₀ (fillWords s core frame lo hi sm pol fr home) (fillWords (s.withTeams T) core frame lo hi sm pol fr home) := by
  simp only [fillWords, core_withTeams, setCore_withTeams]
  exact makeRoom_echo _ _ _ _ (h.setCore ..)

theorem evictOther_echo (h : Alike o T₀ s T) (frame : Nat) (sm : Bool) (runs : List (Nat × Nat)) :
    Echo o T₀ (evictOther s core frame sm runs) (evictOther (s.withTeams T) core frame sm runs) := by
  simp only [evictOther, core_withTeams]
  exact h.foldl (fun b h => evictBlock_echo core h b) _

theorem fetchRuns_echo (h : Alike o T₀ s T) (ctx frame : Nat) (sm : Bool) (pol : Nat) (fr : Option (Nat × Nat)) (runs : List (Nat × Nat)) :
    EchoWith o T₀ (fetchRuns s core ctx frame sm pol fr runs) (fetchRuns (s.withTeams T) core ctx frame sm pol fr runs) := by
  obtain ⟨T1, e1, h1⟩ := evictOther_echo core h frame sm runs
  simp only [fetchRuns]
  rw [e1]
  generalize evictOther s core frame sm runs = s1 at h1
  simp only [oneAccess_withTeams, isHome_withTeams]
  generalize List.filter _ (distinct id _) = secs
  cases sm
  · obtain ⟨T2, e2, h2⟩ := acquireAll_echo (fun x h => acquireRead_echo (dieOf core) x h (core % 48) (ctxSub ctx)) secs h1
    simp only [Bool.false_eq_true, if_false, e2, sec_withTeams, mem_withTeams]
    exact .mk (h2.foldl (fun w h => by rw [mem_withTeams]; exact fillWords_echo core h ..) _)
  · simp only [if_true, sec_withTeams, mem_withTeams]
    exact .mk (h1.foldl (fun w h => by rw [mem_withTeams]; exact fillWords_echo core h ..) _)

theorem fillFrame_echo (h : Alike o T₀ s T) (ctx : Nat) (sm : Bool) (u : CacheUse) (offs : List Nat) (frame : Nat) :
    Echo o T₀ (fillFrame s core ctx sm u offs frame) (fillFrame (s.withTeams T) core ctx sm u offs frame) := by
  simp only [fillFrame, core_withTeams]
  split
  · exact ⟨T, rfl, h.keep rfl rfl⟩
  · obtain ⟨T1, e1, h1⟩ := fetchRuns_echo core h ctx frame sm u.pol (if u.hint = 0 then some (u.idx, (minNat? (distinct (· / 4) offs)).getD 0) else none)
      (spanFor (s.core core) u.hint u.idx offs)
    rw [e1]
    exact ⟨T1, rfl, h1.keep rfl rfl⟩

theorem fillAll_echo (h : Alike o T₀ s T) (ctx : Nat) (u : CacheUse) (ls : List Loc) :
    Echo o T₀ (fillAll s core ctx u ls) (fillAll (s.withTeams T) core ctx u ls) := by
  have frames {s : State} {T : List Team} (h : Alike o T₀ s T) (sm : Bool) (as : List Nat) :
      Echo o T₀ ((distinct (· / 256) as).foldl (fun s f => fillFrame s core ctx sm u ((as.filter (fun a => a / 256 == f)).map (· % 256)) f) s)
        ((distinct (· / 256) as).foldl (fun s f => fillFrame s core ctx sm u ((as.filter (fun a => a / 256 == f)).map (· % 256)) f) (s.withTeams T)) :=
    h.foldl (f := fun s f => fillFrame s core ctx sm u ((as.filter (fun a => a / 256 == f)).map (· % 256)) f)
      (fun f h => fillFrame_echo core h ..) _
  obtain ⟨T1, e1, h1⟩ := frames h false (cohAddrs ls)
  simp only [fillAll]
  rw [e1]
  exact frames h1 true (smAddrs ls)

theorem prepRead_echo (h : Alike o T₀ s T) (ctx : Nat) (u : CacheUse) (ls : List Loc) :
    EchoWith o T₀ (prepRead s core ctx u ls) (prepRead (s.withTeams T) core ctx u ls) := by
  have h0 : Alike o T₀ (cacheLocs s ls) T := h.through (fun U => cacheLocs_withTeams _ U ..) (cacheLocs_still ..)
  obtain ⟨T1, e1, h1⟩ := acquireAll_echo (fun x h => acquireRead_echo (dieOf core) x h (core % 48) (ctxSub ctx)) (distinct (· / 64) (cohAddrs ls)) h0
  simp only [prepRead, cacheLocs_withTeams, e1, smAway_withTeams, askAway_withTeams]
  split
  · exact .mk (h1.through (fun U => askAway_withTeams _ U ..) (askAway_still ..)).echo
  · obtain ⟨T2, e2, h2⟩ := fillAll_echo core h1 ctx u ls
    rw [e2]
    exact .mk (h2.foldl (fun x h => by
      rw [checkFill_withTeams]
      exact (h.through (fun U => checkFill_withTeams _ U ..) (checkFill_still ..)).echo) _)

theorem prepWrite_echo (h : Alike o T₀ s T) (ctx : Nat) (u : CacheUse) (ls : List Loc) :
    EchoWith o T₀ (prepWrite s core ctx u ls) (prepWrite (s.withTeams T) core ctx u ls) := by
  have h0 : Alike o T₀ (cacheLocs s ls) T := h.through (fun U => cacheLocs_withTeams _ U ..) (cacheLocs_still ..)
  obtain ⟨T1, e1, h1⟩ := acquireAll_echo (fun x h => acquireWrite_echo (dieOf core) x h (core % 48) (some core)) (distinct (· / 64) (cohAddrs ls)) h0
  simp only [prepWrite, cacheLocs_withTeams, e1, smAway_withTeams, askAway_withTeams]
  generalize (if u.pol = 3 then [] else _ : List Nat) = away
  split
  · exact .mk (h1.through (fun U => askAway_withTeams _ U ..) (askAway_still ..)).echo
  · exact .mk (fillAll_echo core h1 ctx u ls)

/-! ## Bytes written -/

theorem Alike.unless (h : Alike o T₀ s T) (c : Bool) {f : State → State} (step : Echo o T₀ (f s) (f (s.withTeams T))) :
    Echo o T₀ (if c then s else f s) (if c then s.withTeams T else f (s.withTeams T)) := by
  cases c with
  | true => exact h.echo
  | false => exact step

/-- The bytes of a write by what they reach: coherent memory, software-managed memory, the scratchpad, the carve. -/
def writeParts (s : State) (hnd q core : Nat) (so : Bool) (coh sm sc cv : List (Nat × Byte)) : State :=
  let s := (distinct (· / 64) (coh.map (·.1))).foldl (fun s x => (storeSector s hnd q (dieOf core) x (coh.filter (fun c => c.1 / 64 == x)) false so).1) s
  let s := if sm.isEmpty then s else smStore s core sm
  let s := if sc.isEmpty then s else scrWrite s sc
  if cv.isEmpty then s else crvWrite s cv

theorem smStore_echo (h : Alike o T₀ s T) (cs : List Host.Cell) : Echo o T₀ (smStore s core cs) (smStore (s.withTeams T) core cs) := by
  simp only [smStore, core_withTeams, setCore_withTeams]
  exact smHome_echo _ (h.setCore ..) _

theorem writeParts_echo (h : Alike o T₀ s T) (hnd q : Nat) (so : Bool) (coh sm sc cv : List (Nat × Byte)) :
    Echo o T₀ (writeParts s hnd q core so coh sm sc cv) (writeParts (s.withTeams T) hnd q core so coh sm sc cv) := by
  obtain ⟨T1, e1, h1⟩ := h.foldl (f := fun s x =>
    (storeSector s hnd q (dieOf core) x (coh.filter (fun c => c.1 / 64 == x)) false so).1)
    (fun x h => (storeSector_echo _ _ h ..).fst) (distinct (· / 64) (coh.map (·.1)))
  simp only [writeParts]
  rw [e1]
  obtain ⟨T2, e2, h2⟩ := h1.unless sm.isEmpty (f := fun s => smStore s core sm) (smStore_echo core h1 sm)
  rw [e2]
  obtain ⟨T3, e3, h3⟩ := h2.unless sc.isEmpty (f := fun s => scrWrite s sc) (h2.through (fun U => scrWrite_withTeams _ U ..) (scrWrite_still ..)).echo
  rw [e3]
  exact h3.unless cv.isEmpty (f := fun s => crvWrite s cv) (h3.through (fun U => crvWrite_withTeams _ U ..) (crvWrite_still ..)).echo

theorem writeLocs_echo (h : Alike o T₀ s T) (hnd q : Nat) (ls : List (Loc × Byte)) :
    Echo o T₀ (writeLocs s hnd q core ls) (writeLocs (s.withTeams T) hnd q core ls) :=
  writeParts_echo core h hnd q _ _ _ _ _
end
end Sys2Proof.Machine
end

section
/-! SUPPORT. Group 5: the rows of Table 7-12, the registers they name, and what the tests of an address give where they all pass (R96 to R103,
R188, R189, R195). -/

namespace Sys2Proof.Machine

variable {i : Instr} {s : State} {t : Team} {a : Mem} {opc : Nat} {d : Desc}

/-! ## The rows -/

/-- `i` is encoded in the shape `a` by the row `d` of Table 7-12, one of the plain and strong accesses. -/
structure MemRow (i : Instr) (a : Mem) (opc : Nat) (d : Desc) : Prop where
  raw : toRaw i = some (rawMem opc a)
  row : desc i = some d
  form : d.bf = .reg
  first : 0x280 ≤ opc
  last : opc ≤ 0x289

theorem rawMem_opc (opc : Nat) (a : Mem) : (rawMem opc a).opc = BitVec.ofNat 10 opc := by unfold rawMem; split <;> rfl

/-- The third register stands in bits 55:48 of the extension. -/
theorem rawMem_vc (opc : Nat) (a : Mem) : BitVec.ofNat 8 (bits (rawMem opc a).ext.toNat 48 8) = memVc a := by
  unfold rawMem memVc
  split
  · next e =>
    simp only [e, mkRaw, bits, BitVec.toNat_zero, Nat.zero_div, Nat.zero_mod]
    rfl
  · next x e =>
    simp only [e]
    apply BitVec.eq_of_toNat_eq
    have := x.off.isLt; have := x.hint.isLt; have := x.pol.isLt; have := x.tg.isLt; have := x.scope.isLt; have := x.ord.isLt
    have := x.vc.isLt
    simp only [mkRaw, bits, BitVec.toNat_ofNat]
    omega

namespace MemRow

theorem opcOf_eq (h : MemRow i a opc d) : opcOf i = opc := by
  have := h.last
  rw [Machine.opcOf_eq h.raw, rawMem_opc, BitVec.toNat_ofNat, Nat.mod_eq_of_lt (by omega)]

theorem sequential (h : MemRow i a opc d) : Sequential i := by
  have number := h.opcOf_eq
  have := h.first
  have := h.last
  exact .of_opc (by omega) (by omega)

/-- All but the indexed accesses read every source in every active strand. -/
theorem own (h : MemRow i a opc d) (plain : opc ≠ 0x281 ∧ opc ≠ 0x283) : ownReads i = false := by
  have := h.first
  have := h.last
  simp only [ownReads, h.opcOf_eq, decide_eq_false_iff_not, List.mem_cons, List.not_mem_nil, or_false]
  omega

theorem srcRegs_eq (h : MemRow i a opc d) : srcRegs i = d.a.regs a.va ++ d.b.regs a.vb ++ d.c.regs (memVc a) := by
  have := h.first
  have := h.last
  have five : (BitVec.ofNat 10 opc).toNat / 128 = 5 := by rw [BitVec.toNat_ofNat]; omega
  have va : (rawMem opc a).va = a.va := by unfold rawMem; split <;> rfl
  have vb : (rawMem opc a).vb = a.vb := by unfold rawMem; split <;> rfl
  unfold srcRegs hasImm
  rw [h.raw, h.row]
  simp only [h.form, rawMem_opc, five, if_true, rawMem_vc, va, vb]
  simp

theorem reads_eq (h : MemRow i a opc d) (own : ownReads i = false) : t.reads i = t.active i := by
  have := h.first
  have := h.last
  have number : (rawMem opc a).opc.toNat = opc := (Machine.opcOf_eq h.raw).symm.trans h.opcOf_eq
  have notLeader : leaderReads i = false := by
    unfold leaderReads
    split
    · next b => have := h.opcOf_eq; rw [opcOf_movsw] at this; omega
    · simp only [h.raw, number, List.mem_cons, List.not_mem_nil, or_false]
      simp only [Bool.or_eq_false_iff, Bool.and_eq_false_iff, decide_eq_false_iff_not]
      omega
  rw [Machine.reads_eq t i own, notLeader]
  rfl

theorem a_mem (h : MemRow i a opc d) {x : Nat} (named : x ∈ d.a.regs a.va) : x ∈ srcRegs i := by
  rw [h.srcRegs_eq]
  exact List.mem_append_left _ (List.mem_append_left _ named)
theorem b_mem (h : MemRow i a opc d) {x : Nat} (named : x ∈ d.b.regs a.vb) : x ∈ srcRegs i := by
  rw [h.srcRegs_eq]
  exact List.mem_append_left _ (List.mem_append_right _ named)
theorem c_mem (h : MemRow i a opc d) {x : Nat} (named : x ∈ d.c.regs (memVc a)) : x ∈ srcRegs i := by
  rw [h.srcRegs_eq]
  exact List.mem_append_right _ named

end MemRow

/-! ## Addresses -/

theorem PtrFields.ptrSel_eq {sp sel x : Nat} (valid : PtrFields sp sel x) : ptrSel (tagged sp sel x) = sel := by
  obtain ⟨hsp, hsel, -, hx⟩ := valid.ranges
  rw [ptrSel, valid.toNat_tagged, bits]
  omega

theorem MovedBy.ptrAdd_eq {p q : DWord} {d : Int} (moved : MovedBy p d q) : ptrAdd p d = some q := by
  obtain ⟨sp, sel, x, y, before, after, rfl, rfl, sum⟩ := moved
  have place : (x + d).toNat = y := by omega
  rw [before.ptrAdd_eq (by omega) (by rwa [place]), place]

/-- A byte neither poisoned nor, for a read, beyond correction. -/
theorem Need.passes {nd : Need} {psn : Bool} {sp x : Nat} (ok : nd.poison = true → psn = false ∧ Sound s nd sp x) :
    (nd.poison && (psn || nd.flawed s sp x)) = false := by
  cases poison : nd.poison with
  | false => rfl
  | true =>
    obtain ⟨clean, sound⟩ := ok poison
    have good : nd.flawed s sp x = false := by
      unfold Need.flawed
      cases read : nd.read with
      | false => rfl
      | true => rw [Bool.true_and, List.contains_eq_mem, decide_eq_false (sound read)]
    rw [clean, good]
    rfl

theorem contains_false {l : List Nat} {x : Nat} (h : x ∉ l) : l.contains x = false := by
  rw [List.contains_eq_mem, decide_eq_false h]

section
variable {ctx core : Nat} {sup : Bool} {nd : Need} {r : Option Nat} {p q : DWord} {n j : Nat} (moved : ptrAdd p j = some q)
include moved

theorem locByte_mem (space : ptrSpace q = 0) {f : Tlb} (leaf : transFor s ctx sup nd (ptrField q) = .ok f)
    (ok : nd.poison = true → (f.pa + (ptrField q - f.va)) / 4096 ∉ s.memPsn ∧ Sound s nd 0 (f.pa + (ptrField q - f.va))) :
    locByte s ctx core sup nd r p n j = .ok (.mem (f.pa + (ptrField q - f.va)) f) := by
  unfold locByte
  rw [moved]
  dsimp only
  split
  · simp only [leaf, Need.passes (fun p => ⟨contains_false (ok p).1, (ok p).2⟩), Bool.false_eq_true, if_false]
  · next other => rw [other] at space; cases space
  · next other _ => exact absurd space other

theorem locByte_scr (space : ptrSpace q = 1) (alloc : inAlloc s ctx (peerCore core (ptrSel q)) (ptrField q) = true)
    (ok : nd.poison = true → (peerCore core (ptrSel q) * 2 ^ 19 + ptrField q) / 8 ∉ s.scrPsn ∧
      Sound s nd 1 (peerCore core (ptrSel q) * 2 ^ 19 + ptrField q)) :
    locByte s ctx core sup nd r p n j = .ok (.scr (peerCore core (ptrSel q) * 2 ^ 19 + ptrField q)) := by
  unfold locByte
  rw [moved]
  dsimp only
  split
  · next other => rw [other] at space; cases space
  · simp only [alloc, Bool.not_true, Need.passes (fun p => ⟨contains_false (ok p).1, (ok p).2⟩), Bool.false_eq_true, if_false]
  · next _ other => exact absurd space other

theorem locByte_crv (space : ptrSpace q = 2) (window : inWindow s ctx (ptrSel q) (ptrField p) n = true)
    (ok : nd.poison = true → (ptrSel q * 2 ^ 34 + ptrField q) / 64 ∉ s.crvPsn ∧ Sound s nd 2 (ptrSel q * 2 ^ 34 + ptrField q)) :
    locByte s ctx core sup nd r p n j = .ok (.crv (ptrSel q * 2 ^ 34 + ptrField q)) := by
  unfold locByte
  rw [moved]
  dsimp only
  split
  · next other => rw [other] at space; cases space
  · next other => rw [other] at space; cases space
  · simp only [window, Bool.not_true, Need.passes (fun p => ⟨contains_false (ok p).1, (ok p).2⟩), Bool.false_eq_true, if_false]

end

/-- A byte that passes every test. -/
theorem ByteAt.locByte_eq {nd : Need} {q : DWord} {n j : Nat} {l : Loc} (at_ : ByteAt s t nd q n j l) (r : Option Nat) :
    locByte s (s.ctxOf t) t.core (s.isSup t) nd r q n j = .ok l := by
  obtain ⟨sp, sel, x, first, valid, rfl, place⟩ := at_
  obtain ⟨q, moved, space, field, select⟩ : ∃ q, ptrAdd (tagged sp sel x) j = some q ∧ ptrSpace q = sp ∧ ptrField q = x + j ∧ ptrSel q = sel := by
    refine ⟨tagged sp sel (x + j), ?_, valid.ptrSpace_eq, valid.ptrField_eq, valid.ptrSel_eq⟩
    rw [first.ptrAdd_eq (by omega) (by rwa [← Nat.cast_add, Int.toNat_natCast]), ← Nat.cast_add, Int.toNat_natCast]
  rw [← field, ← select, ← first.ptrField_eq] at place
  rcases place with ⟨zero, f, leaf, rfl, ok⟩ | ⟨one, alloc, rfl, ok⟩ | ⟨two, window, rfl, ok⟩
  · exact locByte_mem moved (space.trans zero) leaf ok
  · exact locByte_scr moved (space.trans one) alloc ok
  · exact locByte_crv moved (space.trans two) window ok

/-- An access all of whose bytes pass every test. -/
theorem Located.places_eq {nd : Need} {q : DWord} {n : Nat} {ls : List Loc} (located : Located s t nd q n ls) (k : Nat) :
    Run.places ⟨s, t, i, t.active i⟩ k nd q n = .ok ls := by
  obtain ⟨rfl, bytes⟩ := located
  have all := V.all_ok (List.range ls.length) (fun j => locByte s (s.ctxOf t) t.core (s.isSup t) nd (some k) q ls.length j)
    (fun j => ls.getD j (.scr 0)) (fun j below => by
      have lt := List.mem_range.mp below
      rw [(bytes j lt).locByte_eq, List.getD_eq_getElem _ _ lt])
  refine all.trans (congrArg V.ok (List.ext_getElem (by simp) fun j _ lt => ?_))
  rw [List.getElem_map, List.getElem_range, List.getD_eq_getElem _ _ lt]

namespace MemRow

/-- The pointer pair of a strand. -/
theorem pair (h : MemRow i a opc d) (ua : d.a = .p) (own : ownReads i = false) (r : Ready i s t) {k : Nat} (act : k ∈ t.active i) :
    Run.pair ⟨s, t, i, t.active i⟩ k a.va = .ok (t.pair k a.va.toNat) :=
  r.pair (h.reads_eq own ▸ act) (h.a_mem (ua ▸ RU.mem_p _)) (h.a_mem (ua ▸ RU.succ_mem_p _))

/-- A strand's own pointer (R188). -/
theorem ea_eq (h : MemRow i a opc d) (ua : d.a = .p) (own : ownReads i = false) (r : Ready i s t) {k : Nat} (act : k ∈ t.active i) {q : DWord}
    (ptr : ownPtr a t k q) : Run.ea ⟨s, t, i, t.active i⟩ k a.va (memOff a) = .ok q := by
  unfold Run.ea
  rw [h.pair ua own r act, V.bind_ok, ptr.ptrAdd_eq]

/-- The pointer of an indexed form (R192). -/
theorem indexed_eq (h : MemRow i a opc d) (ua : d.a = .p) (r : Ready i s t) {ix : RegField} (named : ix.toNat ∈ srcRegs i) {n l k : Nat}
    (lead : (t.active i).head? = some l) {q : DWord} (ptr : indexPtr i a ix n t k q) :
    indexed ⟨s, t, i, t.active i⟩ a ix n l k = .ok q := by
  obtain ⟨l', lead', low, high, index, moved⟩ := ptr
  obtain rfl : l = l' := Option.some.inj (lead.symm.trans lead')
  have pair : Run.pair ⟨s, t, i, t.active i⟩ l a.va = .ok (t.pair l a.va.toNat) :=
    pairV_ok (r.below (h.a_mem (ua ▸ RU.mem_p _))) (r.below (h.a_mem (ua ▸ RU.succ_mem_p _))) low high
  have reg : Run.reg ⟨s, t, i, t.active i⟩ k ix = .ok (t.val k ix.toNat) := by
    unfold Run.reg
    rw [regV_ok (r.below named) index]
    rfl
  unfold indexed
  rw [pair, reg, V.both_ok, V.bind_ok, moved.ptrAdd_eq]

/-- A strong access's place (R195). -/
theorem strongAt_eq (h : MemRow i a opc d) (ua : d.a = .p) (own : ownReads i = false) (r : Ready i s t) {k : Nat} (act : k ∈ t.active i) {q : DWord}
    {write read : Bool} {ls : List Loc} (ptr : strongPtr a t k q) (located : Located s t (needStrong write read) q (strongBytes a) ls) :
    Run.strongAt ⟨s, t, i, t.active i⟩ k a write read = .ok ls := by
  obtain ⟨own_ptr, aligned⟩ := ptr
  unfold Run.strongAt Run.alignedAt
  simp only [h.pair ua own r act, V.bind_ok, own_ptr.ptrAdd_eq, Option.getD_some, aligned, decide_true, V.test_true,
    h.ea_eq ua own r act own_ptr, located.places_eq, V.both_ok, V.map_ok]

end MemRow

/-! ## The bytes of a store -/

theorem leBytes_word (v : Word) : leBytes 4 v.toNat = (List.range 4).map (fun j => v.extractLsb' (8 * j) 8) := by
  have byte (j : Nat) : BitVec.ofNat 8 (v.toNat / 2 ^ (8 * j)) = v.extractLsb' (8 * j) 8 := by
    apply BitVec.eq_of_toNat_eq
    rw [BitVec.toNat_ofNat, BitVec.extractLsb'_toNat, Nat.shiftRight_eq_div_pow]
  simp only [leBytes, Nat.div_div_eq_div_mul, List.range_succ, List.range_zero, List.nil_append, List.cons_append, List.map_cons, List.map_nil, ← byte]
  norm_num

theorem flatMap_leBytes (v : Nat → Word) (m : Nat) :
    (List.range m).flatMap (fun j => leBytes 4 (v j).toNat) = (List.range (4 * m)).map (fun j => (v (j / 4)).extractLsb' (8 * (j % 4)) 8) := by
  induction m with
  | zero => rfl
  | succ m ih =>
    rw [List.range_succ, List.flatMap_append, ih, Nat.mul_succ, List.range_add, List.map_append, List.flatMap_singleton, leBytes_word, List.map_map]
    congr 1
    refine List.map_congr_left fun j below => ?_
    have := List.mem_range.mp below
    rw [Function.comp, show (4 * m + j) / 4 = m by omega, show (4 * m + j) % 4 = j by omega]

/-- The bytes a store takes from registers free of poison (Table 10-2). -/
theorem Ready.data_eq (r : Ready i s t) {k : Nat} {f : RegField} {n : Nat} (named : ∀ j < max 1 (n / 4), f.toNat + j ∈ srcRegs i)
    (clean : ∀ j < max 1 (n / 4), t.clean k (f.toNat + j)) (width : n ≤ 4 * max 1 (n / 4)) :
    Run.data ⟨s, t, i, t.active i⟩ k f n = .ok (stored t k f n) := by
  have regs : V.all ((List.range (max 1 (n / 4))).map (fun j => regV t k (f.toNat + j))) =
      .ok ((List.range (max 1 (n / 4))).map (fun j => (t.strand k).reg (f.toNat + j))) :=
    V.all_ok _ _ _ (fun j below => regV_ok (r.below (named j (List.mem_range.mp below))) (clean j (List.mem_range.mp below)))
  unfold Run.data
  rw [regs, V.map_ok, List.flatMap_map]
  refine congrArg V.ok ((congrArg (List.take n) (flatMap_leBytes (fun j => t.val k (f.toNat + j)) _)).trans ?_)
  rw [← List.map_take, List.take_range, Nat.min_eq_left width]
  rfl

/-! ## The registers of a load -/

theorem leNat_div (bs : List Byte) (j : Nat) : leNat bs / 256 ^ j = leNat (bs.drop j) := by
  induction j generalizing bs with
  | zero => rw [Nat.pow_zero, Nat.div_one, List.drop_zero]
  | succ j ih =>
    cases bs with
    | nil => simp [leNat]
    | cons b bs =>
      have := b.isLt
      rw [List.drop_succ_cons, ← ih, Nat.pow_succ', ← Nat.div_div_eq_div_mul, leNat]
      congr 1
      omega

theorem leNat_cut (bs : List Byte) : leNat bs = (nth 0 bs 0).toNat + 256 * leNat (bs.drop 1) := by cases bs <;> rfl

/-- A word of a number's bytes. -/
theorem word_leNat (bs : List Byte) (j : Nat) :
    word (leNat bs / 2 ^ (32 * j)) = nth 0 bs (4 * j + 3) ++ nth 0 bs (4 * j + 2) ++ nth 0 bs (4 * j + 1) ++ nth 0 bs (4 * j) := by
  have cut (m : Nat) : leNat (bs.drop m) = (nth 0 bs m).toNat + 256 * leNat (bs.drop (m + 1)) := by
    rw [leNat_cut, List.drop_drop]
    simp [nth]
  refine Eq.trans ?_ (word_of_bytes (fun m => nth 0 bs (4 * j + m)))
  rw [Nat.pow_mul, show 2 ^ 32 = 256 ^ 4 by rfl, ← Nat.pow_mul, leNat_div, cut, cut, cut, cut]
  apply BitVec.eq_of_toNat_eq
  simp only [word, BitVec.toNat_ofNat, Nat.add_assoc, Nat.reduceAdd, Nat.add_zero]
  omega

/-- A value of one or two bytes, extended. -/
theorem word_extended {w : Nat} (v : BitVec w) (sx : Bool) :
    word (if sx then wrap (sint v.toNat w) 32 else v.toNat) = if sx then v.signExtend 32 else v.setWidth 32 := by
  cases sx
  · exact BitVec.ofNat_toNat 32 v
  · simp only [if_true, word_wrap, sint_eq_toInt]
    rfl

/-- The registers a load writes, from the bytes it reads (Table 10-2, R193). -/
theorem loadOut_eq (vd : RegField) (sx : Bool) (tag : BitVec 4) {n : Nat} {bs : List Byte} (length : bs.length = n)
    (width : n = 1 ∨ n = 2 ∨ 4 ≤ n) : loadOut vd n sx tag (leNat bs) = loaded vd sx tag bs := by
  unfold loadOut loaded
  rcases width with rfl | rfl | wide
  · obtain ⟨b, rfl⟩ := List.length_eq_one_iff.mp length
    have value : leNat [b] = b.toNat := rfl
    simp only [value, show 1 < 4 by decide, if_true, length, word_extended b sx]
    rfl
  · obtain ⟨b, c, rfl⟩ := List.length_eq_two.mp length
    have value : leNat [b, c] = (c ++ b).toNat := by
      rw [BitVec.toNat_append, Nat.shiftLeft_eq, Nat.mul_comm, ← Nat.two_pow_add_eq_or_of_lt b.isLt]
      simp only [leNat]
      omega
    simp only [value, show 2 < 4 by decide, show ¬2 = 1 by decide, if_true, if_false, length]
    rw [word_extended (c ++ b) sx]
    rfl
  · rw [if_neg (by omega), if_neg (by omega), if_neg (by omega), length]
    congr 1
    exact List.map_congr_left fun j _ => by rw [word_leNat]

end Sys2Proof.Machine
end

section
/-! SUPPORT. What making an access ready, and the access itself, leave of the teams: only answers have reached them (R207, R334). -/

namespace Sys2Proof.Machine

variable {o s s1 : State} {t : Team}

/-- `s` comes from `o` with nothing done to the teams but answers that reached them. -/
def Onward (o s : State) : Prop := Alike o o.teams s s.teams

theorem Onward.refl (s : State) : Onward s s := Alike.refl

theorem Echo.onward {p p' : State} (h : Echo o o.teams p p') : Onward o p := by
  obtain ⟨T, -, g, here, there, kept⟩ := h
  exact ⟨g, here, here, kept⟩
theorem EchoWith.onward {α : Type} {p p' : State × α} (h : EchoWith o o.teams p p') : Onward o p.1 := h.fst.onward

namespace Onward

theorem groups (h : Onward o s) : s.groups = o.groups := by
  obtain ⟨g, -, -, kept⟩ := h
  exact congrArg Prod.fst kept
theorem time (h : Onward o s) : s.time = o.time := by
  obtain ⟨g, -, -, kept⟩ := h
  exact congrArg (·.2.1) kept
theorem devid (h : Onward o s) : s.devid = o.devid := by
  obtain ⟨g, -, -, kept⟩ := h
  exact congrArg (·.2.2) kept
theorem ctxOf (h : Onward o s) (t : Team) : s.ctxOf t = o.ctxOf t := by
  unfold State.ctxOf State.group
  rw [h.groups]
theorem qOf (h : Onward o s) (t : Team) : s.qOf t = o.qOf t := qOf_eq t h.groups

/-- A team that has nothing under way keeps all but the counts of its subscription requests. -/
theorem team (h : Onward o s) (mine : o.team t.hnd = some t) (idle : t.rmw = none) : ∃ l, s.team t.hnd = some { t with subs := l } := by
  obtain ⟨g, here, -, -⟩ := h
  have same : (fun x : Team => x.hnd == t.hnd) ∘ g.on = fun x => x.hnd == t.hnd := rfl
  refine ⟨g.subs t.hnd t.subs, ?_⟩
  unfold State.team at mine ⊢
  rw [here, List.find?_map, same, mine, Option.map_some, Answers.on, idle, Option.map_none]

/-- A later step that leaves the teams alone. -/
theorem keep (h : Onward o s) (teams : s1.teams = s.teams) (still : s1.still = s.still) : Onward o s1 := by
  unfold Onward
  rw [teams]
  exact Alike.keep h teams still

/-- A function that does not read the teams. -/
theorem through (h : Onward o s) {Y : List Team → State} (teams : ∀ U, Y U = s1.withTeams U) (still : s1.still = s.still)
    (self : Y s.teams = s1 := by rfl) : Onward o s1 :=
  h.keep (by rw [← self, teams]; rfl) still

end Onward

theorem withTeams_self (s : State) : s.withTeams s.teams = s := rfl

section
variable (core : Nat)

theorem prepRead_onward (h : Onward o s) (ctx : Nat) (u : CacheUse) (ls : List Loc) : Onward o (prepRead s core ctx u ls).1 :=
  (prepRead_echo core h ctx u ls).onward
theorem prepWrite_onward (h : Onward o s) (ctx : Nat) (u : CacheUse) (ls : List Loc) : Onward o (prepWrite s core ctx u ls).1 :=
  (prepWrite_echo core h ctx u ls).onward
theorem writeLocs_onward (h : Onward o s) (hnd q : Nat) (ls : List (Loc × Byte)) : Onward o (writeLocs s hnd q core ls) :=
  (writeLocs_echo core h hnd q ls).onward
theorem noteOlder_onward (h : Onward o s) (ls : List Loc) : Onward o (noteOlder s ls) :=
  h.through (fun U => noteOlder_withTeams s U ls) (noteOlder_still ..)
theorem memCharge_onward (h : Onward o s) (q n : Nat) : Onward o (memCharge s core q n) :=
  h.keep rfl rfl
theorem endAccess_onward (h : Onward o s) (ls : List Loc) : Onward o (endAccess s core ls) :=
  h.through (fun U => endAccess_withTeams s U core ls) (endAccess_still ..)
end

/-- Passes made ready one after another, until one waits. -/
theorem foldl_onward {α β : Type} {f : State → α → State × List β} (step : ∀ s x, Onward o s → Onward o (f s x).1) (l : List α) {r : State × List β}
    (h : Onward o r.1) : Onward o (l.foldl (fun r x => if !r.2.isEmpty then r else f r.1 x) r).1 := by
  induction l generalizing r with
  | nil => exact h
  | cons x l ih =>
    refine ih ?_
    dsimp only
    split
    · exact h
    · exact step r.1 x h

/-- Where the accesses are ready, only answers have reached the teams. -/
theorem prepAccess_onward {write : Bool} {u : CacheUse} {xs : List Access} (ready : (prepAccess s t write u xs).2 = true) :
    Onward s (prepAccess s t write u xs).1 := by
  revert ready
  unfold prepAccess
  extract_lets ls n q ctx miss passes r
  have prepared : Onward s r.1 := by
    refine foldl_onward (r := (s, [])) (f := fun s ls => if write then prepWrite s t.core ctx u ls else prepRead s t.core ctx u ls)
      (fun s x h => ?_) passes (.refl s)
    cases write with
    | true => exact prepWrite_onward _ h _ _ _
    | false => exact prepRead_onward _ h _ _ _
  split_ifs with early wait room missed <;> intro ready
  · cases ready
  · cases ready
  · cases ready
  · cases ready
  · exact prepared
  · exact memCharge_onward _ prepared ..

end Sys2Proof.Machine
end

section
/-! PROOF. The loads of O18 and O19 (R191 to R193, R196). -/

namespace Sys2Proof.Machine

variable {i : Instr} {s s1 : State} {t u : Team} {a : Mem} {d : Desc} {body : Run → Res} {n : Nat}

theorem team_setTeam {h : Nat} {f : Team → Team} (mine : s.team h = some u) (kept : (f u).hnd = h) : (s.setTeam h f).team h = some (f u) := by
  unfold State.team State.setTeam at *
  dsimp only
  generalize s.teams = l at *
  induction l with
  | nil => cases mine
  | cons x l ih =>
    by_cases first : x.hnd = h
    · rw [List.find?_cons_of_pos (by simpa using first)] at mine
      obtain rfl := Option.some.inj mine
      rw [List.map_cons, if_pos first, List.find?_cons_of_pos (by simpa using kept)]
    · rw [List.find?_cons_of_neg (by simpa using first)] at mine
      rw [List.map_cons, if_neg first, List.find?_cons_of_neg (by simpa using first)]
      exact ih mine

/-- The outcomes of strands, where each has one. -/
theorem gives_eq {ks : List Nat} (nodup : ks.Nodup) (o : Nat → Out) :
    s.setTeam t.hnd (fun x => writeOuts x ks (ks.map o)) = gives s t ks o := by
  unfold gives
  congr 1
  funext x
  exact writeOuts_eq ks nodup o x

/-- An effect that only answers, and outcomes of strands, leave on the team. -/
theorem Sequential.completesIn_gives (q : Sequential i) (r : Ready i s t) (run : exec i s = runI i body s) (h : Onward s s1) {o : Nat → Out}
    {ws : List (Nat × List Nat)} {xs : Option (List (Nat × Nat))}
    (outcome : body ⟨s, t, i, t.active i⟩ = .done { Done.seq (gives s1 t (t.active i) o) with writes := ws, reads := xs }) :
    CompletesIn i s t (gives s1 t (t.active i) o) := by
  obtain ⟨l, mine⟩ := h.team r.self r.fresh
  refine ⟨_, team_setTeam (f := fun x => perStrand x (t.active i) o) mine rfl, ?_⟩
  exact q.completes r run outcome (team_setTeam (f := fun x => perStrand x (t.active i) o) mine rfl) ⟨rfl, rfl, rfl, rfl, r.running⟩ h.time

/-! ## Plain loads -/

/-- An access that reads is ready, or not. -/
theorem whenReady_load {c : Run} {u : CacheUse} {xs : List Access} {f : State → Res} : whenReady c false u xs f =
    if (prepAccess c.s c.t false u xs).2 then f (prepAccess c.s c.t false u xs).1 else .hold (prepAccess c.s c.t false u xs).1 := by
  unfold whenReady
  simp only [Bool.false_eq_true, if_false]
  cases (prepAccess c.s c.t false u xs).2 <;> rfl

theorem loadRow_idle {c : Run} (idle : c.act = []) {addr : Nat → V DWord} {nd : Need} {reads : List (Nat × Nat)} :
    loadRow a n addr nd reads c = .done { Done.seq c.s with reads := some reads } := by
  unfold loadRow
  rw [idle]
  rfl

/-- A load whose places all pass their tests. -/
theorem loadRow_eq {c : Run} {addr : Nat → V DWord} {nd : Need} {reads : List (Nat × Nat)} {L : Nat → List Loc} (active : c.act ≠ [])
    (places : ∀ k ∈ c.act, (addr k).bind (fun q => c.places k nd q n) = .ok (L k)) :
    loadRow a n addr nd reads c = whenReady c false (cacheUse c a true) (accesses c.act L (fun _ => [])) (fun s =>
      let os := (accesses c.act L (fun _ => [])).map (fun x => loadOut a.vd n (topBit a.m) (memTag a) (leNat (x.ls.map (readPlain s c.t))))
      .done { Done.seq (c.give (endAccess s c.core (placesOf (accesses c.act L (fun _ => [])))) os) with
        writes := wroteIn c.act os, reads := some reads }) := by
  have all := V.all_ok c.act (fun k => (addr k).bind (fun q => (c.places k nd q n).map (fun ls => (⟨k, ls, []⟩ : Access)))) (fun k => ⟨k, L k, []⟩)
    (fun k act => by
      have place := places k act
      cases e : addr k with
      | bad t => rw [e] at place; cases place
      | ok q => rw [e, V.bind_ok] at place; rw [V.bind_ok, place, V.map_ok])
  unfold loadRow
  rw [all, V.res_ok, if_neg (by simpa using active)]
  rfl

theorem Located.length {nd : Need} {q : DWord} {ls : List Loc} (h : Located s t nd q n ls) : ls.length = n := h.1

/-- A load in some active strand (R191 to R193). -/
theorem Sequential.loads (q : Sequential i) (r : Ready i s t) (run : exec i s = runI i body s) {addr : Nat → V DWord} {nd : Need}
    {reads : List (Nat × Nat)} (row : body ⟨s, t, i, t.active i⟩ = loadRow a n addr nd reads ⟨s, t, i, t.active i⟩) {L : Nat → List Loc}
    (active : t.active i ≠ []) (width : n = 1 ∨ n = 2 ∨ 4 ≤ n) (length : ∀ k ∈ t.active i, (L k).length = n)
    (places : ∀ k ∈ t.active i, (addr k).bind (fun q => Run.places ⟨s, t, i, t.active i⟩ k nd q n) = .ok (L k)) :
    let xs := accesses (t.active i) L (fun _ => [])
    let r := prepAccess s t false (cached t a true) xs
    if r.2 then CompletesIn i s t (gives (endAccess r.1 t.core (placesOf xs)) t (t.active i)
      (fun k => loaded a.vd (topBit a.m) (memTag a) (plainRead r.1 t (L k))))
    else Waits i s t id r.1 := by
  intro xs
  have onward := prepAccess_onward (s := s) (t := t) (write := false) (u := cached t a true) (xs := xs)
  have outcome : _ = whenReady ⟨s, t, i, t.active i⟩ false (cached t a true) xs _ := row.trans (loadRow_eq active places)
  rw [whenReady_load] at outcome
  dsimp only at outcome ⊢
  generalize prepAccess s t false (cached t a true) xs = p at *
  split_ifs with ready
  · rw [if_pos ready] at outcome
    have values : xs.map (fun x => loadOut a.vd n (topBit a.m) (memTag a) (leNat (x.ls.map (readPlain p.1 t)))) =
        (t.active i).map (fun k => loaded a.vd (topBit a.m) (memTag a) (plainRead p.1 t (L k))) := by
      rw [show xs = (t.active i).map _ from rfl, List.map_map]
      exact List.map_congr_left fun k act => loadOut_eq _ _ _ (by rw [List.length_map]; exact length k act) width
    have written := gives_eq (s := endAccess p.1 t.core (placesOf xs)) (t := t) (active_nodup t i)
      (fun k => loaded a.vd (topBit a.m) (memTag a) (plainRead p.1 t (L k)))
    rw [← values] at written
    exact q.completesIn_gives r run (endAccess_onward _ (onward ready) _) (outcome.trans (congrArg (fun s => Res.done { Done.seq s with
      writes := _, reads := _ }) written))
  · rw [if_neg ready] at outcome
    exact q.waits r run outcome

/-! ## `LD` and `LDX` -/

theorem exec_ld (a : Mem) (s : State) : exec (.ld a) s = execLd a s := rfl
theorem exec_ldx (a : Mem) (s : State) : exec (.ldx a) s = execLdx a s := rfl

theorem width_pow (w : Nat) : 2 ^ w = 1 ∨ 2 ^ w = 2 ∨ 4 ≤ 2 ^ w := by
  rcases w with _ | _ | w
  · exact .inl rfl
  · exact .inr (.inl rfl)
  · have := Nat.two_pow_pos w
    have : 2 ^ (w + 1 + 1) = 4 * 2 ^ w := by ring
    omega

theorem ld_loads (a : Mem) : Loads (.ld a) a (2 ^ subOf3 a.m) Need.rd (topBit a.m) (ownPtr a) := by
  intro s t Q L r
  have row : MemRow (.ld a) a 0x280 _ := ⟨rfl, rfl, rfl, by decide, by decide⟩
  refine ⟨fun idle => row.sequential.idle r (exec_ld a s) (loadRow_idle idle), fun active places => ?_⟩
  refine row.sequential.loads r (exec_ld a s) rfl active (width_pow _) (fun k act => (places k act).2.length) (fun k act => ?_)
  obtain ⟨ptr, located⟩ := places k act
  rw [row.ea_eq rfl (row.own (by decide)) r act ptr]
  exact located.places_eq k

theorem ldx_loads (a : Mem) : Loads (.ldx a) a (2 ^ subOf3 a.m) Need.rd (topBit a.m) (indexPtr (.ldx a) a a.vb (2 ^ subOf3 a.m)) := by
  intro s t Q L r
  have row : MemRow (.ldx a) a 0x281 _ := ⟨rfl, rfl, rfl, by decide, by decide⟩
  constructor
  · intro idle
    exact row.sequential.idle r (xs := some []) (ws := []) (exec_ldx a s) (by simp only [Run.lead, idle, List.head?_nil]; rfl)
  intro active places
  obtain ⟨l, lead⟩ := Option.isSome_iff_exists.mp (List.isSome_head?.mpr active)
  refine row.sequential.loads r (exec_ldx a s) (by simp only [Run.lead, lead]; rfl) active (width_pow _) (fun k act => (places k act).2.length)
    (fun k act => ?_)
  obtain ⟨ptr, located⟩ := places k act
  refine (congrArg (V.bind · _) (row.indexed_eq rfl r (row.b_mem (RU.mem_r a.vb)) lead ptr)).trans ?_
  exact located.places_eq k

end Sys2Proof.Machine
end

section
/-! SUPPORT. The release of a store, and the plain stores that are made together (R66, R194, R300). -/

namespace Sys2Proof.Machine

variable {i : Instr} {s s1 : State} {t u : Team} {a : Mem} {d : Desc} {body : Run → Res} {n : Nat}

theorem releasePrep_onward {u : CacheUse} {xs : List Access} (ready : (releasePrep s t u xs).2 = true) : Onward s (releasePrep s t u xs).1 := by
  revert ready
  unfold releasePrep
  extract_lets r
  have prepared : r.2 = true → Onward s r.1 := prepAccess_onward
  split_ifs
  · exact prepared
  · split
    · exact prepared
    · exact nofun
    · exact nofun

theorem releaseEnd_still (xs : List Access) (late : List (Loc × Byte)) : (releaseEnd s t xs late).still = s.still := by
  unfold releaseEnd
  extract_lets pas rec next
  split_ifs <;> rfl

/-- After its release the team has one more store that is to be accepted, or none. -/
theorem releaseEnd_team (mine : s.team t.hnd = some u) (xs : List Access) (late : List (Loc × Byte)) :
    ∃ l, (releaseEnd s t xs late).team t.hnd = some { u with rel := l } := by
  unfold releaseEnd
  extract_lets pas rec next
  split_ifs
  · exact ⟨u.rel, mine⟩
  · exact ⟨_, team_setTeam (s := next) (f := fun t => { t with rel := t.rel ++ [rec] }) mine (State.team_hnd (s := s) (t := u) mine)⟩

/-- A plain store completes. -/
theorem Sequential.completesIn_store (q : Sequential i) (r : Ready i s t) (run : exec i s = runI i body s) (h : Onward s s1) {xs : List Access}
    {reads : Option (List (Nat × Nat))} (outcome : body ⟨s, t, i, t.active i⟩ = .done { Done.seq (storePlain s1 t xs) with reads := reads }) :
    CompletesIn i s t (storePlain s1 t xs) := by
  have written (cells : List (Loc × Byte)) : Onward s (writeLocs (noteOlder s1 (placesOf xs)) t.hnd (s1.qOf t) t.core cells) :=
    writeLocs_onward _ (noteOlder_onward h _) ..
  obtain ⟨l, mine⟩ := (written _).team r.self r.fresh
  obtain ⟨rel, after⟩ := releaseEnd_team mine xs _
  exact ⟨_, after, q.completes r run (ws := []) outcome after ⟨rfl, rfl, rfl, rfl, r.running⟩
    ((congrArg (·.2.1) (releaseEnd_still ..)).trans (written _).time)⟩

/-- An access that is ready, or not. -/
theorem whenReady_store {c : Run} {u : CacheUse} {xs : List Access} {f : State → Res} :
    whenReady c true u xs f = if (releasePrep c.s c.t u xs).2 then f (releasePrep c.s c.t u xs).1 else .hold (releasePrep c.s c.t u xs).1 := by
  unfold whenReady
  simp only [if_true]
  cases (releasePrep c.s c.t u xs).2 <;> rfl

end Sys2Proof.Machine
end

section
/-! SUPPORT. Strands that act in turn (R195, R299, R334): the instruction in progress, as `seqStep` takes it strand by strand, against `inTurn`, which
speaks of no team. The two states differ in what the team of the instruction holds. -/

namespace Sys2Proof.Machine

variable {i : Instr} {s s1 s2 : State} {t x : Team} {h : Nat} {todo : List (Nat × List Loc × Nat × Nat)}

/-! ## Two lists of teams that differ in the teams of one handle -/

/-- The same teams, but for those of a handle. -/
def SameBut (h : Nat) (A B : List Team) : Prop := List.Forall₂ (fun a b => a = b ∨ a.hnd = h ∧ b.hnd = h) A B

theorem SameBut.refl (A : List Team) : SameBut h A A := List.forall₂_same.mpr fun _ _ => .inl rfl

/-- What answers do keeps it. -/
theorem SameBut.answers {A B : List Team} (same : SameBut h A B) (g : Answers) : SameBut h (A.map g.on) (B.map g.on) := by
  unfold SameBut
  rw [List.forall₂_map_left_iff, List.forall₂_map_right_iff]
  refine List.Forall₂.imp (fun a b alike => ?_) same
  rcases alike with rfl | mine
  · exact .inl rfl
  · exact .inr mine

/-- A change of the teams of the handle keeps it. -/
theorem SameBut.change {A B : List Team} (same : SameBut h A B) {f : Team → Team} (kept : ∀ x, x.hnd = h → (f x).hnd = h) :
    SameBut h A (B.map (fun x => if x.hnd = h then f x else x)) := by
  unfold SameBut
  rw [List.forall₂_map_right_iff]
  refine List.Forall₂.imp (fun a b alike => ?_) same
  rcases alike with rfl | ⟨mine, yours⟩
  · by_cases mine : a.hnd = h
    · exact .inr ⟨mine, by rw [if_pos mine]; exact kept a mine⟩
    · exact .inl (if_neg mine).symm
  · exact .inr ⟨mine, by rw [if_pos yours]; exact kept b yours⟩

theorem SameBut.symm {A B : List Team} (same : SameBut h A B) : SameBut h B A := by
  refine List.Forall₂.flip (List.Forall₂.imp (fun a b alike => ?_) same)
  rcases alike with rfl | ⟨mine, yours⟩
  · exact .inl rfl
  · exact .inr ⟨yours, mine⟩

/-- Changes of the teams of the handle on both sides. -/
theorem SameBut.both {A B : List Team} (same : SameBut h A B) {f g : Team → Team} (kept : ∀ x, x.hnd = h → (f x).hnd = h)
    (kept' : ∀ x, x.hnd = h → (g x).hnd = h) :
    SameBut h (A.map (fun x => if x.hnd = h then f x else x)) (B.map (fun x => if x.hnd = h then g x else x)) :=
  ((same.change kept').symm.change kept).symm

/-- Put one team for the handle, and they are the same. -/
theorem SameBut.put {A B : List Team} (same : SameBut h A B) (u : Team) :
    A.map (fun x => if x.hnd = h then u else x) = B.map (fun x => if x.hnd = h then u else x) := by
  induction same with
  | nil => rfl
  | cons alike _ ih =>
    rw [List.map_cons, List.map_cons, ih]
    rcases alike with rfl | ⟨mine, yours⟩
    · rfl
    · rw [if_pos mine, if_pos yours]

/-! ## The instruction in progress -/

/-- In `s2` the team `h` is in the middle of an instruction, with `todo` to come and `got` done. In `s1` it stands as `x`, and runs. -/
structure InTurn (h : Nat) (todo : List (Nat × List Loc × Nat × Nat)) (got : List (Nat × Nat × Flags)) (x : Team) (s1 s2 : State) : Prop where
  rest : s2 = s1.withTeams s2.teams
  others : SameBut h s1.teams s2.teams
  idle : x.rmw = none
  runs : x.status = .run
  before : s1.team h = some x
  now : ∃ st, s2.team h = some { x with rmw := some ⟨todo, got, none⟩, status := st }

namespace InTurn

variable {rest : List (Nat × List Loc × Nat × Nat)} {got : List (Nat × Nat × Flags)}

theorem hnd (m : InTurn h todo got x s1 s2) : x.hnd = h := State.team_hnd m.before

/-- A step of the protocol in both. -/
theorem echo (m : InTurn h todo got x s1 s2) {F : State → State} (step : Echo s1 s2.teams (F s1) (F (s1.withTeams s2.teams))) :
    ∃ l, InTurn h todo got { x with subs := l } (F s1) (F s2) ∧ (F s1).still = s1.still := by
  obtain ⟨T, there, g, here, rfl, kept⟩ := step
  rw [← m.rest] at there
  obtain ⟨st, now⟩ := m.now
  have sameH : (fun x : Team => x.hnd == h) ∘ g.on = fun x => x.hnd == h := rfl
  refine ⟨g.subs h x.subs, ⟨?_, ?_, m.idle, m.runs, ?_, st, ?_⟩, kept⟩
  · rw [there]; rfl
  · rw [there, here]; exact m.others.answers g
  · have found := m.before
    unfold State.team at found ⊢
    rw [here, List.find?_map, sameH, found, Option.map_some, Answers.on, m.idle, Option.map_none, m.hnd]
  · unfold State.team at now ⊢
    rw [there]
    dsimp only [State.withTeams]
    rw [List.find?_map, sameH, now, Option.map_some, Answers.on]
    dsimp only
    rw [Option.map_some, g.unsent _ rfl, m.hnd]

/-- A change of the team in progress alone. -/
theorem change (m : InTurn h todo got x s1 s2) {f : Team → Team} (kept : ∀ y, y.hnd = h → (f y).hnd = h) {got' : List (Nat × Nat × Flags)}
    (now : ∀ st, ∃ st', f { x with rmw := some ⟨todo, got, none⟩, status := st } = { x with rmw := some ⟨rest, got', none⟩, status := st' }) :
    InTurn h rest got' x s1 (s2.setTeam h f) := by
  obtain ⟨st, mine⟩ := m.now
  obtain ⟨st', after⟩ := now st
  refine ⟨?_, m.others.change kept, m.idle, m.runs, m.before, st', ?_⟩
  · rw [m.rest]; rfl
  · rw [team_setTeam mine (kept _ m.hnd), after]

/-- The team runs while its next strand acts. -/
theorem run {y : Team} (m : InTurn h todo got x s1 s2) (now : s2.team h = some y) : InTurn h todo got x s1 (s2.putTeam { y with status := .run }) := by
  obtain ⟨st, mine⟩ := m.now
  obtain rfl := Option.some.inj (now.symm.trans mine)
  have put := m.change (f := fun _ => { x with rmw := some ⟨todo, got, none⟩, status := .run }) (fun _ _ => m.hnd) (fun _ => ⟨.run, rfl⟩)
  rw [← m.hnd] at put ⊢
  exact put

end InTurn

theorem ctxOf_still {t : Team} (still : s2.still = s1.still) : s2.ctxOf t = s1.ctxOf t := by
  have groups : s2.groups = s1.groups := congrArg Prod.fst still
  unfold State.ctxOf State.group
  rw [groups]

theorem readLocs_rest (rest : s2 = s1.withTeams s2.teams) (core ctx : Nat) (ls : List Loc) : readLocs s2 core ctx ls = readLocs s1 core ctx ls := by
  exact congrArg leNat (List.map_congr_left fun l _ => by rw [rest, readLoc_withTeams])

theorem throughSector_rest (rest : s2 = s1.withTeams s2.teams) (die : Nat) (ls : List Loc) : throughSector s2 die ls = throughSector s1 die ls := by
  rw [rest]
  rfl

theorem throughSector_noteOlder (s : State) (die : Nat) (ls ls' : List Loc) : throughSector (noteOlder s ls') die ls = throughSector s die ls := by
  have secs : (noteOlder s ls').secs = s.secs := by
    unfold noteOlder
    split <;> rfl
  unfold throughSector State.sec
  rw [secs]

theorem prepWrite_still (s : State) (core ctx : Nat) (u : CacheUse) (ls : List Loc) : (prepWrite s core ctx u ls).1.still = s.still := by
  obtain ⟨g, -, -, kept⟩ := prepWrite_onward core (.refl s) ctx u ls
  exact kept

/-- Bytes written in both. -/
theorem InTurn.write {got : List (Nat × Nat × Flags)} (m : InTurn h todo got x s1 s2) (core hnd q : Nat) (ls : List Loc) (cells : List (Loc × Byte)) :
    ∃ l, InTurn h todo got { x with subs := l } (writeLocs (noteOlder s1 ls) hnd q core cells) (writeLocs (noteOlder s2 ls) hnd q core cells) ∧
      (writeLocs (noteOlder s1 ls) hnd q core cells).still = s1.still := by
  refine m.echo (F := fun s => writeLocs (noteOlder s ls) hnd q core cells) ?_
  rw [noteOlder_withTeams]
  exact writeLocs_echo core (Alike.refl.through (fun U => noteOlder_withTeams _ U ls) (noteOlder_still ..)) hnd q cells

section
variable {c : Run} {u : CacheUse} {cond so : Bool} {f : Nat → Nat → Nat → Nat → Option Nat × Flags} {n : Nat}
  {e : Nat × List Loc × Nat × Nat} {rest : List (Nat × List Loc × Nat × Nat)} {got : List (Nat × Nat × Flags)}

theorem seqStep_done (m : InTurn c.t.hnd [] got x s1 s2) : seqStep c u cond so f (n + 1) s2 = (s2, true) := by
  obtain ⟨st, mine⟩ := m.now
  rw [seqStep]
  simp only [mine, Option.isSome_none, Bool.false_eq_true, if_false]

/-- The old value of the next strand, and what it does. -/
structure Acts (c : Run) (u : CacheUse) (f : Nat → Nat → Nat → Nat → Option Nat × Flags) (s1 : State) (e : Nat × List Loc × Nat × Nat) (o : Nat)
    (y : Option Nat × Flags) : Prop where
  ready : (prepWrite s1 c.core c.ctx u e.2.1).2 = []
  value : readLocs (prepWrite s1 c.core c.ctx u e.2.1).1 c.core c.ctx e.2.1 = o
  effect : f e.2.1.length o e.2.2.1 e.2.2.2 = y

variable {o : Nat} {y : Option Nat × Flags}

/-- The strand's turn is over. -/
def tookTurn (c : Run) (rest : List (Nat × List Loc × Nat × Nat)) (got : List (Nat × Nat × Flags)) (s : State) : State :=
  s.setTeam c.t.hnd (fun t => { t with rmw := some ⟨rest, got, none⟩ })
/-- The strand's write-through is sent. -/
def sentThrough (c : Run) (todo : List (Nat × List Loc × Nat × Nat)) (got : List (Nat × Nat × Flags)) (q o : Nat) (fl : Flags) (s : State) : State :=
  s.setTeam c.t.hnd (fun t => { t with status := .fabric [q], rmw := some ⟨todo, got, some (s.names, o, fl)⟩ })

/-- The next strand, where it need not wait for permission. -/
theorem seqStep_cons (m : InTurn c.t.hnd (e :: rest) got x s1 s2) (acts : Acts c u f s1 e o y) :
    ∃ l s3, InTurn c.t.hnd (e :: rest) got { x with subs := l } (prepWrite s1 c.core c.ctx u e.2.1).1 s3 ∧
      (prepWrite s1 c.core c.ctx u e.2.1).1.still = s1.still ∧ seqStep c u cond so f (n + 1) s2 = match y.1 with
        | none => seqStep c u cond so f n (tookTurn c rest (got ++ [(e.1, o, y.2)]) s3)
        | some v => match throughSector s3 (dieOf c.core) e.2.1 with
          | some q => seqStep c u cond so f n (storeSector (sentThrough c (e :: rest) got q o y.2 (noteOlder s3 e.2.1)) c.t.hnd
              ((noteOlder s3 e.2.1).qOf c.t) (dieOf c.core) q (globalCells (e.2.1.zip (leBytes e.2.1.length v))) cond so).1
          | none => seqStep c u cond so f n (tookTurn c rest (got ++ [(e.1, o, y.2)]) (writeLocs (noteOlder s3 e.2.1) c.t.hnd
              ((noteOlder s3 e.2.1).qOf c.t) c.core (e.2.1.zip (leBytes e.2.1.length v)))) := by
  obtain ⟨ready, value, effect⟩ := acts
  obtain ⟨st, mine⟩ := m.now
  have running := m.run mine
  obtain ⟨T, there, alike⟩ := prepWrite_echo c.core (Alike.refl (o := s1) (T₀ := (s2.putTeam _).teams)) c.ctx u e.2.1
  obtain ⟨l, after, kept⟩ := running.echo (F := fun s => (prepWrite s c.core c.ctx u e.2.1).1) ⟨T, congrArg Prod.fst there, alike⟩
  rw [← running.rest] at there
  rw [← readLocs_rest after.rest] at value
  refine ⟨l, _, after, kept, ?_⟩
  rw [seqStep]
  simp only [mine, Option.isSome_none, Bool.false_eq_true, if_false, there, ready, List.isEmpty_nil, Bool.not_true]
  rw [there] at value
  dsimp only at value
  rw [value, effect, throughSector_noteOlder]
  rfl

/-- The next strand has its turn. -/
theorem InTurn.took (m : InTurn c.t.hnd (e :: rest) got x s1 s2) (got' : List (Nat × Nat × Flags)) :
    InTurn c.t.hnd rest got' x s1 (tookTurn c rest got' s2) :=
  m.change (f := fun t => { t with rmw := some ⟨rest, got', none⟩ }) (fun _ mine => mine) (fun st => ⟨st, rfl⟩)

/-- A strand that writes nothing, or writes what its die need not write through. -/
theorem seqStep_acts (m : InTurn c.t.hnd (e :: rest) got x s1 s2) (acts : Acts c u f s1 e o y)
    (direct : ∀ v, y.1 = some v → throughSector (prepWrite s1 c.core c.ctx u e.2.1).1 (dieOf c.core) e.2.1 = none) :
    let p := (prepWrite s1 c.core c.ctx u e.2.1).1
    let S := match y.1 with
      | some v => writeLocs (noteOlder p e.2.1) c.t.hnd (p.qOf c.t) c.core (e.2.1.zip (leBytes e.2.1.length v))
      | none => p
    ∃ l s3, InTurn c.t.hnd rest (got ++ [(e.1, o, y.2)]) { x with subs := l } S s3 ∧ S.still = s1.still ∧
      seqStep c u cond so f (n + 1) s2 = seqStep c u cond so f n s3 := by
  obtain ⟨l, s3, m', kept, step⟩ := seqStep_cons (f := f) (cond := cond) (so := so) (n := n) m acts
  obtain ⟨effect, fl⟩ := y
  cases effect with
  | none => exact ⟨l, _, m'.took _, kept, step⟩
  | some v =>
    have through := (throughSector_rest m'.rest (dieOf c.core) e.2.1).trans (direct v rfl)
    have q : (noteOlder s3 e.2.1).qOf c.t = (prepWrite s1 c.core c.ctx u e.2.1).1.qOf c.t :=
      qOf_eq c.t (by
        rw [m'.rest, noteOlder_withTeams]
        exact congrArg Prod.fst (noteOlder_still ..))
    simp only [through, q] at step
    obtain ⟨l', m'', kept'⟩ := m'.write c.core c.t.hnd ((prepWrite s1 c.core c.ctx u e.2.1).1.qOf c.t) e.2.1 (e.2.1.zip (leBytes e.2.1.length v))
    exact ⟨l', _, m''.took _, kept'.trans kept, step⟩

/-! ## The strands that act -/

/-- What `inTurn` sees of a strand: its number, its places, and the operand `view` gives. -/
def seen (view : Nat × List Loc × Nat × Nat → Nat) (e : Nat × List Loc × Nat × Nat) : Nat × List Loc × Nat := (e.1, e.2.1, view e)

theorem bytesRead_lt (s : State) (t : Team) (ls : List Loc) : leNat (bytesRead s t ls) < 256 ^ ls.length := leNat_lt (List.length_map _)

/-- `inTurn` goes on with the next strand: it had permission, and its write does not go through. -/
theorem inTurn_cons {t : Team} {u : CacheUse} {g : Nat → Nat → Nat → Option Nat × Flags} {k b : Nat} {ls : List Loc} {es : List (Nat × List Loc × Nat)}
    {res : State × List (Nat × Nat × Flags)} (turn : inTurn t u g ((k, ls, b) :: es) s1 = some res) :
    let p := prepWrite s1 t.core (s1.ctxOf t) u ls
    let o := leNat (bytesRead p.1 t ls)
    let y := g k o b
    p.2 = [] ∧ (∀ v, y.1 = some v → throughSector p.1 (dieOf t.core) ls = none) ∧ ∃ later, res.2 = (k, o, y.2) :: later ∧
      inTurn t u g es (match y.1 with
        | some v => writeLocs (noteOlder p.1 ls) t.hnd (p.1.qOf t) t.core (ls.zip (leBytes ls.length v))
        | none => p.1) = some (res.1, later) := by
  intro p o y
  rw [inTurn] at turn
  dsimp only at turn
  split_ifs at turn with waits
  rw [not_or, not_and] at waits
  obtain ⟨ready, direct⟩ := waits
  obtain ⟨r, next, rfl⟩ := Option.map_eq_some_iff.mp turn
  exact ⟨not_not.mp ready, fun v some => not_not.mp (direct (by rw [show y.1 = _ from some]; rfl)), _, rfl, next⟩

theorem seqStep_inTurn {view : Nat × List Loc × Nat × Nat → Nat} {g : Nat → Nat → Nat → Option Nat × Flags} {S : State}
    (agree : ∀ e ∈ todo, ∀ o < 256 ^ e.2.1.length, f e.2.1.length o e.2.2.1 e.2.2.2 = g e.1 o (view e))
    {res : List (Nat × Nat × Flags)} (m : InTurn c.t.hnd todo got x s1 s2) (ctx : s1.ctxOf c.t = c.ctx)
    (turn : inTurn c.t u g (todo.map (seen view)) s1 = some (S, res)) (fuel : todo.length < n) :
    ∃ l s3, seqStep c u cond so f n s2 = (s3, true) ∧ InTurn c.t.hnd [] (got ++ res) { x with subs := l } S s3 ∧ S.still = s1.still := by
  induction todo generalizing got x s1 s2 n res with
  | nil =>
    obtain ⟨n, rfl⟩ : ∃ m, n = m + 1 := ⟨n - 1, by simp at fuel; omega⟩
    obtain ⟨rfl, rfl⟩ := Prod.mk.inj (Option.some.inj turn)
    exact ⟨x.subs, s2, seqStep_done m, by rw [List.append_nil]; exact m, rfl⟩
  | cons e rest ih =>
    obtain ⟨n, rfl⟩ : ∃ m, n = m + 1 := ⟨n - 1, by simp at fuel; omega⟩
    obtain ⟨ready, direct, later, res_eq, turn'⟩ := inTurn_cons turn
    have kept : (prepWrite s1 c.core c.ctx u e.2.1).1.still = s1.still := prepWrite_still ..
    rw [ctx] at ready direct res_eq turn'
    have value : readLocs (prepWrite s1 c.core c.ctx u e.2.1).1 c.core c.ctx e.2.1 = leNat (bytesRead (prepWrite s1 c.core c.ctx u e.2.1).1 c.t e.2.1) := by
      unfold bytesRead readLocs
      rw [ctxOf_still (t := c.t) kept, ctx]
      rfl
    obtain ⟨l, s3, m', kept', step⟩ := seqStep_acts (cond := cond) (so := so) (n := n) m ⟨ready, value, agree e List.mem_cons_self _ (bytesRead_lt ..)⟩ direct
    obtain ⟨l', s4, all, m'', kept''⟩ := ih (fun e mem => agree e (List.mem_cons_of_mem _ mem)) m' ((ctxOf_still kept').trans ctx) turn' (by simpa using fuel)
    refine ⟨l', s4, step.trans all, ?_, kept''.trans kept'⟩
    rw [List.append_assoc, List.singleton_append] at m''
    rw [show res = _ from res_eq]
    exact m''

end

end Sys2Proof.Machine
end

section
/-! SUPPORT. An instruction whose strands act in turn, from its start to its end, and where its first strand writes a sector through that another
device is home to (R195, R299, R334). -/

namespace Sys2Proof.Machine

variable {i : Instr} {s s1 s2 S F : State} {t u x : Team} {h : Nat} {body : Run → Res}

/-! ## Two states that differ in other teams of the handle -/

theorem RetiresTo.put {v : Team} {s' : State} {pc : BitVec 48} {sigs sigd : BitVec 16} {stepped : Bool} (hnd : v.hnd = t.hnd)
    (retires : RetiresTo i t u S s' pc sigs sigd stepped) : RetiresTo i t u (S.putTeam v) s' pc sigs sigd stepped := by
  obtain ⟨ps, ev, rfl⟩ := retires
  refine ⟨ps, ev, congrArg (fun z => noteStart z t) ?_⟩
  simp only [State.putTeam, State.now, List.map_map, State.setQueue, State.queue, State.qOf, State.group]
  congr 1
  refine List.map_congr_left fun x _ => ?_
  by_cases mine : x.hnd = t.hnd
  · simp only [Function.comp, hnd, mine, if_true]
  · simp only [Function.comp, hnd, mine, if_false]

/-- Two states that agree in all but teams of a handle, for which both find `x`. -/
structure Twin (h : Nat) (x : Team) (S F : State) : Prop where
  rest : F = S.withTeams F.teams
  others : SameBut h S.teams F.teams
  one : S.team h = some x
  two : F.team h = some x

namespace Twin

theorem hnd (w : Twin h x S F) : x.hnd = h := State.team_hnd w.one

theorem put_eq (w : Twin h x S F) : F.putTeam x = S.putTeam x := by
  obtain ⟨rest, others, one, two⟩ := w
  have same := others.put x
  rw [← State.team_hnd one] at same
  unfold State.putTeam
  rw [same, rest]
  rfl

/-- The same change of the team in both. -/
theorem setTeam (w : Twin h x S F) {f : Team → Team} (kept : ∀ x, (f x).hnd = x.hnd) : Twin h (f x) (S.setTeam h f) (F.setTeam h f) := by
  obtain ⟨rest, others, one, two⟩ := w
  refine ⟨?_, ?_, team_setTeam one ((kept x).trans (State.team_hnd one)), team_setTeam two ((kept x).trans (State.team_hnd two))⟩
  · rw [rest]; rfl
  · exact others.both (fun x mine => (kept x).trans mine) (fun x mine => (kept x).trans mine)

/-- What completes with the one completes with the other. -/
theorem completes (w : Twin t.hnd x S F) (done : Completes i s t x F) : Completes i s t x S := by
  obtain ⟨s', step, retires⟩ := done
  refine ⟨s', step, RetiresTo.ofPut (v := x) w.hnd ?_⟩
  rw [← w.put_eq]
  exact RetiresTo.put w.hnd retires

end Twin

/-! ## From the start to the end -/

/-- All strands have acted. -/
theorem InTurn.twin {got : List (Nat × Nat × Flags)} (m : InTurn h [] got x s1 s2) :
    Twin h x s1 (s2.setTeam h (fun t => { t with rmw := none, status := .run })) := by
  obtain ⟨st, mine⟩ := m.now
  have idle := m.idle
  have runs := m.runs
  refine ⟨?_, m.others.change fun _ mine => mine, m.before, (team_setTeam mine m.hnd).trans (congrArg some ?_)⟩
  · rw [m.rest]; rfl
  · rw [← idle, ← runs]

section
variable {c : Run} {use : CacheUse} {cond so : Bool} {f : Nat → Nat → Nat → Nat → Option Nat × Flags}
  {fin : State → List (Nat × Nat × Flags) → Res} {xs : List (Nat × List Loc × Nat × Nat)}

theorem seqGo_inTurn {view : Nat × List Loc × Nat × Nat → Nat} {g : Nat → Nat → Nat → Option Nat × Flags}
    (agree : ∀ e ∈ xs, ∀ o < 256 ^ e.2.1.length, f e.2.1.length o e.2.2.1 e.2.2.2 = g e.1 o (view e)) (m : InTurn c.t.hnd xs [] x s1 s2) (ctx : s1.ctxOf c.t = c.ctx)
    {res : List (Nat × Nat × Flags)} (turn : inTurn c.t use g (xs.map (seen view)) s1 = some (S, res)) :
    ∃ l F, Twin c.t.hnd { x with subs := l } S F ∧ S.still = s1.still ∧ seqGo c use cond so f fin s2 = fin F res := by
  obtain ⟨st, mine⟩ := m.now
  obtain ⟨l, s3, all, m', kept⟩ := seqStep_inTurn (cond := cond) (so := so) (n := 2 * xs.length + 4) agree m ctx turn (by omega)
  obtain ⟨st', mine'⟩ := m'.now
  refine ⟨l, _, m'.twin, kept, ?_⟩
  unfold seqGo
  simp only [mine, Option.bind_some, all, Bool.not_true, Bool.false_eq_true, if_false, mine', List.nil_append]

theorem turnStart_still (s : State) (t : Team) (ys : List Access) : (turnStart s t ys).still = s.still := releaseEnd_still ys []

/-- Where the strands begin to act. -/
theorem Ready.begins (r : Ready i s t) (onward : Onward s s1) (ys : List Access) (xs : List (Nat × List Loc × Nat × Nat)) :
    ∃ l rel, InTurn t.hnd xs [] { t with subs := l, rel := rel, status := .run } (turnStart s1 t ys)
      ((releaseEnd s1 t ys []).setTeam t.hnd (fun t => { t with rmw := some ⟨xs, [], none⟩ })) := by
  obtain ⟨l, mine⟩ := onward.team r.self r.fresh
  obtain ⟨rel, mine⟩ := releaseEnd_team mine ys []
  refine ⟨l, rel, rfl, (SameBut.refl _).both (fun _ mine => mine) (fun _ mine => mine), r.fresh, rfl, ?_, t.status, ?_⟩
  · exact team_setTeam (f := fun x => { x with status := .run }) mine rfl
  · exact team_setTeam (f := fun x => { x with rmw := some ⟨xs, [], none⟩ }) mine rfl

/-- The accesses of such an instruction. -/
def turnAccesses (xs : List (Nat × List Loc × Nat × Nat)) : List Access := xs.map (fun x => ⟨x.1, x.2.1, []⟩)

theorem Ready.seqStart_eq (r : Ready i s t) {reads : Option (List (Nat × Nat))} (xs : List (Nat × List Loc × Nat × Nat)) :
    seqStart ⟨s, t, i, t.active i⟩ use cond so f fin reads xs =
      (let p := releasePrep s t use (turnAccesses xs)
       if p.2 then seqGo ⟨s, t, i, t.active i⟩ use cond so f fin
         ((releaseEnd p.1 t (turnAccesses xs) []).setTeam t.hnd (fun t => { t with rmw := some ⟨xs, [], none⟩ }))
       else .hold p.1) := by
  have long : Run.stalls ⟨s, t, i, t.active i⟩ reads = false := r.notShort _
  unfold seqStart
  rw [whenReady_store]
  simp only [long, Bool.false_eq_true, if_false]
  rfl

end

/-! ## A write-through to another device -/

/-- The bytes of an access of global memory by address. -/
theorem globalCells_zip {ls : List Loc} (coherent : ∀ l ∈ ls, ∃ pa y, l = .mem pa y ∧ y.coh = 0) (bs : List Byte) :
    globalCells (ls.zip bs) = (globAddrs ls).zip bs := by
  induction ls generalizing bs with
  | nil => rfl
  | cons l ls ih =>
    obtain ⟨pa, y, rfl, -⟩ := coherent l List.mem_cons_self
    cases bs with
    | nil => rw [List.zip_nil_right, List.zip_nil_right]; rfl
    | cons b bs =>
      have rest := ih (fun l mem => coherent l (List.mem_cons_of_mem _ mem)) bs
      exact congrArg (List.cons (pa, b)) rest

/-- A sector under write-through whose home is on another device: the message goes there. -/
theorem storeSector_away {die sector hnd q : Nat} {bytes : List Host.Cell} {cond so : Bool} (through : (s.sec die sector).st = .t)
    (away : devOf (sector * 64) ≠ s.devid) :
    (storeSector s hnd q die sector bytes cond so).1 =
      ((s.setSec die sector { s.sec die sector with busy := some s.names }).putThrough (s.names + 1)
        (s.throughs ++ [⟨s.names, hnd, die, sector, bytes, cond, so, false⟩])).send (devOf (sector * 64))
          (.writeThrough (hdrOf s die) sector bytes cond) := by
  have elsewhere : (devOf (sector * 64) == (s.setSec die sector { s.sec die sector with busy := some s.names }).devid) = false := by
    rw [State.setSec_devid]
    exact beq_eq_false_iff_ne.mpr away
  unfold storeSector
  dsimp only
  rw [if_pos through]
  unfold isHome
  dsimp only
  rw [elsewhere]
  rfl

theorem throughSector_some {die : Nat} {ls : List Loc} {q : Nat} (through : throughSector s die ls = some q) : (s.sec die q).st = .t := by
  unfold throughSector at through
  split at through
  · cases through
  · split_ifs at through with sent
    obtain rfl := Option.some.inj through
    exact sent

section
variable {c : Run} {use : CacheUse} {cond so : Bool} {f : Nat → Nat → Nat → Nat → Option Nat × Flags} {n : Nat}
  {e : Nat × List Loc × Nat × Nat} {rest : List (Nat × List Loc × Nat × Nat)} {got : List (Nat × Nat × Flags)} {o v q : Nat} {fl : Flags}

/-- What is left where a team's write-through of `cells` to sector `q` has been sent away. -/
structure SentAway (c : Run) (q : Nat) (cells : List Host.Cell) (cond : Bool) (x : Team) (s : State) : Prop where
  message : ∃ m, (devOf (q * 64), .writeThrough m q cells cond) ∈ s.net ∧ m.agent = agentOf c.s (dieOf c.core)
  through : ∃ y ∈ s.throughs, y.hnd = c.t.hnd ∧ y.sector = q ∧ y.cond = cond ∧ y.done1 = false
  team : ∃ l st rmw, rmw.sent.isSome ∧ s.team c.t.hnd = some { x with subs := l, status := st, rmw := some rmw }

theorem seqStep_sent {r : Rmw} {y : Team} (mine : s.team c.t.hnd = some y) (progress : y.rmw = some r) (sent : r.sent.isSome) :
    seqStep c use cond so f n s = (s, false) := by
  cases n with
  | zero => rfl
  | succ n =>
    rw [seqStep]
    simp only [mine, progress, sent, if_true]

/-- The strand's bytes go to another device, and the team waits for the answer (R334). -/
theorem seqStep_away (m : InTurn c.t.hnd (e :: rest) got x s1 s2) (acts : Acts c use f s1 e o (some v, fl))
    (through : throughSector (prepWrite s1 c.core c.ctx use e.2.1).1 (dieOf c.core) e.2.1 = some q) (away : devOf (q * 64) ≠ c.s.devid)
    (devid : s1.devid = c.s.devid) (coherent : ∀ l ∈ e.2.1, ∃ pa y, l = .mem pa y ∧ y.coh = 0) :
    ∃ s4, seqStep c use cond so f (n + 1) s2 = (s4, false) ∧
      SentAway c q ((globAddrs e.2.1).zip (leBytes e.2.1.length v)) cond x s4 := by
  obtain ⟨l, s3, m', kept, step⟩ := seqStep_cons (f := f) (cond := cond) (so := so) (n := n) m acts
  have through' := (throughSector_rest m'.rest (dieOf c.core) e.2.1).trans through
  simp only [through', globalCells_zip coherent] at step
  generalize (globAddrs e.2.1).zip (leBytes e.2.1.length v) = cells at *
  have here : (sentThrough c (e :: rest) got q o fl (noteOlder s3 e.2.1)).devid = c.s.devid := by
    rw [m'.rest, noteOlder_withTeams]
    exact ((congrArg (·.2.2) (noteOlder_still ..)).trans (congrArg (·.2.2) kept)).trans devid
  have sector : ((sentThrough c (e :: rest) got q o fl (noteOlder s3 e.2.1)).sec (dieOf c.core) q).st = .t := by
    refine throughSector_some (ls := e.2.1) ?_
    exact (throughSector_noteOlder s3 (dieOf c.core) e.2.1 e.2.1).trans through'
  have mine : (sentThrough c (e :: rest) got q o fl (noteOlder s3 e.2.1)).team c.t.hnd = some { x with
      subs := l, status := .fabric [q], rmw := some ⟨e :: rest, got, some ((noteOlder s3 e.2.1).names, o, fl)⟩ } := by
    obtain ⟨st, mine⟩ := m'.now
    have same : (noteOlder s3 e.2.1).team c.t.hnd = s3.team c.t.hnd := by
      have kept : noteOlder s3 e.2.1 = (noteOlder s3 e.2.1).withTeams s3.teams := noteOlder_withTeams s3 s3.teams e.2.1
      rw [kept]
      rfl
    exact team_setTeam (same.trans mine) m'.hnd
  generalize sentThrough c (e :: rest) got q o fl (noteOlder s3 e.2.1) = s5 at *
  rw [storeSector_away sector (by rw [here]; exact away)] at step
  have after (X : State) (teams : X.teams = s5.teams) : X.team c.t.hnd = some _ := (congrArg (List.find? _) teams).trans mine
  refine ⟨_, step.trans (seqStep_sent (after _ (State.setSec_teams ..)) rfl rfl), ⟨_, List.mem_append_right _ (List.mem_singleton_self _), ?_⟩, ?_,
    l, _, _, rfl, after _ (State.setSec_teams ..)⟩
  · exact congrArg (fun d => d * 16 + dieOf c.core) here
  · exact ⟨_, List.mem_append_right _ (List.mem_singleton_self _), rfl, rfl, rfl, rfl⟩

theorem seqGo_away {fin : State → List (Nat × Nat × Flags) → Res} (m : InTurn c.t.hnd (e :: rest) got x s1 s2)
    (acts : Acts c use f s1 e o (some v, fl))
    (through : throughSector (prepWrite s1 c.core c.ctx use e.2.1).1 (dieOf c.core) e.2.1 = some q) (away : devOf (q * 64) ≠ c.s.devid)
    (devid : s1.devid = c.s.devid) (coherent : ∀ l ∈ e.2.1, ∃ pa y, l = .mem pa y ∧ y.coh = 0) :
    ∃ s4, seqGo c use cond so f fin s2 = .hold s4 ∧ SentAway c q ((globAddrs e.2.1).zip (leBytes e.2.1.length v)) cond x s4 := by
  obtain ⟨st, mine⟩ := m.now
  obtain ⟨s4, step, sent⟩ := seqStep_away (cond := cond) (so := so) (n := 2 * (e :: rest).length + 3) m acts through away devid coherent
  refine ⟨s4, ?_, sent⟩
  unfold seqGo
  simp only [mine, Option.bind_some, step, Bool.not_false, if_true]

end

/-! ## Such an instruction as a whole -/

section
variable {use : CacheUse} {cond so : Bool} {f : Nat → Nat → Nat → Nat → Option Nat × Flags} {fin : State → List (Nat × Nat × Flags) → Res}
  {xs : List (Nat × List Loc × Nat × Nat)} {reads : Option (List (Nat × Nat))} {view : Nat × List Loc × Nat × Nat → Nat}
  {g : Nat → Nat → Nat → Option Nat × Flags}

/-- It waits until its accesses are ready. -/
theorem Sequential.turn_waits (w : Sequential i) (r : Ready i s t) (run : exec i s = runI i body s)
    (row : body ⟨s, t, i, t.active i⟩ = seqStart ⟨s, t, i, t.active i⟩ use cond so f fin reads xs)
    (wait : (releasePrep s t use (turnAccesses xs)).2 = false) : Waits i s t id (releasePrep s t use (turnAccesses xs)).1 := by
  refine w.waits r run (row.trans ?_)
  rw [r.seqStart_eq]
  dsimp only
  rw [wait]
  rfl

/-- Its strands act, and it ends. -/
theorem Ready.turn_ends (r : Ready i s t) (row : body ⟨s, t, i, t.active i⟩ = seqStart ⟨s, t, i, t.active i⟩ use cond so f fin reads xs)
    (agree : ∀ e ∈ xs, ∀ o < 256 ^ e.2.1.length, f e.2.1.length o e.2.2.1 e.2.2.2 = g e.1 o (view e)) (ready : (releasePrep s t use (turnAccesses xs)).2 = true)
    {res : List (Nat × Nat × Flags)}
    (turn : inTurn t use g (xs.map (seen view)) (turnStart (releasePrep s t use (turnAccesses xs)).1 t (turnAccesses xs)) = some (S, res)) :
    ∃ l rel F, Twin t.hnd { t with subs := l, rel := rel, status := .run } S F ∧ S.still = s.still ∧ body ⟨s, t, i, t.active i⟩ = fin F res := by
  have onward := releasePrep_onward ready
  obtain ⟨l, rel, m⟩ := r.begins onward (turnAccesses xs) xs
  obtain ⟨-, -, -, kept⟩ := onward
  have still := (turnStart_still (releasePrep s t use (turnAccesses xs)).1 t (turnAccesses xs)).trans kept
  obtain ⟨l', F, twin, same, ends⟩ := seqGo_inTurn (c := ⟨s, t, i, t.active i⟩) (cond := cond) (so := so) (fin := fin) agree m (ctxOf_still still) turn
  refine ⟨l', rel, F, twin, same.trans still, row.trans ?_⟩
  rw [r.seqStart_eq]
  dsimp only
  rw [ready, if_pos rfl]
  exact ends

theorem leNat_bytesRead {s0 p : State} (same : p.still = s0.still) (ctx : s0.ctxOf t = s.ctxOf t) (ls : List Loc) :
    readLocs p t.core (s.ctxOf t) ls = leNat (bytesRead p t ls) := by
  unfold readLocs bytesRead
  rw [ctxOf_still same, ctx]

/-- Its first strand sends a write-through to another device. -/
theorem Sequential.firstThrough (w : Sequential i) (r : Ready i s t) (run : exec i s = runI i body s) (m : InTurn t.hnd xs [] x s1 s2)
    (still : s1.still = s.still) (pc : x.pc = t.pc) (strands : x.strands = t.strands)
    (row : body ⟨s, t, i, t.active i⟩ = seqGo ⟨s, t, i, t.active i⟩ use cond so f fin s2)
    (agree : ∀ e ∈ xs, ∀ o < 256 ^ e.2.1.length, f e.2.1.length o e.2.2.1 e.2.2.2 = g e.1 o (view e)) : FirstThrough i s t use g cond (xs.map (seen view)) s1 := by
  intro y rest v q list
  obtain ⟨e, xs', rfl, rfl, rfl⟩ := List.map_eq_cons_iff.mp list
  have ctx : s1.ctxOf t = s.ctxOf t := ctxOf_still still
  rw [ctx]
  intro p permitted through away coherent value
  have old : readLocs p.1 t.core (s.ctxOf t) e.2.1 = leNat (bytesRead p.1 t e.2.1) := leNat_bytesRead (prepWrite_still ..) ctx _
  have effect : f e.2.1.length (leNat (bytesRead p.1 t e.2.1)) e.2.2.1 e.2.2.2 = (some v, (g e.1 (leNat (bytesRead p.1 t e.2.1)) (view e)).2) :=
    (agree e List.mem_cons_self _ (bytesRead_lt ..)).trans (Prod.ext value rfl)
  obtain ⟨s4, step, ⟨msg, inNet, agent⟩, written, l, st, rmw, sent, mine⟩ := seqGo_away (c := ⟨s, t, i, t.active i⟩) (cond := cond) (so := so)
    (fin := fin) (f := f) m ⟨permitted, old, effect⟩ through away (congrArg (·.2.2) still) coherent
  refine ⟨_, _, msg, by rw [run, r.runs w.legal, row.trans step]; rfl,
    team_setTeam (f := fun t => { t with held := true, since := s.now, yielded := _ }) mine m.hnd, rfl, pc, strands, inNet, agent, written⟩

theorem Sequential.turn_firstThrough (w : Sequential i) (r : Ready i s t) (run : exec i s = runI i body s)
    (row : body ⟨s, t, i, t.active i⟩ = seqStart ⟨s, t, i, t.active i⟩ use cond so f fin reads xs)
    (agree : ∀ e ∈ xs, ∀ o < 256 ^ e.2.1.length, f e.2.1.length o e.2.2.1 e.2.2.2 = g e.1 o (view e)) (ready : (releasePrep s t use (turnAccesses xs)).2 = true) :
    FirstThrough i s t use g cond (xs.map (seen view)) (turnStart (releasePrep s t use (turnAccesses xs)).1 t (turnAccesses xs)) := by
  have onward := releasePrep_onward ready
  obtain ⟨l, rel, m⟩ := r.begins onward (turnAccesses xs) xs
  obtain ⟨-, -, -, kept⟩ := onward
  refine w.firstThrough (so := so) (fin := fin) r run m ((turnStart_still ..).trans kept) rfl rfl (row.trans ?_) agree
  rw [r.seqStart_eq]
  dsimp only
  rw [ready, if_pos rfl]

end

end Sys2Proof.Machine
end

section
/-! PROOF. The stores of O18 and O19 (R194, R196, R299, R318). -/

namespace Sys2Proof.Machine

variable {i : Instr} {s S F : State} {t x : Team} {a : Mem} {opc : Nat} {d : Desc} {body : Run → Res} {use : CacheUse} {sc : Bool}
  {reads : Option (List (Nat × Nat))} {xs : List Access} {n : Nat}

/-- An instruction whose strands have acted completes as `inTurn` leaves the state. -/
theorem Sequential.completes_twin (q : Sequential i) (r : Ready i s t) (run : exec i s = runI i body s) {ws : List (Nat × List Nat)}
    (w : Twin t.hnd x S F) (outcome : body ⟨s, t, i, t.active i⟩ = .done { Done.seq F with writes := ws, reads := reads }) (seat : SameSeat t x)
    (time : S.time = s.time) : CompletesIn i s t S := by
  refine ⟨x, w.one, w.completes (q.completes r run outcome w.two seat ?_)⟩
  rw [w.rest]
  exact time

theorem flatMap_partsOf (xs : List Access) : xs.flatMap partsOf = (xs.flatMap sectorParts).map (seen (·.2.2.1)) := List.map_flatMap.symm

/-- What a part of a store does: its bytes are written, whatever stood there. -/
def storesOperand : Nat → Nat → Nat → Option Nat × Flags := fun _ _ b => (some b, 0)

/-- The bytes of accesses stored part by part. -/
theorem Sequential.stores_inTurn (q : Sequential i) (r : Ready i s t) (run : exec i s = runI i body s) {so : Bool} {es : List (Nat × List Loc × Nat × Nat)}
    (row : body ⟨s, t, i, t.active i⟩ = seqStart ⟨s, t, i, t.active i⟩ use false so (fun _ _ b _ => (some b, 0)) (noResults reads) reads es)
    (ready : (releasePrep s t use (turnAccesses es)).2 = true) :
    (∀ x, inTurn t use storesOperand (es.map (seen (·.2.2.1))) (turnStart (releasePrep s t use (turnAccesses es)).1 t (turnAccesses es)) = some x →
      CompletesIn i s t x.1) ∧
    FirstThrough i s t use storesOperand false (es.map (seen (·.2.2.1))) (turnStart (releasePrep s t use (turnAccesses es)).1 t (turnAccesses es)) := by
  have agree : ∀ e ∈ es, ∀ o < 256 ^ e.2.1.length, (fun _ _ b _ => (some b, 0) : Nat → Nat → Nat → Nat → Option Nat × Flags) e.2.1.length o e.2.2.1 e.2.2.2 =
      storesOperand e.1 o ((fun e : Nat × List Loc × Nat × Nat => e.2.2.1) e) := fun _ _ _ _ => rfl
  refine ⟨fun x turn => ?_, q.turn_firstThrough r run row agree ready⟩
  obtain ⟨l, rel, F, twin, still, ends⟩ := r.turn_ends row agree ready turn
  exact q.completes_twin (ws := []) (reads := reads) r run twin ends ⟨rfl, rfl, rfl, rfl, nofun⟩ (congrArg (·.2.1) still)

/-- The bytes of accesses are stored, together or part by part. -/
theorem Sequential.storesAll (q : Sequential i) (r : Ready i s t) (run : exec i s = runI i body s)
    (row : body ⟨s, t, i, t.active i⟩ = storeAll ⟨s, t, i, t.active i⟩ use sc reads xs) :
    let seq := sc || onOrd 1 (placesOf xs)
    let ps := xs.flatMap partsOf
    let ys := if seq then ps.map (fun p => (⟨p.1, p.2.1, []⟩ : Access)) else xs
    let p := releasePrep s t use ys
    let f : Nat → Nat → Nat → Option Nat × Flags := fun _ _ b => (some b, 0)
    if p.2 = false then Waits i s t id p.1
    else if seq = false then CompletesIn i s t (storePlain p.1 t xs)
    else (∀ x, inTurn t use f ps (turnStart p.1 t ys) = some x → CompletesIn i s t x.1) ∧
      FirstThrough i s t use f false ps (turnStart p.1 t ys) := by
  unfold storeAll at row
  dsimp only at row ⊢
  have accs : (xs.flatMap partsOf).map (fun p => (⟨p.1, p.2.1, []⟩ : Access)) = turnAccesses (xs.flatMap sectorParts) := by
    rw [flatMap_partsOf, List.map_map]
    rfl
  rw [accs, flatMap_partsOf]
  cases inOrder : sc || onOrd 1 (placesOf xs) with
  | false =>
    simp only [inOrder, Bool.false_eq_true, if_false, whenReady_store] at row
    simp only [Bool.false_eq_true, if_false, if_true]
    split_ifs with wait
    · simp only [wait, Bool.false_eq_true, if_false] at row
      exact q.waits r run row
    · have ready := (Bool.not_eq_false _).mp wait
      simp only [ready, if_true] at row
      exact q.completesIn_store r run (releasePrep_onward ready) row
  | true =>
    rw [inOrder, if_pos rfl] at row
    simp only [if_true, Bool.true_eq_false, if_false]
    split_ifs with wait
    · exact q.turn_waits r run row wait
    · exact q.stores_inTurn r run row ((Bool.not_eq_false _).mp wait)

/-! ## The rows of stores -/

/-- A store in some active strand, not begun yet. -/
theorem storeRow_eq {c : Run} (fresh : c.t.rmw = none) {src : RegField} {addr : Nat → V DWord} {nd : Need} {rs : List (Nat × Nat)}
    {L : Nat → List Loc} {B : Nat → List Byte} (active : c.act ≠ []) (data : ∀ k ∈ c.act, c.data k src n = .ok (B k))
    (places : ∀ k ∈ c.act, (addr k).bind (fun q => c.places k nd q n) = .ok (L k)) :
    storeRow a src n addr nd rs c = storeAll c (cacheUse c a false) false (some rs) (accesses c.act L B) := by
  have all := V.all_ok c.act (fun k => (V.both (c.data k src n) ((addr k).bind (fun q => c.places k nd q n))).map (fun p => (⟨k, p.2, p.1⟩ : Access)))
    (fun k => ⟨k, L k, B k⟩) (fun k act => by rw [data k act, places k act, V.both_ok, V.map_ok])
  unfold storeRow
  rw [all, V.res_ok, fresh, Option.isSome_none, if_neg (by decide), if_neg (by simpa using active)]
  rfl

theorem storeRow_idle {c : Run} (fresh : c.t.rmw = none) (idle : c.act = []) {src : RegField} {addr : Nat → V DWord} {nd : Need}
    {rs : List (Nat × Nat)} : storeRow a src n addr nd rs c = .done { Done.seq c.s with reads := some rs } := by
  unfold storeRow
  rw [idle, fresh]
  rfl

theorem exec_st (a : Mem) (s : State) : exec (.st a) s = execSt a s := rfl
theorem exec_stx (a : Mem) (s : State) : exec (.stx a) s = execStx a s := rfl

/-- The registers of a width code hold its bytes (Table 10-2). -/
theorem widthRu_regs {w : Nat} (small : w ≤ 4) (f : RegField) {j : Nat} (below : j < max 1 (2 ^ w / 4)) : f.toNat + j ∈ (widthRu w).regs f := by
  have span (m : Nat) (lt : j < m) : f.toNat + j ∈ (List.range m).map (f.toNat + ·) := List.mem_map_of_mem (List.mem_range.mpr lt)
  unfold widthRu
  interval_cases w
  · exact span 1 below
  · exact span 1 below
  · exact span 1 below
  · exact span 2 below
  · exact span 4 below

theorem width_fits {w : Nat} (small : w ≤ 4) : 2 ^ w ≤ 4 * max 1 (2 ^ w / 4) := by
  interval_cases w <;> decide

/-- The registers of a strong operand hold its bytes (R195). -/
theorem hintRu_regs (a : Mem) (f : RegField) {j : Nat} (below : j < max 1 (strongBytes a / 4)) : f.toNat + j ∈ (hintRu a.ext).regs f := by
  have span (m : Nat) (lt : j < m) : f.toNat + j ∈ (List.range m).map (f.toNat + ·) := List.mem_map_of_mem (List.mem_range.mpr lt)
  cases ext : a.ext with
  | none => exact span 1 (by simpa [strongBytes, memHint, ext] using below)
  | some e =>
    dsimp only [hintRu]
    by_cases double : e.hint = 3
    · rw [if_pos double]
      exact span 2 (by simpa [strongBytes, memHint, ext, double] using below)
    · have single : e.hint.toNat ≠ 3 := fun h => double (BitVec.eq_of_toNat_eq h)
      rw [if_neg double]
      exact span 1 (by simpa [strongBytes, memHint, ext, single] using below)

theorem strong_fits (a : Mem) : strongBytes a ≤ 4 * max 1 (strongBytes a / 4) := by
  unfold strongBytes
  split <;> decide

theorem modOk_width {m : BitVec 4} (ok : modOk d m = true) (subs : d.subs = [0, 1, 2, 3, 4]) : subOf3 m ≤ 4 := by
  simp only [modOk, subs, Bool.and_eq_true, decide_eq_true_eq, List.mem_cons, List.not_mem_nil, or_false] at ok
  unfold subOf3
  omega

theorem memOk_mod {long : Bool} {ext : MExt → Bool} (ok : memOk d long ext a = true) : modOk d a.m = true := by
  simp only [memOk, Bool.and_eq_true] at ok
  exact ok.1.1.1.1.2

theorem st_width {a : Mem} (wf : (Instr.st a).WellFormed = true) : subOf3 a.m ≤ 4 := by
  simp only [Instr.WellFormed, encodable, desc] at wf
  exact modOk_width (memOk_mod wf) rfl
theorem stx_width {a : Mem} (wf : (Instr.stx a).WellFormed = true) : subOf3 a.m ≤ 4 := by
  simp only [Instr.WellFormed, encodable, desc] at wf
  exact modOk_width (memOk_mod wf) rfl

theorem st_stores (a : Mem) :
    Stores (.st a) a.vb (2 ^ subOf3 a.m) Need.wr (cached · a false) false (ownPtr a) (fun _ _ _ => True) := by
  intro s t Q L r
  have row : MemRow (.st a) a 0x282 _ := ⟨rfl, rfl, rfl, by decide, by decide⟩
  have small := st_width r.wf
  refine ⟨fun idle => row.sequential.idle r (exec_st a s) (storeRow_idle r.fresh idle), ?_⟩
  intro active places _ _
  refine row.sequential.storesAll r (exec_st a s) (storeRow_eq r.fresh active (fun k act => ?_) (fun k act => ?_))
  · have named {j : Nat} (below : j < max 1 (2 ^ subOf3 a.m / 4)) := row.b_mem (widthRu_regs small a.vb below)
    exact r.data_eq (fun j below => named below) (fun j below => r.clean k (by rw [row.reads_eq (row.own (by decide))]; exact act) _ (named below))
      (width_fits small)
  · obtain ⟨ptr, located⟩ := places k act
    rw [row.ea_eq rfl (row.own (by decide)) r act ptr]
    exact located.places_eq k

theorem stx_stores (a : Mem) :
    Stores (.stx a) a.vb (2 ^ subOf3 a.m) Need.wr (cached · a false) false (indexPtr (.stx a) a (memVc a) (2 ^ subOf3 a.m))
      (fun _ t _ => ∀ k ∈ t.active (.stx a), ∀ j, j < max 1 (2 ^ subOf3 a.m / 4) → t.clean k (a.vb.toNat + j)) := by
  intro s t Q L r
  have row : MemRow (.stx a) a 0x283 _ := ⟨rfl, rfl, rfl, by decide, by decide⟩
  have small := stx_width r.wf
  constructor
  · intro idle
    exact row.sequential.idle r (xs := some []) (ws := []) (exec_stx a s) (by simp only [Run.lead, idle, List.head?_nil]; rfl)
  intro active places _ clean
  obtain ⟨l, lead⟩ := Option.isSome_iff_exists.mp (List.isSome_head?.mpr active)
  have begun := storeRow_eq (c := ⟨s, t, .stx a, t.active (.stx a)⟩) (a := a) (n := 2 ^ subOf3 a.m) (src := a.vb) (nd := Need.wr)
    (rs := regsIn l a.va 2 ++ (t.active (.stx a)).flatMap (fun k => regsIn k (memVc a) 1 ++ regsIn k a.vb (max 1 (2 ^ subOf3 a.m / 4))))
    (addr := indexed ⟨s, t, .stx a, t.active (.stx a)⟩ a (memVc a) (2 ^ subOf3 a.m) l) (L := L) (B := fun k => stored t k a.vb (2 ^ subOf3 a.m))
    r.fresh active
    (fun k act => r.data_eq (fun j below => row.b_mem (widthRu_regs small a.vb below)) (clean k act) (width_fits small))
    (fun k act => by
      obtain ⟨ptr, located⟩ := places k act
      rw [row.indexed_eq rfl r (row.c_mem (RU.mem_r _)) lead ptr]
      exact located.places_eq k)
  refine row.sequential.storesAll r (exec_stx a s) (Eq.trans ?_ begun)
  simp only [Run.lead, lead]
  rfl

/-- Settles O18: each row's places are those of its strands' pointers, and what it reads or writes is that of the frames it shares. -/
theorem loadsAndStores : Obligations.LoadsAndStores := ⟨ld_loads, ldx_loads, st_stores, stx_stores⟩

end Sys2Proof.Machine
end

section
/-! PROOF. The strong accesses of O19 (R195 to R199): what their order waits for, and their effects. -/

namespace Sys2Proof.Machine

variable {i : Instr} {s s1 S F : State} {t x : Team} {a : Mem} {opc n : Nat} {d : Desc} {body : Run → Res} {use : CacheUse}

/-! ## What an order waits for -/

theorem releaseReady_iff (s : State) (t : Team) (scope : Nat) : releaseReady s t scope = true ↔ ReleaseDone s t scope := by
  unfold releaseReady ReleaseDone throughsOf Team.pending
  simp only [Bool.and_eq_true, List.isEmpty_iff, List.flatMap_eq_nil_iff, List.all_eq_true, List.mem_filter, beq_iff_eq, decide_eq_true_eq, and_imp,
    and_assoc]

theorem releaseScope_eq (a : Mem) (ls : List Loc) : releaseScope a ls = reach a ls := rfl

theorem isRelease_iff (o : Nat) : isRelease o = true ↔ o ∈ [2, 3, 4] := by
  simp only [isRelease, Bool.or_eq_true, beq_iff_eq, List.mem_cons, List.not_mem_nil, or_false, or_assoc]
theorem isAcquire_iff (o : Nat) : isAcquire o = true ↔ o ∈ [1, 3, 4] := by
  simp only [isAcquire, Bool.or_eq_true, beq_iff_eq, List.mem_cons, List.not_mem_nil, or_false, or_assoc]

theorem strongReady_iff {c : Run} (ls : List Loc) : strongReady c a ls = true ↔ OrderMet c.s c.t a ls := by
  have four : (isRelease (memOrd a) || memOrd a == 4) = isRelease (memOrd a) := by
    cases e : memOrd a == 4
    · rw [Bool.or_false]
    · rw [beq_iff_eq.mp e]; rfl
  unfold strongReady OrderMet
  rw [four, releaseScope_eq, Bool.or_eq_true, Bool.not_eq_true', releaseReady_iff, ← isRelease_iff, imp_iff_not_or, Bool.not_eq_true]

/-- The reads of UO pages are ordered where the order acquires. -/
theorem acquired_eq (a : Mem) (t : Team) (s : State) : (if isAcquire (memOrd a) then s.orderPoint t.hnd else s) = acquired a t s := by
  unfold acquired
  exact if_congr (isAcquire_iff _) rfl rfl

/-! ## `FENCE` -/

theorem setTeam_setTeam (s : State) (h : Nat) {f g : Team → Team} (kept : ∀ x, (f x).hnd = x.hnd) :
    (s.setTeam h f).setTeam h g = s.setTeam h (fun x => g (f x)) := by
  unfold State.setTeam
  simp only [List.map_map]
  congr 1
  refine List.map_congr_left fun x _ => ?_
  by_cases mine : x.hnd = h
  · simp only [Function.comp, mine, kept, if_true]
  · simp only [Function.comp, mine, if_false]

/-- An effect that changes the team alone. -/
theorem Sequential.completes_set (q : Sequential i) (r : Ready i s t) (run : exec i s = runI i body s) {f : Team → Team}
    {ws : List (Nat × List Nat)} {xs : Option (List (Nat × Nat))}
    (outcome : body ⟨s, t, i, t.active i⟩ = .done { Done.seq (s.setTeam t.hnd f) with writes := ws, reads := xs }) (kept : ∀ x, (f x).hnd = x.hnd)
    (seat : SameSeat t (f t)) : Completes i s t (f t) s := by
  obtain ⟨s', step, retires⟩ := q.completes r run outcome (team_setTeam r.self (kept t)) seat rfl
  refine ⟨s', step, RetiresTo.ofPut (v := f t) (kept t) ?_⟩
  have same : (s.setTeam t.hnd f).putTeam (f t) = s.putTeam (f t) := by
    have put := setTeam_setTeam s t.hnd (g := fun _ => f t) kept
    unfold State.putTeam
    rw [kept t]
    exact put
  rw [← same]
  exact RetiresTo.put (kept t) retires

theorem exec_fence (a : Mem) (s : State) : exec (.fence a) s = execFence a s := rfl

theorem fence_effect (a : Mem) (s : State) (t : Team) (r : Ready (.fence a) s t) : (t.active (.fence a) = [] → Completes (.fence a) s t t s) ∧
    (t.active (.fence a) ≠ [] →
      (memOrd a ∈ [2, 3, 4] → ¬ReleaseDone s t (memScope a) → Waits (.fence a) s t id s) ∧
      ((memOrd a ∈ [2, 3, 4] → ReleaseDone s t (memScope a)) → Completes (.fence a) s t
        { t with mark := s.fresh, fence := if memOrd a ∈ [2, 3, 4] then s.names else t.fence } s)) := by
  have row : MemRow (.fence a) a 0x289 _ := ⟨rfl, rfl, rfl, by decide, by decide⟩
  have q := row.sequential
  constructor
  · intro idle
    exact q.idle r (xs := some []) (ws := []) (exec_fence a s) (by simp only [Run.lead, idle, List.head?_nil]; rfl)
  intro active
  obtain ⟨l, lead⟩ := Option.isSome_iff_exists.mp (List.isSome_head?.mpr active)
  have mark : (if memOrd a ∈ [2, 3, 4] then s.names else t.fence) = if isRelease (memOrd a) then s.names else t.fence :=
    if_congr (isRelease_iff _).symm rfl rfl
  rw [mark, ← releaseReady_iff, ← isRelease_iff]
  constructor
  · intro release early
    refine q.waits r (exec_fence a s) ?_
    simp only [Run.lead, lead, Option.isNone_some, Bool.false_eq_true, if_false, release, (Bool.not_eq_true _).mp early, Bool.not_false, Bool.and_self,
      if_true]
  · intro done
    have late : (isRelease (memOrd a) && !releaseReady s t (memScope a)) = false := by
      cases release : isRelease (memOrd a) with
      | false => rfl
      | true => rw [done release]; rfl
    have both : (if isRelease (memOrd a) then (s.orderPoint t.hnd).setTeam t.hnd (fun x => { x with fence := s.names }) else s.orderPoint t.hnd) =
        s.setTeam t.hnd (fun x => { x with mark := s.fresh, fence := if isRelease (memOrd a) then s.names else x.fence }) := by
      cases isRelease (memOrd a) with
      | false => rfl
      | true => exact setTeam_setTeam s t.hnd fun _ => rfl
    refine q.completes_set r (exec_fence a s) (ws := []) (xs := some []) (Eq.trans ?_ (congrArg (fun s => Res.done { Done.seq s with
      writes := [], reads := some [] }) both)) (fun _ => rfl) ⟨rfl, rfl, rfl, rfl, r.running⟩
    simp only [Run.lead, lead, Option.isNone_some, Bool.false_eq_true, if_false, late]
    rfl

/-! ## Results, with what an acquire orders -/

/-- The team after its results and an acquire: `now` the mark of its reads of UO pages. -/
def withResults (a : Mem) (now : Nat) (ks : List Nat) (o : Nat → Out) (x : Team) : Team :=
  { perStrand x ks o with mark := if memOrd a ∈ [1, 3, 4] then now else x.mark }

theorem acquired_gives (a : Mem) (S : State) (t : Team) (ks : List Nat) (o : Nat → Out) :
    acquired a t (gives S t ks o) = S.setTeam t.hnd (withResults a S.fresh ks o) := by
  unfold acquired withResults
  split_ifs
  · exact setTeam_setTeam S t.hnd fun _ => rfl
  · rfl

/-- An effect that only answers, and a change of the team, leave. -/
theorem Sequential.completesIn_set (q : Sequential i) (r : Ready i s t) (run : exec i s = runI i body s) (h : Onward s s1) {f : Team → Team}
    {ws : List (Nat × List Nat)} {xs : Option (List (Nat × Nat))}
    (outcome : body ⟨s, t, i, t.active i⟩ = .done { Done.seq (s1.setTeam t.hnd f) with writes := ws, reads := xs }) (kept : ∀ x, (f x).hnd = x.hnd)
    (seat : ∀ l, SameSeat t (f { t with subs := l })) : CompletesIn i s t (s1.setTeam t.hnd f) := by
  obtain ⟨l, mine⟩ := h.team r.self r.fresh
  have after := team_setTeam (f := f) mine (kept _)
  exact ⟨_, after, q.completes r run outcome after (seat l) h.time⟩

/-! ## `LDA` -/

/-- The end of `LDA`: its results, from the bytes read. -/
def ldaEnd (a : Mem) (c : Run) (xs : List Access) (s : State) : Res :=
  let os := xs.map (fun x => loadOut a.vd (strongBytes a) false (memTag a) (readLocs s c.core c.ctx x.ls))
  let s := c.give (endAccess s c.core (placesOf xs)) os
  .done { Done.seq (if isAcquire (memOrd a) then s.orderPoint c.t.hnd else s) with writes := wroteIn c.act os }
/-- `LDA`, with its end apart. -/
def ldaBody (a : Mem) (c : Run) : Res :=
  (V.all (c.act.map (fun k => (c.strongAt k a false true).map (fun ls => (⟨k, ls, []⟩ : Access))))).res (fun xs =>
    if xs.isEmpty then .done (Done.seq c.s)
    else if memOrd a = 4 && !strongReady c a (placesOf xs) then .hold c.s
    else whenReady c false (strongUse c a true) xs (ldaEnd a c xs))

theorem exec_lda (a : Mem) (s : State) : exec (.lda a) s = runI (.lda a) (ldaBody a) s := rfl

theorem strongBytes_wide (a : Mem) : strongBytes a = 1 ∨ strongBytes a = 2 ∨ 4 ≤ strongBytes a := by
  unfold strongBytes
  split <;> omega

theorem ldaBody_eq {c : Run} {L : Nat → List Loc} (active : c.act ≠ []) (places : ∀ k ∈ c.act, c.strongAt k a false true = .ok (L k)) :
    let xs := accesses c.act L (fun _ => [])
    ldaBody a c = if memOrd a = 4 && !strongReady c a (placesOf xs) then .hold c.s else whenReady c false (strongUse c a true) xs (ldaEnd a c xs) := by
  have all := V.all_ok c.act (fun k => (c.strongAt k a false true).map (fun ls => (⟨k, ls, []⟩ : Access))) (fun k => ⟨k, L k, []⟩)
    (fun k act => by rw [places k act, V.map_ok])
  unfold ldaBody
  rw [all, V.res_ok, if_neg (by simpa using active)]
  rfl

/-- What `LDA` ends with. -/
theorem ldaEnd_eq (r : Ready i s t) {L : Nat → List Loc} (onward : Onward s s1) (length : ∀ k ∈ t.active i, (L k).length = strongBytes a) :
    ∃ ws, ldaEnd a ⟨s, t, i, t.active i⟩ (accesses (t.active i) L (fun _ => [])) s1 = .done { Done.seq (acquired a t
      (gives (endAccess s1 t.core (placesOf (accesses (t.active i) L (fun _ => [])))) t (t.active i)
        (fun k => loaded a.vd false (memTag a) (bytesRead s1 t (L k))))) with writes := ws } := by
  obtain ⟨-, -, -, still⟩ := onward
  have values : (accesses (t.active i) L (fun _ => [])).map (fun x => loadOut a.vd (strongBytes a) false (memTag a) (readLocs s1 t.core (s.ctxOf t) x.ls)) =
      (t.active i).map (fun k => loaded a.vd false (memTag a) (bytesRead s1 t (L k))) := by
    unfold accesses
    rw [List.map_map]
    refine List.map_congr_left fun k act => ?_
    dsimp only [Function.comp]
    rw [leNat_bytesRead (p := s1) (s0 := s) still rfl]
    exact loadOut_eq _ _ _ (by unfold bytesRead; rw [List.length_map]; exact length k act) (strongBytes_wide a)
  refine ⟨wroteIn (t.active i) ((t.active i).map (fun k => loaded a.vd false (memTag a) (bytesRead s1 t (L k)))), ?_⟩
  unfold ldaEnd
  dsimp only [Run.give, Run.core, Run.ctx]
  rw [values, gives_eq (active_nodup t i), acquired_eq]

theorem lda_effect (a : Mem) (s : State) (t : Team) (Q : Nat → DWord) (L : Nat → List Loc) (r : Ready (.lda a) s t) :
    (t.active (.lda a) = [] → Completes (.lda a) s t t s) ∧
    (t.active (.lda a) ≠ [] →
      (∀ k ∈ t.active (.lda a), strongPtr a t k (Q k) ∧ Located s t (needStrong false true) (Q k) (strongBytes a) (L k)) →
      let xs := accesses (t.active (.lda a)) L (fun _ => [])
      (memOrd a = 4 → ¬ReleaseDone s t (reach a (placesOf xs)) → Waits (.lda a) s t id s) ∧
      ((memOrd a = 4 → ReleaseDone s t (reach a (placesOf xs))) →
        let r := prepAccess s t false (cachedStrong t a true) xs
        if r.2 then CompletesIn (.lda a) s t (acquired a t (gives (endAccess r.1 t.core (placesOf xs)) t (t.active (.lda a))
          (fun k => loaded a.vd false (memTag a) (bytesRead r.1 t (L k)))))
        else Waits (.lda a) s t id r.1)) := by
  have row : MemRow (.lda a) a 0x284 _ := ⟨rfl, rfl, rfl, by decide, by decide⟩
  have q := row.sequential
  constructor
  · intro idle
    exact q.idle r (xs := none) (ws := []) (exec_lda a s) (by unfold ldaBody; rw [idle]; rfl)
  intro active places xs
  have begun : ldaBody a ⟨s, t, .lda a, t.active (.lda a)⟩ = if memOrd a = 4 && !strongReady ⟨s, t, .lda a, t.active (.lda a)⟩ a (placesOf xs)
      then .hold s else whenReady ⟨s, t, .lda a, t.active (.lda a)⟩ false (cachedStrong t a true) xs (ldaEnd a ⟨s, t, .lda a, t.active (.lda a)⟩ xs) :=
    ldaBody_eq active fun k act => by
      obtain ⟨ptr, located⟩ := places k act
      exact row.strongAt_eq rfl (row.own (by decide)) r act ptr located
  have ordered : strongReady ⟨s, t, .lda a, t.active (.lda a)⟩ a (placesOf xs) = true ↔ OrderMet s t a (placesOf xs) := strongReady_iff _
  constructor
  · intro sc early
    have wait : ¬strongReady ⟨s, t, .lda a, t.active (.lda a)⟩ a (placesOf xs) = true := fun met => early (ordered.mp met (by rw [sc]; decide))
    refine q.waits r (exec_lda a s) (begun.trans (if_pos ?_))
    rw [(Bool.not_eq_true _).mp wait, decide_eq_true sc]
    rfl
  · intro done
    have go : ¬(decide (memOrd a = 4) && !strongReady ⟨s, t, .lda a, t.active (.lda a)⟩ a (placesOf xs)) = true := by
      rw [Bool.and_eq_true, decide_eq_true_eq, Bool.not_eq_true', ← Bool.not_eq_true, ordered]
      exact fun ⟨sc, early⟩ => early fun _ => done sc
    rw [if_neg go, whenReady_load] at begun
    dsimp only at begun ⊢
    split_ifs with ready
    · rw [if_pos ready] at begun
      have onward := prepAccess_onward ready
      obtain ⟨ws, ends⟩ := ldaEnd_eq r onward fun k act => (places k act).2.length
      rw [acquired_gives] at ends ⊢
      exact q.completesIn_set r (exec_lda a s) (endAccess_onward _ onward _) (begun.trans ends) (fun _ => rfl)
        fun _ => ⟨rfl, rfl, rfl, rfl, r.running⟩
    · rw [if_neg ready] at begun
      exact q.waits r (exec_lda a s) begun

end Sys2Proof.Machine
end

section
/-! PROOF. `STL`, and the atomic operations of O19 (R195 to R198). -/

namespace Sys2Proof.Machine

variable {i : Instr} {s s1 S F : State} {t x : Team} {a : Mem} {opc n : Nat} {d : Desc} {body : Run → Res} {use : CacheUse}

/-! ## `STL` -/

/-- `STL`, a store that has to wait for its order. -/
def stlBody (a : Mem) (c : Run) : Res :=
  if c.t.rmw.isSome then storeMore c (strongUse c a false) none
  else (V.all (c.act.map (fun k => (V.both (c.data k a.vb (strongBytes a)) (c.strongAt k a true false)).map (fun p => (⟨k, p.2, p.1⟩ : Access))))).res
    (fun xs => if xs.isEmpty then .done (Done.seq c.s)
      else if !strongReady c a (placesOf xs) then .hold c.s
      else storeAll c (strongUse c a false) (memOrd a == 4) none xs)

theorem exec_stl (a : Mem) (s : State) : exec (.stl a) s = runI (.stl a) (stlBody a) s := rfl

theorem placesOf_accesses (ks : List Nat) (L : Nat → List Loc) (B B' : Nat → List Byte) :
    placesOf (accesses ks L B) = placesOf (accesses ks L B') := by
  unfold placesOf accesses
  rw [List.flatMap_map, List.flatMap_map]

section
variable {s : State} {t : Team} {L : Nat → List Loc} {Q : Nat → DWord} (r : Ready (.stl a) s t) (active : t.active (.stl a) ≠ [])
  (places : ∀ k ∈ t.active (.stl a), strongPtr a t k (Q k) ∧ Located s t (needStrong true false) (Q k) (strongBytes a) (L k))
include r active places

/-- `STL` in some active strand. -/
theorem stlBody_eq :
    let xs := accesses (t.active (.stl a)) L (fun k => stored t k a.vb (strongBytes a))
    stlBody a ⟨s, t, .stl a, t.active (.stl a)⟩ = if !strongReady ⟨s, t, .stl a, t.active (.stl a)⟩ a (placesOf xs) then .hold s
      else storeAll ⟨s, t, .stl a, t.active (.stl a)⟩ (cachedStrong t a false) (decide (memOrd a = 4)) none xs := by
  have row : MemRow (.stl a) a 0x285 _ := ⟨rfl, rfl, rfl, by decide, by decide⟩
  have own := row.own (by decide)
  have data (k : Nat) (act : k ∈ t.active (.stl a)) :
      Run.data ⟨s, t, .stl a, t.active (.stl a)⟩ k a.vb (strongBytes a) = .ok (stored t k a.vb (strongBytes a)) := by
    have named {j : Nat} (below : j < max 1 (strongBytes a / 4)) := row.b_mem (hintRu_regs a a.vb below)
    exact r.data_eq (fun j below => named below) (fun j below => r.clean k (by rw [row.reads_eq own]; exact act) _ (named below)) (strong_fits a)
  have place (k : Nat) (act : k ∈ t.active (.stl a)) : Run.strongAt ⟨s, t, .stl a, t.active (.stl a)⟩ k a true false = .ok (L k) := by
    obtain ⟨ptr, located⟩ := places k act
    exact row.strongAt_eq rfl own r act ptr located
  have all := V.all_ok (t.active (.stl a)) (fun k => (V.both (Run.data ⟨s, t, .stl a, t.active (.stl a)⟩ k a.vb (strongBytes a))
    (Run.strongAt ⟨s, t, .stl a, t.active (.stl a)⟩ k a true false)).map (fun p => (⟨k, p.2, p.1⟩ : Access)))
    (fun k => ⟨k, L k, stored t k a.vb (strongBytes a)⟩) (fun k act => by rw [data k act, place k act, V.both_ok, V.map_ok])
  unfold stlBody
  dsimp only
  rw [all, V.res_ok, r.fresh, Option.isSome_none, if_neg (by decide), if_neg (by simpa using active)]
  rfl

end

theorem stl_stores (a : Mem) :
    Stores (.stl a) a.vb (strongBytes a) (needStrong true false) (cachedStrong · a false) (decide (memOrd a = 4)) (strongPtr a)
      (fun s t ls => OrderMet s t a ls) := by
  intro s t Q L r
  have row : MemRow (.stl a) a 0x285 _ := ⟨rfl, rfl, rfl, by decide, by decide⟩
  constructor
  · intro idle
    refine row.sequential.idle r (xs := none) (ws := []) (exec_stl a s) ?_
    unfold stlBody
    rw [idle, r.fresh]
    rfl
  intro active places xs met
  refine row.sequential.storesAll r (exec_stl a s) ((stlBody_eq r active places).trans (if_neg ?_))
  rw [Bool.not_eq_true', Bool.not_eq_false]
  exact strongReady_iff (c := ⟨s, t, .stl a, t.active (.stl a)⟩) _ |>.mpr met

theorem stl_waits (a : Mem) (s : State) (t : Team) (Q : Nat → DWord) (L : Nat → List Loc) (r : Ready (.stl a) s t) (active : t.active (.stl a) ≠ [])
    (places : ∀ k ∈ t.active (.stl a), strongPtr a t k (Q k) ∧ Located s t (needStrong true false) (Q k) (strongBytes a) (L k))
    (early : ¬OrderMet s t a (placesOf (accesses (t.active (.stl a)) L (fun _ => [])))) : Waits (.stl a) s t id s := by
  have row : MemRow (.stl a) a 0x285 _ := ⟨rfl, rfl, rfl, by decide, by decide⟩
  refine row.sequential.waits r (exec_stl a s) ((stlBody_eq r active places).trans (if_pos ?_))
  rw [placesOf_accesses _ _ _ (fun _ => []), Bool.not_eq_true', ← Bool.not_eq_true]
  exact fun ready => early (strongReady_iff (c := ⟨s, t, .stl a, t.active (.stl a)⟩) _ |>.mp ready)

/-! ## The values of the atomic operations (Table 10-3) -/

theorem sint_mod (v w : Nat) : sint v w = (BitVec.ofNat w v).toInt := by
  rw [← sint_eq_toInt, BitVec.toNat_ofNat]
  unfold sint
  rw [Nat.mod_mod]

/-- The smaller and the larger of two operands. -/
theorem pick_le {α : Type} [LinearOrder α] (x y : α) (p q : Nat) : (if x ≤ y then p else q) = if y < x then q else p := by
  by_cases le : x ≤ y
  · rw [if_pos le, if_neg (not_lt.mpr le)]
  · rw [if_neg le, if_pos (not_le.mp le)]

/-- Operands of `w` bits. -/
theorem atomNew_eq {op w o b : Nat} (old : o < 2 ^ w) (operand : b < 2 ^ w) : atomNew op w o b = atomResult op w o b := by
  match op with
  | 0 => rfl
  | 1 => rfl
  | 2 => rfl
  | 3 => rfl
  | 4 => exact congrArg (·, 0) (by rw [sint_mod, sint_mod]; exact pick_le _ _ o b)
  | 5 =>
    refine congrArg (·, 0) ?_
    rw [sint_mod, sint_mod]
    rcases lt_trichotomy (BitVec.ofNat w o).toInt (BitVec.ofNat w b).toInt with less | same | more
    · rw [if_pos less.le, if_pos less]
    · have equal := congrArg BitVec.toNat (BitVec.eq_of_toInt_eq same)
      rw [BitVec.toNat_ofNat, BitVec.toNat_ofNat, Nat.mod_eq_of_lt old, Nat.mod_eq_of_lt operand] at equal
      rw [equal, ite_self, ite_self]
    · rw [if_neg (not_le.mpr more), if_neg more.asymm]
  | 6 => exact congrArg (·, 0) ((Nat.min_def ..).trans (pick_le o b o b))
  | 7 =>
    refine congrArg (·, 0) ?_
    rw [Nat.max_def]
    rcases lt_trichotomy o b with less | rfl | more
    · rw [if_pos less.le, if_pos less]
    · rw [ite_self, ite_self]
    · rw [if_neg (not_le.mpr more), if_neg more.asymm]
  | 8 => rfl
  | 9 => rfl
  | 10 => rfl
  | 11 => exact add_eq_fpSum _ _ _ _
  | 12 => exact minmax_eq_fpPick _ _ _ _
  | n + 13 => exact minmax_eq_fpPick _ _ _ _

end Sys2Proof.Machine
end

section
/-! PROOF. The atomic operations of O19: operands, old values and results (R195, R197, R198). -/

namespace Sys2Proof.Machine

variable {i : Instr} {s s1 S F : State} {t x : Team} {a : Mem} {opc n : Nat} {d : Desc} {body : Run → Res} {use : CacheUse}

/-! ## Operands -/

theorem leNat_append (bs cs : List Byte) : leNat (bs ++ cs) = leNat bs + 256 ^ bs.length * leNat cs := by
  induction bs with
  | nil => simp [leNat]
  | cons b bs ih =>
    rw [List.cons_append, leNat, ih, leNat, List.length_cons, Nat.pow_succ]
    ring

theorem strongBytes_cases (a : Mem) : strongBytes a = 8 ∨ strongBytes a = 4 := by
  unfold strongBytes
  split
  · exact .inl rfl
  · exact .inr rfl

/-- A strong operand's bytes, as a number. -/
theorem leNat_stored (t : Team) (k : Nat) (f : RegField) (a : Mem) : leNat (stored t k f (strongBytes a)) = operandOf t k f (strongBytes a) := by
  have word (v : Word) : leNat (leBytes 4 v.toNat) = v.toNat := by rw [leNat_leBytes]; exact Nat.mod_eq_of_lt v.isLt
  rcases strongBytes_cases a with eight | four
  · rw [eight]
    have bytes : stored t k f 8 = leBytes 4 (t.val k f.toNat).toNat ++ leBytes 4 (t.val k (f.toNat + 1)).toNat :=
      (flatMap_leBytes (fun j => t.val k (f.toNat + j)) 2).symm
    rw [bytes, leNat_append, word, word, leBytes_length]
    change _ = (t.val k (f.toNat + 1) ++ t.val k f.toNat).toNat
    rw [BitVec.toNat_append, Nat.shiftLeft_eq, Nat.mul_comm _ (2 ^ 32), ← Nat.two_pow_add_eq_or_of_lt (t.val k f.toNat).isLt, Nat.add_comm]
    norm_num
  · rw [four]
    have bytes : stored t k f 4 = leBytes 4 (t.val k f.toNat).toNat := (leBytes_word _).symm
    rw [bytes, word]
    rfl

theorem operandOf_lt (t : Team) (k : Nat) (f : RegField) (a : Mem) : operandOf t k f (strongBytes a) < 256 ^ strongBytes a := by
  rw [← leNat_stored]
  exact leNat_lt (by simp [stored])

/-- The operand of an active strand. -/
theorem Ready.operand_eq (r : Ready i s t) {k : Nat} {f : RegField} (named : ∀ j < max 1 (strongBytes a / 4), f.toNat + j ∈ srcRegs i)
    (read : k ∈ t.reads i) : Run.operand ⟨s, t, i, t.active i⟩ k f (strongBytes a) = .ok (operandOf t k f (strongBytes a)) := by
  unfold Run.operand
  rw [r.data_eq named (fun j below => r.clean k read _ (named j below)) (strong_fits a), V.map_ok, leNat_stored]

/-! ## Results -/

/-- The results of read-modify-writes by strand: the old value and flags, or none. -/
def oldOf (got : List (Nat × Nat × Flags)) (k : Nat) : Nat × Flags := (got.find? (fun y => y.1 == k)).map (·.2) |>.getD (0, 0)

/-- Each strand's result is found by its number. -/
theorem oldOf_mem {got : List (Nat × Nat × Flags)} (nodup : (got.map (·.1)).Nodup) {y : Nat × Nat × Flags} (mem : y ∈ got) : oldOf got y.1 = y.2 := by
  induction got with
  | nil => cases mem
  | cons z got ih =>
    rw [List.map_cons, List.nodup_cons] at nodup
    obtain ⟨apart, nodup⟩ := nodup
    unfold oldOf
    rcases List.mem_cons.mp mem with rfl | later
    · rw [List.find?_cons_of_pos (by simp)]
      rfl
    · have other : ¬(z.1 == y.1) = true := fun same => apart (by rw [beq_iff_eq.mp same]; exact List.mem_map_of_mem later)
      rw [List.find?_cons_of_neg (p := fun z : Nat × Nat × Flags => z.1 == y.1) other]
      exact ih nodup later

theorem map_oldOf {α : Type} {got : List (Nat × Nat × Flags)} (nodup : (got.map (·.1)).Nodup) (f : Nat × Flags → α) :
    got.map (fun y => f y.2) = (got.map (·.1)).map (fun k => f (oldOf got k)) := by
  rw [List.map_map]
  exact List.map_congr_left fun y mem => congrArg f (oldOf_mem nodup mem).symm

/-- The strands that have acted, in order. -/
theorem inTurn_strands {u : CacheUse} {g : Nat → Nat → Nat → Option Nat × Flags} {es : List (Nat × List Loc × Nat)} {s : State}
    {res : State × List (Nat × Nat × Flags)} (turn : inTurn t u g es s = some res) : res.2.map (·.1) = es.map (·.1) := by
  induction es generalizing s res with
  | nil => obtain rfl := Option.some.inj turn; rfl
  | cons e es ih =>
    obtain ⟨-, -, later, eq, turn'⟩ := inTurn_cons turn
    rw [eq, List.map_cons, List.map_cons, ← ih turn']

/-- The words of a number's low bytes. -/
theorem word_low (v : Nat) {n j : Nat} (inside : 32 * j + 32 ≤ 8 * n) : word (v % 256 ^ n / 2 ^ (32 * j)) = word (v / 2 ^ (32 * j)) := by
  apply BitVec.eq_of_toNat_eq
  have split : 256 ^ n = 2 ^ (32 * j) * 2 ^ (8 * n - 32 * j) := by rw [← Nat.pow_add, show 32 * j + (8 * n - 32 * j) = 8 * n by omega, Nat.pow_mul]
  rw [split, Nat.mod_mul_right_div_self, word, word, BitVec.toNat_ofNat, BitVec.toNat_ofNat]
  exact Nat.mod_mod_of_dvd _ (Nat.pow_dvd_pow 2 (by omega))

/-- The registers of an old value. -/
theorem loadOut_old (vd : RegField) (o : Nat) (a : Mem) :
    loadOut vd (strongBytes a) false 0 o = loaded vd false 0 (leBytes (strongBytes a) o) := by
  have wide : ¬strongBytes a < 4 := by rcases strongBytes_cases a with e | e <;> omega
  rw [← loadOut_eq vd false 0 (leBytes_length _ _) (strongBytes_wide a), leNat_leBytes]
  unfold loadOut
  rw [if_neg wide, if_neg wide]
  congr 1
  refine List.map_congr_left fun j below => ?_
  have := List.mem_range.mp below
  rw [word_low o (by omega)]

/-! ## The rows -/

/-- What an atomic operation gives a strand. -/
def atomicOut (a : Mem) (vd : Option RegField) (old : Nat × Flags) : Out :=
  { (match vd with
      | some d => loaded d false 0 (leBytes (strongBytes a) old.1)
      | none => ⟨[], 0⟩ : Out) with fl := old.2 }

/-- What an atomic operation ends with. -/
theorem atomicEnd_eq {c : Run} {vd : Option RegField} {got : List (Nat × Nat × Flags)} (nodup : (got.map (·.1)).Nodup) :
    ∃ ws, atomicEnd c a vd F got = .done { Done.seq (acquired a c.t (gives F c.t (got.map (·.1)) (fun k => atomicOut a vd (oldOf got k)))) with
      writes := ws } := by
  have values : got.map (fun o => match vd with
      | some d => { loadOut d (strongBytes a) false 0 o.2.1 with fl := o.2.2 }
      | none => ⟨[], o.2.2⟩) = (got.map (·.1)).map (fun k => atomicOut a vd (oldOf got k)) := by
    rw [← map_oldOf nodup]
    refine List.map_congr_left fun o _ => ?_
    cases vd with
    | none => rfl
    | some d => simp only [loadOut_old]; rfl
  refine ⟨wroteIn (got.map (·.1)) ((got.map (·.1)).map (fun k => atomicOut a vd (oldOf got k))), ?_⟩
  refine (congrArg (fun os =>
    let s := F.setTeam c.t.hnd (fun t => writeOuts t (got.map (·.1)) os)
    Res.done { Done.seq (if isAcquire (memOrd a) then s.orderPoint c.t.hnd else s) with writes := wroteIn (got.map (·.1)) os }) values).trans ?_
  dsimp only
  rw [gives_eq nodup, acquired_eq]

section
variable {vd vc : Option RegField} {f : Nat → Nat → Nat → Option Nat × Flags}

/-- The second operand of a strand, if there is one. -/
def secondOperand (t : Team) (a : Mem) (vc : Option RegField) (k : Nat) : Nat :=
  match vc with
  | some r => operandOf t k r (strongBytes a)
  | none => 0
/-- The strands of an atomic operation, with their places and operands. -/
def atomicStrands (t : Team) (i : Instr) (a : Mem) (vc : Option RegField) (L : Nat → List Loc) : List (Nat × List Loc × Nat × Nat) :=
  (t.active i).map (fun k => (k, L k, operandOf t k a.vb (strongBytes a), secondOperand t a vc k))

theorem atomicRow_idle {c : Run} (fresh : c.t.rmw = none) (idle : c.act = []) : atomicRow a vd vc f c = .done (Done.seq c.s) := by
  unfold atomicRow
  rw [idle, fresh]
  rfl

/-- An atomic operation in some active strand, not begun yet. -/
theorem atomicRow_eq (r : Ready i s t) (active : t.active i ≠ []) {L : Nat → List Loc}
    (places : ∀ k ∈ t.active i, Run.strongAt ⟨s, t, i, t.active i⟩ k a true true = .ok (L k)) (reads : t.reads i = t.active i)
    (first : ∀ j < max 1 (strongBytes a / 4), a.vb.toNat + j ∈ srcRegs i)
    (second : ∀ v, vc = some v → ∀ j < max 1 (strongBytes a / 4), v.toNat + j ∈ srcRegs i) :
    atomicRow a vd vc f ⟨s, t, i, t.active i⟩ =
      if !strongReady ⟨s, t, i, t.active i⟩ a (placesOf (accesses (t.active i) L (fun _ => []))) then .hold s
      else seqStart ⟨s, t, i, t.active i⟩ (cachedStrong t a true) true false (fun _ o b x => f o b x) (atomicEnd ⟨s, t, i, t.active i⟩ a vd) none
        (atomicStrands t i a vc L) := by
  have two (k : Nat) (act : k ∈ t.active i) : (match vc with
      | some v => Run.operand ⟨s, t, i, t.active i⟩ k v (strongBytes a)
      | none => .ok 0) = .ok (secondOperand t a vc k) := by
    cases vc with
    | none => rfl
    | some v => exact r.operand_eq (second v rfl) (reads ▸ act)
  unfold atomicRow
  dsimp only
  rw [r.fresh, Option.isSome_none, if_neg (by decide), V.all_ok (t.active i) _
    (fun k => (k, L k, operandOf t k a.vb (strongBytes a), secondOperand t a vc k)), V.res_ok, if_neg (by simpa using active)]
  · have same : ((t.active i).map (fun k => (k, L k, operandOf t k a.vb (strongBytes a), secondOperand t a vc k))).flatMap (·.2.1) =
        placesOf (accesses (t.active i) L (fun _ => [])) := by
      unfold placesOf accesses
      rw [List.flatMap_map, List.flatMap_map]
    rw [same]
    rfl
  · intro k act
    have one := r.operand_eq (k := k) first (reads ▸ act)
    refine (congrArg (V.map _) (congrArg₂ V.both (congrArg₂ V.both one (two k act)) (places k act))).trans ?_
    rfl

end

/-! ## An atomic operation as a whole -/

theorem SameSeat.withResults {now : Nat} {ks : List Nat} {o : Nat → Out} {x : Team} (seat : SameSeat t x) : SameSeat t (withResults a now ks o x) := by
  obtain ⟨grp, preq, nreg, yielded, runs⟩ := seat
  exact ⟨grp, preq, nreg, yielded, runs⟩

/-- Atomic actions of strands in turn. -/
theorem Sequential.atomics_inTurn (q : Sequential i) (r : Ready i s t) (run : exec i s = runI i body s) {vd : Option RegField}
    {f : Nat → Nat → Nat → Nat → Option Nat × Flags} {g : Nat → Nat → Nat → Option Nat × Flags} {zs : List (Nat × List Loc × Nat × Nat)}
    (row : body ⟨s, t, i, t.active i⟩ = seqStart ⟨s, t, i, t.active i⟩ use true false f (atomicEnd ⟨s, t, i, t.active i⟩ a vd) none zs)
    (agree : ∀ e ∈ zs, ∀ o < 256 ^ e.2.1.length, f e.2.1.length o e.2.2.1 e.2.2.2 = g e.1 o 0) (strands : zs.map (·.1) = t.active i) :
    if (releasePrep s t use (turnAccesses zs)).2 then
      (∀ x, inTurn t use g (zs.map (seen (fun _ => 0))) (turnStart (releasePrep s t use (turnAccesses zs)).1 t (turnAccesses zs)) = some x →
        CompletesIn i s t (acquired a t (gives x.1 t (t.active i) (fun k => atomicOut a vd (oldOf x.2 k))))) ∧
      FirstThrough i s t use g true (zs.map (seen (fun _ => 0))) (turnStart (releasePrep s t use (turnAccesses zs)).1 t (turnAccesses zs))
    else Waits i s t id (releasePrep s t use (turnAccesses zs)).1 := by
  split_ifs with ready
  · refine ⟨fun x turn => ?_, q.turn_firstThrough r run row agree ready⟩
    have acted : x.2.map (·.1) = t.active i := by
      rw [inTurn_strands turn, ← strands, List.map_map]
      rfl
    obtain ⟨l, rel, F, twin, still, ends⟩ := r.turn_ends (S := x.1) (res := x.2) row agree ready turn
    obtain ⟨ws, result⟩ := atomicEnd_eq (F := F) (a := a) (vd := vd) (c := ⟨s, t, i, t.active i⟩) (got := x.2) (acted ▸ active_nodup t i)
    have fresh : F.fresh = x.1.fresh := by rw [twin.rest]; rfl
    rw [acquired_gives, acted, fresh] at result
    rw [acquired_gives]
    exact q.completes_twin (reads := none) r run (twin.setTeam fun _ => rfl) (ends.trans result)
      (SameSeat.withResults ⟨rfl, rfl, rfl, rfl, nofun⟩) (congrArg (·.2.1) still)
  · exact q.turn_waits r run row ((Bool.not_eq_true _).mp ready)

/-- What an instruction has to be, for its row of Table 10-3: `vd` takes the old value, `vc` is the second operand, `f` is its effect by the operands
and `F` by the strand. -/
structure AtomicRow (i : Instr) (a : Mem) (opc : Nat) (d : Desc) (vd vc : Option RegField) (f : Nat → Nat → Nat → Option Nat × Flags)
    (F : Team → Nat → Nat → Option Nat × Flags) : Prop where
  row : MemRow i a opc d
  plain : opc ≠ 0x281 ∧ opc ≠ 0x283
  pointer : d.a = .p
  run : ∀ s, exec i s = runI i (atomicRow a vd vc f) s
  first : d.b = hintRu a.ext
  second : ∀ v, vc = some v → v = memVc a ∧ d.c = hintRu a.ext
  effect : ∀ t k o, o < 256 ^ strongBytes a → f o (operandOf t k a.vb (strongBytes a)) (secondOperand t a vc k) = F t k o

theorem AtomicRow.atomics {vd vc : Option RegField} {f : Nat → Nat → Nat → Option Nat × Flags} {F : Team → Nat → Nat → Option Nat × Flags}
    (w : AtomicRow i a opc d vd vc f F) : Atomics i a vd F := by
  intro s t Q L r
  obtain ⟨row, plain, pointer, run, first, second, effect⟩ := w
  have q := row.sequential
  have own := row.own plain
  refine ⟨fun idle => q.idle r (xs := none) (ws := []) (run s) (atomicRow_idle r.fresh idle), ?_⟩
  intro active places xs u
  have begun := atomicRow_eq (vd := vd) (vc := vc) (f := f) r active (fun k act => row.strongAt_eq pointer own r act (places k act).1 (places k act).2)
    (row.reads_eq own) (fun j below => row.b_mem (first ▸ hintRu_regs a a.vb below)) (fun v some j below => by
      obtain ⟨rfl, use⟩ := second v some
      exact row.c_mem (use ▸ hintRu_regs a _ below))
  have ordered : strongReady ⟨s, t, i, t.active i⟩ a (placesOf xs) = true ↔ OrderMet s t a (placesOf xs) := strongReady_iff _
  have strands : turnAccesses (atomicStrands t i a vc L) = xs := by
    unfold turnAccesses atomicStrands
    rw [List.map_map]
    rfl
  have views : (atomicStrands t i a vc L).map (seen (fun _ => 0)) = (t.active i).map (fun k => (k, L k, 0)) := by
    unfold atomicStrands
    rw [List.map_map]
    rfl
  constructor
  · intro early
    refine q.waits r (run s) (begun.trans (if_pos ?_))
    rw [Bool.not_eq_true', ← Bool.not_eq_true, ordered]
    exact early
  · intro met
    rw [if_neg (by rw [Bool.not_eq_true', Bool.not_eq_false]; exact ordered.mpr met)] at begun
    have acts := q.atomics_inTurn r (run s) (g := fun k o _ => F t k o) begun (fun e mem o small => by
      obtain ⟨k, act, rfl⟩ := List.mem_map.mp mem
      dsimp only at small
      rw [(places k act).2.length] at small
      exact effect t k o small) (by unfold atomicStrands; rw [List.map_map]; exact List.map_id _)
    rw [strands, views] at acts
    exact acts

end Sys2Proof.Machine
end

section
/-! PROOF. O19: its rows, and what its orders and scopes come to (R301 to R305). -/

namespace Sys2Proof.Machine

variable {a : Mem}

theorem exec_atom (a : Mem) (s : State) : exec (.atom a) s = execAtom a s := rfl
theorem exec_red (a : Mem) (s : State) : exec (.red a) s = execRed a s := rfl
theorem exec_atomcas (a : Mem) (s : State) : exec (.atomcas a) s = execAtomcas a s := rfl

theorem pow_bytes (n : Nat) : 256 ^ n = 2 ^ (8 * n) := by rw [show 256 = 2 ^ 8 by rfl, ← Nat.pow_mul]

/-- The operation codes of Table 10-3 on the operand of a strand. -/
theorem atom_effect (a : Mem) (t : Team) (k o : Nat) (small : o < 256 ^ strongBytes a) :
    atomNew a.m.toNat (8 * strongBytes a) o (operandOf t k a.vb (strongBytes a)) =
      atomResult a.m.toNat (8 * strongBytes a) o (operandOf t k a.vb (strongBytes a)) :=
  atomNew_eq (pow_bytes _ ▸ small) (pow_bytes _ ▸ operandOf_lt t k a.vb a)

theorem atom_atomics (a : Mem) : Atomics (.atom a) a (some a.vd) (fun t k o =>
    let r := atomResult a.m.toNat (8 * strongBytes a) o (operandOf t k a.vb (strongBytes a))
    (some r.1, r.2)) :=
  AtomicRow.atomics (opc := 0x286) (vc := none) ⟨⟨rfl, rfl, rfl, by decide, by decide⟩, by decide, rfl, exec_atom a, rfl, nofun,
    fun t k o small => by rw [atom_effect a t k o small]⟩

theorem red_atomics (a : Mem) : Atomics (.red a) a none (fun t k o =>
    let r := atomResult a.m.toNat (8 * strongBytes a) o (operandOf t k a.vb (strongBytes a))
    (some r.1, r.2)) :=
  AtomicRow.atomics (opc := 0x288) (vc := none) ⟨⟨rfl, rfl, rfl, by decide, by decide⟩, by decide, rfl, exec_red a, rfl, nofun,
    fun t k o small => by rw [atom_effect a t k o small]⟩

theorem atomcas_atomics (a : Mem) : Atomics (.atomcas a) a (some a.vd) (fun t k o =>
    (if o = operandOf t k a.vb (strongBytes a) then some (operandOf t k (memVc a) (strongBytes a)) else none, 0)) :=
  AtomicRow.atomics (opc := 0x287) (vc := some (memVc a)) ⟨⟨rfl, rfl, rfl, by decide, by decide⟩, by decide, rfl, exec_atomcas a, rfl,
    fun v some => ⟨(Option.some.inj some).symm, rfl⟩, fun _ _ _ _ => rfl⟩

/-! ## Scopes (R301, R302, Table 16-2) -/

/-- Two parties of teams lie in one instance of a scope. -/
def sharedInstance (d c g m : Nat) (k : Option Nat) (d' c' g' m' : Nat) (k' : Option Nat) (scope : Nat) : Bool :=
  match scope with
  | 0 => decide (d = d' ∧ c = c' ∧ g = g' ∧ m = m' ∧ k = k' ∧ k.isSome)
  | 1 => decide (d = d' ∧ g = g' ∧ m = m')
  | 2 => decide (d = d' ∧ g = g')
  | 3 => decide (d = d' ∧ c / 12 = c' / 12)
  | 4 => decide (d = d' ∧ c / 48 = c' / 48)
  | 5 => decide (d = d')
  | _ => true

theorem instanceHas_strands {d c g m : Nat} {k : Option Nat} {d' c' g' m' : Nat} {k' : Option Nat} {scope : Nat} (code : scope < 7) :
    (Party.strands d c g m k).instanceHas scope (.strands d' c' g' m' k') = sharedInstance d c g m k d' c' g' m' k' scope := by
  rw [Bool.eq_iff_iff]
  interval_cases scope
  · simp [Party.instanceHas, sharedInstance, and_assoc]
  · simp [Party.instanceHas, Party.sameTeam, sharedInstance, and_assoc]
  · simp [Party.instanceHas, sharedInstance]
  · simp [Party.instanceHas, sharedInstance, clusterOf]
  · simp [Party.instanceHas, sharedInstance, dieOf]
  · simp [Party.instanceHas, sharedInstance]
  · simp [Party.instanceHas, sharedInstance]

theorem sharedInstance_comm {d c g m : Nat} {k : Option Nat} {d' c' g' m' : Nat} {k' : Option Nat} {scope : Nat} (code : scope < 7) :
    sharedInstance d c g m k d' c' g' m' k' scope = sharedInstance d' c' g' m' k' d c g m k scope := by
  have swap {p q : Prop} {i : Decidable p} {j : Decidable q} (same : p ↔ q) : decide p = decide q := decide_eq_decide.mpr same
  interval_cases scope
  · refine swap ⟨?_, ?_⟩
    · rintro ⟨rfl, rfl, rfl, rfl, rfl, some⟩
      exact ⟨rfl, rfl, rfl, rfl, rfl, some⟩
    · rintro ⟨rfl, rfl, rfl, rfl, rfl, some⟩
      exact ⟨rfl, rfl, rfl, rfl, rfl, some⟩
  · exact swap (and_congr eq_comm (and_congr eq_comm eq_comm))
  · exact swap (and_congr eq_comm eq_comm)
  · exact swap (and_congr eq_comm eq_comm)
  · exact swap (and_congr eq_comm eq_comm)
  · exact swap eq_comm
  · rfl

theorem scopes (d c g m : Nat) (k : Option Nat) (d' c' g' m' : Nat) (k' : Option Nat) (sa sb : Nat) (first : sa < 7) (second : sb < 7) :
    scopeMatched (.strands d c g m k) sa (.strands d' c' g' m' k') sb =
      (sharedInstance d c g m k d' c' g' m' k' sa && sharedInstance d c g m k d' c' g' m' k' sb) ∧
    ∀ n, scopeMatched (.strands d c g m k) sa (.port d' n) sb = (decide (sa = 6) && decide (sb = 6)) := by
  constructor
  · unfold scopeMatched
    rw [instanceHas_strands first, instanceHas_strands second, sharedInstance_comm (d := d') second]
  · intro n
    have all {scope : Nat} (code : scope < 7) : decide (6 ≤ scope) = decide (scope = 6) := decide_eq_decide.mpr (by omega)
    have apart : (Party.strands d c g m k == Party.port d' n) = false := beq_eq_false_iff_ne.mpr nofun
    have apart' : (Party.port d' n == Party.strands d c g m k) = false := beq_eq_false_iff_ne.mpr nofun
    simp only [scopeMatched, Party.instanceHas, all first, all second, apart, apart', Bool.or_false]

/-! ## A release that an acquire reads from (R303 to R305) -/

section
variable {a b p q : MemEvent} {f x : Spot} {o : OrderChoice}

theorem accesses_of_isAccess {e : MemEvent} (access : e.isAccess = true) : e.kind = .access := beq_iff_eq.mp access

/-- A store stands before a release write of its team. -/
theorem orderEdge_release (access : a.isAccess = true) (release : b.releaseWrite = true) (team : a.who.sameTeam b.who = true) :
    Execution.orderEdge [a, b, p, q] 0 1 = true := by
  have inTable : a.inTable = true := by simp [MemEvent.inTable, accesses_of_isAccess access]
  simp [Execution.orderEdge, Execution.teamOrder, Execution.pair, Execution.tableRow, team, release, inTable]

/-- What follows an acquire read of its team stands after it. -/
theorem orderEdge_acquire (acquire : p.acquireRead = true) (access : q.isAccess = true) (team : p.who.sameTeam q.who = true) :
    Execution.orderEdge [a, b, p, q] 2 3 = true := by
  have inTable : q.inTable = true := by simp [MemEvent.inTable, accesses_of_isAccess access]
  simp [Execution.orderEdge, Execution.teamOrder, Execution.pair, Execution.tableRow, team, acquire, inTable]

/-- An acquire read of what a release write left synchronises with it. -/
theorem sync_release (release : b.releaseWrite = true) (writes : b.writes f = true) (acquire : p.acquireRead = true) (reads : p.reads f = true)
    (plainB : b.sm = false) (plainP : p.sm = false) (matched : scopeMatched b.who b.scope p.who p.scope = true) (source : o.src 2 f = some 1) :
    Execution.Sync [a, b, p, q] o 1 2 := by
  refine .inl ⟨1, 1, 2, f, b.scope, p.scope, writes, reads, source, .self, ?_, ?_, ?_⟩
  · simp [Execution.releasePoint, Execution.pair, release]
  · obtain ⟨⟨access, ordered⟩, some⟩ := by simpa only [MemEvent.acquireRead, Bool.and_eq_true] using acquire
    have accesses : p.accesses = true := by simp [MemEvent.accesses, accesses_of_isAccess access]
    simp only [Execution.acquirePoint, Execution.pair, List.getElem?_cons_succ, List.getElem?_cons_zero, BEq.rfl, accesses, ordered, some,
      Bool.and_self, Bool.true_or]
  · simp [Execution.pair, matched, plainB, plainP]

/-- What a team stored before a release is not passed over by the team that acquires it (R305). -/
theorem read_after_acquire {v : MemValues} (accessA : a.isAccess = true) (writesA : a.writes x = true) (release : b.releaseWrite = true)
    (writesB : b.writes f = true) (acquire : p.acquireRead = true) (readsP : p.reads f = true) (accessQ : q.isAccess = true)
    (readsQ : q.reads x = true) (plainA : a.sm = false) (plainB : b.sm = false) (plainP : p.sm = false) (plainQ : q.sm = false)
    (one : a.who.sameTeam b.who = true) (two : p.who.sameTeam q.who = true) (matched : scopeMatched b.who b.scope p.who p.scope = true)
    (consistent : Execution.Consistent [a, b, p, q] v o) (source : o.src 2 f = some 1) : ¬o.before x (o.src 3 x) (some 0) := by
  have before : Execution.Before [a, b, p, q] o 0 3 :=
    .tail (.tail (.single (.inl (orderEdge_release accessA release one)))
      (.inr (.inl (sync_release release writesB acquire readsP plainB plainP matched source)))) (.inl (orderEdge_acquire acquire accessQ two))
  refine consistent.readNotOlder x 3 0 readsQ writesA ?_ before
  simp [Execution.Both, Execution.pair, MemEvent.shares, plainA, plainQ]

end

/-- Settles O19: an order waits for what it releases, strands act in turn on what the ones before left, and a release that a matching acquire reads
from happens before what follows that acquire. -/
theorem strongAccesses : Obligations.StrongAccesses := by
  refine ⟨lda_effect, stl_stores, stl_waits, atom_atomics, red_atomics, atomcas_atomics, fence_effect, scopes, ?_⟩
  intro a b p q f x v o accessA writesA release writesB acquire readsP accessQ readsQ plainA plainB plainP plainQ one two matched consistent source
  have seen := read_after_acquire accessA writesA release writesB acquire readsP accessQ readsQ plainA plainB plainP plainQ one two matched
    consistent source
  refine ⟨fun initial => ?_, fun w some => some ▸ seen⟩
  rw [initial] at seen
  exact seen trivial

end Sys2Proof.Machine
end
